-- ==== Sys2Proof/Word.lean ====
section
/-! DEFINITION. Word: the widths of the machine's words, and the sparse table used for state that is kept by number. -/
namespace Sys2Proof

/-- A sequencer register or an 8-byte memory word (R46). -/
abbrev Word := BitVec 64
/-- One byte. -/
abbrev Byte := BitVec 8
/-- A 256-bit frame (R89). -/
abbrev Frame := BitVec 256
/-- A 512-bit token payload (R19). -/
abbrev Payload := BitVec 512

/-- State kept by number: pairs with rising keys, a key that is absent standing for a default the reader names. -/
abbrev Tab (α : Type) := List (Nat × α)

/-- The entry of key `k`, if there is one. -/
def Tab.find {α : Type} : Tab α → Nat → Option α
  | [], _ => none
  | (j, v) :: t, k => if j = k then some v else Tab.find t k

/-- The entry of key `k`, or `d`. -/
def Tab.get {α : Type} (t : Tab α) (d : α) (k : Nat) : α := (Tab.find t k).getD d

/-- Writes the entry of key `k`, keeping the keys rising. -/
def Tab.set {α : Type} : Tab α → Nat → α → Tab α
  | [], k, v => [(k, v)]
  | (j, w) :: t, k, v =>
    if k < j then (k, v) :: (j, w) :: t
    else if k = j then (k, v) :: t
    else (j, w) :: Tab.set t k v

/-- Removes the entry of key `k`. -/
def Tab.del {α : Type} : Tab α → Nat → Tab α
  | [], _ => []
  | (j, w) :: t, k => if j = k then Tab.del t k else (j, w) :: Tab.del t k

/-- Applies `f` to the entry of key `k`, when there is one. -/
def Tab.upd {α : Type} (t : Tab α) (k : Nat) (f : α → α) : Tab α :=
  match Tab.find t k with
  | some v => Tab.set t k (f v)
  | none => t

/-- The little-endian value of a byte list (R6). -/
def leNat : List Byte → Nat
  | [] => 0
  | b :: bs => b.toNat + 256 * leNat bs

/-- The `n` little-endian bytes of a number (R6). -/
def leBytes : Nat → Nat → List Byte
  | 0, _ => []
  | n + 1, v => BitVec.ofNat 8 v :: leBytes n (v / 256)

end Sys2Proof
end

