-- ==== Sys2Proof/Syntax.lean ====
section
/-! DEFINITION. Syntax: operand forms, frames, and the one inductive of the instructions, a constructor for each row of spec/opcode_table.json. -/
namespace Sys2Proof

/-- The element types by type code 0x0 to 0xE (R60). -/
inductive Ty
  | i8 | n8 | i16 | n16 | i32 | n32 | i64 | b32 | f32 | f16 | bf16 | e4m3 | e5m2 | q8 | q4
deriving DecidableEq, Repr

/-- The rounding modes of R68. -/
inductive Rm
  | rne | rtz | rdn | rup | rna
deriving DecidableEq, Repr

/-- What an output does with a STOP (R26, R97). -/
inductive StopAct
  | forward | drop | raise | lower
deriving DecidableEq, Repr

/-- The data sources of R96. -/
inductive Src
  | pa (n : Fin 32) | sl (n : Fin 16) | st (n : Fin 6) | imm | zero | arg (n : Fin 4) | unused
deriving DecidableEq, Repr

/-- The data destinations of R97. -/
inductive Dst
  | pa (n : Fin 32) | sl (n : Fin 16) | st (n : Fin 6) | q (n : Fin 8) | none
deriving DecidableEq, Repr

/-- The predicate sources of R98. -/
inductive PSrc
  | pp (n : Fin 32) | pl (n : Fin 16) | ps (n : Fin 6) | none
deriving DecidableEq, Repr

/-- The predicate destinations of R98. -/
inductive PDst
  | pp (n : Fin 32) | pl (n : Fin 16) | ps (n : Fin 6) | q (n : Fin 8) | none
deriving DecidableEq, Repr

/-- A port field (R95). -/
structure Port where
  src    : Src
  hold   : BitVec 8
  neg    : Bool
  abs    : Bool
  bcast  : Bool
  lane   : BitVec 4
deriving DecidableEq, Repr

/-- An output field (R97). -/
structure OutF where
  dst  : Dst
  stop : StopAct
deriving DecidableEq, Repr

/-- The payload of a compute-cell stage frame less its opcode, with the cell and stage of its address (R90, R94). -/
structure CCFrame where
  cell   : Fin 16
  stage  : Fin 6
  ty     : Ty
  a      : Port
  b      : Port
  c      : Port
  oa     : OutF
  ob     : OutF
  pin    : PSrc
  psense : Bool
  pout   : PDst
  rm     : Rm
  sat    : Bool
  stats  : Bool
  silt   : BitVec 5
  level  : BitVec 3
  flags  : BitVec 4
  imm    : BitVec 64
  ext    : BitVec 32
deriving DecidableEq, Repr

/-- The scopes of R99 and R283. -/
inductive Scope
  | run | die | dev | sys
deriving DecidableEq, Repr

/-- The payload of a memory-cell slot-0 frame less its opcode (R99). -/
structure MCFrame where
  cell     : Fin 16
  ty       : Ty
  handle   : BitVec 20
  fromC    : Bool
  a        : Port
  b        : Port
  c        : Port
  oa       : OutF
  ob       : OutF
  pin      : PSrc
  psense   : Bool
  pout     : PDst
  consume  : Bool
  level    : BitVec 3
  scope    : Scope
  subop    : BitVec 4
  sat      : Bool
  sealEnd  : Bool
  silt     : BitVec 5
  stats    : Bool
  imm      : BitVec 64
deriving DecidableEq, Repr

/-- The address-generator modes (R101). -/
inductive AGMode
  | off | affine | indir | wrap
deriving DecidableEq, Repr

/-- One dimension of an address generator (R101): count, signed byte stride, stop level, and the argument its count may come from. -/
structure AGDim where
  count  : BitVec 16
  stride : BitVec 24
  stop   : BitVec 3
  argEn  : Bool
  argSel : Bool
deriving DecidableEq, Repr

/-- The payload of a memory-cell slot-1 frame (R101), dimension 0 first. -/
structure AGFrame where
  cell : Fin 16
  mode : AGMode
  dims : Fin 5
  d0   : AGDim
  d1   : AGDim
  d2   : AGDim
  d3   : AGDim
  base : BitVec 32
deriving DecidableEq, Repr

/-- The payload of a switch frame less its opcode (R102). -/
structure SWFrame where
  index  : Fin 4
  ty     : Ty
  ins    : Vector Src 8
  idx    : Port
  outs   : Vector OutF 8
  flags  : BitVec 4
  level  : BitVec 3
deriving DecidableEq, Repr

/-- The payload of a predicate-node frame less its opcode (R103). -/
structure PNFrame where
  index   : Fin 8
  in0     : PSrc
  sense0  : Bool
  in1     : PSrc
  sense1  : Bool
  in2     : PSrc
  sense2  : Bool
  table   : BitVec 8
  out0    : PDst
  out1    : PDst
  out2    : PDst
  out3    : PDst
  level   : BitVec 3
  pattern : BitVec 32
  plen    : BitVec 5
deriving DecidableEq, Repr

/-- The Silt-net destinations of R104. -/
inductive SNDst
  | here (n : Fin 8) | next (n : Fin 8) | q (n : Fin 8) | none
deriving DecidableEq, Repr

/-- The payload of a Silt-node frame less its opcode (R104). -/
structure SNFrame where
  index  : Fin 8
  dst    : SNDst
  inputs : BitVec 5
  handle : BitVec 20
  mode   : Bool
  row    : BitVec 6
deriving DecidableEq, Repr

/-- The payload of an HD frame (R92). -/
structure HDFrame where
  vs       : BitVec 12
  round    : BitVec 3
  safe     : BitVec 3
  first    : Bool
  last     : Bool
  stateful : Bool
  bitmap   : BitVec 16
  ccMask   : BitVec 16
  carried  : BitVec 32
  crc      : BitVec 32
  length   : BitVec 8
deriving DecidableEq, Repr

/-- A sequencer register number (R46, R108). -/
abbrev Reg := Fin 32
/-- A predicate number (R46, R108). -/
abbrev Pred := Fin 8

/-- The guard of a sequencer instruction (R108, R223). -/
structure Guard where
  sense : Bool
  p     : Pred
deriving DecidableEq, Repr

/-- The comparison conditions of R111 and R232. -/
inductive Cond
  | eq | ne | lt | le | gt | ge | ltn | len | gtn | gen
deriving DecidableEq, Repr

/-- The access sizes of R111. -/
inductive Size
  | b | h | w | d
deriving DecidableEq, Repr

/-- The load forms of R111: the sizes that zero-extend, and the three that sign-extend. -/
inductive LoadSize
  | b | h | w | d | bs | hs | ws
deriving DecidableEq, Repr

/-- The order classes of R111 and R249. -/
inductive Order
  | rlx | acq | rel | ar | ord
deriving DecidableEq, Repr

/-- The order classes LDG accepts (R111). -/
inductive LdOrder
  | rlx | acq | ord
deriving DecidableEq, Repr

/-- The order classes STG accepts (R111). -/
inductive StOrder
  | rlx | rel | ord
deriving DecidableEq, Repr

/-- The scopes of sequencer words: RUN is reserved there (R111). -/
inductive SScope
  | die | dev | sys
deriving DecidableEq, Repr

/-- The entry kinds SENDQ sends (R111), STOP with its level 1 to 7. -/
inductive SendKind
  | data | stop (level : Fin 7) | safe | mark
deriving DecidableEq, Repr

/-- The counters a WAIT names, each field 0 to 31 (R50, R271). -/
structure WaitFields where
  ld : BitVec 5
  st : BitVec 5
  dr : BitVec 5
  sr : BitVec 5
  sv : BitVec 5
  rn : BitVec 5
deriving DecidableEq, Repr

/-- The states WAITT accepts (R272): 0 to 4. -/
abbrev TileStateCode := Fin 5

/-- The transfer word of TXFER (R112). -/
structure TxWord where
  level   : Bool
  count   : BitVec 8
  mode    : BitVec 2
  slot    : Fin 8
  valid   : Bool
  dstDie  : Fin 6
  srcDie  : Fin 6
deriving DecidableEq, Repr

/-- The readable control registers of R114. -/
inductive CReg
  | entry | hvec | epc | safegap | frec0 | frec1 | frec2 | frec3 | taskid | partition | counters | spcount
deriving DecidableEq, Repr

/-- The writable control registers of R114. -/
inductive CWReg
  | entry | hvec | epc | safegap
deriving DecidableEq, Repr

/-- An ATOMG's size: W or D (R111). -/
inductive ASize
  | w | d
deriving DecidableEq, Repr

/-- A port letter of a cell op, or of a switch: A, B, C (R94). -/
inductive PortName
  | a | b | c
deriving DecidableEq, Repr

/-- A frame class that holds an op (R90). -/
inductive OpClass
  | cc | mc | sw | pn | sn
deriving DecidableEq, Repr

/-- The place of an op within a stripe: class, index and slot of its frame address (R90). -/
structure OpAddr where
  cls   : OpClass
  index : Nat
  slot  : Nat
deriving DecidableEq, Repr

/-- The place of an op of a run: the run's serial, the physical slot of the run's chain, and the op. -/
structure OpPlace where
  run  : Nat
  slot : Nat
  op   : OpAddr
deriving DecidableEq, Repr

/-- A channel that crosses from one virtual stripe to the next: a pass channel, a pass predicate or a Silt channel (R38, R98, R174). -/
inductive SeamCh
  | pa (n : Fin 32) | pp (n : Fin 32) | sn (n : Fin 8)
deriving DecidableEq, Repr

/-- A scale-out frame as it travels (R402): its payload is the ciphertext. -/
structure SoFrame where
  partition : Nat
  source    : Nat
  dest      : Nat
  seqNo     : BitVec 32
  acked     : BitVec 32
  offset    : BitVec 64
  payload   : List Byte
  tag       : BitVec 128
deriving DecidableEq, Repr

/-- A junction sensor: one of the four of a ring (R358, R378). -/
structure SensorId where
  ring   : Nat
  sensor : Nat
deriving DecidableEq, Repr

/-- The module's power averaged over 1 ms and that of each die, in milliwatts (R408, R409). -/
structure PowerReading where
  milliwatts : Nat
  dies       : List Nat
deriving DecidableEq, Repr

/-- The payload of a secured message, with its tag (R406, R407). -/
structure SecuredPayload where
  bytes : List Byte
  tag   : BitVec 128
deriving DecidableEq, Repr

/-- A firmware image as the boot ROM sees it (R404): 128 header bytes, the body, and the public key it names. -/
structure FwImage where
  header : List Byte
  body   : List Byte
  key    : BitVec 256
deriving DecidableEq, Repr

/-- The resources firmware grants a partition (R392): rings, 2 MiB units with whether each is shared, Res and Lim and the entry quota by die,
HB areas by die as base and size, weight, node age in microseconds, contexts with the default one, functions, the peer window as base and
size, and the peer packages a pair key has been agreed with (R402). -/
structure PartGrant where
  rings     : List Nat
  units     : List (Nat × Bool)
  pools     : List (Nat × Nat × Nat)
  quota     : List (Nat × Nat)
  hbAreas   : List (Nat × Nat × Nat)
  weight    : Nat
  nodeAge   : Nat
  contexts  : List Nat
  defaultCtx : Nat
  functions : List Nat
  window    : Option (Nat × Nat)
  peers     : List Nat
deriving DecidableEq, Repr

/-- The device modes of R284. -/
inductive DevMode
  | one | two | six
deriving DecidableEq, Repr

/-- A context record (translation chapter, R284, R318, R319). -/
structure CtxRecord where
  partition : Nat
  mode      : DevMode
  rangePA   : Nat
  rootPA    : Nat
  sides     : Vector (BitVec 48) 8
deriving DecidableEq, Repr

/-- What a management-interface request sets (R408, R409), and the other figures that the manual says firmware sets: A_s (R354), the retries
of a scale-out stream (R402), the clk after which ASTALL reports (R316), and a partition's share of each die's sealed-block cache, in blocks (R356). -/
inductive Threshold
  | powerCapMW (v : Nat)
  | migrateC (v : Nat)
  | promoteClk (v : Nat)
  | retries (v : Nat)
  | astallClk (v : Nat)
  | cacheShare (partition blocks : Nat)
deriving DecidableEq, Repr

/-- What firmware asks of a task at its next SAFEPT (R275): a switch or migration, or the cancelling of one. -/
inductive TaskRequest
  | switchOut
  | cancel
deriving DecidableEq, Repr

/-- The status of a host completion (R395). -/
inductive CplStatus
  | success (data : List Byte) | unsupported | abort | poisoned
deriving DecidableEq, Repr

/-- A host access through CXL.mem (R399). -/
inductive HostAccess
  | read (len : Nat) | write (data : List Byte)
deriving DecidableEq, Repr

/-- The instruction set: one constructor for each row of the opcode table, cell ops first (with their decoded frame), then sequencer
instructions (with their decoded fields), then the steps of the other agents (with the place or request they act on). The order keeps
every constructor that a decoder builds within the tags Lean's compiler has. -/
inductive Instr
  /-- PASS (R133). -/
  | pass (f : CCFrame)
  /-- CC_ADD (R133). -/
  | ccAdd (f : CCFrame)
  /-- CC_SUB (R133). -/
  | ccSub (f : CCFrame)
  /-- CC_MUL (R133). -/
  | ccMul (f : CCFrame)
  /-- CC_MULH (R133). -/
  | ccMulh (f : CCFrame)
  /-- MAD (R133). -/
  | mad (f : CCFrame)
  /-- CC_MIN (R133). -/
  | ccMin (f : CCFrame)
  /-- CC_MAX (R133). -/
  | ccMax (f : CCFrame)
  /-- ABSD (R133). -/
  | absd (f : CCFrame)
  /-- CC_AND (R133). -/
  | ccAnd (f : CCFrame)
  /-- CC_OR (R133). -/
  | ccOr (f : CCFrame)
  /-- CC_XOR (R133). -/
  | ccXor (f : CCFrame)
  /-- CC_ANDN (R133). -/
  | ccAndn (f : CCFrame)
  /-- CC_SHL (R133). -/
  | ccShl (f : CCFrame)
  /-- CC_SHR (R133). -/
  | ccShr (f : CCFrame)
  /-- CC_SAR (R133). -/
  | ccSar (f : CCFrame)
  /-- ROL (R133). -/
  | rol (f : CCFrame)
  /-- CC_CLZ (R133). -/
  | ccClz (f : CCFrame)
  /-- CC_POPC (R133). -/
  | ccPopc (f : CCFrame)
  /-- CMPV (R134). -/
  | cmpv (f : CCFrame)
  /-- SELV (R135). -/
  | selv (f : CCFrame)
  /-- CMPP (R136). -/
  | cmpp (f : CCFrame)
  /-- DIVI (R137). -/
  | divi (f : CCFrame)
  /-- FADD (R138). -/
  | fadd (f : CCFrame)
  /-- FSUB (R138). -/
  | fsub (f : CCFrame)
  /-- FMUL (R138). -/
  | fmul (f : CCFrame)
  /-- FMA (R138). -/
  | fma (f : CCFrame)
  /-- FMIN (R139). -/
  | fmin (f : CCFrame)
  /-- FMAX (R139). -/
  | fmax (f : CCFrame)
  /-- FDIV (R138). -/
  | fdiv (f : CCFrame)
  /-- FSQRT (R138). -/
  | fsqrt (f : CCFrame)
  /-- FRCP (R138). -/
  | frcp (f : CCFrame)
  /-- FRSQ (R138). -/
  | frsq (f : CCFrame)
  /-- FEXP2 (R82). -/
  | fexp2 (f : CCFrame)
  /-- FLOG2 (R82). -/
  | flog2 (f : CCFrame)
  /-- FTANH (R82). -/
  | ftanh (f : CCFrame)
  /-- FCMPV (R139). -/
  | fcmpv (f : CCFrame)
  /-- FCMPP (R139). -/
  | fcmpp (f : CCFrame)
  /-- FCLASS (R140). -/
  | fclass (f : CCFrame)
  /-- CVT (R141). -/
  | cvt (f : CCFrame)
  /-- CVTI (R141). -/
  | cvti (f : CCFrame)
  /-- CVTF (R141). -/
  | cvtf (f : CCFrame)
  /-- QNT (R143). -/
  | qnt (f : CCFrame)
  /-- DQNT (R143). -/
  | dqnt (f : CCFrame)
  /-- PACK (R144). -/
  | pack (f : CCFrame)
  /-- UNPK (R145). -/
  | unpk (f : CCFrame)
  /-- SHUF (R147). -/
  | shuf (f : CCFrame)
  /-- LROT (R147). -/
  | lrot (f : CCFrame)
  /-- BCST (R147). -/
  | bcst (f : CCFrame)
  /-- SCAN (R148). -/
  | scan (f : CCFrame)
  /-- RED (R149). -/
  | red (f : CCFrame)
  /-- LIDX (R150). -/
  | lidx (f : CCFrame)
  /-- STEER (R156). -/
  | steer (f : CCFrame)
  /-- FILT (R157). -/
  | filt (f : CCFrame)
  /-- MERGE (R158). -/
  | merge (f : CCFrame)
  /-- CMERGE (R158). -/
  | cmerge (f : CCFrame)
  /-- ACC (R159). -/
  | acc (f : CCFrame)
  /-- COUNT (R160). -/
  | count (f : CCFrame)
  /-- GEN (R161). -/
  | gen (f : CCFrame)
  /-- REPL (R162). -/
  | repl (f : CCFrame)
  /-- LEVUP (R163). -/
  | levup (f : CCFrame)
  /-- LEVDN (R164). -/
  | levdn (f : CCFrame)
  /-- STOPAT (R165). -/
  | stopat (f : CCFrame)
  /-- SINK (R166). -/
  | sink (f : CCFrame)
  /-- TOKP (R167). -/
  | tokp (f : CCFrame)
  /-- PTOK (R168). -/
  | ptok (f : CCFrame)
  /-- PLOGIC (R170). -/
  | plogic (f : PNFrame)
  /-- PDUP (R171). -/
  | pdup (f : PNFrame)
  /-- PGEN (R172). -/
  | pgen (f : PNFrame)
  /-- SNADD (R175). -/
  | snadd (f : SNFrame)
  /-- SNSINK (R176). -/
  | snsink (f : SNFrame)
  /-- LDS (R180). -/
  | lds (f : CCFrame)
  /-- MMA (R183). -/
  | mma (f : CCFrame)
  /-- MMAQ (R183). -/
  | mmaq (f : CCFrame)
  /-- ACCZ (R184). -/
  | accz (f : CCFrame)
  /-- ACCOUT (R186). -/
  | accout (f : CCFrame)
  /-- ACCIN (R185). -/
  | accin (f : CCFrame)
  /-- MTRN (R180). -/
  | mtrn (f : CCFrame)
  /-- TRD (R204). -/
  | trd (f : MCFrame)
  /-- TWR (R205). -/
  | twr (f : MCFrame)
  /-- TRDC (R206). -/
  | trdc (f : MCFrame)
  /-- TWRC (R207). -/
  | twrc (f : MCFrame)
  /-- GATH (R208). -/
  | gath (f : MCFrame)
  /-- SCAT (R209). -/
  | scat (f : MCFrame)
  /-- RMWA (R210). -/
  | rmwa (f : MCFrame)
  /-- TAS (R212). -/
  | tas (f : MCFrame)
  /-- ATOM (R215). -/
  | atom (f : MCFrame)
  /-- LREQ (R213). -/
  | lreq (f : MCFrame)
  /-- SREQ (R214). -/
  | sreq (f : MCFrame)
  /-- FIFO (R216). -/
  | fifo (f : MCFrame)
  /-- LUT (R217). -/
  | lut (f : MCFrame)
  /-- SELX (R219). -/
  | selx (f : SWFrame)
  /-- DIST (R220). -/
  | dist (f : SWFrame)
  /-- ARB (R221). -/
  | arb (f : SWFrame)
  /-- JOIN (R222). -/
  | join (f : SWFrame)
  /-- ADD (R228). -/
  | add (g : Guard) (d a b : Reg)
  /-- ADD_IMM (R228). -/
  | addImm (g : Guard) (d a : Reg) (imm : BitVec 32)
  /-- SUB (R228). -/
  | sub (g : Guard) (d a b : Reg)
  /-- SUB_IMM (R228). -/
  | subImm (g : Guard) (d a : Reg) (imm : BitVec 32)
  /-- MUL (R228). -/
  | mul (g : Guard) (d a b : Reg)
  /-- MUL_IMM (R228). -/
  | mulImm (g : Guard) (d a : Reg) (imm : BitVec 32)
  /-- MULH (R228). -/
  | mulh (g : Guard) (d a b : Reg)
  /-- MULH_IMM (R228). -/
  | mulhImm (g : Guard) (d a : Reg) (imm : BitVec 32)
  /-- MULHN (R228). -/
  | mulhn (g : Guard) (d a b : Reg)
  /-- MULHN_IMM (R228). -/
  | mulhnImm (g : Guard) (d a : Reg) (imm : BitVec 32)
  /-- DIV (R228). -/
  | div (g : Guard) (d a b : Reg)
  /-- DIV_IMM (R228). -/
  | divImm (g : Guard) (d a : Reg) (imm : BitVec 32)
  /-- DIVN (R228). -/
  | divn (g : Guard) (d a b : Reg)
  /-- DIVN_IMM (R228). -/
  | divnImm (g : Guard) (d a : Reg) (imm : BitVec 32)
  /-- REM (R228). -/
  | rem (g : Guard) (d a b : Reg)
  /-- REM_IMM (R228). -/
  | remImm (g : Guard) (d a : Reg) (imm : BitVec 32)
  /-- REMN (R228). -/
  | remn (g : Guard) (d a b : Reg)
  /-- REMN_IMM (R228). -/
  | remnImm (g : Guard) (d a : Reg) (imm : BitVec 32)
  /-- AND (R228). -/
  | and (g : Guard) (d a b : Reg)
  /-- AND_IMM (R228). -/
  | andImm (g : Guard) (d a : Reg) (imm : BitVec 32)
  /-- OR (R228). -/
  | or (g : Guard) (d a b : Reg)
  /-- OR_IMM (R228). -/
  | orImm (g : Guard) (d a : Reg) (imm : BitVec 32)
  /-- XOR (R228). -/
  | xor (g : Guard) (d a b : Reg)
  /-- XOR_IMM (R228). -/
  | xorImm (g : Guard) (d a : Reg) (imm : BitVec 32)
  /-- ANDN (R228). -/
  | andn (g : Guard) (d a b : Reg)
  /-- ANDN_IMM (R228). -/
  | andnImm (g : Guard) (d a : Reg) (imm : BitVec 32)
  /-- SHL (R228). -/
  | shl (g : Guard) (d a b : Reg)
  /-- SHL_IMM (R228). -/
  | shlImm (g : Guard) (d a : Reg) (imm : BitVec 32)
  /-- SHR (R228). -/
  | shr (g : Guard) (d a b : Reg)
  /-- SHR_IMM (R228). -/
  | shrImm (g : Guard) (d a : Reg) (imm : BitVec 32)
  /-- SAR (R228). -/
  | sar (g : Guard) (d a b : Reg)
  /-- SAR_IMM (R228). -/
  | sarImm (g : Guard) (d a : Reg) (imm : BitVec 32)
  /-- MIN (R228). -/
  | min (g : Guard) (d a b : Reg)
  /-- MIN_IMM (R228). -/
  | minImm (g : Guard) (d a : Reg) (imm : BitVec 32)
  /-- MINN (R228). -/
  | minn (g : Guard) (d a b : Reg)
  /-- MINN_IMM (R228). -/
  | minnImm (g : Guard) (d a : Reg) (imm : BitVec 32)
  /-- MAX (R228). -/
  | max (g : Guard) (d a b : Reg)
  /-- MAX_IMM (R228). -/
  | maxImm (g : Guard) (d a : Reg) (imm : BitVec 32)
  /-- MAXN (R228). -/
  | maxn (g : Guard) (d a b : Reg)
  /-- MAXN_IMM (R228). -/
  | maxnImm (g : Guard) (d a : Reg) (imm : BitVec 32)
  /-- CLZ (R229). -/
  | clz (g : Guard) (d a : Reg)
  /-- CLZ_IMM (R229). -/
  | clzImm (g : Guard) (d a : Reg)
  /-- POPC (R229). -/
  | popc (g : Guard) (d a : Reg)
  /-- POPC_IMM (R229). -/
  | popcImm (g : Guard) (d a : Reg)
  /-- SEXT (R228). -/
  | sext (g : Guard) (d a b : Reg)
  /-- SEXT_IMM (R228). -/
  | sextImm (g : Guard) (d a : Reg) (imm : BitVec 32)
  /-- ZEXT (R228). -/
  | zext (g : Guard) (d a b : Reg)
  /-- ZEXT_IMM (R228). -/
  | zextImm (g : Guard) (d a : Reg) (imm : BitVec 32)
  /-- LI (R231). -/
  | li (g : Guard) (d : Reg) (imm : BitVec 32)
  /-- LUI (R231). -/
  | lui (g : Guard) (d a : Reg) (imm : BitVec 32)
  /-- SEL (R231). -/
  | sel (g : Guard) (d a b : Reg) (p : Pred)
  /-- SETP (R232). -/
  | setp (g : Guard) (cc : Cond) (p : Pred) (a b : Reg)
  /-- SETPI (R232). -/
  | setpi (g : Guard) (cc : Cond) (p : Pred) (a : Reg) (imm : BitVec 32)
  /-- PLOG (R233). -/
  | plog (g : Guard) (p pa pb : Pred) (table : BitVec 4)
  /-- BR (R234). -/
  | br (g : Guard) (off : BitVec 32)
  /-- BRX (R234). -/
  | brx (g : Guard) (a : Reg)
  /-- CALL (R234). -/
  | call (g : Guard) (off : BitVec 32)
  /-- RET (R234). -/
  | ret (g : Guard)
  /-- LOOP (R234). -/
  | loop (g : Guard) (d : Reg) (off : BitVec 32)
  /-- TEND (R236). -/
  | tend (g : Guard)
  /-- YIELD (R237). -/
  | yield (g : Guard)
  /-- NOP (R237). -/
  | nop (g : Guard)
  /-- WAITCH (R239). -/
  | waitch (g : Guard)
  /-- RECV (R239). -/
  | recv (g : Guard) (d e : Reg)
  /-- SENDQ (R240). -/
  | sendq (g : Guard) (k : SendKind) (a : Reg) (ep : BitVec 16)
  /-- SENDQ_REG (R240). -/
  | sendqReg (g : Guard) (k : SendKind) (a b : Reg)
  /-- LD (R242). -/
  | ld (g : Guard) (sz : LoadSize) (d a : Reg) (imm : BitVec 32)
  /-- ST (R242). -/
  | st (g : Guard) (sz : Size) (d a : Reg) (imm : BitVec 32)
  /-- LDG (R247). -/
  | ldg (g : Guard) (sz : LoadSize) (o : LdOrder) (sc : SScope) (d a : Reg) (imm : BitVec 32)
  /-- STG (R247). -/
  | stg (g : Guard) (sz : Size) (o : StOrder) (sc : SScope) (d a : Reg) (imm : BitVec 32)
  /-- ATOMG_ADD (R248). -/
  | atomgAdd (g : Guard) (sz : ASize) (o : Order) (sc : SScope) (d a b : Reg)
  /-- ATOMG_MIN (R248). -/
  | atomgMin (g : Guard) (sz : ASize) (o : Order) (sc : SScope) (d a b : Reg)
  /-- ATOMG_MAX (R248). -/
  | atomgMax (g : Guard) (sz : ASize) (o : Order) (sc : SScope) (d a b : Reg)
  /-- ATOMG_MINN (R248). -/
  | atomgMinn (g : Guard) (sz : ASize) (o : Order) (sc : SScope) (d a b : Reg)
  /-- ATOMG_MAXN (R248). -/
  | atomgMaxn (g : Guard) (sz : ASize) (o : Order) (sc : SScope) (d a b : Reg)
  /-- ATOMG_AND (R248). -/
  | atomgAnd (g : Guard) (sz : ASize) (o : Order) (sc : SScope) (d a b : Reg)
  /-- ATOMG_OR (R248). -/
  | atomgOr (g : Guard) (sz : ASize) (o : Order) (sc : SScope) (d a b : Reg)
  /-- ATOMG_XOR (R248). -/
  | atomgXor (g : Guard) (sz : ASize) (o : Order) (sc : SScope) (d a b : Reg)
  /-- ATOMG_XCHG (R248). -/
  | atomgXchg (g : Guard) (sz : ASize) (o : Order) (sc : SScope) (d a b : Reg)
  /-- ATOMG_CAS (R248). -/
  | atomgCas (g : Guard) (sz : ASize) (o : Order) (sc : SScope) (d a b c : Reg)
  /-- TALLOC (R254). -/
  | talloc (g : Guard) (d : Reg) (desc : BitVec 27)
  /-- TALLOC_REG (R254). -/
  | tallocReg (g : Guard) (d a : Reg)
  /-- TSEAL (R255). -/
  | tseal (g : Guard) (a : Reg)
  /-- TSTAT (R256). -/
  | tstat (g : Guard) (d a : Reg)
  /-- TLOAD (R257). -/
  | tload (g : Guard) (sz : LoadSize) (d a b : Reg) (imm : BitVec 32)
  /-- TSTORE (R257). -/
  | tstore (g : Guard) (sz : Size) (d a b : Reg) (imm : BitVec 32)
  /-- TXFER (R258). -/
  | txfer (g : Guard) (d a : Reg) (x : TxWord)
  /-- DRAW (R260). -/
  | draw (g : Guard) (d a b : Reg) (desc : BitVec 27)
  /-- DRAWS (R261). -/
  | draws (g : Guard) (a b c : Reg) (dim : Fin 4) (desc : BitVec 27)
  /-- SEND (R262). -/
  | send (g : Guard) (a b c : Reg) (slot : Fin 8) (valid : Bool) (sc : SScope)
  /-- COPYM (R263). -/
  | copym (g : Guard) (a b c : Reg) (sc : SScope)
  /-- RUN (R265). -/
  | run (g : Guard) (d a : Reg)
  /-- RSTOP_SAFE (R267). -/
  | rstopSafe (g : Guard) (a : Reg)
  /-- RSTOP_NOW (R267). -/
  | rstopNow (g : Guard) (a : Reg)
  /-- RSWAP (R268). -/
  | rswap (g : Guard) (a b : Reg)
  /-- RESUME (R269). -/
  | resume (g : Guard) (a : Reg)
  /-- GLAUNCH (R270). -/
  | glaunch (g : Guard) (a : Reg)
  /-- WAIT (R271). -/
  | wait (g : Guard) (w : WaitFields)
  /-- WAITT (R272). -/
  | waitt (g : Guard) (a : Reg) (st : TileStateCode)
  /-- FENCE_ACQ (R273). -/
  | fenceAcq (g : Guard) (sc : SScope)
  /-- FENCE_REL (R273). -/
  | fenceRel (g : Guard) (sc : SScope)
  /-- FENCE_AR (R273). -/
  | fenceAr (g : Guard) (sc : SScope)
  /-- FENCE_ORD (R298). -/
  | fenceOrd (g : Guard) (sc : SScope)
  /-- GJOIN (R274). -/
  | gjoin (g : Guard) (a : Reg)
  /-- GLEAVE (R274). -/
  | gleave (g : Guard) (a : Reg)
  /-- GARR (R274). -/
  | garr (g : Guard) (d a : Reg)
  /-- GWAIT (R274). -/
  | gwait (g : Guard) (a b : Reg)
  /-- SAFEPT (R275). -/
  | safept (g : Guard) (regs : BitVec 31) (preds : BitVec 7) (stub : Option (BitVec 13))
  /-- TRAP (R276). -/
  | trap (g : Guard) (code : BitVec 32)
  /-- ERET (R276). -/
  | eret (g : Guard)
  /-- FWCALL (R277). -/
  | fwcall (g : Guard) (d a : Reg) (svc : BitVec 16)
  /-- RDTS (R278). -/
  | rdts (g : Guard) (d : Reg)
  /-- CRD (R278). -/
  | crd (g : Guard) (d : Reg) (cr : CReg)
  /-- CWR (R278). -/
  | cwr (g : Guard) (cr : CWReg) (a : Reg)
  /-- CINV_CFG (R279). -/
  | cinvCfg (g : Guard) (a b : Reg)
  /-- CINV_CODE (R279). -/
  | cinvCode (g : Guard) (a b : Reg)
  /-- ILOAD (R280). -/
  | iload (g : Guard) (a : Reg) (dst : BitVec 13)
  /-- HELD_STOP_DISCARD (R29). -/
  | heldStopDiscard (p : OpPlace) (port : PortName)
  /-- INDEX_STOP_DISCARD (R218). -/
  | indexStopDiscard (p : OpPlace)
  /-- MC_RESPONSE (R189). -/
  | mcResponse (p : OpPlace)
  /-- MC_ACKNOWLEDGE (R191). -/
  | mcAcknowledge (p : OpPlace)
  /-- LUT_COPY (R217). -/
  | lutCopy (p : OpPlace)
  /-- SEAM_FIFO_DELIVER (R38). -/
  | seamFifoDeliver (run vs : Nat) (ch : SeamCh)
  /-- TILE_BINDING_STREAM (R117). -/
  | tileBindingStream (run : Nat) (fifo : Fin 8)
  /-- OF_QUEUE_SEND (R117). -/
  | ofQueueSend (run : Nat) (fifo : Fin 8)
  /-- OF_TILE_WRITE (R117). -/
  | ofTileWrite (run : Nat) (fifo : Fin 8)
  /-- STRIPE_IMAGE_ACCEPT (R106). -/
  | stripeImageAccept (run vs : Nat)
  /-- STRIPE_CONFIGURE (R349). -/
  | stripeConfigure (run : Nat)
  /-- STRIPE_RETIRE (R37). -/
  | stripeRetire (run slot : Nat)
  /-- STATE_RESTORE (R350). -/
  | stateRestore (run slot : Nat)
  /-- RUN_ADMIT (R347). -/
  | runAdmit (run : Nat) (rings : List Nat)
  /-- POOL_GRANT (R314). -/
  | poolGrant (die partition : Nat) (hb : Bool)
  /-- POOL_FIGURES_SET (R312). -/
  | poolFiguresSet (die partition res lim quota : Nat)
  /-- ASTALL (R316). -/
  | astall (die partition request : Nat)
  /-- RUN_END (R266). -/
  | runEnd (run : Nat)
  /-- RUN_SPGAP (R368). -/
  | runSpgap (run : Nat)
  /-- QUIET (R381). -/
  | quiet (run : Nat)
  /-- SLICE_MARK (R370). -/
  | sliceMark (run : Nat) (successor : Option Nat)
  /-- SLOT_RELEASE (R371). -/
  | slotRelease (run slot : Nat)
  /-- GANG_MARK (R376). -/
  | gangMark (run : Nat) (successor : Option Nat) (deadline : BitVec 32)
  /-- GANG_COMMIT (R376). -/
  | gangCommit (run : Nat)
  /-- GANG_DEADLINE_EXPIRY (R377). -/
  | gangDeadlineExpiry (run : Nat)
  /-- MIGRATE (R378). -/
  | migrate (ring sensor reading : Nat)
  /-- MIGRATION (R379). -/
  | migration (run : Nat) (targets : List Nat) (deadline : BitVec 32)
  /-- MIGRATION_CANCEL (R379). -/
  | migrationCancel (run : Nat)
  /-- SUSPENDED_RUN_RESUME (R374). -/
  | suspendedRunResume (run : Nat) (rings : List Nat)
  /-- REBUILD_STUB_ENTRY (R374). -/
  | rebuildStubEntry (run : Nat)
  /-- RSWAP_PREPARE (R268). -/
  | rswapPrepare (run : Nat)
  /-- IMAGE_SWAP (R268). -/
  | imageSwap (run slot : Nat)
  /-- TASK_ACTIVATE (R48). -/
  | taskActivate (task : Nat)
  /-- TASK_UNBLOCK (R48). -/
  | taskUnblock (task : Nat) (reply : Word)
  /-- DEFERRED_FAULT (R225). -/
  | deferredFault (task : Nat)
  /-- GLOBAL_ACCESS_COMPLETE (R247). -/
  | globalAccessComplete (serial : Nat)
  /-- DRAW_COMPLETE (R260). -/
  | drawComplete (serial : Nat)
  /-- DRAWS_TILE_COMPLETE (R261). -/
  | drawsTileComplete (serial : Nat)
  /-- TXFER_COMPLETE (R258). -/
  | txferComplete (serial : Nat)
  /-- SEND_READ_DONE (R262). -/
  | sendReadDone (serial : Nat)
  /-- SEND_WRITES_VISIBLE (R262). -/
  | sendWritesVisible (serial : Nat)
  /-- COPYM_COMPLETE (R263). -/
  | copymComplete (serial : Nat)
  /-- TASK_SPGAP (R275). -/
  | taskSpgap (task : Nat)
  /-- TASK_SWITCH_RESUME (R275). -/
  | taskSwitchResume (task : Nat)
  /-- STREAMER_BIND (R354). -/
  | streamerBind (die : Nat)
  /-- STREAMER_PROMOTE (R354). -/
  | streamerPromote (die stream : Nat)
  /-- TRANSLATION_WALK_COMPLETE (R321). -/
  | translationWalkComplete (die asid page : Nat)
  /-- TRANSLATION_INVALIDATE (R323). -/
  | translationInvalidate (asid : Nat)
  /-- REMOTE_WRITE_APPLY (R292). -/
  | remoteWriteApply (die serial : Nat)
  /-- SEALED_WRITEBACK (R326). -/
  | sealedWriteback (block : Nat)
  /-- KILN_ROTATE (R329). -/
  | kilnRotate (die partition : Nat)
  /-- KILN_SWEEP (R329). -/
  | kilnSweep (die partition generation : Nat)
  /-- KILN_RETIRE (R329). -/
  | kilnRetire (die partition generation : Nat)
  /-- KILN_INITIALISE_RANGE (R329). -/
  | kilnInitialiseRange (die partition base length : Nat)
  /-- TREE_KEY_ROTATION (R330). -/
  | treeKeyRotation (stack : Nat)
  /-- LAUNCH (R333). -/
  | launch (iface : Nat) (va : Word)
  /-- CANCEL (R333). -/
  | cancel (iface : Nat) (va : Word)
  /-- NOTIFY_RESERVED_WRITE (R333). -/
  | notifyReservedWrite (iface offset size : Nat)
  /-- GRAPH_ACCEPT (R334). -/
  | graphAccept (iface : Nat)
  /-- NODE_DISPATCH (R344). -/
  | nodeDispatch (partition : Nat)
  /-- NODE_PROMOTE (R344). -/
  | nodePromote (partition : Nat)
  /-- NODE_EVALUATE (R341). -/
  | nodeEvaluate (graph node : Nat)
  /-- NODE_COMPLETE (R340). -/
  | nodeComplete (graph node : Nat)
  /-- FAULT_RECORD_DELIVER (R384). -/
  | faultRecordDeliver (run : Nat)
  /-- EVENT_LOG_APPEND (R360). -/
  | eventLogAppend (source : Nat)
  /-- PACKAGE_RESET (R385). -/
  | packageReset (crucible management scheduler : List FwImage)
  /-- DIE_RESET_WARM (R386). -/
  | dieResetWarm (die : Nat)
  /-- DIE_RESET_FATAL (R386). -/
  | dieResetFatal (die : Nat)
  /-- STALE_RESPONSE_DROP (R385). -/
  | staleResponseDrop (die serial : Nat)
  /-- LINK_FAILURE (R387). -/
  | linkFailure (link : Nat)
  /-- THERMAL_THROTTLE (R388). -/
  | thermalThrottle (sensor : SensorId) (reading : Nat)
  /-- THERMAL_SHUTDOWN (R388). -/
  | thermalShutdown (die reading : Nat)
  /-- POWER_CAP_ENFORCE (R408). -/
  | powerCapEnforce (power : PowerReading)
  /-- PARTITION_CREATE (R393). -/
  | partitionCreate (partition : Nat) (grant : PartGrant)
  /-- PARTITION_DESTROY (R393). -/
  | partitionDestroy (partition : Nat)
  /-- PARTITION_FREE (R393). -/
  | partitionFree (partition : Nat)
  /-- FUNCTION_LEVEL_RESET (R398). -/
  | functionLevelReset (function : Nat)
  /-- INTERFACE_BIND (R397). -/
  | interfaceBind (iface : Nat) (binding : Word)
  /-- INTERFACE_UNBIND (R397). -/
  | interfaceUnbind (iface : Nat)
  /-- NUMVFS_WRITE (R394). -/
  | numvfsWrite (pf : Fin 2) (count : Nat)
  /-- HOST_COMPLETION (R395). -/
  | hostCompletion (serial : Nat) (status : CplStatus)
  /-- HOST_CXL_MEM_ACCESS (R399). -/
  | hostCxlMemAccess (pa : Nat) (access : HostAccess)
  /-- SCALEOUT_WRITE (R402). -/
  | scaleoutWrite (frame : SoFrame)
  /-- SCALEOUT_READ_REQUEST (R402). -/
  | scaleoutReadRequest (frame : SoFrame) (length : Nat)
  /-- SCALEOUT_READ_RESPONSE (R402). -/
  | scaleoutReadResponse (frame : SoFrame)
  /-- SCALEOUT_ACK (R402). -/
  | scaleoutAck (frame : SoFrame)
  /-- SCALEOUT_NAK (R402). -/
  | scaleoutNak (frame : SoFrame)
  /-- RETRANSMIT_TIMEOUT (R402). -/
  | retransmitTimeout (partition peer : Nat)
  /-- GET_VERSION (R406). -/
  | getVersion (function : Nat)
  /-- GET_CAPABILITIES (R406). -/
  | getCapabilities (function : Nat)
  /-- NEGOTIATE_ALGORITHMS (R406). -/
  | negotiateAlgorithms (function : Nat)
  /-- GET_DIGESTS (R406). -/
  | getDigests (function : Nat)
  /-- GET_CERTIFICATE (R406). -/
  | getCertificate (function : Nat)
  /-- CHALLENGE (R406). -/
  | challenge (function : Nat) (nonce : List Byte)
  /-- GET_MEASUREMENTS (R406). -/
  | getMeasurements (function : Nat) (nonce : List Byte)
  /-- KEY_EXCHANGE (R406). -/
  | keyExchange (function : Nat) (share : List Byte)
  /-- FINISH (R406). -/
  | finish (function : Nat)
  /-- END_SESSION (R406). -/
  | endSession (function : Nat)
  /-- VENDOR_DEFINED_REQUEST (R407). -/
  | vendorDefinedRequest (function : Nat) (registry : Nat) (payload : SecuredPayload)
  /-- CONTEXT_CREATE (R284). -/
  | contextCreate (asid : Nat) (ctx : CtxRecord)
  /-- KILN_GENERATED_KEY (R393). -/
  | kilnGeneratedKey (partition : Nat)
  /-- RING_SET_CHANGE (R243). -/
  | ringSetChange (ring : Nat) (target : Nat)
  /-- TASK_SWITCH_REQUEST (R275). -/
  | taskSwitchRequest (task : Nat) (request : TaskRequest)
  /-- THROTTLE_RELEASE (R388). -/
  | throttleRelease (sensor : SensorId) (reading : Nat)
  /-- MIGRATE_REARM (R378). -/
  | migrateRearm (ring sensor reading : Nat)
  /-- THRESHOLD_SET (R409). -/
  | thresholdSet (value : Threshold)
  /-- HELD_REQUEST_FIRMWARE_RELEASE (R253). -/
  | heldRequestFirmwareRelease (serial : Nat) (resume : Bool)
deriving DecidableEq, Repr

end Sys2Proof
end

