-- ==== Sys2Proof/WellFormed.lean ====
section
/-! DEFINITION. WellFormed: the field combinations the encodings admit (R94 to R104, R112), for frames and sequencer instructions. What an op's own entry accepts is Machine/Legal.lean. -/
namespace Sys2Proof

/-- The types whose ports accept the negate and absolute modifiers: type codes of I8 to I64 and the vector floats (R95, assumption 12). -/
def Ty.modifiable : Ty → Bool
  | .i8 | .n8 | .i16 | .n16 | .i32 | .n32 | .i64 | .f32 | .f16 | .bf16 => true
  | .b32 | .e4m3 | .e5m2 | .q8 | .q4 => false

/-- A source that names a channel (R96, R124). -/
def Src.isChannel : Src → Bool
  | .pa _ | .sl _ | .st _ => true
  | .imm | .zero | .arg _ | .unused => false

/-- R95: the lane field is zero without broadcast, even for a 64-bit type; modifiers need a type that has them; sources that are no
channel have hold count zero. -/
def Port.wf (p : Port) (t : Ty) : Bool :=
  (p.bcast || p.lane == 0)
  && (!(p.bcast && t == .i64) || p.lane.getLsbD 0 == false)
  && (!(p.neg || p.abs) || t.modifiable)
  && (p.src.isChannel || p.hold == 0)

/-- R94: op level 1 to 7, and the Silt node zero without statistics and 0 to 7 with it. -/
def CCFrame.wf (f : CCFrame) : Bool :=
  f.a.wf f.ty && f.b.wf f.ty && f.c.wf f.ty
  && f.level != 0
  && (if f.stats then decide (f.silt.toNat < 8) else f.silt == 0)

/-- R99: no stage source or destination, no stage predicate code; the fixed handle is zero when the handle comes from port C; the Silt
node is 0 to 7. -/
def MCFrame.wf (f : MCFrame) : Bool :=
  let srcOk : Src → Bool := fun s => match s with | .st _ => false | _ => true
  let dstOk : Dst → Bool := fun d => match d with | .st _ => false | _ => true
  f.a.wf f.ty && f.b.wf f.ty && f.c.wf f.ty
  && srcOk f.a.src && srcOk f.b.src && srcOk f.c.src
  && dstOk f.oa.dst && dstOk f.ob.dst
  && (match f.pin with | .ps _ => false | _ => true)
  && (match f.pout with | .ps _ => false | _ => true)
  && (!f.fromC || f.handle == 0)
  && f.level != 0
  && decide (f.silt.toNat < 8)

/-- An address-generator dimension with every field zero. -/
def AGDim.isZero (d : AGDim) : Bool :=
  d.count == 0 && d.stride == 0 && d.stop == 0 && !d.argEn && !d.argSel

/-- R101: dimensions is 0 exactly when the mode is off, and the fields of the dimensions not used are zero. -/
def AGFrame.wf (f : AGFrame) : Bool :=
  (match f.mode with | .off => f.dims == 0 | _ => f.dims != 0)
  && (decide (0 < f.dims.val) || f.d0.isZero) && (decide (1 < f.dims.val) || f.d1.isZero)
  && (decide (2 < f.dims.val) || f.d2.isZero) && (decide (3 < f.dims.val) || f.d3.isZero)

/-- R102, R218: an input names a pass channel, a stripe line or nothing; the index port names no immediate and no stage edge and has
neither of the two modifiers of R95. -/
def SWFrame.wf (f : SWFrame) : Bool :=
  f.ins.toList.all (fun s => match s with | .pa _ | .sl _ | .unused => true | _ => false)
  && f.idx.wf f.ty && !f.idx.neg && !f.idx.abs
  && (match f.idx.src with | .imm | .st _ => false | _ => true)
  && f.level != 0

/-- R169: inputs are pass predicates, predicate lines or unused with sense 0; no stage edge as destination; op level 1 to 7. -/
def PNFrame.wf (f : PNFrame) : Bool :=
  let okIn : PSrc → Bool → Bool := fun s n => match s with | .ps _ => false | .none => !n | _ => true
  let okOut : PDst → Bool := fun d => match d with | .ps _ => false | _ => true
  okIn f.in0 f.sense0 && okIn f.in1 f.sense1 && okIn f.in2 f.sense2
  && okOut f.out0 && okOut f.out1 && okOut f.out2 && okOut f.out3
  && f.level != 0

/-- R104: inputs 1 to 31. -/
def SNFrame.wf (f : SNFrame) : Bool := f.inputs != 0

/-- R112: the mode of a tile descriptor given as an immediate is not the reserved one. -/
def descWf (d : BitVec 27) : Bool := d.extractLsb' 17 2 != 3

/-- R112: the descriptor of a DRAW or DRAWS has format 0 as well. -/
def drawDescWf (d : BitVec 27) : Bool := descWf d && d.extractLsb' 10 6 == 0

/-- R109: a branch offset is a multiple of 8. -/
def offWf (o : BitVec 32) : Bool := o.extractLsb' 0 3 == 0

/-- R113: the zero fields and the die of an immediate endpoint. -/
def endpointWf (e : BitVec 16) : Bool :=
  e.extractLsb' 10 5 == 0 && decide ((e.extractLsb' 7 3).toNat < 6) && e.getLsbD 4 == false

/-- Well-formed instructions: those an encoding of R94 to R112 can hold. -/
def Instr.wf : Instr → Bool
  | .br _ o | .call _ o => offWf o
  | .loop _ d o => offWf o && d != 0
  | .sendq _ _ _ e => endpointWf e
  | .talloc _ _ d => descWf d
  | .txfer _ _ _ x => x.mode != 3
  | .draw _ _ _ _ d => drawDescWf d
  | .draws _ _ _ _ _ d => drawDescWf d
  | .pass f => f.wf
  | .ccAdd f => f.wf
  | .ccSub f => f.wf
  | .ccMul f => f.wf
  | .ccMulh f => f.wf
  | .mad f => f.wf
  | .ccMin f => f.wf
  | .ccMax f => f.wf
  | .absd f => f.wf
  | .ccAnd f => f.wf
  | .ccOr f => f.wf
  | .ccXor f => f.wf
  | .ccAndn f => f.wf
  | .ccShl f => f.wf
  | .ccShr f => f.wf
  | .ccSar f => f.wf
  | .rol f => f.wf
  | .ccClz f => f.wf
  | .ccPopc f => f.wf
  | .cmpv f => f.wf
  | .selv f => f.wf
  | .cmpp f => f.wf
  | .divi f => f.wf
  | .fadd f => f.wf
  | .fsub f => f.wf
  | .fmul f => f.wf
  | .fma f => f.wf
  | .fmin f => f.wf
  | .fmax f => f.wf
  | .fdiv f => f.wf
  | .fsqrt f => f.wf
  | .frcp f => f.wf
  | .frsq f => f.wf
  | .fexp2 f => f.wf
  | .flog2 f => f.wf
  | .ftanh f => f.wf
  | .fcmpv f => f.wf
  | .fcmpp f => f.wf
  | .fclass f => f.wf
  | .cvt f => f.wf
  | .cvti f => f.wf
  | .cvtf f => f.wf
  | .qnt f => f.wf
  | .dqnt f => f.wf
  | .pack f => f.wf
  | .unpk f => f.wf
  | .shuf f => f.wf
  | .lrot f => f.wf
  | .bcst f => f.wf
  | .scan f => f.wf
  | .red f => f.wf
  | .lidx f => f.wf
  | .steer f => f.wf
  | .filt f => f.wf
  | .merge f => f.wf
  | .cmerge f => f.wf
  | .acc f => f.wf
  | .count f => f.wf
  | .gen f => f.wf
  | .repl f => f.wf
  | .levup f => f.wf
  | .levdn f => f.wf
  | .stopat f => f.wf
  | .sink f => f.wf
  | .tokp f => f.wf
  | .ptok f => f.wf
  | .plogic f => f.wf
  | .pdup f => f.wf
  | .pgen f => f.wf
  | .snadd f => f.wf
  | .snsink f => f.wf
  | .lds f => f.wf
  | .mma f => f.wf
  | .mmaq f => f.wf
  | .accz f => f.wf
  | .accout f => f.wf
  | .accin f => f.wf
  | .mtrn f => f.wf
  | .trd f => f.wf
  | .twr f => f.wf
  | .trdc f => f.wf
  | .twrc f => f.wf
  | .gath f => f.wf
  | .scat f => f.wf
  | .rmwa f => f.wf
  | .tas f => f.wf
  | .atom f => f.wf
  | .lreq f => f.wf
  | .sreq f => f.wf
  | .fifo f => f.wf
  | .lut f => f.wf
  | .selx f => f.wf
  | .dist f => f.wf
  | .arb f => f.wf
  | .join f => f.wf
  | .heldStopDiscard _ _ | .indexStopDiscard _ | .mcResponse _ | .mcAcknowledge _ | .lutCopy _ | .seamFifoDeliver _ _ _
  | .tileBindingStream _ _ | .ofQueueSend _ _ | .ofTileWrite _ _ | .stripeImageAccept _ _ | .stripeConfigure _ | .stripeRetire _ _
  | .stateRestore _ _ | .runAdmit _ _ | .poolGrant _ _ _ | .poolFiguresSet _ _ _ _ _ | .astall _ _ _ | .runEnd _
  | .runSpgap _ | .quiet _ | .sliceMark _ _ | .slotRelease _ _ | .gangMark _ _ _ | .gangCommit _
  | .gangDeadlineExpiry _ | .migrate _ _ _ | .migration _ _ _ | .migrationCancel _ | .suspendedRunResume _ _ | .rebuildStubEntry _
  | .rswapPrepare _ | .imageSwap _ _ | .taskActivate _ | .taskUnblock _ _ | .deferredFault _ | .globalAccessComplete _
  | .drawComplete _ | .drawsTileComplete _ | .txferComplete _ | .sendReadDone _ | .sendWritesVisible _ | .copymComplete _
  | .taskSpgap _ | .taskSwitchResume _ | .streamerBind _ | .streamerPromote _ _ | .translationWalkComplete _ _ _ | .translationInvalidate _
  | .remoteWriteApply _ _ | .sealedWriteback _ | .kilnRotate _ _ | .kilnSweep _ _ _ | .kilnRetire _ _ _ | .kilnInitialiseRange _ _ _ _
  | .treeKeyRotation _ | .launch _ _ | .cancel _ _ | .notifyReservedWrite _ _ _ | .graphAccept _ | .nodeDispatch _
  | .nodePromote _ | .nodeEvaluate _ _ | .nodeComplete _ _ | .faultRecordDeliver _ | .eventLogAppend _ | .packageReset _ _ _
  | .dieResetWarm _ | .dieResetFatal _ | .staleResponseDrop _ _ | .linkFailure _ | .thermalThrottle _ _ | .thermalShutdown _ _
  | .powerCapEnforce _ | .partitionCreate _ _ | .partitionDestroy _ | .partitionFree _ | .functionLevelReset _ | .interfaceBind _ _
  | .interfaceUnbind _ | .numvfsWrite _ _ | .hostCompletion _ _ | .hostCxlMemAccess _ _ | .scaleoutWrite _ | .scaleoutReadRequest _ _
  | .scaleoutReadResponse _ | .scaleoutAck _ | .scaleoutNak _ | .retransmitTimeout _ _ | .getVersion _ | .getCapabilities _
  | .negotiateAlgorithms _ | .getDigests _ | .getCertificate _ | .challenge _ _ | .getMeasurements _ _ | .keyExchange _ _
  | .finish _ | .endSession _ | .vendorDefinedRequest _ _ _ | .add _ _ _ _ | .addImm _ _ _ _ | .sub _ _ _ _
  | .subImm _ _ _ _ | .mul _ _ _ _ | .mulImm _ _ _ _ | .mulh _ _ _ _ | .mulhImm _ _ _ _ | .mulhn _ _ _ _
  | .mulhnImm _ _ _ _ | .div _ _ _ _ | .divImm _ _ _ _ | .divn _ _ _ _ | .divnImm _ _ _ _ | .rem _ _ _ _
  | .remImm _ _ _ _ | .remn _ _ _ _ | .remnImm _ _ _ _ | .and _ _ _ _ | .andImm _ _ _ _ | .or _ _ _ _
  | .orImm _ _ _ _ | .xor _ _ _ _ | .xorImm _ _ _ _ | .andn _ _ _ _ | .andnImm _ _ _ _ | .shl _ _ _ _
  | .shlImm _ _ _ _ | .shr _ _ _ _ | .shrImm _ _ _ _ | .sar _ _ _ _ | .sarImm _ _ _ _ | .min _ _ _ _
  | .minImm _ _ _ _ | .minn _ _ _ _ | .minnImm _ _ _ _ | .max _ _ _ _ | .maxImm _ _ _ _ | .maxn _ _ _ _
  | .maxnImm _ _ _ _ | .clz _ _ _ | .clzImm _ _ _ | .popc _ _ _ | .popcImm _ _ _ | .sext _ _ _ _
  | .sextImm _ _ _ _ | .zext _ _ _ _ | .zextImm _ _ _ _ | .li _ _ _ | .lui _ _ _ _ | .sel _ _ _ _ _
  | .setp _ _ _ _ _ | .setpi _ _ _ _ _ | .plog _ _ _ _ _ | .brx _ _ | .ret _ | .tend _
  | .yield _ | .nop _ | .waitch _ | .recv _ _ _ | .sendqReg _ _ _ _ | .ld _ _ _ _ _
  | .st _ _ _ _ _ | .ldg _ _ _ _ _ _ _ | .stg _ _ _ _ _ _ _ | .atomgAdd _ _ _ _ _ _ _ | .atomgMin _ _ _ _ _ _ _ | .atomgMax _ _ _ _ _ _ _
  | .atomgMinn _ _ _ _ _ _ _ | .atomgMaxn _ _ _ _ _ _ _ | .atomgAnd _ _ _ _ _ _ _ | .atomgOr _ _ _ _ _ _ _ | .atomgXor _ _ _ _ _ _ _ | .atomgXchg _ _ _ _ _ _ _
  | .atomgCas _ _ _ _ _ _ _ _ | .tallocReg _ _ _ | .tseal _ _ | .tstat _ _ _ | .tload _ _ _ _ _ _ | .tstore _ _ _ _ _ _
  | .send _ _ _ _ _ _ _ | .copym _ _ _ _ _ | .run _ _ _ | .rstopSafe _ _ | .rstopNow _ _ | .rswap _ _ _
  | .resume _ _ | .glaunch _ _ | .wait _ _ | .waitt _ _ _ | .fenceAcq _ _ | .fenceRel _ _
  | .fenceAr _ _ | .fenceOrd _ _ | .gjoin _ _ | .gleave _ _ | .garr _ _ _ | .gwait _ _ _
  | .safept _ _ _ _ | .trap _ _ | .eret _ | .fwcall _ _ _ _ | .rdts _ _ | .crd _ _ _
  | .cwr _ _ _ | .cinvCfg _ _ _ | .cinvCode _ _ _ | .iload _ _ _ | .contextCreate _ _ | .kilnGeneratedKey _
  | .ringSetChange _ _ | .taskSwitchRequest _ _ | .throttleRelease _ _ | .migrateRearm _ _ _ | .thresholdSet _ | .heldRequestFirmwareRelease _ _ => true

end Sys2Proof
end

