-- ==== Sys2Proof/Decode.lean ====
section
/-! DEFINITION. Decode: sequencer words and frames to instructions, total and rejecting by name, and the encoder from the same tables (R90 to R112). -/
namespace Sys2Proof

/-- Why an encoding is rejected. -/
inductive Reject
  | zeroWord          -- R109: the all-zero word
  | badMajor          -- R109: a major opcode not listed
  | nonzeroField      -- R109, R7: a field marked zero holds something else
  | reservedCode      -- R109, R106: a reserved code, sub-op or immediate value
  | badOffset         -- R109: a branch offset that is no multiple of 8
  | badAddress        -- R106: a reserved class, or an index or slot outside R90
  | badOpcode         -- R106: an unassigned opcode, or one in the wrong class
  | badCombination    -- R106: fields that do not go together (WellFormed)
deriving DecidableEq, Repr

/-! ### Codes of single fields -/

/-- R60. -/
def tyOfCode (v : BitVec 4) : Option Ty :=
  match v.toNat with
  | 0 => some .i8 | 1 => some .n8 | 2 => some .i16 | 3 => some .n16 | 4 => some .i32 | 5 => some .n32 | 6 => some .i64
  | 7 => some .b32 | 8 => some .f32 | 9 => some .f16 | 10 => some .bf16 | 11 => some .e4m3 | 12 => some .e5m2 | 13 => some .q8
  | 14 => some .q4 | _ => none

/-- R60. -/
def Ty.code : Ty → BitVec 4
  | .i8 => 0 | .n8 => 1 | .i16 => 2 | .n16 => 3 | .i32 => 4 | .n32 => 5 | .i64 => 6 | .b32 => 7 | .f32 => 8 | .f16 => 9
  | .bf16 => 10 | .e4m3 => 11 | .e5m2 => 12 | .q8 => 13 | .q4 => 14

/-- R68. -/
def rmOfCode (v : BitVec 3) : Option Rm :=
  match v.toNat with
  | 0 => some .rne | 1 => some .rtz | 2 => some .rdn | 3 => some .rup | 4 => some .rna | _ => none

/-- R68. -/
def Rm.code : Rm → BitVec 3
  | .rne => 0 | .rtz => 1 | .rdn => 2 | .rup => 3 | .rna => 4

/-- R97. -/
def stopOfCode (v : BitVec 4) : Option StopAct :=
  match v.toNat with
  | 0 => some .forward | 1 => some .drop | 2 => some .raise | 3 => some .lower | _ => none

/-- R97. -/
def StopAct.code : StopAct → BitVec 4
  | .forward => 0 | .drop => 1 | .raise => 2 | .lower => 3

/-- R96. -/
def srcOfCode (v : BitVec 6) : Option Src :=
  let n := v.toNat
  if h : n < 32 then some (.pa ⟨n, h⟩)
  else if h : n - 32 < 16 then some (.sl ⟨n - 32, h⟩)
  else if h : n - 48 < 6 then some (.st ⟨n - 48, h⟩)
  else if n = 0x36 then some .imm
  else if n = 0x37 then some .zero
  else if h : n - 0x38 < 4 then some (.arg ⟨n - 0x38, h⟩)
  else if n = 0x3F then some .unused
  else none

/-- R96. -/
def Src.code : Src → BitVec 6
  | .pa n => BitVec.ofNat 6 n.val
  | .sl n => BitVec.ofNat 6 (32 + n.val)
  | .st n => BitVec.ofNat 6 (48 + n.val)
  | .imm => 0x36
  | .zero => 0x37
  | .arg n => BitVec.ofNat 6 (0x38 + n.val)
  | .unused => 0x3F

/-- R97. -/
def dstOfCode (v : BitVec 7) : Option Dst :=
  let n := v.toNat
  if h : n < 32 then some (.pa ⟨n, h⟩)
  else if h : n - 32 < 16 then some (.sl ⟨n - 32, h⟩)
  else if h : n - 48 < 6 then some (.st ⟨n - 48, h⟩)
  else if n < 0x40 then none
  else if h : n - 0x40 < 8 then some (.q ⟨n - 0x40, h⟩)
  else if n = 0x7F then some .none
  else none

/-- R97. -/
def Dst.code : Dst → BitVec 7
  | .pa n => BitVec.ofNat 7 n.val
  | .sl n => BitVec.ofNat 7 (32 + n.val)
  | .st n => BitVec.ofNat 7 (48 + n.val)
  | .q n => BitVec.ofNat 7 (0x40 + n.val)
  | .none => 0x7F

/-- R98. -/
def psrcOfCode (v : BitVec 6) : Option PSrc :=
  let n := v.toNat
  if h : n < 32 then some (.pp ⟨n, h⟩)
  else if h : n - 32 < 16 then some (.pl ⟨n - 32, h⟩)
  else if h : n - 48 < 6 then some (.ps ⟨n - 48, h⟩)
  else if n = 0x3F then some .none
  else none

/-- R98. -/
def PSrc.code : PSrc → BitVec 6
  | .pp n => BitVec.ofNat 6 n.val
  | .pl n => BitVec.ofNat 6 (32 + n.val)
  | .ps n => BitVec.ofNat 6 (48 + n.val)
  | .none => 0x3F

/-- R98. -/
def pdstOfCode (v : BitVec 7) : Option PDst :=
  let n := v.toNat
  if h : n < 32 then some (.pp ⟨n, h⟩)
  else if h : n - 32 < 16 then some (.pl ⟨n - 32, h⟩)
  else if h : n - 48 < 6 then some (.ps ⟨n - 48, h⟩)
  else if n < 0x40 then none
  else if h : n - 0x40 < 8 then some (.q ⟨n - 0x40, h⟩)
  else if n = 0x7F then some .none
  else none

/-- R98. -/
def PDst.code : PDst → BitVec 7
  | .pp n => BitVec.ofNat 7 n.val
  | .pl n => BitVec.ofNat 7 (32 + n.val)
  | .ps n => BitVec.ofNat 7 (48 + n.val)
  | .q n => BitVec.ofNat 7 (0x40 + n.val)
  | .none => 0x7F

/-- R104. -/
def sndstOfCode (v : BitVec 7) : Option SNDst :=
  let n := v.toNat
  if h : n < 8 then some (.here ⟨n, h⟩)
  else if n < 0x10 then none
  else if h : n - 0x10 < 8 then some (.next ⟨n - 0x10, h⟩)
  else if n < 0x40 then none
  else if h : n - 0x40 < 8 then some (.q ⟨n - 0x40, h⟩)
  else if n = 0x7F then some .none
  else none

/-- R104. -/
def SNDst.code : SNDst → BitVec 7
  | .here n => BitVec.ofNat 7 n.val
  | .next n => BitVec.ofNat 7 (0x10 + n.val)
  | .q n => BitVec.ofNat 7 (0x40 + n.val)
  | .none => 0x7F

/-- R99. -/
def scopeOfCode (v : BitVec 2) : Scope :=
  if v = 0 then .run else if v = 1 then .die else if v = 2 then .dev else .sys

/-- R99. -/
def Scope.code : Scope → BitVec 2
  | .run => 0 | .die => 1 | .dev => 2 | .sys => 3

/-- R101. -/
def agModeOfCode (v : BitVec 4) : Option AGMode :=
  match v.toNat with
  | 0 => some .off | 1 => some .affine | 2 => some .indir | 3 => some .wrap | _ => none

/-- R101. -/
def AGMode.code : AGMode → BitVec 4
  | .off => 0 | .affine => 1 | .indir => 2 | .wrap => 3

/-- R111. -/
def condOfCode (v : BitVec 5) : Option Cond :=
  match v.toNat with
  | 0 => some .eq | 1 => some .ne | 2 => some .lt | 3 => some .le | 4 => some .gt | 5 => some .ge | 6 => some .ltn
  | 7 => some .len | 8 => some .gtn | 9 => some .gen | _ => none

/-- R111. -/
def Cond.code : Cond → BitVec 5
  | .eq => 0 | .ne => 1 | .lt => 2 | .le => 3 | .gt => 4 | .ge => 5 | .ltn => 6 | .len => 7 | .gtn => 8 | .gen => 9

/-- R111. -/
def sizeOfCode (v : BitVec 2) : Size :=
  if v = 0 then .b else if v = 1 then .h else if v = 2 then .w else .d

/-- R111. -/
def Size.code : Size → BitVec 2
  | .b => 0 | .h => 1 | .w => 2 | .d => 3

/-- R111: fn[2] is the sign and fn[1:0] the size; sign with D is reserved. -/
def loadSizeOfCode (v : BitVec 3) : Option LoadSize :=
  match v.toNat with
  | 0 => some .b | 1 => some .h | 2 => some .w | 3 => some .d | 4 => some .bs | 5 => some .hs | 6 => some .ws | _ => none

/-- R111. -/
def LoadSize.code : LoadSize → BitVec 3
  | .b => 0 | .h => 1 | .w => 2 | .d => 3 | .bs => 4 | .hs => 5 | .ws => 6

/-- R111: the orders LDG accepts. -/
def ldOrderOfCode (v : BitVec 3) : Option LdOrder :=
  match v.toNat with | 0 => some .rlx | 1 => some .acq | 4 => some .ord | _ => none

/-- R111. -/
def LdOrder.code : LdOrder → BitVec 3
  | .rlx => 0 | .acq => 1 | .ord => 4

/-- R111: the orders STG accepts. -/
def stOrderOfCode (v : BitVec 3) : Option StOrder :=
  match v.toNat with | 0 => some .rlx | 2 => some .rel | 4 => some .ord | _ => none

/-- R111. -/
def StOrder.code : StOrder → BitVec 3
  | .rlx => 0 | .rel => 2 | .ord => 4

/-- R111: the orders ATOMG accepts. -/
def orderOfCode (v : BitVec 3) : Option Order :=
  match v.toNat with | 0 => some .rlx | 1 => some .acq | 2 => some .rel | 3 => some .ar | 4 => some .ord | _ => none

/-- R111. -/
def Order.code : Order → BitVec 3
  | .rlx => 0 | .acq => 1 | .rel => 2 | .ar => 3 | .ord => 4

/-- R111: scope 0 is reserved in sequencer words. -/
def sscopeOfCode (v : BitVec 2) : Option SScope :=
  if v = 1 then some .die else if v = 2 then some .dev else if v = 3 then some .sys else none

/-- R111. -/
def SScope.code : SScope → BitVec 2
  | .die => 1 | .dev => 2 | .sys => 3

/-- R111: SENDQ's kind, with the level in imm32 [18:16]. -/
def sendKindOf (k : BitVec 3) (lv : BitVec 3) : Option SendKind :=
  match k.toNat with
  | 0 => if lv = 0 then some .data else none
  | 1 => if h : lv.toNat - 1 < 7 then (if lv = 0 then none else some (.stop ⟨lv.toNat - 1, h⟩)) else none
  | 4 => if lv = 0 then some .safe else none
  | 5 => if lv = 0 then some .mark else none
  | _ => none

/-- R111. -/
def SendKind.code : SendKind → BitVec 3
  | .data => 0 | .stop _ => 1 | .safe => 4 | .mark => 5

/-- R111: the STOP level of a SENDQ, 0 for the other kinds. -/
def SendKind.level : SendKind → BitVec 3
  | .stop l => BitVec.ofNat 3 (l.val + 1)
  | .data | .safe | .mark => 0

/-- R114: the control registers CRD reads. -/
def cregOfCode (v : BitVec 10) : Option CReg :=
  match v.toNat with
  | 0 => some .entry | 1 => some .hvec | 2 => some .epc | 3 => some .safegap | 4 => some .frec0 | 5 => some .frec1
  | 6 => some .frec2 | 7 => some .frec3 | 8 => some .taskid | 9 => some .partition | 10 => some .counters | 11 => some .spcount
  | _ => none

/-- R114. -/
def CReg.code : CReg → BitVec 10
  | .entry => 0 | .hvec => 1 | .epc => 2 | .safegap => 3 | .frec0 => 4 | .frec1 => 5 | .frec2 => 6 | .frec3 => 7
  | .taskid => 8 | .partition => 9 | .counters => 10 | .spcount => 11

/-- R114, R278: the control registers CWR writes. -/
def cwregOfCode (v : BitVec 10) : Option CWReg :=
  match v.toNat with
  | 0 => some .entry | 1 => some .hvec | 2 => some .epc | 3 => some .safegap | _ => none

/-- R114. -/
def CWReg.code : CWReg → BitVec 10
  | .entry => 0 | .hvec => 1 | .epc => 2 | .safegap => 3

/-! ### Sequencer words (R108 to R112) -/

/-- Goes on when a check holds, and rejects by name otherwise. -/
def need {α : Type} (c : Bool) (r : Reject) (k : Except Reject α) : Except Reject α :=
  if c then k else .error r

/-- Goes on with a decoded field, and rejects it as reserved when it has no meaning. -/
def field {α β : Type} (o : Option α) (k : α → Except Reject β) : Except Reject β :=
  match o with
  | some v => k v
  | none => .error .reservedCode

/-- A register field. -/
def regOf (v : BitVec 5) : Reg := v.toFin
/-- The five bits of a register number. -/
def regBits (r : Reg) : BitVec 5 := BitVec.ofNat 5 r.val

/-- The three bits of a number below 8. -/
def bits3 (n : Fin 8) : BitVec 3 := BitVec.ofNat 3 n.val

/-- A predicate field: bits [4:3] must be zero (R108). -/
def predOf (v : BitVec 5) : Option Pred := if h : v.toNat < 8 then some ⟨v.toNat, h⟩ else none
/-- The five bits of a predicate field. -/
def predBits (p : Pred) : BitVec 5 := BitVec.ofNat 5 p.val

/-- The register-form ALU instruction of a code (R111); CLZ and POPC are apart. -/
def aluOf (code : Nat) : Option (Guard → Reg → Reg → Reg → Instr) :=
  match code with
  | 0 => some .add | 1 => some .sub | 2 => some .mul | 3 => some .mulh | 4 => some .mulhn | 5 => some .div | 6 => some .divn
  | 7 => some .rem | 8 => some .remn | 9 => some .and | 10 => some .or | 11 => some .xor | 12 => some .andn | 13 => some .shl
  | 14 => some .shr | 15 => some .sar | 16 => some .min | 17 => some .minn | 18 => some .max | 19 => some .maxn
  | 22 => some .sext | 23 => some .zext | _ => none

/-- The immediate-form ALU instruction of a code (R111). -/
def aluImmOf (code : Nat) : Option (Guard → Reg → Reg → BitVec 32 → Instr) :=
  match code with
  | 0 => some .addImm | 1 => some .subImm | 2 => some .mulImm | 3 => some .mulhImm | 4 => some .mulhnImm | 5 => some .divImm
  | 6 => some .divnImm | 7 => some .remImm | 8 => some .remnImm | 9 => some .andImm | 10 => some .orImm | 11 => some .xorImm
  | 12 => some .andnImm | 13 => some .shlImm | 14 => some .shrImm | 15 => some .sarImm | 16 => some .minImm | 17 => some .minnImm
  | 18 => some .maxImm | 19 => some .maxnImm | 22 => some .sextImm | 23 => some .zextImm | _ => none

/-- The ATOMG instruction of an op code 0 to 8 (R111); CAS is apart. -/
def atomOf (code : Nat) : Option (Guard → ASize → Order → SScope → Reg → Reg → Reg → Instr) :=
  match code with
  | 0 => some .atomgAdd | 1 => some .atomgMin | 2 => some .atomgMax | 3 => some .atomgMinn | 4 => some .atomgMaxn
  | 5 => some .atomgAnd | 6 => some .atomgOr | 7 => some .atomgXor | 8 => some .atomgXchg | _ => none

/-- The transfer word of TXFER (R112). -/
def txWordOf (v : BitVec 32) : Option TxWord :=
  if h : (v.extractLsb' 3 3).toNat < 6 ∧ (v.extractLsb' 0 3).toNat < 6 then
    some { level := v.getLsbD 20, count := v.extractLsb' 12 8, mode := v.extractLsb' 10 2, slot := (v.extractLsb' 7 3).toFin
           valid := v.getLsbD 6, dstDie := ⟨(v.extractLsb' 3 3).toNat, h.1⟩, srcDie := ⟨(v.extractLsb' 0 3).toNat, h.2⟩ }
  else none

/-- The transfer word's bits (R112). -/
def TxWord.bits (x : TxWord) : BitVec 32 :=
  (0 : BitVec 11) ++ BitVec.ofBool x.level ++ x.count ++ x.mode ++ bits3 x.slot ++ BitVec.ofBool x.valid
    ++ BitVec.ofNat 3 x.dstDie.val ++ BitVec.ofNat 3 x.srcDie.val

/-- The WAIT fields (R50). -/
def waitOf (v : BitVec 32) : WaitFields :=
  { ld := v.extractLsb' 25 5, st := v.extractLsb' 20 5, dr := v.extractLsb' 15 5, sr := v.extractLsb' 10 5
    sv := v.extractLsb' 5 5, rn := v.extractLsb' 0 5 }

/-- The fields of a sequencer word (R108). -/
structure SeqFields where
  major : BitVec 8
  guard : Guard
  d     : BitVec 5
  a     : BitVec 5
  b     : BitVec 5
  fn    : BitVec 5
  imm   : BitVec 32
deriving DecidableEq, Repr

/-- Cuts a sequencer word into its fields (R108). -/
def seqFields (w : BitVec 64) : SeqFields :=
  { major := w.extractLsb' 56 8, guard := ⟨w.getLsbD 55, (w.extractLsb' 52 3).toFin⟩, d := w.extractLsb' 47 5
    a := w.extractLsb' 42 5, b := w.extractLsb' 37 5, fn := w.extractLsb' 32 5, imm := w.extractLsb' 0 32 }

/-- Joins the fields of a sequencer word (R108). -/
def SeqFields.word (f : SeqFields) : BitVec 64 :=
  f.major ++ BitVec.ofBool f.guard.sense ++ bits3 f.guard.p ++ f.d ++ f.a ++ f.b ++ f.fn ++ f.imm

/-- Reads the fields of R110 by major opcode. -/
def decodeFields (f : SeqFields) : Except Reject Instr :=
  let g := f.guard
  let d := regOf f.d
  let a := regOf f.a
  let b := regOf f.b
  let c := regOf (f.imm.extractLsb' 27 5)
  let z (x : Bool) (i : Instr) : Except Reject Instr := need x .nonzeroField (.ok i)
  let i0 : Bool := f.imm == 0
  let d0 : Bool := f.d == 0
  let a0 : Bool := f.a == 0
  let b0 : Bool := f.b == 0
  let f0 : Bool := f.fn == 0
  let sub : BitVec 10 := f.b ++ f.fn
  let off (i : Instr) : Except Reject Instr := need (offWf f.imm) .badOffset (.ok i)
  match f.major.toNat with
  | 0x01 =>
    need i0 .nonzeroField <|
    if f.fn = 20 then z b0 (.clz g d a)
    else if f.fn = 21 then z b0 (.popc g d a)
    else field (aluOf f.fn.toNat) fun op => .ok (op g d a b)
  | 0x02 =>
    need b0 .nonzeroField <|
    if f.fn = 20 then need i0 .reservedCode (.ok (.clzImm g d a))
    else if f.fn = 21 then need i0 .reservedCode (.ok (.popcImm g d a))
    else field (aluImmOf f.fn.toNat) fun op => .ok (op g d a f.imm)
  | 0x03 => z (a0 && b0 && f0) (.li g d f.imm)
  | 0x04 => z (b0 && f0) (.lui g d a f.imm)
  | 0x05 => need i0 .nonzeroField <| field (predOf f.fn) fun p => .ok (.sel g d a b p)
  | 0x08 => need i0 .nonzeroField <| field (condOfCode f.fn) fun cc => field (predOf f.d) fun p => .ok (.setp g cc p a b)
  | 0x09 => need b0 .nonzeroField <| field (condOfCode f.fn) fun cc => field (predOf f.d) fun p => .ok (.setpi g cc p a f.imm)
  | 0x0A =>
    need (i0 && f.fn.getLsbD 4 == false) .nonzeroField <|
    field (predOf f.d) fun p => field (predOf f.a) fun pa => field (predOf f.b) fun pb =>
    .ok (.plog g p pa pb (f.fn.extractLsb' 0 4))
  | 0x10 => need (d0 && a0 && b0 && f0) .nonzeroField (off (.br g f.imm))
  | 0x11 => z (d0 && b0 && f0 && i0) (.brx g a)
  | 0x12 => need (d0 && a0 && b0 && f0) .nonzeroField (off (.call g f.imm))
  | 0x13 => z (d0 && a0 && b0 && f0 && i0) (.ret g)
  | 0x14 => need (a0 && b0 && f0) .nonzeroField <| need (!d0) .reservedCode (off (.loop g d f.imm))
  | 0x15 => z (d0 && a0 && b0 && f0 && i0) (.tend g)
  | 0x16 => z (d0 && a0 && b0 && f0 && i0) (.yield g)
  | 0x17 => z (d0 && a0 && b0 && f0 && i0) (.nop g)
  | 0x18 => z (d0 && a0 && b0 && f0 && i0) (.waitch g)
  | 0x19 => z (b0 && f0 && i0) (.recv g d a)
  | 0x1A =>
    need (d0 && f.fn.getLsbD 4 == false && f.imm.extractLsb' 19 13 == 0) .nonzeroField <|
    field (sendKindOf (f.fn.extractLsb' 1 3) (f.imm.extractLsb' 16 3)) fun k =>
    if f.fn.getLsbD 0 then z (f.imm.extractLsb' 0 16 == 0) (.sendqReg g k a b)
    else need b0 .nonzeroField <|
      need (endpointWf (f.imm.extractLsb' 0 16)) .reservedCode (.ok (.sendq g k a (f.imm.extractLsb' 0 16)))
  | 0x20 =>
    need (b0 && f.fn.extractLsb' 3 2 == 0) .nonzeroField <|
    field (loadSizeOfCode (f.fn.extractLsb' 0 3)) fun sz => .ok (.ld g sz d a f.imm)
  | 0x21 => z (b0 && f.fn.extractLsb' 2 3 == 0) (.st g (sizeOfCode (f.fn.extractLsb' 0 2)) d a f.imm)
  | 0x28 =>
    need (f.fn.extractLsb' 3 2 == 0) .nonzeroField <|
    field (loadSizeOfCode (f.fn.extractLsb' 0 3)) fun sz => field (ldOrderOfCode (f.b.extractLsb' 0 3)) fun o =>
    field (sscopeOfCode (f.b.extractLsb' 3 2)) fun sc => .ok (.ldg g sz o sc d a f.imm)
  | 0x29 =>
    need (f.fn.extractLsb' 2 3 == 0) .nonzeroField <|
    field (stOrderOfCode (f.b.extractLsb' 0 3)) fun o => field (sscopeOfCode (f.b.extractLsb' 3 2)) fun sc =>
    .ok (.stg g (sizeOfCode (f.fn.extractLsb' 0 2)) o sc d a f.imm)
  | 0x2A =>
    need (f.imm.extractLsb' 5 22 == 0) .nonzeroField <|
    let sz : ASize := if f.fn.getLsbD 4 then .d else .w
    field (orderOfCode (f.imm.extractLsb' 0 3)) fun o => field (sscopeOfCode (f.imm.extractLsb' 3 2)) fun sc =>
    if f.fn.extractLsb' 0 4 = 9 then .ok (.atomgCas g sz o sc d a b c)
    else field (atomOf (f.fn.extractLsb' 0 4).toNat) fun op => z (f.imm.extractLsb' 27 5 == 0) (op g sz o sc d a b)
  | 0x30 =>
    need (b0 && f.fn.extractLsb' 1 4 == 0) .nonzeroField <|
    if f.fn.getLsbD 0 then z i0 (.tallocReg g d a)
    else need (a0 && f.imm.extractLsb' 27 5 == 0) .nonzeroField <|
      need (descWf (f.imm.extractLsb' 0 27)) .reservedCode (.ok (.talloc g d (f.imm.extractLsb' 0 27)))
  | 0x31 => z (d0 && b0 && f0 && i0) (.tseal g a)
  | 0x32 => z (b0 && f0 && i0) (.tstat g d a)
  | 0x33 =>
    need (f.fn.extractLsb' 3 2 == 0) .nonzeroField <|
    field (loadSizeOfCode (f.fn.extractLsb' 0 3)) fun sz => .ok (.tload g sz d a b f.imm)
  | 0x34 => z (f.fn.extractLsb' 2 3 == 0) (.tstore g (sizeOfCode (f.fn.extractLsb' 0 2)) d a b f.imm)
  | 0x35 =>
    need (b0 && f0 && f.imm.extractLsb' 21 11 == 0) .nonzeroField <|
    field (txWordOf f.imm) fun x => need (x.mode != 3) .reservedCode (.ok (.txfer g d a x))
  | 0x38 =>
    need (f0 && f.imm.extractLsb' 27 5 == 0) .nonzeroField <|
    need (drawDescWf (f.imm.extractLsb' 0 27)) .reservedCode (.ok (.draw g d a b (f.imm.extractLsb' 0 27)))
  | 0x39 =>
    need (d0 && f.fn.extractLsb' 2 3 == 0) .nonzeroField <|
    need (drawDescWf (f.imm.extractLsb' 0 27)) .reservedCode
      (.ok (.draws g a b c (f.fn.extractLsb' 0 2).toFin (f.imm.extractLsb' 0 27)))
  | 0x3A =>
    need (d0 && f0 && f.imm.extractLsb' 6 21 == 0) .nonzeroField <|
    field (sscopeOfCode (f.imm.extractLsb' 0 2)) fun sc =>
    .ok (.send g a b c (f.imm.extractLsb' 3 3).toFin (f.imm.getLsbD 2) sc)
  | 0x3B =>
    need (d0 && f0 && f.imm.extractLsb' 2 25 == 0) .nonzeroField <|
    field (sscopeOfCode (f.imm.extractLsb' 0 2)) fun sc => .ok (.copym g a b c sc)
  | 0x40 => z (b0 && f0 && i0) (.run g d a)
  | 0x41 =>
    need (d0 && b0 && f.fn.extractLsb' 1 4 == 0 && i0) .nonzeroField
      (.ok (if f.fn.getLsbD 0 then .rstopNow g a else .rstopSafe g a))
  | 0x42 => z (d0 && f0 && i0) (.rswap g a b)
  | 0x43 => z (d0 && b0 && f0 && i0) (.resume g a)
  | 0x44 => z (d0 && b0 && f0 && i0) (.glaunch g a)
  | 0x48 => z (d0 && a0 && b0 && f0 && f.imm.extractLsb' 30 2 == 0) (.wait g (waitOf f.imm))
  | 0x49 =>
    need (d0 && b0 && f0 && f.imm.extractLsb' 3 29 == 0) .nonzeroField <|
    if h : (f.imm.extractLsb' 0 3).toNat < 5 then .ok (.waitt g a ⟨(f.imm.extractLsb' 0 3).toNat, h⟩) else .error .reservedCode
  | 0x4A =>
    need (d0 && a0 && b0 && f.fn.getLsbD 4 == false && i0) .nonzeroField <|
    field (sscopeOfCode (f.fn.extractLsb' 0 2)) fun sc =>
    .ok (if f.fn.extractLsb' 2 2 = 0 then .fenceAcq g sc else if f.fn.extractLsb' 2 2 = 1 then .fenceRel g sc
         else if f.fn.extractLsb' 2 2 = 2 then .fenceAr g sc else .fenceOrd g sc)
  | 0x4B => z (d0 && b0 && f0 && i0) (.gjoin g a)
  | 0x4C => z (d0 && b0 && f0 && i0) (.gleave g a)
  | 0x4D => z (b0 && f0 && i0) (.garr g d a)
  | 0x4E => z (d0 && f0 && i0) (.gwait g a b)
  | 0x50 =>
    let stub : BitVec 13 := f.d ++ f.a ++ f.b.extractLsb' 2 3
    let preds : BitVec 7 := f.b.extractLsb' 0 2 ++ f.fn
    if f.imm.getLsbD 0 then .ok (.safept g (f.imm.extractLsb' 1 31) preds (some stub))
    else z (stub == 0) (.safept g (f.imm.extractLsb' 1 31) preds none)
  | 0x51 => z (d0 && a0 && b0 && f0) (.trap g f.imm)
  | 0x52 => z (d0 && a0 && b0 && f0 && i0) (.eret g)
  | 0x53 => z (b0 && f0 && f.imm.extractLsb' 16 16 == 0) (.fwcall g d a (f.imm.extractLsb' 0 16))
  | 0x54 => z (a0 && b0 && f0 && i0) (.rdts g d)
  | 0x55 => need (a0 && i0) .nonzeroField <| field (cregOfCode sub) fun cr => .ok (.crd g d cr)
  | 0x56 => need (d0 && i0) .nonzeroField <| field (cwregOfCode sub) fun cr => .ok (.cwr g cr a)
  | 0x57 =>
    need (d0 && f.fn.extractLsb' 1 4 == 0 && i0) .nonzeroField
      (.ok (if f.fn.getLsbD 0 then .cinvCode g a b else .cinvCfg g a b))
  | 0x58 =>
    need (d0 && b0 && f0 && f.imm.extractLsb' 16 16 == 0) .nonzeroField <|
    need (f.imm.extractLsb' 0 3 == 0) .reservedCode (.ok (.iload g a (f.imm.extractLsb' 3 13)))
  | _ => .error .badMajor

/-- Decodes a sequencer word; every rejection is an ILLOP (R109). -/
def decodeSeq (w : BitVec 64) : Except Reject Instr :=
  if w = 0 then .error .zeroWord else decodeFields (seqFields w)

/-- A sequencer word from its fields (R108). -/
def seqWord (major : BitVec 8) (g : Guard) (d a b fn : BitVec 5) (imm : BitVec 32) : BitVec 64 :=
  SeqFields.word ⟨major, g, d, a, b, fn, imm⟩

/-- The size bit of an ATOMG (R111). -/
def ASize.bit : ASize → BitVec 1
  | .w => 0 | .d => 1

/-- The word of a sequencer instruction (R108 to R112); the other agents' steps have none. -/
def encodeSeq : Instr → Option (BitVec 64)
  | .add g d a b => some (seqWord 0x01 g (regBits d) (regBits a) (regBits b) (0) (0))
  | .addImm g d a imm => some (seqWord 0x02 g (regBits d) (regBits a) (0) (0) (imm))
  | .sub g d a b => some (seqWord 0x01 g (regBits d) (regBits a) (regBits b) (1) (0))
  | .subImm g d a imm => some (seqWord 0x02 g (regBits d) (regBits a) (0) (1) (imm))
  | .mul g d a b => some (seqWord 0x01 g (regBits d) (regBits a) (regBits b) (2) (0))
  | .mulImm g d a imm => some (seqWord 0x02 g (regBits d) (regBits a) (0) (2) (imm))
  | .mulh g d a b => some (seqWord 0x01 g (regBits d) (regBits a) (regBits b) (3) (0))
  | .mulhImm g d a imm => some (seqWord 0x02 g (regBits d) (regBits a) (0) (3) (imm))
  | .mulhn g d a b => some (seqWord 0x01 g (regBits d) (regBits a) (regBits b) (4) (0))
  | .mulhnImm g d a imm => some (seqWord 0x02 g (regBits d) (regBits a) (0) (4) (imm))
  | .div g d a b => some (seqWord 0x01 g (regBits d) (regBits a) (regBits b) (5) (0))
  | .divImm g d a imm => some (seqWord 0x02 g (regBits d) (regBits a) (0) (5) (imm))
  | .divn g d a b => some (seqWord 0x01 g (regBits d) (regBits a) (regBits b) (6) (0))
  | .divnImm g d a imm => some (seqWord 0x02 g (regBits d) (regBits a) (0) (6) (imm))
  | .rem g d a b => some (seqWord 0x01 g (regBits d) (regBits a) (regBits b) (7) (0))
  | .remImm g d a imm => some (seqWord 0x02 g (regBits d) (regBits a) (0) (7) (imm))
  | .remn g d a b => some (seqWord 0x01 g (regBits d) (regBits a) (regBits b) (8) (0))
  | .remnImm g d a imm => some (seqWord 0x02 g (regBits d) (regBits a) (0) (8) (imm))
  | .and g d a b => some (seqWord 0x01 g (regBits d) (regBits a) (regBits b) (9) (0))
  | .andImm g d a imm => some (seqWord 0x02 g (regBits d) (regBits a) (0) (9) (imm))
  | .or g d a b => some (seqWord 0x01 g (regBits d) (regBits a) (regBits b) (10) (0))
  | .orImm g d a imm => some (seqWord 0x02 g (regBits d) (regBits a) (0) (10) (imm))
  | .xor g d a b => some (seqWord 0x01 g (regBits d) (regBits a) (regBits b) (11) (0))
  | .xorImm g d a imm => some (seqWord 0x02 g (regBits d) (regBits a) (0) (11) (imm))
  | .andn g d a b => some (seqWord 0x01 g (regBits d) (regBits a) (regBits b) (12) (0))
  | .andnImm g d a imm => some (seqWord 0x02 g (regBits d) (regBits a) (0) (12) (imm))
  | .shl g d a b => some (seqWord 0x01 g (regBits d) (regBits a) (regBits b) (13) (0))
  | .shlImm g d a imm => some (seqWord 0x02 g (regBits d) (regBits a) (0) (13) (imm))
  | .shr g d a b => some (seqWord 0x01 g (regBits d) (regBits a) (regBits b) (14) (0))
  | .shrImm g d a imm => some (seqWord 0x02 g (regBits d) (regBits a) (0) (14) (imm))
  | .sar g d a b => some (seqWord 0x01 g (regBits d) (regBits a) (regBits b) (15) (0))
  | .sarImm g d a imm => some (seqWord 0x02 g (regBits d) (regBits a) (0) (15) (imm))
  | .min g d a b => some (seqWord 0x01 g (regBits d) (regBits a) (regBits b) (16) (0))
  | .minImm g d a imm => some (seqWord 0x02 g (regBits d) (regBits a) (0) (16) (imm))
  | .minn g d a b => some (seqWord 0x01 g (regBits d) (regBits a) (regBits b) (17) (0))
  | .minnImm g d a imm => some (seqWord 0x02 g (regBits d) (regBits a) (0) (17) (imm))
  | .max g d a b => some (seqWord 0x01 g (regBits d) (regBits a) (regBits b) (18) (0))
  | .maxImm g d a imm => some (seqWord 0x02 g (regBits d) (regBits a) (0) (18) (imm))
  | .maxn g d a b => some (seqWord 0x01 g (regBits d) (regBits a) (regBits b) (19) (0))
  | .maxnImm g d a imm => some (seqWord 0x02 g (regBits d) (regBits a) (0) (19) (imm))
  | .clz g d a => some (seqWord 0x01 g (regBits d) (regBits a) (0) (20) (0))
  | .clzImm g d a => some (seqWord 0x02 g (regBits d) (regBits a) (0) (20) (0))
  | .popc g d a => some (seqWord 0x01 g (regBits d) (regBits a) (0) (21) (0))
  | .popcImm g d a => some (seqWord 0x02 g (regBits d) (regBits a) (0) (21) (0))
  | .sext g d a b => some (seqWord 0x01 g (regBits d) (regBits a) (regBits b) (22) (0))
  | .sextImm g d a imm => some (seqWord 0x02 g (regBits d) (regBits a) (0) (22) (imm))
  | .zext g d a b => some (seqWord 0x01 g (regBits d) (regBits a) (regBits b) (23) (0))
  | .zextImm g d a imm => some (seqWord 0x02 g (regBits d) (regBits a) (0) (23) (imm))
  | .li g d imm => some (seqWord 0x03 g (regBits d) (0) (0) (0) (imm))
  | .lui g d a imm => some (seqWord 0x04 g (regBits d) (regBits a) (0) (0) (imm))
  | .sel g d a b p => some (seqWord 0x05 g (regBits d) (regBits a) (regBits b) (predBits p) (0))
  | .setp g cc p a b => some (seqWord 0x08 g (predBits p) (regBits a) (regBits b) (cc.code) (0))
  | .setpi g cc p a imm => some (seqWord 0x09 g (predBits p) (regBits a) (0) (cc.code) (imm))
  | .plog g p pa pb t => some (seqWord 0x0A g (predBits p) (predBits pa) (predBits pb) ((0 : BitVec 1) ++ t) (0))
  | .br g o => some (seqWord 0x10 g (0) (0) (0) (0) (o))
  | .brx g a => some (seqWord 0x11 g (0) (regBits a) (0) (0) (0))
  | .call g o => some (seqWord 0x12 g (0) (0) (0) (0) (o))
  | .ret g => some (seqWord 0x13 g (0) (0) (0) (0) (0))
  | .loop g d o => some (seqWord 0x14 g (regBits d) (0) (0) (0) (o))
  | .tend g => some (seqWord 0x15 g (0) (0) (0) (0) (0))
  | .yield g => some (seqWord 0x16 g (0) (0) (0) (0) (0))
  | .nop g => some (seqWord 0x17 g (0) (0) (0) (0) (0))
  | .waitch g => some (seqWord 0x18 g (0) (0) (0) (0) (0))
  | .recv g d e => some (seqWord 0x19 g (regBits d) (regBits e) (0) (0) (0))
  | .sendq g k a e => some (seqWord 0x1A g (0) (regBits a) (0) ((0 : BitVec 1) ++ k.code ++ (0 : BitVec 1)) ((0 : BitVec 13) ++ k.level ++ e))
  | .sendqReg g k a b => some (seqWord 0x1A g (0) (regBits a) (regBits b) ((0 : BitVec 1) ++ k.code ++ (1 : BitVec 1)) ((0 : BitVec 13) ++ k.level ++ (0 : BitVec 16)))
  | .ld g sz d a imm => some (seqWord 0x20 g (regBits d) (regBits a) (0) ((0 : BitVec 2) ++ sz.code) (imm))
  | .st g sz d a imm => some (seqWord 0x21 g (regBits d) (regBits a) (0) ((0 : BitVec 3) ++ sz.code) (imm))
  | .ldg g sz o sc d a imm => some (seqWord 0x28 g (regBits d) (regBits a) (sc.code ++ o.code) ((0 : BitVec 2) ++ sz.code) (imm))
  | .stg g sz o sc d a imm => some (seqWord 0x29 g (regBits d) (regBits a) (sc.code ++ o.code) ((0 : BitVec 3) ++ sz.code) (imm))
  | .atomgAdd g sz o sc d a b => some (seqWord 0x2A g (regBits d) (regBits a) (regBits b) (sz.bit ++ (0 : BitVec 4)) ((0 : BitVec 27) ++ sc.code ++ o.code))
  | .atomgMin g sz o sc d a b => some (seqWord 0x2A g (regBits d) (regBits a) (regBits b) (sz.bit ++ (1 : BitVec 4)) ((0 : BitVec 27) ++ sc.code ++ o.code))
  | .atomgMax g sz o sc d a b => some (seqWord 0x2A g (regBits d) (regBits a) (regBits b) (sz.bit ++ (2 : BitVec 4)) ((0 : BitVec 27) ++ sc.code ++ o.code))
  | .atomgMinn g sz o sc d a b => some (seqWord 0x2A g (regBits d) (regBits a) (regBits b) (sz.bit ++ (3 : BitVec 4)) ((0 : BitVec 27) ++ sc.code ++ o.code))
  | .atomgMaxn g sz o sc d a b => some (seqWord 0x2A g (regBits d) (regBits a) (regBits b) (sz.bit ++ (4 : BitVec 4)) ((0 : BitVec 27) ++ sc.code ++ o.code))
  | .atomgAnd g sz o sc d a b => some (seqWord 0x2A g (regBits d) (regBits a) (regBits b) (sz.bit ++ (5 : BitVec 4)) ((0 : BitVec 27) ++ sc.code ++ o.code))
  | .atomgOr g sz o sc d a b => some (seqWord 0x2A g (regBits d) (regBits a) (regBits b) (sz.bit ++ (6 : BitVec 4)) ((0 : BitVec 27) ++ sc.code ++ o.code))
  | .atomgXor g sz o sc d a b => some (seqWord 0x2A g (regBits d) (regBits a) (regBits b) (sz.bit ++ (7 : BitVec 4)) ((0 : BitVec 27) ++ sc.code ++ o.code))
  | .atomgXchg g sz o sc d a b => some (seqWord 0x2A g (regBits d) (regBits a) (regBits b) (sz.bit ++ (8 : BitVec 4)) ((0 : BitVec 27) ++ sc.code ++ o.code))
  | .atomgCas g sz o sc d a b c => some (seqWord 0x2A g (regBits d) (regBits a) (regBits b) (sz.bit ++ (9 : BitVec 4)) (regBits c ++ (0 : BitVec 22) ++ sc.code ++ o.code))
  | .talloc g d x => some (seqWord 0x30 g (regBits d) (0) (0) (0) ((0 : BitVec 5) ++ x))
  | .tallocReg g d a => some (seqWord 0x30 g (regBits d) (regBits a) (0) (1) (0))
  | .tseal g a => some (seqWord 0x31 g (0) (regBits a) (0) (0) (0))
  | .tstat g d a => some (seqWord 0x32 g (regBits d) (regBits a) (0) (0) (0))
  | .tload g sz d a b imm => some (seqWord 0x33 g (regBits d) (regBits a) (regBits b) ((0 : BitVec 2) ++ sz.code) (imm))
  | .tstore g sz d a b imm => some (seqWord 0x34 g (regBits d) (regBits a) (regBits b) ((0 : BitVec 3) ++ sz.code) (imm))
  | .txfer g d a x => some (seqWord 0x35 g (regBits d) (regBits a) (0) (0) (x.bits))
  | .draw g d a b x => some (seqWord 0x38 g (regBits d) (regBits a) (regBits b) (0) ((0 : BitVec 5) ++ x))
  | .draws g a b c dim x => some (seqWord 0x39 g (0) (regBits a) (regBits b) ((0 : BitVec 3) ++ BitVec.ofNat 2 dim.val) (regBits c ++ x))
  | .send g a b c sl v sc => some (seqWord 0x3A g (0) (regBits a) (regBits b) (0) (regBits c ++ (0 : BitVec 21) ++ bits3 sl ++ BitVec.ofBool v ++ sc.code))
  | .copym g a b c sc => some (seqWord 0x3B g (0) (regBits a) (regBits b) (0) (regBits c ++ (0 : BitVec 25) ++ sc.code))
  | .run g d a => some (seqWord 0x40 g (regBits d) (regBits a) (0) (0) (0))
  | .rstopSafe g a => some (seqWord 0x41 g (0) (regBits a) (0) (0) (0))
  | .rstopNow g a => some (seqWord 0x41 g (0) (regBits a) (0) (1) (0))
  | .rswap g a b => some (seqWord 0x42 g (0) (regBits a) (regBits b) (0) (0))
  | .resume g a => some (seqWord 0x43 g (0) (regBits a) (0) (0) (0))
  | .glaunch g a => some (seqWord 0x44 g (0) (regBits a) (0) (0) (0))
  | .wait g x => some (seqWord 0x48 g (0) (0) (0) (0) ((0 : BitVec 2) ++ x.ld ++ x.st ++ x.dr ++ x.sr ++ x.sv ++ x.rn))
  | .waitt g a s => some (seqWord 0x49 g (0) (regBits a) (0) (0) (BitVec.ofNat 32 s.val))
  | .fenceAcq g sc => some (seqWord 0x4A g (0) (0) (0) ((0 : BitVec 1) ++ (0 : BitVec 2) ++ sc.code) (0))
  | .fenceRel g sc => some (seqWord 0x4A g (0) (0) (0) ((0 : BitVec 1) ++ (1 : BitVec 2) ++ sc.code) (0))
  | .fenceAr g sc => some (seqWord 0x4A g (0) (0) (0) ((0 : BitVec 1) ++ (2 : BitVec 2) ++ sc.code) (0))
  | .fenceOrd g sc => some (seqWord 0x4A g (0) (0) (0) ((0 : BitVec 1) ++ (3 : BitVec 2) ++ sc.code) (0))
  | .gjoin g a => some (seqWord 0x4B g (0) (regBits a) (0) (0) (0))
  | .gleave g a => some (seqWord 0x4C g (0) (regBits a) (0) (0) (0))
  | .garr g d a => some (seqWord 0x4D g (regBits d) (regBits a) (0) (0) (0))
  | .gwait g a b => some (seqWord 0x4E g (0) (regBits a) (regBits b) (0) (0))
  | .safept g regs preds stub =>
    let s : BitVec 13 := stub.getD 0
    some (seqWord 0x50 g (s.extractLsb' 8 5) (s.extractLsb' 3 5) (s.extractLsb' 0 3 ++ preds.extractLsb' 5 2) (preds.extractLsb' 0 5)
      (regs ++ BitVec.ofBool stub.isSome))
  | .trap g c => some (seqWord 0x51 g (0) (0) (0) (0) (c))
  | .eret g => some (seqWord 0x52 g (0) (0) (0) (0) (0))
  | .fwcall g d a v => some (seqWord 0x53 g (regBits d) (regBits a) (0) (0) ((0 : BitVec 16) ++ v))
  | .rdts g d => some (seqWord 0x54 g (regBits d) (0) (0) (0) (0))
  | .crd g d cr => some (seqWord 0x55 g (regBits d) (0) (cr.code.extractLsb' 5 5) (cr.code.extractLsb' 0 5) (0))
  | .cwr g cr a => some (seqWord 0x56 g (0) (regBits a) (cr.code.extractLsb' 5 5) (cr.code.extractLsb' 0 5) (0))
  | .cinvCfg g a b => some (seqWord 0x57 g (0) (regBits a) (regBits b) (0) (0))
  | .cinvCode g a b => some (seqWord 0x57 g (0) (regBits a) (regBits b) (1) (0))
  | .iload g a x => some (seqWord 0x58 g (0) (regBits a) (0) (0) ((0 : BitVec 16) ++ x ++ (0 : BitVec 3)))
  | _ => none

/-- The op of a compute-cell opcode (R105). -/
def ccOf (code : Nat) : Option (CCFrame → Instr) :=
  match code with
  | 0x0 => some .pass | 0x1 => some .ccAdd | 0x2 => some .ccSub | 0x3 => some .ccMul | 0x4 => some .ccMulh
  | 0x5 => some .mad | 0x6 => some .ccMin | 0x7 => some .ccMax | 0x8 => some .absd | 0x9 => some .ccAnd
  | 0xa => some .ccOr | 0xb => some .ccXor | 0xc => some .ccAndn | 0xd => some .ccShl | 0xe => some .ccShr
  | 0xf => some .ccSar | 0x10 => some .rol | 0x11 => some .ccClz | 0x12 => some .ccPopc | 0x13 => some .cmpv
  | 0x14 => some .selv | 0x15 => some .cmpp | 0x16 => some .divi | 0x40 => some .fadd | 0x41 => some .fsub
  | 0x42 => some .fmul | 0x43 => some .fma | 0x44 => some .fmin | 0x45 => some .fmax | 0x46 => some .fdiv
  | 0x47 => some .fsqrt | 0x48 => some .frcp | 0x49 => some .frsq | 0x4a => some .fexp2 | 0x4b => some .flog2
  | 0x4c => some .ftanh | 0x4d => some .fcmpv | 0x4e => some .fcmpp | 0x4f => some .fclass | 0x80 => some .cvt
  | 0x81 => some .cvti | 0x82 => some .cvtf | 0x83 => some .qnt | 0x84 => some .dqnt | 0x85 => some .pack
  | 0x86 => some .unpk | 0xa0 => some .shuf | 0xa1 => some .lrot | 0xa2 => some .bcst | 0xa3 => some .scan
  | 0xa4 => some .red | 0xa5 => some .lidx | 0x100 => some .steer | 0x101 => some .filt | 0x102 => some .merge
  | 0x103 => some .cmerge | 0x104 => some .acc | 0x105 => some .count | 0x106 => some .gen | 0x107 => some .repl
  | 0x108 => some .levup | 0x109 => some .levdn | 0x10a => some .stopat | 0x10b => some .sink | 0x10c => some .tokp
  | 0x10d => some .ptok | 0x200 => some .lds | 0x201 => some .mma | 0x202 => some .mmaq | 0x203 => some .accz
  | 0x204 => some .accout | 0x205 => some .accin | 0x206 => some .mtrn
  | _ => none

/-- The opcode and frame of a compute-cell op (R105). -/
def ccParts : Instr → Option (BitVec 10 × CCFrame)
  | .pass f => some (0x0, f) | .ccAdd f => some (0x1, f) | .ccSub f => some (0x2, f) | .ccMul f => some (0x3, f)
  | .ccMulh f => some (0x4, f) | .mad f => some (0x5, f) | .ccMin f => some (0x6, f) | .ccMax f => some (0x7, f)
  | .absd f => some (0x8, f) | .ccAnd f => some (0x9, f) | .ccOr f => some (0xa, f) | .ccXor f => some (0xb, f)
  | .ccAndn f => some (0xc, f) | .ccShl f => some (0xd, f) | .ccShr f => some (0xe, f) | .ccSar f => some (0xf, f)
  | .rol f => some (0x10, f) | .ccClz f => some (0x11, f) | .ccPopc f => some (0x12, f) | .cmpv f => some (0x13, f)
  | .selv f => some (0x14, f) | .cmpp f => some (0x15, f) | .divi f => some (0x16, f) | .fadd f => some (0x40, f)
  | .fsub f => some (0x41, f) | .fmul f => some (0x42, f) | .fma f => some (0x43, f) | .fmin f => some (0x44, f)
  | .fmax f => some (0x45, f) | .fdiv f => some (0x46, f) | .fsqrt f => some (0x47, f) | .frcp f => some (0x48, f)
  | .frsq f => some (0x49, f) | .fexp2 f => some (0x4a, f) | .flog2 f => some (0x4b, f) | .ftanh f => some (0x4c, f)
  | .fcmpv f => some (0x4d, f) | .fcmpp f => some (0x4e, f) | .fclass f => some (0x4f, f) | .cvt f => some (0x80, f)
  | .cvti f => some (0x81, f) | .cvtf f => some (0x82, f) | .qnt f => some (0x83, f) | .dqnt f => some (0x84, f)
  | .pack f => some (0x85, f) | .unpk f => some (0x86, f) | .shuf f => some (0xa0, f) | .lrot f => some (0xa1, f)
  | .bcst f => some (0xa2, f) | .scan f => some (0xa3, f) | .red f => some (0xa4, f) | .lidx f => some (0xa5, f)
  | .steer f => some (0x100, f) | .filt f => some (0x101, f) | .merge f => some (0x102, f) | .cmerge f => some (0x103, f)
  | .acc f => some (0x104, f) | .count f => some (0x105, f) | .gen f => some (0x106, f) | .repl f => some (0x107, f)
  | .levup f => some (0x108, f) | .levdn f => some (0x109, f) | .stopat f => some (0x10a, f) | .sink f => some (0x10b, f)
  | .tokp f => some (0x10c, f) | .ptok f => some (0x10d, f) | .lds f => some (0x200, f) | .mma f => some (0x201, f)
  | .mmaq f => some (0x202, f) | .accz f => some (0x203, f) | .accout f => some (0x204, f) | .accin f => some (0x205, f)
  | .mtrn f => some (0x206, f)
  | _ => none

/-- The op of a memory-cell opcode (R105). -/
def mcOf (code : Nat) : Option (MCFrame → Instr) :=
  match code with
  | 0x300 => some .trd | 0x301 => some .twr | 0x302 => some .trdc | 0x303 => some .twrc | 0x304 => some .gath
  | 0x305 => some .scat | 0x306 => some .rmwa | 0x307 => some .tas | 0x308 => some .atom | 0x309 => some .lreq
  | 0x30a => some .sreq | 0x30b => some .fifo | 0x30c => some .lut
  | _ => none

/-- The opcode and frame of a memory-cell op (R105). -/
def mcParts : Instr → Option (BitVec 10 × MCFrame)
  | .trd f => some (0x300, f) | .twr f => some (0x301, f) | .trdc f => some (0x302, f) | .twrc f => some (0x303, f)
  | .gath f => some (0x304, f) | .scat f => some (0x305, f) | .rmwa f => some (0x306, f) | .tas f => some (0x307, f)
  | .atom f => some (0x308, f) | .lreq f => some (0x309, f) | .sreq f => some (0x30a, f) | .fifo f => some (0x30b, f)
  | .lut f => some (0x30c, f)
  | _ => none

/-- The op of a switch opcode (R105). -/
def swOf (code : Nat) : Option (SWFrame → Instr) :=
  match code with
  | 0x380 => some .selx | 0x381 => some .dist | 0x382 => some .arb | 0x383 => some .join
  | _ => none

/-- The opcode and frame of a switch op (R105). -/
def swParts : Instr → Option (BitVec 10 × SWFrame)
  | .selx f => some (0x380, f) | .dist f => some (0x381, f) | .arb f => some (0x382, f) | .join f => some (0x383, f)
  | _ => none

/-- The op of a predicate-node opcode (R105). -/
def pnOf (code : Nat) : Option (PNFrame → Instr) :=
  match code with
  | 0x140 => some .plogic | 0x141 => some .pdup | 0x142 => some .pgen
  | _ => none

/-- The opcode and frame of a predicate-node op (R105). -/
def pnParts : Instr → Option (BitVec 10 × PNFrame)
  | .plogic f => some (0x140, f) | .pdup f => some (0x141, f) | .pgen f => some (0x142, f)
  | _ => none

/-- The op of a Silt-node opcode (R105). -/
def snOf (code : Nat) : Option (SNFrame → Instr) :=
  match code with
  | 0x150 => some .snadd | 0x151 => some .snsink
  | _ => none

/-- The opcode and frame of a Silt-node op (R105). -/
def snParts : Instr → Option (BitVec 10 × SNFrame)
  | .snadd f => some (0x150, f) | .snsink f => some (0x151, f)
  | _ => none

/-! ### Frames (R90 to R104) -/

/-- A port field (R95). -/
def portOf (v : BitVec 22) : Except Reject Port :=
  need (v.getLsbD 0 == false) .nonzeroField <|
  field (srcOfCode (v.extractLsb' 16 6)) fun src =>
  .ok { src, hold := v.extractLsb' 8 8, neg := v.getLsbD 7, abs := v.getLsbD 6, bcast := v.getLsbD 5, lane := v.extractLsb' 1 4 }

/-- The bits of a port field (R95). -/
def Port.bits (p : Port) : BitVec 22 :=
  p.src.code ++ p.hold ++ BitVec.ofBool p.neg ++ BitVec.ofBool p.abs ++ BitVec.ofBool p.bcast ++ p.lane ++ (0 : BitVec 1)

/-- An output field (R97). -/
def outOf (v : BitVec 16) : Except Reject OutF :=
  need (v.extractLsb' 4 5 == 0) .nonzeroField <|
  field (dstOfCode (v.extractLsb' 9 7)) fun dst => field (stopOfCode (v.extractLsb' 0 4)) fun stop => .ok { dst, stop }

/-- The bits of an output field (R97). -/
def OutF.bits (o : OutF) : BitVec 16 := o.dst.code ++ (0 : BitVec 5) ++ o.stop.code

/-- A frame address (R90). -/
def addrBits (cls : BitVec 4) (index slot : Nat) : BitVec 16 :=
  cls ++ BitVec.ofNat 5 index ++ BitVec.ofNat 3 slot ++ (0 : BitVec 4)

/-- A compute-cell stage frame (R94). -/
def decodeCC (w : Frame) : Except Reject Instr := do
  let op ← (match ccOf (w.extractLsb' 230 10).toNat with | some o => .ok o | none => .error .badOpcode)
  if h : (w.extractLsb' 247 5).toNat < 16 ∧ (w.extractLsb' 244 3).toNat < 6 then
    let a ← portOf (w.extractLsb' 204 22)
    let b ← portOf (w.extractLsb' 182 22)
    let c ← portOf (w.extractLsb' 160 22)
    let oa ← outOf (w.extractLsb' 144 16)
    let ob ← outOf (w.extractLsb' 128 16)
    field (tyOfCode (w.extractLsb' 226 4)) fun ty =>
    field (psrcOfCode (w.extractLsb' 122 6)) fun pin =>
    field (pdstOfCode (w.extractLsb' 113 7)) fun pout =>
    field (rmOfCode (w.extractLsb' 110 3)) fun rm =>
    need (w.getLsbD 120 == false) .nonzeroField <|
    let f : CCFrame :=
      { cell := ⟨_, h.1⟩, stage := ⟨_, h.2⟩, ty, a, b, c, oa, ob, pin, psense := w.getLsbD 121, pout, rm, sat := w.getLsbD 109
        stats := w.getLsbD 108, silt := w.extractLsb' 103 5, level := w.extractLsb' 100 3, flags := w.extractLsb' 96 4
        imm := w.extractLsb' 32 64, ext := w.extractLsb' 0 32 }
    need f.wf .badCombination (.ok (op f))
  else .error .badAddress

/-- The frame of a compute-cell op (R94). -/
def CCFrame.bits (f : CCFrame) (op : BitVec 10) : Frame :=
  addrBits 1 f.cell.val f.stage.val ++ op ++ f.ty.code ++ f.a.bits ++ f.b.bits ++ f.c.bits ++ f.oa.bits ++ f.ob.bits ++ f.pin.code
    ++ BitVec.ofBool f.psense ++ (0 : BitVec 1) ++ f.pout.code ++ f.rm.code ++ BitVec.ofBool f.sat ++ BitVec.ofBool f.stats ++ f.silt
    ++ f.level ++ f.flags ++ f.imm ++ f.ext

/-- A memory-cell access frame (R99). -/
def decodeMC (w : Frame) : Except Reject Instr := do
  let op ← (match mcOf (w.extractLsb' 230 10).toNat with | some o => .ok o | none => .error .badOpcode)
  if h : (w.extractLsb' 247 5).toNat < 16 then
    let a ← portOf (w.extractLsb' 183 22)
    let b ← portOf (w.extractLsb' 161 22)
    let c ← portOf (w.extractLsb' 139 22)
    let oa ← outOf (w.extractLsb' 123 16)
    let ob ← outOf (w.extractLsb' 107 16)
    field (tyOfCode (w.extractLsb' 226 4)) fun ty =>
    field (psrcOfCode (w.extractLsb' 101 6)) fun pin =>
    field (pdstOfCode (w.extractLsb' 92 7)) fun pout =>
    need (w.getLsbD 99 == false && w.extractLsb' 0 10 == 0) .nonzeroField <|
    let f : MCFrame :=
      { cell := ⟨_, h⟩, ty, handle := w.extractLsb' 206 20, fromC := w.getLsbD 205, a, b, c, oa, ob, pin, psense := w.getLsbD 100
        pout, consume := w.getLsbD 91, level := w.extractLsb' 88 3, scope := scopeOfCode (w.extractLsb' 86 2)
        subop := w.extractLsb' 82 4, sat := w.getLsbD 81, sealEnd := w.getLsbD 80, silt := w.extractLsb' 75 5
        stats := w.getLsbD 74, imm := w.extractLsb' 10 64 }
    need f.wf .badCombination (.ok (op f))
  else .error .badAddress

/-- The frame of a memory-cell op (R99). -/
def MCFrame.bits (f : MCFrame) (op : BitVec 10) : Frame :=
  addrBits 2 f.cell.val 0 ++ op ++ f.ty.code ++ f.handle ++ BitVec.ofBool f.fromC ++ f.a.bits ++ f.b.bits ++ f.c.bits ++ f.oa.bits
    ++ f.ob.bits ++ f.pin.code ++ BitVec.ofBool f.psense ++ (0 : BitVec 1) ++ f.pout.code ++ BitVec.ofBool f.consume ++ f.level
    ++ f.scope.code ++ f.subop ++ BitVec.ofBool f.sat ++ BitVec.ofBool f.sealEnd ++ f.silt ++ BitVec.ofBool f.stats ++ f.imm
    ++ (0 : BitVec 10)

/-- Dimension d of an address-generator frame (R101). -/
def agDimOf (w : Frame) (d : Nat) : AGDim :=
  { count := w.extractLsb' (72 + 40 * d + 24) 16, stride := w.extractLsb' (72 + 40 * d) 24, stop := w.extractLsb' (28 + 3 * d) 3
    argEn := w.getLsbD (20 + 2 * d + 1), argSel := w.getLsbD (20 + 2 * d) }

/-- An address-generator frame (R101). -/
def decodeAG (w : Frame) : Except Reject AGFrame :=
  if h : (w.extractLsb' 247 5).toNat < 16 then
    field (agModeOfCode (w.extractLsb' 236 4)) fun mode =>
    if hd : (w.extractLsb' 232 4).toNat < 5 then
      need (w.extractLsb' 0 20 == 0) .nonzeroField <|
      let f : AGFrame :=
        { cell := ⟨_, h⟩, mode, dims := ⟨_, hd⟩, d0 := agDimOf w 0, d1 := agDimOf w 1, d2 := agDimOf w 2, d3 := agDimOf w 3
          base := w.extractLsb' 40 32 }
      need f.wf .badCombination (.ok f)
    else .error .reservedCode
  else .error .badAddress

/-- The frame of an address generator (R101). -/
def AGFrame.bits (f : AGFrame) : Frame :=
  addrBits 2 f.cell.val 1 ++ f.mode.code ++ BitVec.ofNat 4 f.dims.val ++ f.d3.count ++ f.d3.stride ++ f.d2.count ++ f.d2.stride
    ++ f.d1.count ++ f.d1.stride ++ f.d0.count ++ f.d0.stride ++ f.base ++ f.d3.stop ++ f.d2.stop ++ f.d1.stop ++ f.d0.stop
    ++ BitVec.ofBool f.d3.argEn ++ BitVec.ofBool f.d3.argSel ++ BitVec.ofBool f.d2.argEn ++ BitVec.ofBool f.d2.argSel
    ++ BitVec.ofBool f.d1.argEn ++ BitVec.ofBool f.d1.argSel ++ BitVec.ofBool f.d0.argEn ++ BitVec.ofBool f.d0.argSel ++ (0 : BitVec 20)

/-- A switch frame (R102). -/
def decodeSW (w : Frame) : Except Reject Instr := do
  let op ← (match swOf (w.extractLsb' 230 10).toNat with | some o => .ok o | none => .error .badOpcode)
  if h : (w.extractLsb' 247 5).toNat < 4 then
    let idx ← portOf (w.extractLsb' 156 22)
    let o0 ← outOf (w.extractLsb' 28 16)
    let o1 ← outOf (w.extractLsb' 44 16)
    let o2 ← outOf (w.extractLsb' 60 16)
    let o3 ← outOf (w.extractLsb' 76 16)
    let o4 ← outOf (w.extractLsb' 92 16)
    let o5 ← outOf (w.extractLsb' 108 16)
    let o6 ← outOf (w.extractLsb' 124 16)
    let o7 ← outOf (w.extractLsb' 140 16)
    field (tyOfCode (w.extractLsb' 226 4)) fun ty =>
    field (srcOfCode (w.extractLsb' 178 6)) fun i0 => field (srcOfCode (w.extractLsb' 184 6)) fun i1 =>
    field (srcOfCode (w.extractLsb' 190 6)) fun i2 => field (srcOfCode (w.extractLsb' 196 6)) fun i3 =>
    field (srcOfCode (w.extractLsb' 202 6)) fun i4 => field (srcOfCode (w.extractLsb' 208 6)) fun i5 =>
    field (srcOfCode (w.extractLsb' 214 6)) fun i6 => field (srcOfCode (w.extractLsb' 220 6)) fun i7 =>
    need (w.extractLsb' 0 21 == 0) .nonzeroField <|
    let f : SWFrame :=
      { index := ⟨_, h⟩, ty, ins := #v[i0, i1, i2, i3, i4, i5, i6, i7], idx, outs := #v[o0, o1, o2, o3, o4, o5, o6, o7]
        flags := w.extractLsb' 24 4, level := w.extractLsb' 21 3 }
    need f.wf .badCombination (.ok (op f))
  else .error .badAddress

/-- The frame of a switch op (R102). -/
def SWFrame.bits (f : SWFrame) (op : BitVec 10) : Frame :=
  addrBits 3 f.index.val 0 ++ op ++ f.ty.code ++ f.ins[7].code ++ f.ins[6].code ++ f.ins[5].code ++ f.ins[4].code ++ f.ins[3].code
    ++ f.ins[2].code ++ f.ins[1].code ++ f.ins[0].code ++ f.idx.bits ++ f.outs[7].bits ++ f.outs[6].bits ++ f.outs[5].bits
    ++ f.outs[4].bits ++ f.outs[3].bits ++ f.outs[2].bits ++ f.outs[1].bits ++ f.outs[0].bits ++ f.flags ++ f.level ++ (0 : BitVec 21)

/-- A predicate-node frame (R103). -/
def decodePN (w : Frame) : Except Reject Instr := do
  let op ← (match pnOf (w.extractLsb' 230 10).toNat with | some o => .ok o | none => .error .badOpcode)
  if h : (w.extractLsb' 247 5).toNat < 8 then
    field (psrcOfCode (w.extractLsb' 206 6)) fun in0 => field (psrcOfCode (w.extractLsb' 213 6)) fun in1 =>
    field (psrcOfCode (w.extractLsb' 220 6)) fun in2 => field (pdstOfCode (w.extractLsb' 169 7)) fun out0 =>
    field (pdstOfCode (w.extractLsb' 176 7)) fun out1 => field (pdstOfCode (w.extractLsb' 183 7)) fun out2 =>
    field (pdstOfCode (w.extractLsb' 190 7)) fun out3 =>
    need (w.extractLsb' 226 4 == 0 && w.extractLsb' 160 6 == 0 && w.extractLsb' 0 123 == 0) .nonzeroField <|
    let f : PNFrame :=
      { index := ⟨_, h⟩, in0, sense0 := w.getLsbD 205, in1, sense1 := w.getLsbD 212, in2, sense2 := w.getLsbD 219
        table := w.extractLsb' 197 8, out0, out1, out2, out3, level := w.extractLsb' 166 3, pattern := w.extractLsb' 128 32
        plen := w.extractLsb' 123 5 }
    need f.wf .badCombination (.ok (op f))
  else .error .badAddress

/-- The frame of a predicate node (R103). -/
def PNFrame.bits (f : PNFrame) (op : BitVec 10) : Frame :=
  addrBits 4 f.index.val 0 ++ op ++ (0 : BitVec 4) ++ f.in2.code ++ BitVec.ofBool f.sense2 ++ f.in1.code ++ BitVec.ofBool f.sense1
    ++ f.in0.code ++ BitVec.ofBool f.sense0 ++ f.table ++ f.out3.code ++ f.out2.code ++ f.out1.code ++ f.out0.code ++ f.level
    ++ (0 : BitVec 6) ++ f.pattern ++ f.plen ++ (0 : BitVec 123)

/-- A Silt-node frame (R104). -/
def decodeSN (w : Frame) : Except Reject Instr := do
  let op ← (match snOf (w.extractLsb' 230 10).toNat with | some o => .ok o | none => .error .badOpcode)
  if h : (w.extractLsb' 247 5).toNat < 8 then
    field (sndstOfCode (w.extractLsb' 219 7)) fun dst =>
    need (w.extractLsb' 226 4 == 0 && w.extractLsb' 0 187 == 0) .nonzeroField <|
    let f : SNFrame :=
      { index := ⟨_, h⟩, dst, inputs := w.extractLsb' 214 5, handle := w.extractLsb' 194 20, mode := w.getLsbD 193
        row := w.extractLsb' 187 6 }
    need f.wf .badCombination (.ok (op f))
  else .error .badAddress

/-- The frame of a Silt node (R104). -/
def SNFrame.bits (f : SNFrame) (op : BitVec 10) : Frame :=
  addrBits 5 f.index.val 0 ++ op ++ (0 : BitVec 4) ++ f.dst.code ++ f.inputs ++ f.handle ++ BitVec.ofBool f.mode ++ f.row
    ++ (0 : BitVec 187)

/-- An HD frame (R92). -/
def decodeHD (w : Frame) : Except Reject HDFrame :=
  need (w.extractLsb' 0 115 == 0) .nonzeroField <|
  .ok { vs := w.extractLsb' 228 12, round := w.extractLsb' 225 3, safe := w.extractLsb' 222 3, first := w.getLsbD 221
        last := w.getLsbD 220, stateful := w.getLsbD 219, bitmap := w.extractLsb' 203 16, ccMask := w.extractLsb' 187 16
        carried := w.extractLsb' 155 32, crc := w.extractLsb' 123 32, length := w.extractLsb' 115 8 }

/-- The bits of an HD frame (R92). -/
def HDFrame.bits (f : HDFrame) : Frame :=
  addrBits 0 0 0 ++ f.vs ++ f.round ++ f.safe ++ BitVec.ofBool f.first ++ BitVec.ofBool f.last ++ BitVec.ofBool f.stateful ++ f.bitmap
    ++ f.ccMask ++ f.carried ++ f.crc ++ f.length ++ (0 : BitVec 115)

/-- A frame of a stripe image by its class (R90). -/
inductive AnyFrame
  | hd (f : HDFrame)
  | op (a : OpAddr) (i : Instr)
  | gen (f : AGFrame)
  | depths (w : BitVec 240)
  | last
deriving DecidableEq, Repr

/-- Decodes a frame by its address (R90); every rejection is an ILLCFG (R106). -/
def decodeFrame (w : Frame) : Except Reject AnyFrame :=
  let index := (w.extractLsb' 247 5).toNat
  let slot := (w.extractLsb' 244 3).toNat
  need (w.extractLsb' 240 4 == 0) .nonzeroField <|
  match (w.extractLsb' 252 4).toNat with
  | 0 => need (index == 0 && slot == 0) .badAddress <| (decodeHD w).map .hd
  | 1 => (decodeCC w).map (.op ⟨.cc, index, slot⟩)
  | 2 =>
    if slot = 0 then (decodeMC w).map (.op ⟨.mc, index, 0⟩)
    else need (slot == 1) .badAddress <| (decodeAG w).map .gen
  | 3 => need (slot == 0) .badAddress <| (decodeSW w).map (.op ⟨.sw, index, 0⟩)
  | 4 => need (slot == 0) .badAddress <| (decodePN w).map (.op ⟨.pn, index, 0⟩)
  | 5 => need (slot == 0) .badAddress <| (decodeSN w).map (.op ⟨.sn, index, 0⟩)
  | 7 => need (index == 0 && slot == 0) .badAddress <| .ok (.depths (w.extractLsb' 0 240))
  | 15 => need (index == 0 && slot == 0) .badAddress <| need (w.extractLsb' 0 240 == 0) .nonzeroField <| .ok .last
  | _ => .error .badAddress

/-- The frame of a cell op, a switch op or a node (R90 to R104). -/
def encodeFrame (i : Instr) : Option Frame :=
  match ccParts i, mcParts i, swParts i, pnParts i, snParts i with
  | some (o, f), _, _, _, _ => some (f.bits o)
  | _, some (o, f), _, _, _ => some (f.bits o)
  | _, _, some (o, f), _, _ => some (f.bits o)
  | _, _, _, some (o, f), _ => some (f.bits o)
  | _, _, _, _, some (o, f) => some (f.bits o)
  | _, _, _, _, _ => none

/-- An instruction's encoding: a 64-bit word or a 256-bit frame, with its width. The steps of the other agents have none. -/
def encode (i : Instr) : Option (Nat × Nat) :=
  match encodeSeq i with
  | some w => some (64, w.toNat)
  | none => (encodeFrame i).map fun w => (256, w.toNat)

/-- The instruction the decoder reads from the bits of a table row: a sequencer word up to 64 bits, a frame above that. -/
def decodeTableWord (nbits w : Nat) : Option Instr :=
  if nbits ≤ 64 then
    match decodeSeq (BitVec.ofNat 64 w) with
    | .ok i => some i
    | .error _ => none
  else
    match decodeFrame (BitVec.ofNat 256 w) with
    | .ok (.op _ i) => some i
    | _ => none

end Sys2Proof
end

