-- ==== Sys2Proof/Config.lean ====
section
/-! DEFINITION. Config: what the manual leaves open (free values, with no body) and the algorithms of other standards that the manual names and does not state. -/
namespace Sys2Proof.Config

/-- A free natural number: nothing constrains it (assumption 3). The argument is the model's counter `State.freeCtr`. -/
opaque freeNat : Nat → Nat

/-- A free 64-bit word (assumption 3). -/
opaque freeWord : Nat → BitVec 64

/-- A byte of host memory or of a peer package's window as an access finds it: by the model's counter and address (assumption 3). -/
opaque outsideByte : Nat → Nat → BitVec 8

/-- Whether an access uses the new translation of a page whose tables have changed and which no invalidation has dropped yet (R323), by the
model's counter, ASID and page (assumption 3). -/
opaque newMapping : Nat → Nat → Nat → Bool

/-- The compute die, of the three of the other I/O die, through which a compute die reaches it (R390, DESIGN CHOICE, assumption 80). -/
opaque gateway : Nat → Fin 3

/-- How many tokens more than one an output FIFO OF0 to OF7 holds: R16 names the FIFOs, and no rule gives their depth (assumption 23). -/
opaque ofMore : Nat

/-- The byte of a saved state region whose arrangement R351 leaves to the implementation: by save number and offset (assumption 9). -/
opaque regionByte : Nat → Nat → BitVec 8

/-- SHA-512 of a byte list (named by R404 to R406; the manual does not state the algorithm: assumption 6). -/
opaque sha512 : List (BitVec 8) → BitVec 512

/-- HKDF-SHA-512 (RFC 5869) of input keying material and info, 32 bytes of output (R329, R405: assumption 6). -/
opaque hkdf : BitVec 256 → List (BitVec 8) → BitVec 256

/-- Ed25519 verification of a signature under a public key over a message (R404: assumption 6). -/
opaque ed25519Verify : BitVec 256 → BitVec 512 → List (BitVec 8) → Bool

/-- Ed25519 signature of a message under the key whose seed is given (R405, R406: assumption 6). -/
opaque ed25519Sign : BitVec 256 → List (BitVec 8) → BitVec 512

/-- The public key of an Ed25519 seed (R405: assumption 6). -/
opaque ed25519Public : BitVec 256 → BitVec 256

/-- The AES-256-GCM tag of a plaintext under key, 96-bit IV and AAD (R325, R327, R402: assumption 6). -/
opaque gcmTag : BitVec 256 → BitVec 96 → List (BitVec 8) → List (BitVec 8) → BitVec 128

/-- Byte i of the AES-256-GCM key stream under key and 96-bit IV (R325, R402: assumption 6). -/
opaque gcmStream : BitVec 256 → BitVec 96 → Nat → BitVec 8

/-- The IV of a scale-out frame, which R402 does not state, by its header (assumption 6). -/
opaque frameIv : List (BitVec 8) → BitVec 96

/-- The IV of a secured SPDM message, which R406 does not state, by the session's secret, whether Crucible sends it, and its number (assumption 6). -/
opaque spdmIv : BitVec 256 → Bool → Nat → BitVec 96

/-- The bytes of an SPDM response, whose form is the SPDM standard's, by its kind and contents (R406: assumption 6). -/
opaque spdmMessage : Nat → List (BitVec 8) → List (BitVec 8)

/-- The destination and source MAC addresses of a scale-out frame between two packages, which R401 does not state (assumption 6). -/
opaque macs : Nat → Nat → BitVec 96

/-- The VLAN identifier of a scale-out frame's 802.1Q tag, which R401 does not state (assumption 6). -/
opaque vlan : BitVec 12

/-- The SHA-512 digests of the Crucible, management and scheduler images of the boot that came before the reset state (R404 to R406, assumption 1). -/
opaque bootDigest : Fin 3 → BitVec 512

/-- A byte of a freed sealed unit: HBM keeps ciphertext under a key that is erased (R393), by the model's counter and address (assumption 3). -/
opaque residue : Nat → Nat → BitVec 8

/-- The ephemeral P-384 shared secret of an SPDM key exchange, from the requester's share and a number of this exchange (R406: assumption 6). -/
opaque ecdhP384 : List (BitVec 8) → Nat → BitVec 256

/-- The responder's P-384 public share of an SPDM key exchange, by the number of this exchange (R406: assumption 6). -/
opaque p384Share : Nat → List (BitVec 8)

/-- The bytes of a partition record that Crucible measures, whose form R406 leaves open, by partition number, rings and contexts (assumption 6). -/
opaque partitionRecord : Nat → List Nat → List Nat → List (BitVec 8)

/-- Odvex's registry ID, which R407 names without a value (assumption 6). -/
opaque odvexRegistry : Nat

/-- The 256-bit device secret held in fuses (R405). -/
opaque deviceSecret : BitVec 256

/-- The fused SHA-512 digests of the four public keys (R404). -/
opaque fusedKeyDigest : Fin 4 → BitVec 512

/-- Whether the revocation fuse of a public key is blown (R404). -/
opaque fusedRevoked : Fin 4 → Bool

/-- The fused security-version count (R404). -/
opaque fusedVersion : Fin 65

/-- The manufacturer's certificate over the identity key (R405). -/
opaque identityCertificate : List (BitVec 8)

/-- How an implementation chooses within the bound of R82, by function code, significand bits of the type (each float type has its own
number) and pattern of the result: the position of the least argument
whose result is at least that value. The result depends only on the input on one implementation. -/
opaque specialFrom : Nat → Nat → Nat → Nat

end Sys2Proof.Config
end

