-- ==== Sys2Proof/Machine/Num.lean ====
section
/-! DEFINITION. Machine/Num: element types, rounding, saturation and the exact arithmetic every element result goes through (R60 to R83). Elements are bit patterns as natural numbers. -/
namespace Sys2Proof

/-- The SAT, NAN and UNF events of one result (R84). -/
structure Ev where
  sat : Nat
  nan : Nat
  unf : Nat
deriving DecidableEq, Repr

/-- No event. -/
def Ev.zero : Ev := ⟨0, 0, 0⟩
/-- One SAT event. -/
def Ev.oneSat : Ev := ⟨1, 0, 0⟩
/-- One NAN event. -/
def Ev.oneNan : Ev := ⟨0, 1, 0⟩
/-- One UNF event. -/
def Ev.oneUnf : Ev := ⟨0, 0, 1⟩
/-- Events of two results together. -/
def Ev.add (x y : Ev) : Ev := ⟨x.sat + y.sat, x.nan + y.nan, x.unf + y.unf⟩
/-- `n` NAN events. -/
def Ev.nans (n : Nat) : Ev := ⟨0, n, 0⟩

/-- The width of a type in bits (R60). -/
def Ty.width : Ty → Nat
  | .i8 | .n8 | .e4m3 | .e5m2 | .q8 => 8
  | .i16 | .n16 | .f16 | .bf16 => 16
  | .i32 | .n32 | .b32 | .f32 => 32
  | .i64 => 64
  | .q4 => 4

/-- INT of the cell chapters. -/
def Ty.isInt : Ty → Bool
  | .i8 | .n8 | .i16 | .n16 | .i32 | .n32 | .i64 => true
  | _ => false

/-- The signed integer types. -/
def Ty.isSigned : Ty → Bool
  | .i8 | .i16 | .i32 | .i64 => true
  | _ => false

/-- FLT of the cell chapters. -/
def Ty.isFlt : Ty → Bool
  | .f32 | .f16 | .bf16 => true
  | _ => false

/-- The five float types of R63. -/
def Ty.isFloat : Ty → Bool
  | .f32 | .f16 | .bf16 | .e4m3 | .e5m2 => true
  | _ => false

/-- Elements per token (R21). -/
def Ty.perTok (t : Ty) : Nat := 512 / Ty.width t

/-- The all-ones pattern of a type's width. -/
def Ty.ones (t : Ty) : Nat := 2 ^ Ty.width t - 1

/-- The least value of an integer or grouped type. -/
def Ty.intMin (t : Ty) : Int := if Ty.isSigned t then -(2 ^ (Ty.width t - 1) : Nat) else 0

/-- The greatest value of an integer or grouped type. -/
def Ty.intMax (t : Ty) : Int := if Ty.isSigned t then (2 ^ (Ty.width t - 1) : Nat) - 1 else (2 ^ Ty.width t : Nat) - 1

/-- The pattern of an integer modulo 2^w: Wrap of R9. -/
def wrapNat (w : Nat) (x : Int) : Nat := (x % ((2 ^ w : Nat) : Int)).toNat

/-- The integer a pattern of a type stands for: two's complement for the I types, natural otherwise. -/
def Ty.intOf (t : Ty) (v : Nat) : Int :=
  if Ty.isSigned t && decide (2 ^ (Ty.width t - 1) ≤ v) then (v : Int) - (2 ^ Ty.width t : Nat) else (v : Int)

/-- Sat of R9. -/
def Ty.clampInt (t : Ty) (x : Int) : Int := if x < Ty.intMin t then Ty.intMin t else if Ty.intMax t < x then Ty.intMax t else x

/-- Fin of R133: Sat or Wrap of an exact integer, and one SAT event when it lies outside the type (R84). -/
def finInt (t : Ty) (sat : Bool) (x : Int) : Nat × Ev :=
  let out := decide (x < Ty.intMin t) || decide (Ty.intMax t < x)
  (wrapNat (Ty.width t) (if sat then Ty.clampInt t x else x), if out then Ev.oneSat else Ev.zero)

/-! ### Floats -/

/-- The fields of a float type (R63): exponent bits, fraction bits, bias. -/
structure Fmt where
  eb   : Nat
  fb   : Nat
  bias : Nat
deriving DecidableEq, Repr

/-- R63; a type that is no float gives the fields of F32. -/
def Ty.fmt : Ty → Fmt
  | .f16 => ⟨5, 10, 15⟩
  | .bf16 => ⟨8, 7, 127⟩
  | .e4m3 => ⟨4, 3, 7⟩
  | .e5m2 => ⟨5, 2, 15⟩
  | _ => ⟨8, 23, 127⟩

/-- A float value: NaN (signalling or not), infinity, or (−1)^neg × m × 2^e. -/
inductive FV
  | nan (sig : Bool)
  | inf (neg : Bool)
  | fin (neg : Bool) (m : Nat) (e : Int)
deriving DecidableEq, Repr

/-- The sign bit of a float type. -/
def Ty.signBit (t : Ty) (neg : Bool) : Nat := if neg then 2 ^ (Ty.width t - 1) else 0

/-- The canonical NaN (R65). -/
def Ty.nanBits : Ty → Nat
  | .f16 => 0x7E00
  | .bf16 => 0x7FC0
  | .e4m3 => 0x7F
  | .e5m2 => 0x7E
  | _ => 0x7FC00000

/-- The infinity of a sign; E4M3 has none and gives its canonical NaN. -/
def Ty.infBits (t : Ty) (neg : Bool) : Nat :=
  match t with
  | .e4m3 => 0x7F
  | _ => (2 ^ (Ty.fmt t).eb - 1) * 2 ^ (Ty.fmt t).fb + Ty.signBit t neg

/-- The largest finite value's pattern (R63). -/
def Ty.maxBits (t : Ty) (neg : Bool) : Nat :=
  match t with
  | .e4m3 => 0x7E + Ty.signBit t neg
  | _ => (2 ^ (Ty.fmt t).eb - 1) * 2 ^ (Ty.fmt t).fb - 1 + Ty.signBit t neg

/-- The exponent of the unit of a type's subnormals. -/
def Ty.qMin (t : Ty) : Int := 1 - ((Ty.fmt t).bias : Int) - ((Ty.fmt t).fb : Int)

/-- The value of a float pattern (R63, R66). -/
def Ty.floatOf (t : Ty) (v : Nat) : FV :=
  let f := Ty.fmt t
  let neg := decide (2 ^ (Ty.width t - 1) ≤ v)
  let mag := v % 2 ^ (Ty.width t - 1)
  let ex := mag / 2 ^ f.fb
  let fr := mag % 2 ^ f.fb
  if t = .e4m3 then
    if mag = 0x7F then .nan false
    else if ex = 0 then .fin neg fr (Ty.qMin t) else .fin neg (2 ^ f.fb + fr) (Ty.qMin t + ((ex - 1 : Nat) : Int))
  else if ex = 2 ^ f.eb - 1 then
    if fr = 0 then .inf neg else .nan (decide (fr < 2 ^ (f.fb - 1)))
  else if ex = 0 then .fin neg fr (Ty.qMin t)
  else .fin neg (2 ^ f.fb + fr) (Ty.qMin t + ((ex - 1 : Nat) : Int))

/-- Whether a rounding mode takes a fraction upward in magnitude (R68): twice the remainder against the divisor, the parity of the
quotient, the sign. -/
def Rm.up (rm : Rm) (neg : Bool) (q r d : Nat) : Bool :=
  match rm with
  | .rne => decide (d < 2 * r) || (decide (2 * r = d) && decide (q % 2 = 1))
  | .rna => decide (d ≤ 2 * r)
  | .rtz => false
  | .rdn => neg && decide (0 < r)
  | .rup => !neg && decide (0 < r)

/-- A magnitude n / d rounded to an integer (R68). -/
def rndDiv (rm : Rm) (neg : Bool) (n d : Nat) : Nat :=
  if Rm.up rm neg (n / d) (n % d) d then n / d + 1 else n / d

/-- n / d × 2^k rounded to an integer magnitude. -/
def rndScaled (rm : Rm) (neg : Bool) (n d : Nat) (k : Int) : Nat :=
  if 0 ≤ k then rndDiv rm neg (n * 2 ^ k.toNat) d else rndDiv rm neg n (d * 2 ^ (-k).toNat)

/-- floor(log2 (n / d)) for positive n and d. -/
def floorLog2 (n d : Nat) : Int :=
  let l : Int := (Nat.log2 n : Int) - (Nat.log2 d : Int)
  let ge := if 0 ≤ l then decide (d * 2 ^ l.toNat ≤ n) else decide (d ≤ n * 2 ^ (-l).toNat)
  if ge then l else l - 1

/-- The table of R69 for a rounded magnitude beyond the largest finite value; it counts one SAT event. -/
def overflowBits (t : Ty) (rm : Rm) (sat neg : Bool) : Nat :=
  let toInf := match rm with
    | .rne | .rna => true
    | .rtz => false
    | .rup => !neg
    | .rdn => neg
  if sat || !toInf then Ty.maxBits t neg else Ty.infBits t neg

/-- Round(x, T, m) of R69 for x = (−1)^neg × n/d × 2^e with n and d positive, with the events of R69 and R70. -/
def roundRat (t : Ty) (rm : Rm) (sat neg : Bool) (n d : Nat) (e : Int) : Nat × Ev :=
  let f := Ty.fmt t
  let q := max (floorLog2 n d + e - (f.fb : Int)) (Ty.qMin t)
  let y := rndScaled rm neg n d (e - q)
  let mag := (q - Ty.qMin t).toNat * 2 ^ f.fb + y
  if Ty.maxBits t false < mag then (overflowBits t rm sat neg, Ev.oneSat)
  else (mag + Ty.signBit t neg, if mag < 2 ^ f.fb then Ev.oneUnf else Ev.zero)

/-- Round of a dyadic value: a zero keeps its sign. -/
def roundDy (t : Ty) (rm : Rm) (sat neg : Bool) (m : Nat) (e : Int) : Nat × Ev :=
  if m = 0 then (Ty.signBit t neg, Ev.zero) else roundRat t rm sat neg m 1 e

/-- An infinite result (R69): clamped when saturate is 1, the canonical NaN in E4M3 when it is 0; either counts SAT. -/
def infResult (t : Ty) (sat neg : Bool) : Nat × Ev :=
  if sat then (Ty.maxBits t neg, Ev.oneSat)
  else if t = .e4m3 then (Ty.nanBits t, Ev.oneSat)
  else (Ty.infBits t neg, Ev.zero)

/-- An invalid operation (R67). -/
def invalid (t : Ty) : Nat × Ev := (Ty.nanBits t, Ev.oneNan)

/-- A dyadic number m × 2^e with a signed m. -/
structure Dy where
  m : Int
  e : Int
deriving DecidableEq, Repr

/-- The dyadic of a finite value. -/
def Dy.of (neg : Bool) (m : Nat) (e : Int) : Dy := ⟨if neg then -(m : Int) else (m : Int), e⟩

/-- The exact sum of two dyadics. -/
def Dy.add (x y : Dy) : Dy :=
  if x.e ≤ y.e then ⟨x.m + y.m * (2 ^ (y.e - x.e).toNat : Nat), x.e⟩
  else ⟨x.m * (2 ^ (x.e - y.e).toNat : Nat) + y.m, y.e⟩

/-- The exact product of two dyadics. -/
def Dy.mul (x y : Dy) : Dy := ⟨x.m * y.m, x.e + y.e⟩

/-- Whether x < y. -/
def Dy.lt (x y : Dy) : Bool := decide ((Dy.add x ⟨-y.m, y.e⟩).m < 0)

/-- The exact sum of a list. -/
def Dy.sum (l : List Dy) : Dy := l.foldl Dy.add ⟨0, 0⟩

/-- A dyadic of magnitude and sign, for rounding. -/
def roundSigned (t : Ty) (rm : Rm) (sat : Bool) (x : Dy) : Nat × Ev :=
  roundDy t rm sat (decide (x.m < 0)) x.m.natAbs x.e

/-- The sum of a list of finite terms, with R71's signs of zero: a sum of zeros of like sign keeps it; any other exact zero is −0
under RDN and +0 otherwise. -/
def roundSum (t : Ty) (rm : Rm) (sat : Bool) (l : List (Bool × Nat × Int)) : Nat × Ev :=
  let s := Dy.sum (l.map fun x => Dy.of x.1 x.2.1 x.2.2)
  if s.m = 0 then
    let allZero := l.all fun x => x.2.1 == 0
    if allZero && l.all (fun x => x.1) then (Ty.signBit t true, Ev.zero)
    else if allZero && l.all (fun x => !x.1) then (0, Ev.zero)
    else (Ty.signBit t (decide (rm = .rdn)), Ev.zero)
  else roundSigned t rm sat s

/-- One for a signalling NaN (R66). -/
def FV.sig : FV → Nat
  | .nan true => 1
  | _ => 0

/-- A NaN. -/
def FV.isNan : FV → Bool
  | .nan _ => true
  | _ => false

/-- The value with its sign changed. -/
def FV.negate : FV → FV
  | .nan s => .nan s
  | .inf n => .inf (!n)
  | .fin n m e => .fin (!n) m e

/-- The result of an op one of whose operands is a NaN (R65, R66). -/
def nanResult (t : Ty) (ops : List FV) : Nat × Ev := (Ty.nanBits t, Ev.nans ((ops.map FV.sig).foldl (· + ·) 0))

/-- a + b of R138. -/
def fAdd (t : Ty) (rm : Rm) (sat : Bool) (a b : FV) : Nat × Ev :=
  match a, b with
  | .nan _, _ | _, .nan _ => nanResult t [a, b]
  | .inf x, .inf y => if x = y then infResult t sat x else invalid t
  | .inf x, .fin .. => infResult t sat x
  | .fin .., .inf y => infResult t sat y
  | .fin n m e, .fin n' m' e' => roundSum t rm sat [(n, m, e), (n', m', e')]

/-- a × b of R138. -/
def fMul (t : Ty) (rm : Rm) (sat : Bool) (a b : FV) : Nat × Ev :=
  match a, b with
  | .nan _, _ | _, .nan _ => nanResult t [a, b]
  | .inf x, .inf y => infResult t sat (x != y)
  | .inf x, .fin y m _ | .fin y m _, .inf x => if m = 0 then invalid t else infResult t sat (x != y)
  | .fin n m e, .fin n' m' e' => roundDy t rm sat (n != n') (m * m') (e + e')

/-- The exact product of two values that are no NaN; `none` for 0 × ∞. -/
def FV.mul (a b : FV) : Option FV :=
  match a, b with
  | .inf x, .inf y => some (.inf (x != y))
  | .inf x, .fin y m _ | .fin y m _, .inf x => if m = 0 then none else some (.inf (x != y))
  | .fin n m e, .fin n' m' e' => some (.fin (n != n') (m * m') (e + e'))
  | .nan s, _ | _, .nan s => some (.nan s)

/-- a × b + c of R138, with one rounding. -/
def fFma (t : Ty) (rm : Rm) (sat : Bool) (a b c : FV) : Nat × Ev :=
  if a.isNan || b.isNan || c.isNan then nanResult t [a, b, c]
  else match FV.mul a b with
    | none => invalid t
    | some p => fAdd t rm sat p c

/-- a ÷ b of R138 and R81. -/
def fDiv (t : Ty) (rm : Rm) (sat : Bool) (a b : FV) : Nat × Ev :=
  match a, b with
  | .nan _, _ | _, .nan _ => nanResult t [a, b]
  | .inf _, .inf _ => invalid t
  | .inf x, .fin y _ _ => infResult t sat (x != y)
  | .fin x _ _, .inf y => (Ty.signBit t (x != y), Ev.zero)
  | .fin x m e, .fin y m' e' =>
    if m' = 0 then (if m = 0 then invalid t else infResult t sat (x != y))
    else if m = 0 then (Ty.signBit t (x != y), Ev.zero)
    else roundRat t rm sat (x != y) m m' (e - e')

/-- The integer square root by bits, from bit `k` down. -/
def isqrtBits (v : Nat) : Nat → Nat → Nat
  | 0, r => if (r + 1) * (r + 1) ≤ v then r + 1 else r
  | k + 1, r => isqrtBits v k (if (r + 2 ^ (k + 1)) * (r + 2 ^ (k + 1)) ≤ v then r + 2 ^ (k + 1) else r)

/-- floor(√v). -/
def isqrt (v : Nat) : Nat := isqrtBits v (Nat.log2 v / 2 + 1) 0

/-- √a (R67, R81). A root that is not exact stands for itself by the half unit above its floor, which every rounding takes alike. -/
def fSqrt (t : Ty) (rm : Rm) (sat : Bool) (a : FV) : Nat × Ev :=
  match a with
  | .nan _ => nanResult t [a]
  | .inf neg => if neg then invalid t else infResult t sat false
  | .fin neg m e =>
    if m = 0 then (Ty.signBit t neg, Ev.zero)
    else if neg then invalid t
    else
      let m2 := if e % 2 = 0 then m else 2 * m
      let e2 := if e % 2 = 0 then e else e - 1
      let v := m2 * 2 ^ 64
      let r := isqrt v
      if r * r = v then roundDy t rm sat false r (e2 / 2 - 32)
      else roundDy t rm sat false (2 * r + 1) (e2 / 2 - 33)

/-- 1 ÷ √a (R67, R81). -/
def fRsq (t : Ty) (rm : Rm) (sat : Bool) (a : FV) : Nat × Ev :=
  match a with
  | .nan _ => nanResult t [a]
  | .inf neg => if neg then invalid t else (0, Ev.zero)
  | .fin neg m e =>
    if m = 0 then infResult t sat neg
    else if neg then invalid t
    else
      let m2 := if e % 2 = 0 then m else 2 * m
      let e2 := if e % 2 = 0 then e else e - 1
      let r := isqrt (2 ^ 160 / m2)
      if r * r * m2 = 2 ^ 160 then roundDy t rm sat false r (-80 - e2 / 2)
      else roundDy t rm sat false (2 * r + 1) (-81 - e2 / 2)

/-- Numeric order of two values that are no NaN, −0 equal to +0. -/
def FV.lt (a b : FV) : Bool :=
  match a, b with
  | .inf x, .inf y => x && !y
  | .inf x, .fin .. => x
  | .fin .., .inf y => !y
  | .fin n m e, .fin n' m' e' => Dy.lt (Dy.of n m e) (Dy.of n' m' e')
  | .nan _, _ | _, .nan _ => false

/-- The sign of a value. -/
def FV.neg : FV → Bool
  | .nan _ => false
  | .inf n => n
  | .fin n _ _ => n

/-- Whether FMIN takes `a` over `b` (R139): less, or equal and −0 against +0. -/
def FV.before (a b : FV) : Bool := FV.lt a b || (!FV.lt b a && (a.neg || !b.neg))

/-- FMIN and FMAX of R139, on patterns: the operand that is no NaN is returned as it is. -/
def fMinMax (t : Ty) (isMax : Bool) (a b : Nat) : Nat × Ev :=
  let x := Ty.floatOf t a
  let y := Ty.floatOf t b
  let ev := Ev.nans (x.sig + y.sig)
  if x.isNan && y.isNan then (Ty.nanBits t, ev)
  else if x.isNan then (b, ev)
  else if y.isNan then (a, ev)
  else if isMax then (if FV.before x y then b else a, ev)
  else (if FV.before x y then a else b, ev)

/-- The seven conditions of R132. -/
inductive CmpCond
  | eq | ne | lt | le | gt | ge | un
deriving DecidableEq, Repr

/-- The condition of op flags [2:0]. -/
def cmpCondOf (v : Nat) : Option CmpCond :=
  match v with
  | 0 => some .eq | 1 => some .ne | 2 => some .lt | 3 => some .le | 4 => some .gt | 5 => some .ge | 6 => some .un
  | _ => none

/-- An integer comparison (R134). -/
def intCmp (c : CmpCond) (x y : Int) : Bool :=
  match c with
  | .eq => decide (x = y) | .ne => decide (x ≠ y) | .lt => decide (x < y) | .le => decide (x ≤ y)
  | .gt => decide (y < x) | .ge => decide (y ≤ x) | .un => false

/-- A float comparison (R139), with its NAN events. -/
def fCmp (t : Ty) (c : CmpCond) (a b : Nat) : Bool × Ev :=
  let x := Ty.floatOf t a
  let y := Ty.floatOf t b
  let ev := Ev.nans (x.sig + y.sig)
  if x.isNan || y.isNan then (decide (c = .ne) || decide (c = .un), ev)
  else
    let lt := FV.lt x y
    let gt := FV.lt y x
    (match c with
      | .eq => !lt && !gt | .ne => lt || gt | .lt => lt | .le => !gt | .gt => gt | .ge => !lt | .un => false, ev)

/-- FCLASS (R140). -/
def fClass (t : Ty) (v : Nat) : Nat :=
  match Ty.floatOf t v with
  | .nan true => 2 ^ 8
  | .nan false => 2 ^ 9
  | .inf neg => if neg then 1 else 2 ^ 7
  | .fin neg m _ =>
    if m = 0 then (if neg then 2 ^ 3 else 2 ^ 4)
    else if m < 2 ^ (Ty.fmt t).fb then (if neg then 2 ^ 2 else 2 ^ 5)
    else (if neg then 2 ^ 1 else 2 ^ 6)

/-! ### Special functions within two units (R82)

Each is bracketed by exact arithmetic; the value returned is one of those within the bound, chosen by `Config.specialFrom`, which
nothing constrains (assumption 3). -/

/-- 2^192 × ln 2, cut. -/
def ln2Fix : Nat := 0xb17217f7d1cf79abc9e3b39803f2f6af40f343267298b62d

/-- 2^192 × log2 e, cut. -/
def log2eFix : Nat := 0x171547652b82fe1777d0ffda0d23a7d11d6aef551bad2b4b1

/-- The Taylor terms of e^x for 2^192 × x, from term `n` with `fuel` terms left. -/
def expTerms (x : Nat) : Nat → Nat → Nat → Nat
  | 0, _, term => term
  | fuel + 1, n, term => term + expTerms x fuel (n + 1) (term * x / 2 ^ 192 / n)

/-- 2^192 × 2^(f / 2^192) for a fraction f. -/
def exp2Frac (f : Nat) : Nat := expTerms (f * ln2Fix / 2 ^ 192) 60 1 (2 ^ 192)

/-- 2^128 × log2 (y / 2^192) for y in [2^192, 2^193), by squaring, `n` binary digits. -/
def log2Digits : Nat → Nat → Nat
  | 0, _ => 0
  | n + 1, y =>
    let z := y * y / 2 ^ 192
    if 2 ^ 193 ≤ z then 2 ^ n + log2Digits n (z / 2) else log2Digits n z

/-- The values of T within two units of an exact positive value n/d × 2^e, least first, by pattern: those no greater than `top`
(R82). The unit is that of T at the value. -/
def within2 (t : Ty) (n d : Nat) (e : Int) (top : Nat) : List Nat :=
  let q := max (floorLog2 n d + e - ((Ty.fmt t).fb : Int)) (Ty.qMin t)
  let near := (q - Ty.qMin t).toNat * 2 ^ (Ty.fmt t).fb + rndScaled .rtz false n d (e - q)
  -- |v − x| ≤ 2 × 2^q, with v = m × 2^k and x = n/d × 2^e, all times d
  let ok := fun v => match Ty.floatOf t v with
    | .fin _ m k =>
      let diff := Dy.add ⟨(m : Int) * (d : Int), k⟩ ⟨-(n : Int), e⟩
      !Dy.lt ⟨2 * (d : Int), q⟩ ⟨(diff.m.natAbs : Int), diff.e⟩
    | _ => false
  ((List.range 10).map fun i => near + i - 5).filter fun v => decide (v ≤ top) && ok v

/-- The least and the greatest value within the bound. -/
def bounds2 (t : Ty) (n d : Nat) (e : Int) (top : Nat) : Nat × Nat :=
  let l := within2 t n d e top
  (l.headD 0, l.getLast?.getD 0)

/-- A choice within bounds that rise with the argument's position, each function and type by itself: the greatest value whose threshold the position has reached, and at
least the lower bound. Whatever the thresholds are, the choices rise with the position, and every rising choice within rising bounds is one
of these (R82, assumption 3). -/
def pickMono (fn fb pos lo hi : Nat) : Nat :=
  (List.range (hi - lo)).foldl (fun r i => if Config.specialFrom fn fb (lo + i + 1) ≤ pos then lo + i + 1 else r) lo

/-- The chosen magnitude with its sign; an UNF event when it is zero or subnormal (R70). -/
def chosen (fn : Nat) (t : Ty) (pos : Nat) (neg : Bool) (b : Nat × Nat) : Nat × Ev :=
  let r := pickMono fn (Ty.fmt t).fb pos b.1 b.2
  (r + Ty.signBit t neg, if r < 2 ^ (Ty.fmt t).fb then Ev.oneUnf else Ev.zero)

/-- The bounds of an argument, the lower one raised to those of the four arguments before it: where the unit doubles, the bound of R82 itself
falls, and a monotonic result does not. -/
def risingBounds (at' : Nat → Option (Nat × Nat)) (before : Nat → Nat) : Nat → Nat → Nat × Nat
  | v, 0 => (at' v).getD (0, 0)
  | v, fuel + 1 =>
    let b := (at' v).getD (0, 0)
    let c := risingBounds at' before (before v) fuel
    (if (at' v).isSome then max b.1 c.1 else 0, b.2)

/-- Where a finite argument stands among all of them. -/
def position (t : Ty) (v : Nat) : Nat :=
  let h := 2 ^ (Ty.width t - 1)
  if v < h then h + v else h - (v - h)

/-- FEXP2 (R82). -/
def fExp2 (t : Ty) (sat : Bool) (v : Nat) : Nat × Ev :=
  match Ty.floatOf t v with
  | .nan s => nanResult t [.nan s]
  | .inf neg => if neg then (0, Ev.zero) else infResult t sat false
  | .fin neg m e =>
    -- the argument in units of 2^-192, cut toward zero, and whether anything was cut
    let big := decide (12 ≤ (Nat.log2 m : Int) + e) && decide (m ≠ 0)
    let scaled := if 0 ≤ e + 192 then m * 2 ^ (e + 192).toNat else m / 2 ^ (-(e + 192)).toNat
    if big then (if neg then (0, Ev.oneUnf) else (overflowBits t .rne sat false, Ev.oneSat))
    else
      let whole : Int := if neg then -((scaled + (2 ^ 192 - 1)) / 2 ^ 192 : Nat) else (scaled / 2 ^ 192 : Nat)
      let frac : Nat := ((if neg then -(scaled : Int) else (scaled : Int)) - whole * (2 ^ 192 : Nat)).toNat
      let exactInt := decide (m = 0) || (if 0 ≤ e then true else decide (m % 2 ^ (-e).toNat = 0))
      let n := if exactInt then 2 ^ 192 else exp2Frac frac
      -- an argument that is no integer is never exact: the half unit above the cut stands for the rest
      let num := if exactInt then n else 2 * n + 1
      let ex := if exactInt then whole - 192 else whole - 193
      let r := roundRat t .rne sat false num 1 ex
      let top := match Ty.floatOf t (Ty.maxBits t false) with | .fin _ k q => (⟨(k : Int), q⟩ : Dy) | _ => ⟨0, 0⟩
      if exactInt then r
      else if r.2.sat ≠ 0 || r.1 = 0 || Dy.lt top ⟨(num : Int), ex⟩ then r
      else
        -- between the exact results at the whole numbers on either side
        let b := bounds2 t num 1 ex (Ty.maxBits t false)
        chosen 0 t (position t v) false (max b.1 (roundRat t .rne true false 1 1 whole).1, min b.2 (roundRat t .rne true false 1 1 (whole + 1)).1)

/-- The bounds of the magnitude of log2 of a positive finite value that is no power of two, between the whole numbers on either side. -/
def log2Bounds (t : Ty) (v : Nat) : Option (Nat × Nat) :=
  match Ty.floatOf t v with
  | .fin false m e =>
    let l := Nat.log2 m
    let ex : Int := (l : Int) + e
    if m = 0 || m = 2 ^ l then none
    else
      let total : Int := ex * (2 ^ 128 : Nat) + (log2Digits 128 (m * 2 ^ (192 - l)) : Int)
      let b := bounds2 t (2 * total.natAbs + 1) 1 (-129) (Ty.maxBits t false)
      let whole := fun (n : Int) => (roundDy t .rne false false n.natAbs 0).1
      some (if ex < 0 then (max b.1 (whole (ex + 1)), min b.2 (whole ex)) else (max b.1 (whole ex), min b.2 (whole (ex + 1))))
  | _ => none

/-- FLOG2 (R82). Its rows for ±0 and +∞ say nothing of saturate, where FEXP2's row does; with saturate 1 R69's clamp of an infinite result is
applied, and one SAT event counted (DESIGN CHOICE, assumption 64). -/
def fLog2 (t : Ty) (sat : Bool) (v : Nat) : Nat × Ev :=
  match Ty.floatOf t v with
  | .nan s => nanResult t [.nan s]
  | .inf neg => if neg then invalid t else infResult t sat false
  | .fin neg m e =>
    if m = 0 then infResult t sat true
    else if neg then invalid t
    else
      let ex : Int := (Nat.log2 m : Int) + e
      if m = 2 ^ Nat.log2 m then roundDy t .rne sat (decide (ex < 0)) ex.natAbs 0
      else if ex < 0 then chosen 1 t (2 ^ Ty.width t - v) true (risingBounds (log2Bounds t) (· + 1) v 4)
      else chosen 2 t v false (risingBounds (log2Bounds t) (· - 1) v 4)

/-- The bounds of tanh of a positive finite magnitude, at most 1. -/
def tanhBounds (t : Ty) (mag : Nat) : Option (Nat × Nat) :=
  match Ty.floatOf t mag with
  | .fin false m e =>
    let top := (roundDy t .rne false false 1 0).1
    let ex : Int := (Nat.log2 m : Int) + e
    if m = 0 then none
    else if ex < -24 then
      -- x − x^3/3, written over 3
      let x : Dy := ⟨(m : Int), e⟩
      let x3 := Dy.mul x (Dy.mul x x)
      let s := Dy.add ⟨3 * x.m, x.e⟩ ⟨-x3.m, x3.e⟩
      some (bounds2 t s.m.natAbs 3 s.e top)
    else if 5 < ex then some (bounds2 t (2 ^ 192 - 1) 1 (-192) top)
    else
      -- t = 2^(−2 x log2 e); tanh x = (1 − t) / (1 + t)
      let scaled := if 0 ≤ e then m * 2 ^ e.toNat * log2eFix * 2 else m * log2eFix * 2 / 2 ^ (-e).toNat
      let whole := (scaled + (2 ^ 192 - 1)) / 2 ^ 192
      let p := exp2Frac (whole * 2 ^ 192 - scaled) / 2 ^ whole
      some (bounds2 t (2 ^ 192 - p) (2 ^ 192 + p) 0 top)
  | _ => none

/-- FTANH (R82): odd, at most 1. -/
def fTanh (t : Ty) (v : Nat) : Nat × Ev :=
  match Ty.floatOf t v with
  | .nan s => nanResult t [.nan s]
  | .inf neg => roundDy t .rne false neg 1 0
  | .fin neg m _ =>
    if m = 0 then (Ty.signBit t neg, Ev.zero)
    else
      let mag := v % 2 ^ (Ty.width t - 1)
      chosen 3 t mag neg (risingBounds (tanhBounds t) (· - 1) mag 4)

/-! ### Conversions (R64, R75, R76) -/

/-- A float value rounded to an integer type (R64). -/
def floatToInt (u : Ty) (rm : Rm) (sat : Bool) (x : FV) : Nat × Ev :=
  match x with
  | .nan s => (0, Ev.add Ev.oneSat (Ev.nans (if s then 1 else 0)))
  | .inf neg => (if sat then wrapNat (Ty.width u) (if neg then Ty.intMin u else Ty.intMax u) else 0, Ev.oneSat)
  | .fin neg m e =>
    let r := rndScaled rm neg m 1 e
    finInt u sat (if neg then -(r : Int) else (r : Int))

/-- An integer rounded to a float type. -/
def intToFloat (u : Ty) (rm : Rm) (sat : Bool) (x : Int) : Nat × Ev := roundSigned u rm sat ⟨x, 0⟩

/-- A float value rounded to another float type (R141). -/
def floatToFloat (u : Ty) (rm : Rm) (sat : Bool) (x : FV) : Nat × Ev :=
  match x with
  | .nan s => nanResult u [.nan s]
  | .inf neg => infResult u sat neg
  | .fin neg m e => roundDy u rm sat neg m e

/-- The greatest code of a grouped type. -/
def qMaxOf (u : Ty) : Nat := if u = .q4 then 15 else 255

/-- The scale of a group record (R72). -/
def recScale (r : Nat) : FV := Ty.floatOf .f16 (r / 65536 % 65536)
/-- The zero point of a group record (R72). -/
def recZero (r : Nat) : Nat := r / 256 % 256

/-- QNT of R75: the code of x under a group record. -/
def qntElem (u : Ty) (rm : Rm) (x : FV) (r : Nat) : Nat × Ev :=
  let s := recScale r
  let z := recZero r
  let qm := qMaxOf u
  let special := fun (n : Nat) =>
    (if qm < z then qm else z, Ev.add (Ev.nans n) (if qm < z then Ev.oneSat else Ev.zero))
  let clamp := fun (tv : Int) =>
    let q := max 0 (min tv (qm : Int))
    (q.toNat, if q = tv then Ev.zero else Ev.oneSat)
  match x, s with
  | .nan _, _ | _, .nan _ => special (x.sig + s.sig)
  | .inf _, .inf _ => special 1
  | .inf n, .fin n' _ _ => (if n != n' then 0 else qm, Ev.oneSat)
  | .fin .., .inf _ => clamp z
  | .fin n m e, .fin n' m' e' =>
    if m' = 0 then (if m = 0 then special 1 else (if n != n' then 0 else qm, Ev.oneSat))
    else
      let t := rndScaled rm (n != n') m m' (e - e')
      clamp ((if n != n' then -(t : Int) else (t : Int)) + (z : Int))

/-- q − z as a value: +0 when they are equal (R72). -/
def qMinusZ (q z : Nat) : FV := .fin (decide (q < z)) ((q : Int) - (z : Int)).natAbs 0

/-- DQNT of R76. -/
def dqntElem (u : Ty) (rm : Rm) (sat : Bool) (q r : Nat) : Nat × Ev :=
  fMul u rm sat (recScale r) (qMinusZ q (recZero r))

/-! ### Integer division (R83) -/

/-- Quotient and remainder at width w, as patterns. -/
def divPair (w : Nat) (signed : Bool) (a b : Nat) : Nat × Nat :=
  let sg := fun v : Nat => if signed && decide (2 ^ (w - 1) ≤ v) then (v : Int) - (2 ^ w : Nat) else (v : Int)
  if b = 0 then (2 ^ w - 1, a)
  else (wrapNat w (Int.tdiv (sg a) (sg b)), wrapNat w (Int.tmod (sg a) (sg b)))

/-! ### Chunks of the matrix unit (R77 to R79) -/

/-- floor(log2) of the greatest non-zero magnitude of a list. -/
def maxLog2 (l : List Dy) : Int :=
  (l.filter fun x => x.m != 0).foldl (fun a x => max a ((Nat.log2 x.m.natAbs : Int) + x.e)) (-100000)

/-- One product cut toward zero to a window of unit 2^q, in units of 2^q. -/
def cutTo (q : Int) (x : Dy) : Int :=
  let k := x.e - q
  let mag := if 0 ≤ k then x.m.natAbs * 2 ^ k.toNat else x.m.natAbs / 2 ^ (-k).toNat
  if x.m < 0 then -(mag : Int) else (mag : Int)

/-- The windowed sum of F16 and BF16 products: H + sign(L) × q / 4 (R77). -/
def windowSum (l : List Dy) : Dy :=
  let q := maxLog2 l - 60
  let h : Int := (l.map (cutTo q)).foldl (· + ·) 0
  let rest := Dy.add (Dy.sum l) ⟨-h, q⟩
  ⟨4 * h + (if rest.m < 0 then -1 else if 0 < rest.m then 1 else 0), q - 2⟩

/-- The chunk value C of R77 from its products; `window` for F16 and BF16. A NaN among the products gives a NaN. -/
def chunkValue (window : Bool) (ps : List (Option FV)) : FV :=
  let vs := ps.map fun p => p.getD (.nan false)
  let isInf := fun (n : Bool) (v : FV) => decide (v = .inf n)
  if vs.any FV.isNan || (vs.any (isInf true) && vs.any (isInf false)) then .nan false
  else if vs.any (isInf true) then .inf true
  else if vs.any (isInf false) then .inf false
  else
    let fs := vs.filterMap fun v => match v with | .fin n m e => some (n, m, e) | _ => none
    let ds := fs.map fun x => Dy.of x.1 x.2.1 x.2.2
    if ds.all fun d => d.m == 0 then .fin (!fs.isEmpty && fs.all fun x => x.1) 0 0
    else
      let c := if window then windowSum ds else Dy.sum ds
      .fin (decide (c.m < 0)) c.m.natAbs c.e

/-- R77's last line: A + C into F32 under RNE. -/
def accumulate (sat : Bool) (a : Nat) (c : FV) : Nat × Ev := fAdd .f32 .rne sat (Ty.floatOf .f32 a) c

end Sys2Proof
end

