-- ==== Sys2Proof/Machine/State.lean ====
section
/-! DEFINITION. Machine/State: every piece of state the manual gives the machine, as plain data, and the machine right after reset. -/
namespace Sys2Proof.Machine

/-- Why the machine stops. -/
inductive Fault
  /-- Raised by `step` when the package has shut down at 115 °C (R388) and the step is not a package reset: the package does
  nothing until its next start. Safe: the hardware does nothing there either. -/
  | packageOff
deriving DecidableEq, Repr

/-- Why a step has no meaning. -/
inductive Refusal
  /-- Raised by an arm of `exec` whose instruction has no meaning yet. Safe. -/
  | notModelled (mnemonic : String)
  /-- Raised by `step` when the agenda gives, as a step of another agent, an instruction that only a sequencer or a configured op
  performs: the manual has no such step. Safe. -/
  | notAnAgentStep
deriving DecidableEq, Repr

/-! ### Memories -/

/-- Byte-addressed storage in canonical form: rising addresses, and no entry equal to 0, which is what an unlisted address reads as
(R306, R329, assumption 4). -/
abbrev Memory := List Host.Cell

/-- A write on its way from one die to another (R292): `deps` are the writes that the sending die's vector counts and that were still on
their way somewhere when it was sent, `bytes` has `none` for each byte it leaves as it is (R294), empty when no release within the reader's scope orders it; `task` is its task, and `ord` the
partition of a write of the ordered class on its way to a die of its scope (R293). -/
structure RemoteWrite where
  serial : Nat
  src    : Nat
  dst    : Nat
  deps   : List Nat
  pa     : Nat
  bytes  : List (Option Byte)
  task   : Option Nat
  ord    : Option Nat
deriving DecidableEq, Repr

/-- A byte that a die still reads with a value older than the home's (R285): by die, address, value, and the serial of the last write it
may stand for. -/
structure StaleByte where
  die    : Nat
  pa     : Nat
  value  : Byte
  serial : Nat
deriving DecidableEq, Repr

/-- The sealing metadata and cache state of one 2 KiB block (R324 to R331): `eccBad` is an uncorrectable error of its bytes in HBM, `lineBad`
one of its cache line (R389), and `since` is the number of free values drawn when the block was last initialised, by which it is later or
earlier than the failure of a tree node above it (R327). -/
structure Block where
  gen      : BitVec 16
  version  : BitVec 32
  cached   : Bool
  dirty    : Bool
  badTag   : Bool
  eccBad   : Bool
  lineBad  : Bool
  since    : Nat
  stalled  : Bool
deriving DecidableEq, Repr

/-- Kiln's generations of one partition on one die (R329). -/
structure Kiln where
  key     : Option (BitVec 256)
  current : BitVec 16
  live    : List (BitVec 16 × BitVec 256)
  epoch   : BitVec 32
deriving DecidableEq, Repr

/-- A translation of one 4 KiB page held in a translation cache (R318 to R323), with the range or leaf page it belongs to, or, with `fault`,
a walk that failed and has not been reported. -/
structure TlbEntry where
  die    : Nat
  asid   : Nat
  page   : Nat
  base   : Nat
  size   : Nat
  pa     : Nat
  format : BitVec 6
  read   : Bool
  write  : Bool
  atomic : Bool
  shared : Bool
  cls    : BitVec 2
  side   : BitVec 48
  fault  : Option Nat
deriving DecidableEq, Repr

/-! ### Tokens, channels and ops -/

/-- A token: sideband and payload (R19). The reserved bit is produced as 0 and ignored, so it is not held. `deps` are the writes on their
way that the token is ordered after (R295), `swap` marks the STOP that an image swap travels with (R268), and `mark` is the number of the
marking that set the slice flag of a STOP, 0 for none (R369, R377): the three are the model's own. `bad` says that the storage it lies in has an
uncorrectable error (R331, R389). -/
structure Token where
  kind    : BitVec 3
  level   : BitVec 3
  mask    : BitVec 16
  slice   : Bool
  payload : Payload
  deps    : List Nat
  swap    : Bool
  mark    : Nat
  bad     : Bool
deriving DecidableEq, Repr

/-- What a STOP carries beside its level: the slice flag, whether an image swap travels with it, and the marking that flagged it. -/
structure Ride where
  slice : Bool
  swap  : Bool
  mark  : Nat
deriving DecidableEq, Repr

/-- A reader of a channel: a port or the predicate input of an op, an input or the index port of a switch, an input of a predicate node, or
nobody yet. -/
inductive Reader
  | port (op : OpAddr) (p : PortName)
  | input (op : OpAddr) (i : Nat)
  | index (op : OpAddr)
  | pred (op : OpAddr)
  | nobody
deriving DecidableEq, Repr

/-- The name of a data channel within a stripe (R16). -/
inductive ChanId
  | pa (n : Nat) | sl (n : Nat) | edge (cell src dst : Nat)
deriving DecidableEq, Repr

/-- A data channel: each reader's tokens not yet consumed, oldest first (R16 to R18). -/
structure Chan where
  id      : ChanId
  depth   : Nat
  readers : List (Reader × List Token)
deriving DecidableEq, Repr

/-- The name of a predicate channel within a stripe (R98). -/
inductive PChanId
  | pp (n : Nat) | pl (n : Nat) | edge (cell src dst : Nat)
deriving DecidableEq, Repr

/-- A predicate token: its bit, and the writes on their way that it is ordered after (R295), which are the model's own. -/
structure PTok where
  bit  : Bool
  deps : List Nat
deriving DecidableEq, Repr

/-- A predicate channel of depth 4 (R98). -/
structure PChan where
  id      : PChanId
  readers : List (Reader × List PTok)
deriving DecidableEq, Repr

/-- A resident held token with its remaining count; `none` lasts until a STOP (R29). -/
structure HeldTok where
  tok  : Token
  left : Option Nat
deriving DecidableEq, Repr

/-- The Silt counts an op has not yet emitted (R84 to R87). -/
structure Silt where
  sat : Nat
  nan : Nat
  unf : Nat
  oob : Nat
  mis : Nat
deriving DecidableEq, Repr

/-- A request of a memory cell outside the package's own memory (R395, R402), by its number: the address, the lanes its answer
fills, none for a write, and the writes that its firing is ordered after (R295). -/
structure OutReq where
  serial : Nat
  va     : Nat
  pa     : Nat
  mask   : BitVec 16
  access : Nat
  deps   : List Nat
deriving DecidableEq, Repr

/-- A consuming read in progress (R193): the tile by its own number, and the declared slot it reads as. -/
structure ReadInProg where
  tile : Nat
  slot : Option Nat
deriving DecidableEq, Repr

/-- What a memory cell's answer came from (R195, R385): the home dies of its bytes, its address and its access code. -/
structure Asked where
  homes  : List Nat
  va     : Nat
  access : Nat
deriving DecidableEq, Repr

/-- What leaves a memory cell's outputs next, in request order (R189 to R191): tokens for OA and OB, a bit for predicate out, whether its firing
has written others before it, the request whose answer it still waits for, what a response or an acknowledgement came from, and the tiles
whose consuming reads end with it (R193). -/
structure McItem where
  a      : Option Token
  b      : Option Token
  bit    : Option Bool
  more   : Bool
  out    : Option OutReq
  asked  : Option Asked
  reads  : List ReadInProg
deriving DecidableEq, Repr

/-- A request of an op that a condition of R195 holds: fault code, failing address, and whether its record is still to be resumed. -/
structure HeldReq where
  code : Nat
  va   : Nat
deriving DecidableEq, Repr

/-- The state of one configured op: its stage register, held tokens, the rest of a firing that writes several tokens, and, for a
memory cell, its generator and queues (R41, R131, R187, R198). Each op uses the fields its entry names; `deps` are the writes that a memory
cell's buffer, copy or writes are ordered after (R286, R295). -/
structure OpState where
  held      : Tab HeldTok
  tot       : Payload
  nonEmpty  : BitVec 128
  erred     : Option Token
  carry     : Option (BitVec 64)
  part      : Nat
  bufMask   : BitVec 16
  flag      : Bool
  count     : BitVec 32
  silt      : Silt
  seqNo     : BitVec 16
  outq      : List (Nat × Token)
  resolving : Option (BitVec 3 × Ride)
  stopSeen  : Nat
  flagSeen  : Bool
  swapSeen  : Bool
  safeSeen  : Nat
  agIdx     : Option (List Nat)
  agPos     : Nat
  passes    : Nat
  row       : Nat
  col       : Nat
  vals      : List (BitVec 32)
  coords    : List (BitVec 32)
  valid     : List Bool
  mcq       : List McItem
  heldReq   : Option HeldReq
  cut       : Bool
  reading   : List ReadInProg
  ring      : List Token
  rptr      : Nat
  bank      : Option (List (BitVec 32))
  recent    : List (Nat × Nat)
  busyTo    : Nat
  curHandle : Nat
  deps      : List Nat
  bad       : Bool
deriving DecidableEq, Repr

/-- The state a configured op starts with (R39, R131). -/
def OpState.init : OpState :=
  { held := [], tot := 0, nonEmpty := 0, erred := none, carry := none, part := 0, bufMask := 0, flag := false, count := 0
    silt := ⟨0, 0, 0, 0, 0⟩, seqNo := 0, outq := [], resolving := none, stopSeen := 0, flagSeen := false, swapSeen := false, safeSeen := 0
    agIdx := none, agPos := 0, passes := 0, row := 0, col := 0, vals := [], coords := [], valid := [], mcq := []
    heldReq := none, cut := false, reading := [], ring := [], rptr := 0, bank := none, recent := [], busyTo := 0, curHandle := 0
    deps := [], bad := false }

/-- The open sums of one sequence number of a Silt node (R175): sequence, totals by category, and EVT tokens accepted. -/
structure SnSum where
  seqNo : BitVec 16
  sat   : Nat
  nan   : Nat
  unf   : Nat
  oob   : Nat
  mis   : Nat
  evts  : Nat
deriving DecidableEq, Repr

/-- A Silt node: its queue of 16 tokens, open sums, oldest open sequence, and running totals (R174 to R177). -/
structure SnNode where
  queue   : List Word
  sums    : List SnSum
  oldest  : BitVec 16
  tSat    : Nat
  tNan    : Nat
  tUnf    : Nat
  tOob    : Nat
  tMis    : Nat
  done    : Nat
  outq    : List Word
  stalled : Bool
  resumed : Bool
deriving DecidableEq, Repr

/-- A Silt node at the start of a run. -/
def SnNode.init : SnNode :=
  { queue := [], sums := [], oldest := 0, tSat := 0, tNan := 0, tUnf := 0, tOob := 0, tMis := 0, done := 0, outq := []
    stalled := false, resumed := false }

/-- A stationary plane: 64 weight rows and their group records (R178). Absent rows are zero. -/
structure Plane where
  rows : Tab Payload
  recs : Tab (BitVec 128)
  bad  : List Nat
deriving DecidableEq, Repr

/-- An accumulator plane of 64 rows of 64 32-bit elements, its high-water mark and its poisoned elements (R178, R389). -/
structure AccPlane where
  rows : Tab (BitVec 2048)
  high : Nat
  bad  : List Nat
deriving DecidableEq, Repr

/-- A compute cell's matrix unit (R178). -/
structure Matrix where
  planeA   : Plane
  planeB   : Plane
  activeB  : Bool
  fill     : Nat
  acc0     : AccPlane
  acc1     : AccPlane
deriving DecidableEq, Repr

/-- A matrix unit with zero planes, plane A active and fill count 0 (R187). -/
def Matrix.init : Matrix :=
  { planeA := ⟨[], [], []⟩, planeB := ⟨[], [], []⟩, activeB := false, fill := 0, acc0 := ⟨[], 0, []⟩, acc1 := ⟨[], 0, []⟩ }

/-- A stripe image after acceptance (R89 to R106): HD fields, effective depths of SL0 to SL15 and PA0 to PA31, ops, and address
generators by memory cell. -/
structure Image where
  hd     : HDFrame
  depths : List Nat
  ops    : List (OpAddr × Instr)
  gens   : Tab AGFrame
deriving DecidableEq, Repr

/-- One resident stripe of a run: a configuration in a physical slot with all its state (R36, R41). -/
structure Stripe where
  k         : Nat
  vs        : Nat
  image     : Image
  ops       : List (OpAddr × OpState)
  chans     : List Chan
  pchans    : List PChan
  sns       : Tab SnNode
  cells     : Tab Matrix
  restoring : Bool
  swapped   : Bool
  bad       : Bool
deriving DecidableEq, Repr

/-- State saved for a virtual stripe (R39, R351). -/
structure SavedStripe where
  ops    : List (OpAddr × OpState)
  chans  : List Chan
  pchans : List PChan
  sns    : Tab SnNode
  cells  : Tab Matrix
  region : Nat
  length : Nat
  serial : Nat
deriving DecidableEq, Repr

/-- A seam FIFO: the channel of the consuming virtual stripe that it holds, tokens, bits or Silt words, the tokens already read from its
oldest granule, and its granules, oldest first, by whether the run's reserve funds them (R38, R352). -/
structure Seam where
  vs    : Nat
  ch    : SeamCh
  toks  : List Token
  bits  : List PTok
  words : List Word
  head  : Nat
  grans : List Bool
deriving DecidableEq, Repr

/-- An entry of a channel Qn (R47), with the writes its release orders before it (R241). -/
structure QEntry where
  kind  : BitVec 3
  level : BitVec 3
  slice : Bool
  word  : Word
  deps  : List Nat
deriving DecidableEq, Repr

/-! ### Runs -/

/-- A run record (R116). -/
structure RunRec where
  image     : Word
  v         : Nat
  pmax      : Nat
  ringCount : Nat
  cyclic    : Bool
  cross     : Bool
  safe      : Nat
  round     : Nat
  safegap   : Nat
  reserve   : Nat
  faultEp   : BitVec 16
  quietEp   : BitVec 16
  doneEp    : BitVec 16
  ifb       : Vector Word 8
  ofb       : Vector Word 8
  slots     : BitVec 8
  stub      : Word
  stateArea : Word
  asid      : Nat
  priority  : Nat
  args      : Vector Word 4
deriving DecidableEq, Repr

/-- Who launched a run: a task, a node of a graph, or a task that a die reset has taken away since, from a slot (R265, R346, R386). -/
inductive Launcher
  | task (t activation : Nat)
  | node (graph node : Nat)
  | gone (t : Nat)
deriving DecidableEq, Repr

/-- An owner of tiles (R304, R311). -/
inductive Owner
  | graph (n : Nat) | run (n : Nat) | activation (n : Nat) | ended
deriving DecidableEq, Repr

/-- Where a run stands between launch and end (R265, R266, R373). -/
inductive RunPhase
  | launched | placed | running | suspended | ended (cause : Nat)
deriving DecidableEq, Repr

/-- How a run is being stopped (R267, R368). -/
inductive Stopping
  | no | safe | drained | now (cause : Nat)
deriving DecidableEq, Repr

/-- A marking of a run (R370, R376, R379): a slice switch with a successor or none, a gang switch, or a migration with its targets. -/
inductive Marking
  | slice (successor : Option Nat)
  | gang (successor : Option Nat) (deadline : Nat)
  | migration (targets : List Nat) (deadline : Nat)
deriving DecidableEq, Repr

/-- A slot released under a marking: slot, configuration, whether it is to be made again, and the stripe as it was (R371, R373, R377). -/
structure Released where
  slot      : Nat
  k         : Nat
  unretired : Bool
  stripe    : Stripe
deriving DecidableEq, Repr

/-- A fault record (R383). -/
structure FRec where
  w0 : Word
  w1 : Word
  w2 : Word
  w3 : Word
deriving DecidableEq, Repr

/-- A pending image of RSWAP (R268): its directory, whether the controller has accepted it, and the directory entries read so far, by
virtual stripe, as image address and frames. -/
structure PendingImage where
  va       : Word
  accepted : Bool
  dir      : Tab (Nat × Nat)
deriving DecidableEq, Repr

/-- An input binding's progress: its FIFO, the entries behind the STOP it stopped at, a TILE binding's held request, its consuming read
and its position, whether it is closed or has stopped at a safe point or marking, and whether it has presented the STOP that an image swap
travels with (R117, R266, R268, R370, R429). -/
structure InBind where
  fifo    : Chan
  kept    : List Token
  held    : Option HeldReq
  begun   : Option ReadInProg
  row     : Nat
  col     : Nat
  closed  : Bool
  cut     : Bool
  swapped : Bool
deriving DecidableEq, Repr

/-- An output binding: its FIFO toward the binding and a TILE binding's position; `held` is a write that met a tile not FILLING. -/
structure OutBind where
  fifo : List Token
  row  : Nat
  col  : Nat
  held : Option HeldReq
deriving DecidableEq, Repr

/-- How far the resumption of a run has come (R374, R377): its sources present nothing while its slots are made again, with the rebuild
stub to follow or not, and while that stub runs. -/
inductive Resuming
  | no | slots (stub : Bool) | stub
deriving DecidableEq, Repr

/-- A run (R12, R116, R265 to R269, R333 onward). `rings` are its logical rings and `phys` those it lies on (R379); `home` is the die
whose pool it draws on; `dir` holds the directory entries read so far, by virtual stripe; `selfFed` are the pass predicates, by consuming virtual
stripe, that nodes without an input fill (R172); `gaps` are the SAFEGAP counters by die (R368); `markNo` counts the markings (R369); `moved` are the
slots that a migration has made on its targets (R379); `due` is the done entry that its endpoint has no room for yet (R266); `resumeK` and
`retiredK` are the configurations to be made again and, of those, the ones that had retired (R374, R377); `fetch` is the image being read, by
address, with the bytes read (R303). -/
structure Run where
  serial    : Nat
  opId      : Word
  partition : Nat
  asid      : Nat
  launcher  : Launcher
  owner     : Owner
  recd      : RunRec
  phase     : RunPhase
  rings     : List Nat
  phys      : List Nat
  home      : Nat
  p         : Nat
  nextK     : Nat
  reserved  : Bool
  used      : Nat
  stripes   : Tab Stripe
  seams     : List Seam
  selfFed   : List (Nat × Nat)
  saved     : Tab SavedStripe
  taken     : Tab Unit
  ins       : Vector InBind 8
  outs      : Vector OutBind 8
  gaps      : Tab Nat
  quietClk  : Nat
  quietDone : Bool
  quiets    : BitVec 32
  stopping  : Stopping
  marking   : Option Marking
  markClk   : Nat
  markNo    : Nat
  released  : List Released
  moved     : Tab Stripe
  pending   : Option PendingImage
  images    : Word
  dir       : Tab (Nat × Nat)
  records   : List (FRec × Nat)
  due       : Option QEntry
  slots     : BitVec 8
  heldCfg   : Option HeldReq
  resumeK   : List Nat
  retiredK  : List Nat
  resuming  : Resuming
  fetch     : Option (Nat × List Byte)
  deps      : List Nat
deriving DecidableEq, Repr

/-- An entry of a ring's configuration cache (R349). -/
structure CacheEntry where
  partition : Nat
  asid      : Nat
  va        : Nat
  length    : Nat
  image     : Image
  bad       : Bool
deriving DecidableEq, Repr

/-! ### Tiles and pools -/

/-- The states of a tile (R44). A FREE tile has no entry. -/
inductive TileState
  | filling | full | draining | poison
deriving DecidableEq, Repr

/-- The read-count modes (R45, R112). -/
inductive TileMode
  | anonymous | declared | pinned
deriving DecidableEq, Repr

/-- A tile-table entry (R304), with the model's own number for the tile, and what a released FULL carries. -/
structure Tile where
  uid       : Nat
  die       : Nat
  handle    : Nat
  partition : Nat
  state     : TileState
  mode      : TileMode
  reads     : Nat
  inProg    : Nat
  rmask     : BitVec 8
  done      : BitVec 8
  rows      : Nat
  k         : Nat
  format    : BitVec 6
  hb        : Bool
  filling   : Bool
  valid     : BitVec 64
  owner     : Owner
  storage   : List Nat
  funded    : Option Nat
  slotsIn   : List Nat
  doomed    : Bool
  wasFull   : Bool
  wasDrain  : Bool
  abandoned : List (Nat × Owner)
  deps      : List Nat
  bad       : Bool
deriving DecidableEq, Repr

/-- Who waits for a pool grant (R313). -/
inductive Requester
  | task (t : Nat) | engine (op : Nat) | reserve (run : Nat) | seam (run vs : Nat) (ch : SeamCh)
deriving DecidableEq, Repr

/-- A queued pool request (R313 to R316). -/
structure PoolReq where
  id      : Nat
  who     : Requester
  n       : Nat
  entry   : Bool
  granted : Bool
  since   : Nat
  stalled : Bool
deriving DecidableEq, Repr

/-- A pool partition on one die (R312, R313, R332). -/
structure Pool where
  res     : Nat
  lim     : Nat
  quota   : Nat
  held    : Nat
  queue   : List PoolReq
  hbBase  : Nat
  hbSize  : Nat
  hbQueue : List PoolReq
deriving DecidableEq, Repr

/-- A reader binding (R310): slot k of an owner, bound to a run or a task activation, and whether its reader has ended. -/
structure Binding where
  owner  : Owner
  slot   : Nat
  reader : Owner
  ended  : Bool
deriving DecidableEq, Repr

/-! ### Views -/

/-- A view record (R118): base, extents and signed strides of dimensions 0 to 3, fill value, dimensions used. -/
structure View where
  base    : Nat
  sizes   : Vector Nat 4
  strides : Vector Int 4
  fill    : BitVec 32
  dims    : Nat
deriving DecidableEq, Repr

/-! ### Sequencer tasks -/

/-- The status of a task slot (R46, R48). -/
inductive TaskStatus
  | idle | runnable | blocked | handler
deriving DecidableEq, Repr

/-- The outstanding-operation counters (R50). -/
structure Counters where
  ld : BitVec 8
  st : BitVec 8
  dr : BitVec 8
  sr : BitVec 8
  sv : BitVec 8
  rn : BitVec 8
deriving DecidableEq, Repr

/-- A failure that is to be entered as a deferred fault (R225, R253): code, access, address, word 3, and the class it is reported as. -/
structure Deferred where
  code   : Nat
  access : Nat
  cls    : Nat
  va     : Word
  w3     : Word
deriving DecidableEq, Repr

/-- What an instruction that waits for a grant has found before it asked: the rows, k, format and number of a TXFER's source (R258), or the
view and page format of a DRAW (R260). -/
inductive GrantFor
  | txfer (rows k : Nat) (format : BitVec 6) (uid : Nat)
  | draw (view : View) (format : BitVec 6)
deriving DecidableEq, Repr

/-- The writes that fences of one scope order before the later writes of a task (R273): the accesses the latest of them still waits for, and
what its die had seen once they were performed. -/
structure FenceHold where
  hold : List Nat
  deps : List Nat
deriving DecidableEq, Repr

/-- What a task waits for (R48): the condition of its instruction, kept from its first issue until it completes. -/
inductive WaitFor
  /-- An entry at the head of its channel that it may take (R239). -/
  | chan
  /-- The counters at or below the fields (R271). -/
  | counters (w : WaitFields)
  /-- Room in each counter to raise it: ld, st, dr, sr, sv, rn (R50). -/
  | room (ld st dr sr sv rn : Nat)
  /-- The completion of global accesses, by serial (R226, R249, R273). -/
  | accesses (serials : List Nat)
  /-- The clk from which the results of multiplications and divisions are available (R226, R227). -/
  | result (clk : Nat)
  /-- The state of the tile a handle named at issue (R272); `met` once the tile has been freed in a way that satisfies it. -/
  | tileAt (die handle : Nat) (uid : Option Nat) (st : TileStateCode) (met : Bool)
  /-- A tile leaving FILLING, and what its seal released being applied at the task's die (R257, R296). -/
  | tileFilled (die handle : Nat)
  /-- The next part of a misaligned access of a tile, with the bytes that its earlier parts have moved (R257): the task does not block. -/
  | parts (done : List Byte)
  /-- The next of the 8-byte words that an ILOAD has still to write, by address (R280): the task does not block. -/
  | words (l : List (Nat × List Byte))
  /-- The answer to a read outside the package that the instruction needs (R395). -/
  | outside
  /-- The grant of a queued pool request (R254), for TXFER and DRAW with what they found before they asked. -/
  | grant (die : Nat) (hb : Bool) (id : Nat) (src : Option GrantFor)
  /-- The walks of pages (R251). -/
  | walks (die asid : Nat) (pages : List Nat)
  /-- The performance of the task's earlier accesses and room in the channel of an endpoint; for an input FIFO with the run that had it when
  the SENDQ was issued (R240, R241). -/
  | deliver (ep : BitVec 16) (run : Option Nat)
  /-- A free group slot or a place in the group (R274). -/
  | groupRoom (key : BitVec 32)
  /-- A phase of a group passing (R274). -/
  | phase (key : BitVec 32) (ph : BitVec 32)
  /-- The reply of the firmware (R277). -/
  | firmware
  /-- Room in the acceptance FIFO of the partition interface (R334). -/
  | launchRoom
  /-- An ordered fence (R298). -/
  | fence (scope : SScope)
  /-- A switch at a SAFEPT: every counter 0 (R275). -/
  | switch
deriving DecidableEq, Repr

/-- A task slot (R46). The fields after `context` are the model's own bookkeeping of what R48, R226, R236, R272, R275, R277 and R374 say
a slot is doing; `late` gives registers whose results are not available before a clk (R226, R227), and `acq` and `acqDr` the writes that
completions which lowered rn and dr released (R271). -/
structure Task where
  regs      : Vector Word 32
  preds     : BitVec 7
  pc        : BitVec 16
  entry     : BitVec 16
  hvec      : BitVec 16
  epc       : BitVec 16
  frec      : FRec
  cnt       : Counters
  status    : TaskStatus
  inHandler : Bool
  estat     : TaskStatus
  safegap   : BitVec 32
  spcount   : BitVec 32
  context   : BitVec 16
  dispatched : Bool
  deferred  : List Deferred
  parked    : Bool
  activation : Nat
  node      : Option (Nat × Nat)
  ownerAct  : Nat
  waitFor   : Option WaitFor
  fwCall    : Option (BitVec 16 × Word)
  fwReply   : Option Word
  relHold   : List Nat
  fenceDev  : FenceHold
  fenceSys  : FenceHold
  late      : List (Nat × Nat)
  acq       : List Nat
  acqDr     : List Nat
  stubDue   : Option (BitVec 16 × Nat)
  stubRun   : Option Nat
  switchReq : Option TaskRequest
  softErr   : List Nat
deriving DecidableEq, Repr

/-- The saved context of a task switched out at a SAFEPT (R275). -/
structure SavedTask where
  task  : Nat
  pc    : BitVec 16
  entry : BitVec 16
  hvec  : BitVec 16
  regs  : Vector Word 32
  preds : BitVec 7
  queue : List QEntry
  stub  : Option (BitVec 16)
  activation : Nat
  ownerAct   : Nat
  node       : Option (Nat × Nat)
  context    : BitVec 16
deriving DecidableEq, Repr

/-- A ring sequencer: its instruction and data stores, the words with uncorrectable errors, the round-robin order of its slots, and
the serial of its next operation (R13, R49, R235, R243, R252, R389). -/
structure Sequencer where
  istore  : Memory
  dstore  : Memory
  ibad    : List Nat
  dbad    : List Nat
  order   : List Nat
  serial  : BitVec 32
deriving DecidableEq, Repr

/-- What a pending global access does when it is performed (R247, R248); a store holds the number of its data register too. -/
inductive GOp
  | load (sz : LoadSize) (d : Reg)
  | store (sz : Size) (d : Reg) (value : Word)
  | atom (code : Nat) (sz : ASize) (b c : Word) (d : Reg)
deriving DecidableEq, Repr

/-- A global access that has issued and is not yet performed (R225, R247, R249): `parts` are the physical address, length and sharing of
each part still to be performed, `inc` and `tincs` the incarnations of its own die and of the home dies of its parts as its die knew them
when it issued (R385), `classes` the cache class of each part still to be performed (R320), `got` the bytes loaded so far, and `written` the home serial of an ordered store that waits to be
applied at every die of its scope (R293). -/
structure GAccess where
  serial : Nat
  task   : Nat
  act    : Nat
  pc     : BitVec 16
  op     : GOp
  order  : Order
  scope  : SScope
  part   : Nat
  asid   : Nat
  va     : Word
  parts  : List (Nat × Nat × Bool)
  classes : List (BitVec 2)
  inc    : BitVec 8
  tincs  : List (Nat × BitVec 8)
  got    : List Byte
  written : Option Nat
deriving DecidableEq, Repr

/-- A DRAWS in progress (R261): tiles still to be allocated are `next` to `total` − 1; `tiles` are those allocated and not yet delivered,
oldest first, by number and handle; `filled` that the oldest one's fill is over; `run` is the run whose input FIFO the endpoint names, while it lives. -/
structure Drawing where
  view   : View
  coords : Word
  dim    : Nat
  desc   : BitVec 27
  total  : Nat
  next   : Nat
  tiles  : List (Nat × Nat)
  filled : Bool
  ep     : BitVec 16
  run    : Option Nat
deriving DecidableEq, Repr

/-- What a request outside the package's own memory does: a read, a write of the bytes that are given, an ATOMG of `n` bytes or an ATOM. -/
inductive OutOp
  | read
  | write (bs : List (Option Byte))
  | atomg (code n b c : Nat)
  | atom (f : MCFrame) (b c : Nat)
deriving DecidableEq, Repr

/-- Whose request it is: a global access, an engine operation, a memory cell's op, or a reader of records, images, code and tables: a task's
instruction, a run's scroll controller, a translation walker, or the graph scheduler for a graph or for an interface's next graph. -/
inductive OutWho
  | access (serial : Nat) | engine (serial : Nat) | cell (p : OpPlace)
  | task (t : Nat) | run (serial : Nat) | walker (die asid page : Nat) | graph (id node : Nat) | iface (n : Nat) | piface (part : Nat)
deriving DecidableEq, Repr

/-- A request to host memory or to a peer package's window that has not been answered (R395, R402): `pasid` is its context's tag (R394, R397),
and `line` the bytes of a host line that its I/O die holds (R399). -/
structure OutAcc where
  serial : Nat
  die    : Nat
  part   : Nat
  who    : OutWho
  va     : Nat
  pa     : Nat
  len    : Nat
  op     : OutOp
  pasid  : BitVec 20
  line   : Option (List Byte)
deriving DecidableEq, Repr

/-- What a request of a reader has brought: 0 or a fault code, and the bytes read (R395). -/
structure Answered where
  who   : OutWho
  pa    : Nat
  code  : Nat
  bytes : List Byte
deriving DecidableEq, Repr

/-- What a request of an engine operation has brought, by its virtual address, in the package or outside: 0 or a fault code, and the bytes read
(R294, R395). -/
structure OutAnswer where
  va    : Nat
  len   : Nat
  write : Bool
  code  : Nat
  bytes : List Byte
deriving DecidableEq, Repr

/-- What an engine operation does (R258 to R263). -/
inductive EngKind
  | draw (view : View) (coords : Word) (tile : Nat)
  | draws (d : Drawing)
  | send (handle : Nat) (view : View) (coords : Word) (slot : Option Nat) (scope : SScope)
  | copym (dst src : Nat) (bytes : Nat) (scope : SScope)
  | txfer (src : Nat) (tile : Nat) (slot : Option Nat) (va : Nat)
deriving DecidableEq, Repr

/-- An engine operation (R252, R253): `held` is its held request, `reading` its consuming read in progress, `readDone` that its read or
fill is over, `request` its queued pool request and `funded` the run that funds it, `left` the pieces a TXFER has
still to copy, each by the storage unit its area starts at, its offset and its length, `writes` the bytes it has still to write, by virtual
address, with whether the last byte holds one 4-bit element only, `format` the format their pages must have, `sides` the group records it has to write,
and `answers` what its requests have brought. -/
structure EngOp where
  serial   : Nat
  opId     : Word
  task     : Option Nat
  act      : Nat
  node     : Option (Nat × Nat)
  part     : Nat
  asid     : Nat
  die      : Nat
  owner    : Owner
  kind     : EngKind
  held     : Option HeldReq
  reading  : Option ReadInProg
  readDone : Bool
  request  : Option Nat
  funded   : Option Nat
  format   : BitVec 6
  left     : List (Nat × Nat × Nat)
  writes   : List (Nat × List Byte × Bool)
  sides    : List (Nat × List Byte)
  answers  : List OutAnswer
deriving DecidableEq, Repr

/-- Whose requests a stream carries (R354): an engine operation's, or a memory cell's of a run. -/
inductive StreamOf
  | engine (op : Nat) | cell (run slot cell : Nat)
deriving DecidableEq, Repr

/-- A request stream bound to a streamer, or waiting for a binding (R354): whether a request of it waits at the streamer and since when, and
how many more it may have served in the present round. -/
structure Stream where
  id       : Nat
  die      : Nat
  streamer : Option Nat
  who      : StreamOf
  waiting  : Bool
  promoted : Bool
  since    : Nat
  credit   : Nat
deriving DecidableEq, Repr

/-- A sync group (R51, R52): members and arrivals are task activations. -/
structure Group where
  die      : Nat
  part     : Nat
  key      : BitVec 32
  members  : List Nat
  arrivals : List Nat
  phase    : BitVec 32
deriving DecidableEq, Repr

/-! ### Graphs -/

/-- The states of a live node (R340 to R344). -/
inductive NodeStatus
  | waiting | ready | dispatched | complete | skipped | failed
deriving DecidableEq, Repr

/-- A node of a live graph: its record (R336 to R338) and its state (R340): `body` is the record's bytes 0x38 to 0x7F, `ended` that its agent
has ended, `parked` that its agent could not take it (R344), `bad` that its storage has an uncorrectable error (R389), and `deps` the writes that its predecessors' completions, or the graph's launch, order before it (R301). -/
structure Node where
  kind     : Nat
  preds    : Nat
  succ     : List Nat
  operands : List Word
  body     : List Byte
  count    : Nat
  active   : Bool
  status   : NodeStatus
  readyAt  : Nat
  readySeq : Nat
  promoted : Bool
  parked   : Bool
  iters    : Nat
  ended    : Bool
  bad      : Bool
  deps     : List Nat
deriving DecidableEq, Repr

/-- A live graph (R334, R335). -/
structure Graph where
  id         : Nat
  iface      : Option Nat
  part       : Nat
  asid       : Nat
  va         : Word
  cls        : Nat
  irq        : Bool
  completion : Word
  value      : Word
  nodes      : List Node
  cancelled  : Bool
  failStatus : Nat
  failReason : Nat
  failNode   : Nat
  failDetail : Nat
  discard    : Bool
deriving DecidableEq, Repr

/-- A graph waiting in an acceptance FIFO: its address, its context, and the writes its launch orders before it (R334, R288). -/
structure Pending where
  va   : Word
  asid : Nat
  deps : List Nat
deriving DecidableEq, Repr

/-- An assignable interface or a partition interface (R333, R334, R397). -/
structure Iface where
  binding   : Word
  part      : Nat
  asid      : Nat
  accepted  : BitVec 16
  completed : BitVec 16
  dropped   : BitVec 16
  fifo      : List Pending
deriving DecidableEq, Repr

/-! ### Partitions, package and hosts -/

/-- The states of a partition (R393). -/
inductive PartState
  | free | created | active | ending
deriving DecidableEq, Repr

/-- A hardware partition (R392, R393); `cacheShare` is the blocks of each die's sealed-block cache that firmware gives it (R356), and `traffic` the
traffic class of its scale-out frames (R401). -/
structure Partition where
  state      : PartState
  rings      : List Nat
  units      : List (Nat × Bool)
  weight     : Nat
  nodeAge    : Nat
  contexts   : List Nat
  defaultCtx : Nat
  oobDraws   : Nat
  window     : Option (Nat × Nat)
  ordSeq     : Nat
  turnLeft   : Nat
  cacheShare : Nat
  traffic    : BitVec 3
  functions  : List Nat
deriving DecidableEq, Repr

/-- An event record (R357); `bad` says that the storage it lies in has an uncorrectable error (R389). -/
structure Event where
  time    : Word
  source  : Nat
  code    : Nat
  part    : Nat
  inc     : BitVec 8
  lo      : Word
  hi      : Word
  bad     : Bool
deriving DecidableEq, Repr

/-- An event source: its 16-event buffer and the count it has dropped since its last OVERFLOW (R360). -/
structure EventSource where
  buffer  : List Event
  dropped : Nat
deriving DecidableEq, Repr

/-- A frame as it was sent: its kind, its length field, the request whose answer it brings, if any (R402), and the priority code point of its
802.1Q tag, which is its flow-control class too (R401). -/
structure SentFrame where
  kind   : Nat
  frame  : SoFrame
  length : Nat
  serial : Option Nat
  pcp    : BitVec 3
deriving DecidableEq, Repr

/-- A scale-out stream of a partition and a peer package (R402): the pair's key, the sequence of its next frame and the next it expects, the
frames not yet acknowledged, oldest first, the retries made, and every frame sent, in order. -/
structure SoStream where
  key     : BitVec 256
  nextSeq : BitVec 32
  rxSeq   : BitVec 32
  unacked : List SentFrame
  retries : Nat
  sent    : List SentFrame
deriving DecidableEq, Repr

/-- An HDM decoder of a port: shared units of one partition, from a unit on (R399). -/
structure HdmDecoder where
  port  : Nat
  part  : Nat
  unit  : Nat
  count : Nat
deriving DecidableEq, Repr

/-- What a host's CXL.mem access last brought (R399). -/
inductive HostReply
  | none | data (bs : List Byte) | done | poison
deriving DecidableEq, Repr

/-- What Crucible answers on a mailbox (R406): a response of the kind that each request has, with what R406 and R407 say it carries, or an error;
its signature stands beside it. -/
inductive SpdmReply
  | version (v : Nat)
  | capabilities
  | algorithms
  | digests (chain : BitVec 512)
  | certificate (chain : List Byte)
  | challengeAuth
  | measurements (blocks : List (BitVec 512))
  | keyExchange (share : List Byte)
  | finish
  | endSession
  | vendorDefined
  | error
deriving DecidableEq, Repr

/-- A response as it goes out (R406): signed with the alias key and, within a session, as the ciphertext and tag of a secured message. -/
structure SpdmAnswer where
  reply     : SpdmReply
  signature : BitVec 512
  secured   : Option (List Byte × BitVec 128)
deriving DecidableEq, Repr

/-- The SPDM responder of one function's mailbox (R406): whether algorithms are negotiated, the session's secret and whether its handshake is
finished, the secured messages heard and sent in it, and the last response. -/
structure Spdm where
  negotiated : Bool
  session    : Option (BitVec 256)
  finished   : Bool
  heard      : Nat
  said       : Nat
  response   : Option SpdmAnswer
deriving DecidableEq, Repr

/-- A copy of a code image that an ILOAD read (R279, R280, R303). -/
structure CodeCopy where
  part  : Nat
  asid  : Nat
  va    : Nat
  bytes : List Byte
deriving DecidableEq, Repr

/-- The figures firmware sets (R316, R344, R354, R402, R408). -/
structure Figures where
  astallClk   : Nat
  promoteClk  : Nat
  maxRetries  : Nat
  powerCapMW  : Nat
  migrateC    : Nat
deriving DecidableEq, Repr

/-- Who moves next: a sequencer, a configured op, or another agent's step. -/
inductive Act
  | seq (ring : Nat)
  | op (p : OpPlace)
  | agent (i : Instr)
deriving DecidableEq, Repr

/-- One turn of the agenda: fabric clocks and timestamp ticks since the last turn, and who moves. -/
structure Turn where
  clk   : Nat
  ticks : Nat
  act   : Act
deriving DecidableEq, Repr

/-- The machine. `throttled` and `sensorsHot` are the sensors at or above 105 °C and the migration threshold, and `temps` and `powers` the last readings,
in tenths of a degree and in milliwatts (R378, R388, R409). `busy` says that the last request of firmware for a marking or a migration was answered busy (R375). `treeBad` holds the tree nodes that have failed, each with the number
of free values drawn by then (R327), and `freed` what the seals of a handle's freed tiles released, by die, partition and handle (R296).
`agenda`, `focus`, `cur` and `freeCtr` are the model's own: who moves next, the op or task that moves, and the number of
free values drawn. -/
structure State where
  agenda     : List Turn
  focus      : OpPlace
  cur        : Nat
  freeCtr    : Nat
  timestamp  : Word
  clk        : Nat
  off        : Bool
  booted     : Bool
  trained    : Bool
  enabled    : List Nat
  tasks      : Tab Task
  queues     : Tab (List QEntry)
  seqs       : Tab Sequencer
  accesses   : List GAccess
  outReqs    : List OutAcc
  answers    : List Answered
  nextSerial : Nat
  engines    : List EngOp
  streams    : List Stream
  groups     : List Group
  switchedOut : List SavedTask
  mem        : Memory
  stale      : List StaleByte
  inFlight   : List RemoteWrite
  dieWrites  : Vector Nat 8
  homeSeq    : Nat
  blocks     : Tab Block
  kilns      : Tab Kiln
  treeKey    : Tab Nat
  treeCounts : Tab Nat
  treeBad    : Tab Nat
  contexts   : Tab CtxRecord
  tlb        : List TlbEntry
  walks      : List (Nat × Nat × Nat)
  tiles      : List Tile
  freed      : Tab (List Nat)
  sram       : Memory
  sramOwner  : Tab Nat
  sramBad    : List Nat
  pools      : Tab Pool
  bindings   : List Binding
  runs       : List Run
  caches     : Tab (List CacheEntry)
  remap      : Tab Nat
  ifaces     : Tab Iface
  pifaces    : Tab Iface
  graphs     : List Graph
  schedSerial : BitVec 32
  lastServed : Nat
  partitions : Tab Partition
  sources    : Tab EventSource
  log        : List Event
  fwRecords  : List FRec
  astalls    : List (Nat × Requester × Nat × Nat × Nat × Int)
  interrupts : List (Nat × Nat)
  incs       : Vector (BitVec 8) 8
  learned    : Tab (BitVec 8)
  lateResp   : List (Nat × Nat × BitVec 8)
  staleDrops : Nat
  linksDown  : List Nat
  throttled  : List Nat
  powerThrottle : Bool
  sensorsHot : List Nat
  temps      : Tab Nat
  powers     : List Nat
  figures    : Figures
  codeCopies : List CodeCopy
  package    : Nat
  peers      : Tab SoStream
  hostReply  : HostReply
  busy       : Bool
  cxl        : Vector Bool 2
  hdm        : List HdmDecoder
  hostLines  : List (Nat × List Byte)
  aer        : List (Nat × Nat)
  badFrames  : Nat
  spdm       : Tab Spdm
  numVfs     : Vector Nat 2
  aliasKey   : BitVec 256
  measures   : List (BitVec 512)
  corrected  : Nat
deriving DecidableEq, Repr

/-- A task slot at reset (R46). -/
def Task.reset : Task :=
  { regs := Vector.replicate 32 0, preds := 0, pc := 0, entry := 0, hvec := 0, epc := 0, frec := ⟨0, 0, 0, 0⟩
    cnt := ⟨0, 0, 0, 0, 0, 0⟩, status := .idle, inHandler := false, estat := .runnable, safegap := 0, spcount := 0, context := 0
    dispatched := false, deferred := [], parked := false, activation := 0, node := none, ownerAct := 0, waitFor := none
    fwCall := none, fwReply := none, relHold := [], fenceDev := ⟨[], []⟩, fenceSys := ⟨[], []⟩, late := [], acq := [], acqDr := [], stubDue := none, stubRun := none
    switchReq := none, softErr := [] }

/-- A sequencer at reset: both stores zero (R235, R243). -/
def Sequencer.reset : Sequencer :=
  { istore := [], dstore := [], ibad := [], dbad := [], order := [0, 1, 2, 3, 4, 5, 6, 7], serial := 0 }

/-- A pool partition with nothing granted. -/
def Pool.reset : Pool :=
  { res := 0, lim := 0, quota := 0, held := 0, queue := [], hbBase := 0, hbSize := 0, hbQueue := [] }

/-- A partition holding nothing (R393). -/
def Partition.reset : Partition :=
  { state := .free, rings := [], units := [], weight := 1, nodeAge := 65536, contexts := [], defaultCtx := 0, oobDraws := 0
    window := none, ordSeq := 0, turnLeft := 0, cacheShare := 512, traffic := 0, functions := [] }

/-- An interface that is not bound (R396). -/
def Iface.reset : Iface :=
  { binding := 0, part := 0, asid := 0, accepted := 0, completed := 0, dropped := 0, fifo := [] }

/-- A block of a stack before Kiln has initialised it (R329): no generation is live, so it fails as a TAGFAIL. -/
def Block.reset : Block :=
  { gen := 0, version := 0, cached := false, dirty := false, badTag := false, eccBad := false, lineBad := false, since := 0
    stalled := false }

/-- A partition with no key (R329, R393). -/
def Kiln.reset : Kiln := { key := none, current := 0, live := [], epoch := 0 }

/-- An SPDM responder that has answered nothing. -/
def Spdm.reset : Spdm := { negotiated := false, session := none, finished := false, heard := 0, said := 0, response := none }

/-- The alias key's seed: derived from the device secret with the digests of the Crucible and management images (R405). -/
def aliasOf (crucible management : BitVec 512) : BitVec 256 :=
  Config.hkdf Config.deviceSecret (leBytes 64 crucible.toNat ++ leBytes 64 management.toNat)

/-- The package right after reset: every partition FREE, every task IDLE, every store zero, every incarnation 0 (R46, R243, R385,
R393), and the firmware figures of assumption 2. -/
def State.reset : State :=
  { agenda := [], focus := ⟨0, 0, ⟨.cc, 0, 0⟩⟩, cur := 0, freeCtr := 0, timestamp := 0, clk := 0, off := false, booted := true
    trained := true
    enabled := [0, 1, 2, 3, 4, 5, 6, 7, 8, 9, 10, 11, 12, 13, 14, 15, 16, 17, 18, 19, 20, 21, 22, 23]
    tasks := [], queues := [], seqs := [], accesses := [], outReqs := [], answers := [], nextSerial := 1, engines := [], streams := [], groups := []
    switchedOut := [], mem := [], stale := [], inFlight := [], dieWrites := Vector.replicate 8 0, homeSeq := 0, blocks := []
    kilns := [], treeKey := [], treeCounts := [], treeBad := [], contexts := [], tlb := [], walks := [], tiles := [], freed := [], sram := [], sramOwner := [], sramBad := []
    pools := [], bindings := [], runs := [], caches := [], remap := [], ifaces := [], pifaces := [], graphs := [], schedSerial := 0
    lastServed := 15, partitions := [], sources := [], log := [], fwRecords := [], astalls := [], interrupts := []
    incs := Vector.replicate 8 0, learned := [], lateResp := [], staleDrops := 0, linksDown := [], throttled := [], powerThrottle := false
    sensorsHot := [], temps := [], powers := []
    figures := { astallClk := 4294967296, promoteClk := 4095, maxRetries := 1, powerCapMW := 5500000, migrateC := 95 }
    codeCopies := [], package := 0, peers := [], hostReply := .none, busy := false, cxl := Vector.replicate 2 true, hdm := [], hostLines := [], aer := [], badFrames := 0, spdm := [], numVfs := Vector.replicate 2 0, aliasKey := aliasOf (Config.bootDigest 0) (Config.bootDigest 1)
    measures := [Config.bootDigest 0, Config.bootDigest 1, Config.bootDigest 2]
    corrected := 0 }

end Sys2Proof.Machine
end

