-- ==== Sys2Proof/Machine/Mem.lean ====
section
/-! DEFINITION. Machine/Mem: byte storage in its one canonical form, and words of it. Every memory of the machine (package memory, scratchpad granules, instruction and data stores) goes through these operations. -/
namespace Sys2Proof

/-- The bytes of an access size. -/
def Size.bytes : Size → Nat
  | .b => 1 | .h => 2 | .w => 4 | .d => 8

/-- The bytes a load form reads. -/
def LoadSize.bytes : LoadSize → Nat
  | .b | .bs => 1
  | .h | .hs => 2
  | .w | .ws => 4
  | .d => 8

/-- Whether a load form sign-extends. -/
def LoadSize.signed : LoadSize → Bool
  | .bs | .hs | .ws => true
  | _ => false

/-- The bytes of an ATOMG size. -/
def ASize.bytes : ASize → Nat
  | .w => 4 | .d => 8

/-- The order class of an LDG. -/
def LdOrder.cls : LdOrder → Order
  | .rlx => .rlx | .acq => .acq | .ord => .ord

/-- The order class of an STG. -/
def StOrder.cls : StOrder → Order
  | .rlx => .rlx | .rel => .rel | .ord => .ord

end Sys2Proof

namespace Sys2Proof.Machine

/-- What an address that is not listed reads as: zero (assumption 4). -/
def Memory.unlisted : Byte := 0

/-- The byte at an address. -/
def Memory.read : Memory → Nat → Byte
  | [], _ => Memory.unlisted
  | (k, v) :: t, a => if k = a then v else Memory.read t a

/-- Removes the entry of an address. -/
def Memory.erase : Memory → Nat → Memory
  | [], _ => []
  | (k, v) :: t, a => if k = a then t else (k, v) :: Memory.erase t a

/-- Puts an entry in its place, replacing the one of the same address. -/
def Memory.insert : Memory → Nat → Byte → Memory
  | [], a, b => [(a, b)]
  | (k, v) :: t, a, b =>
    if a < k then (a, b) :: (k, v) :: t
    else if a = k then (a, b) :: t
    else (k, v) :: Memory.insert t a b

/-- Writes a byte; the value an unlisted address reads as removes the entry. -/
def Memory.write (m : Memory) (a : Nat) (b : Byte) : Memory :=
  if b = Memory.unlisted then Memory.erase m a else Memory.insert m a b

/-- Whether every address is at least `lo`, the addresses rise, and no entry equals what an unlisted address reads as. -/
def Memory.wfFrom : Nat → Memory → Bool
  | _, [] => true
  | lo, (a, b) :: t => decide (lo ≤ a) && b != Memory.unlisted && Memory.wfFrom (a + 1) t

/-- The canonical form. -/
def Memory.wf (m : Memory) : Bool := Memory.wfFrom 0 m

/-- The `n` bytes from an address, lowest first. -/
def Memory.readBytes (m : Memory) : Nat → Nat → List Byte
  | _, 0 => []
  | a, n + 1 => Memory.read m a :: Memory.readBytes m (a + 1) n

/-- Writes bytes from an address on. -/
def Memory.writeBytes : Memory → Nat → List Byte → Memory
  | m, _, [] => m
  | m, a, b :: bs => Memory.writeBytes (Memory.write m a b) (a + 1) bs

/-- Writes bytes from an address on, leaving those that are `none` as they are. -/
def Memory.writeSome : Memory → Nat → List (Option Byte) → Memory
  | m, _, [] => m
  | m, a, some b :: bs => Memory.writeSome (Memory.write m a b) (a + 1) bs
  | m, a, none :: bs => Memory.writeSome m (a + 1) bs

/-- Writes `n` zero bytes: drops every entry of the range. -/
def Memory.zero (m : Memory) (a n : Nat) : Memory := m.filter fun c => !(decide (a ≤ c.1) && decide (c.1 < a + n))

/-- Bytes of a store of `size` bytes whose addresses wrap (R235, R242). -/
def Memory.readWrap (m : Memory) (size : Nat) : Nat → Nat → List Byte
  | _, 0 => []
  | a, n + 1 => Memory.read m (a % size) :: Memory.readWrap m size (a + 1) n

/-- Writes bytes of a store whose addresses wrap. -/
def Memory.writeWrap (size : Nat) : Memory → Nat → List Byte → Memory
  | m, _, [] => m
  | m, a, b :: bs => Memory.writeWrap size (Memory.write m (a % size) b) (a + 1) bs

/-- The word a load writes: bytes zero- or sign-extended (R242). -/
def extendWord (signed : Bool) (bs : List Byte) : Word :=
  let n := 8 * bs.length
  if signed && decide (0 < n) && (leNat bs).testBit (n - 1) then BitVec.ofNat 64 (leNat bs + (2 ^ 64 - 2 ^ n))
  else BitVec.ofNat 64 (leNat bs)

/-- The low bytes of a word, for a store. -/
def wordBytes (n : Nat) (w : Word) : List Byte := leBytes n w.toNat

end Sys2Proof.Machine
end

