-- ==== Sys2Proof/Machine/Ops.lean ====
section
/-! DEFINITION. Machine/Ops: the named operations over registers, tasks, channels, faults, tiles, pools and runs that the meanings share; taking an exception and returning from one stand here once. -/
namespace Sys2Proof.Machine

/-- The three outcomes of a step of this machine. -/
abbrev Out := Host.Outcome State Fault Refusal

/-! ### Numbers of rings, tasks and dies -/

/-- The die of a ring: package ring number is 4 × die + ring (R378). -/
def ringDie (r : Nat) : Nat := r / 4
/-- The ring of a task slot. -/
def taskRing (t : Nat) : Nat := t / 8
/-- The die of a task slot. -/
def taskDie (t : Nat) : Nat := t / 32
/-- The slot of a task. -/
def taskSlot (t : Nat) : Nat := t % 8
/-- The task of a die, ring and slot. -/
def taskNo (die ring slot : Nat) : Nat := 32 * die + 8 * ring + slot

/-! ### Components -/

/-- A task slot. -/
def State.task (s : State) (t : Nat) : Task := Tab.get s.tasks Task.reset t
/-- Replaces a task slot. -/
def State.setTask (s : State) (t : Nat) (v : Task) : State := { s with tasks := Tab.set s.tasks t v }
/-- Changes a task slot. -/
def State.updTask (s : State) (t : Nat) (f : Task → Task) : State := s.setTask t (f (s.task t))
/-- A ring sequencer. -/
def State.sequencer (s : State) (r : Nat) : Sequencer := Tab.get s.seqs Sequencer.reset r
/-- Replaces a ring sequencer. -/
def State.setSequencer (s : State) (r : Nat) (v : Sequencer) : State := { s with seqs := Tab.set s.seqs r v }
/-- The channel of a task. -/
def State.queue (s : State) (t : Nat) : List QEntry := Tab.get s.queues [] t
/-- Replaces the channel of a task. -/
def State.setQueue (s : State) (t : Nat) (q : List QEntry) : State := { s with queues := Tab.set s.queues t q }
/-- A partition. -/
def State.part (s : State) (p : Nat) : Partition := Tab.get s.partitions Partition.reset p
/-- Replaces a partition. -/
def State.setPart (s : State) (p : Nat) (v : Partition) : State := { s with partitions := Tab.set s.partitions p v }
/-- The partition that holds a ring (R392). -/
def State.ringPart (s : State) (r : Nat) : Option Nat := (s.partitions.find? fun x => x.2.rings.contains r).map Prod.fst
/-- The partition of a task; a ring in none counts as partition 0, where nothing is mapped. -/
def State.partOf (s : State) (t : Nat) : Nat := (s.ringPart (taskRing t)).getD 0
/-- The key of a die's pool partition or Kiln. -/
def poolKey (die p : Nat) : Nat := 16 * die + p
/-- A pool partition. -/
def State.pool (s : State) (die p : Nat) : Pool := Tab.get s.pools Pool.reset (poolKey die p)
/-- Replaces a pool partition. -/
def State.setPool (s : State) (die p : Nat) (v : Pool) : State := { s with pools := Tab.set s.pools (poolKey die p) v }
/-- A run by serial. -/
def State.run (s : State) (n : Nat) : Option Run := s.runs.find? fun r => r.serial == n
/-- Changes a run. -/
def State.updRun (s : State) (n : Nat) (f : Run → Run) : State :=
  { s with runs := s.runs.map fun r => if r.serial == n then f r else r }
/-- A live graph. -/
def State.graph (s : State) (n : Nat) : Option Graph := s.graphs.find? fun g => g.id == n
/-- The writes that the predecessors of a node released, which whatever the node dispatched comes after (R288, R301). -/
def State.nodeDeps (s : State) (node : Option (Nat × Nat)) : List Nat :=
  match node with
  | some x => (((s.graph x.1).bind fun g => g.nodes[x.2]?).map Node.deps).getD []
  | none => []
/-- Changes a graph. -/
def State.updGraph (s : State) (n : Nat) (f : Graph → Graph) : State :=
  { s with graphs := s.graphs.map fun g => if g.id == n then f g else g }
/-- Changes a node of a graph. -/
def State.updNode (s : State) (g n : Nat) (f : Node → Node) : State :=
  s.updGraph g fun x => { x with nodes := x.nodes.modify n f }
/-- An engine operation by serial. -/
def State.engine (s : State) (n : Nat) : Option EngOp := s.engines.find? fun e => e.serial == n
/-- Changes an engine operation. -/
def State.updEngine (s : State) (n : Nat) (f : EngOp → EngOp) : State :=
  { s with engines := s.engines.map fun e => if e.serial == n then f e else e }
/-- Drops an engine operation. -/
def State.dropEngine (s : State) (n : Nat) : State := { s with engines := s.engines.filter fun e => e.serial != n }
/-- A number never given before, and the state after giving it. -/
def State.fresh (s : State) : Nat × State := (s.nextSerial, { s with nextSerial := s.nextSerial + 1 })
/-- A free natural number (assumption 3). -/
def State.drawNat (s : State) : Nat × State := (Config.freeNat s.freeCtr, { s with freeCtr := s.freeCtr + 1 })

/-! ### Task registers -/

/-- A register: S0 reads 0 (R46). -/
def Task.reg (t : Task) (r : Reg) : Word := if r = 0 then 0 else t.regs[r]
/-- Writes a register: S0 discards (R46, R224). The word written is whole, so an error it held is gone (R389). -/
def Task.setReg (t : Task) (r : Reg) (v : Word) : Task :=
  if r = 0 then t else { t with regs := t.regs.set r v, softErr := t.softErr.filter fun x => x != r.val }
/-- A predicate: P7 reads 1 (R46). -/
def Task.pred (t : Task) (p : Pred) : Bool := if p = 7 then true else t.preds.getLsbD p.val
/-- Writes a predicate: P7 discards (R46, R224). -/
def Task.setPred (t : Task) (p : Pred) (v : Bool) : Task :=
  if p = 7 then t
  else { t with preds := if v then t.preds ||| BitVec.twoPow 7 p.val else t.preds &&& ~~~(BitVec.twoPow 7 p.val) }

/-- The classes of the outstanding-operation counters (R50). -/
inductive Cnt
  | ld | st | dr | sr | sv | rn
deriving DecidableEq, Repr

/-- A counter. -/
def Counters.get (c : Counters) : Cnt → BitVec 8
  | .ld => c.ld | .st => c.st | .dr => c.dr | .sr => c.sr | .sv => c.sv | .rn => c.rn
/-- Replaces a counter. -/
def Counters.put (c : Counters) (k : Cnt) (v : BitVec 8) : Counters :=
  match k with
  | .ld => { c with ld := v } | .st => { c with st := v } | .dr => { c with dr := v }
  | .sr => { c with sr := v } | .sv => { c with sv := v } | .rn => { c with rn := v }
/-- Raises a counter of a task. -/
def State.raiseCnt (s : State) (t : Nat) (k : Cnt) (n : Nat) : State :=
  s.updTask t fun x => { x with cnt := x.cnt.put k (BitVec.ofNat 8 ((x.cnt.get k).toNat + n)) }
/-- Lowers a counter of a task by one. -/
def State.lowerCnt (s : State) (t : Nat) (k : Cnt) : State :=
  s.updTask t fun x => { x with cnt := x.cnt.put k (BitVec.ofNat 8 ((x.cnt.get k).toNat - 1)) }

/-! ### Events (R357 to R360) -/

/-- A source number (R358). -/
def sourceNo (die unit : Nat) : Nat := 512 * die + unit
/-- The source number of a task slot (R358). -/
def taskSource (t : Nat) : Nat := sourceNo (taskDie t) (128 + t % 32)
/-- The incarnation of a die (R385). -/
def State.inc (s : State) (die : Nat) : BitVec 8 := (s.incs.toList[die]?).getD 0
/-- Adds an event to its source's buffer of 16; a full source counts it as dropped (R360). Every die's time is the one timestamp of the machine (DESIGN
CHOICE, assumption 106). -/
def State.logEvent (s : State) (source code part : Nat) (lo hi : Word) : State :=
  let e := Tab.get s.sources ⟨[], 0⟩ source
  let ev : Event := ⟨s.timestamp, source, code, part, s.inc (source / 512), lo, hi, false⟩
  let e1 := if e.buffer.length < 16 then { e with buffer := e.buffer ++ [ev] } else { e with dropped := e.dropped + 1 }
  { s with sources := Tab.set s.sources source e1 }

/-! ### Fault records (R382 to R384) -/

/-- What a fault reports: code, access, failing address, and word 3. -/
structure Report where
  code   : Nat
  access : Nat
  va     : Nat
  w3     : Nat
deriving DecidableEq, Repr

/-- Fault codes of R382. -/
def fILLOP : Nat := 1
/-- ILLCODE. -/
def fILLCODE : Nat := 2
/-- ILLCFG. -/
def fILLCFG : Nat := 3
/-- CFGBAD. -/
def fCFGBAD : Nat := 4
/-- XLATE. -/
def fXLATE : Nat := 5
/-- PERM. -/
def fPERM : Nat := 6
/-- FMT. -/
def fFMT : Nat := 7
/-- TAGFAIL. -/
def fTAGFAIL : Nat := 8
/-- TSTATE. -/
def fTSTATE : Nat := 10
/-- TOVER. -/
def fTOVER : Nat := 11
/-- SPGAP. -/
def fSPGAP : Nat := 14
/-- EFLOW. -/
def fEFLOW : Nat := 15
/-- POISON. -/
def fPOISON : Nat := 18
/-- DIERESET. -/
def fDIERESET : Nat := 19
/-- TRAP. -/
def fTRAP : Nat := 22

/-- Word 0 of a fault record (R383). -/
def faultWord0 (inc : BitVec 8) (part source vs cell slot cls access code : Nat) : Word :=
  BitVec.ofNat 64 (inc.toNat * 2 ^ 52 + part % 16 * 2 ^ 48 + source % 4096 * 2 ^ 36 + vs % 4096 * 2 ^ 24 + cell % 32 * 2 ^ 19
    + slot % 8 * 2 ^ 16 + cls % 16 * 2 ^ 12 + access % 16 * 2 ^ 8 + code % 256)

/-- The record of a task fault of class 0, 1 or 2. -/
def State.taskRecord (s : State) (t cls : Nat) (f : Report) : FRec :=
  ⟨faultWord0 (s.inc (taskDie t)) (s.partOf t) (taskSource t) 0 0 0 cls f.access f.code, s.timestamp, BitVec.ofNat 64 f.va,
    BitVec.ofNat 64 f.w3⟩

/-- Logs a record as a FAULT event with words 0 and 2 (R384). -/
def State.logFault (s : State) (source part : Nat) (r : FRec) : State := s.logEvent source 1 part r.w0 r.w2

/-- Sends a record to firmware (R384). -/
def State.toFirmware (s : State) (source part : Nat) (r : FRec) : State :=
  { (s.logFault source part r) with fwRecords := (s.logFault source part r).fwRecords ++ [r] }

/-! ### Tiles (R304 to R311) -/

/-- A tile by the model's own number. -/
def State.tileU (s : State) (u : Nat) : Option Tile := s.tiles.find? fun t => t.uid == u
/-- The tile a handle names in a partition on a die (R43). -/
def State.tile (s : State) (die part handle : Nat) : Option Tile :=
  s.tiles.find? fun t => t.die == die && t.partition == part && t.handle == handle
/-- Changes a tile. -/
def State.updTile (s : State) (u : Nat) (f : Tile → Tile) : State :=
  { s with tiles := s.tiles.map fun t => if t.uid == u then f t else t }
/-- The source number of a die's tile table (R358). -/
def tileSource (die : Nat) : Nat := sourceNo die 208
/-- Row bytes of a tile. -/
def Tile.rowBytes (t : Tile) : Nat := 64 * t.k
/-- Bytes of the data area. -/
def Tile.dataBytes (t : Tile) : Nat := t.rows * t.rowBytes
/-- The number of an owner, for event payloads. -/
def Owner.id : Owner → Nat
  | .graph n => n
  | .run n => 2 ^ 30 + n
  | .activation n => 2 ^ 31 + n
  | .ended => 0

/-- The handle-named tile became free: tasks waiting for it learn it (R272). -/
def metBy (t : Tile) (st : TileStateCode) : Bool :=
  decide (st.val = 0) || (decide (st.val = 2) && t.wasFull) || (decide (st.val = 3) && t.wasDrain)
    || (decide (2 ≤ st.val) && decide (t.state = .poison))

/-- Marks the waits that a tile's end satisfies (R272). -/
def wakeTile (t : Tile) (x : Task) : Task :=
  match x.waitFor with
  | some (.tileAt d h (some u) st m) => if u == t.uid then { x with waitFor := some (.tileAt d h (some u) st (m || metBy t st)) } else x
  | _ => x

/-- Marks a wait for a state that the tile it names has reached, so that it completes even if the tile leaves that state first (R272). -/
def reachWait (u st : Nat) (x : Task) : Task :=
  match x.waitFor with
  | some (.tileAt d h (some n) w _) => if n == u && w.val == st then { x with waitFor := some (.tileAt d h (some n) w true) } else x
  | _ => x

/-- The waits for a state that a tile has reached (R272). -/
def State.reached (s : State) (u st : Nat) : State := { s with tasks := s.tasks.map fun p => (p.1, reachWait u st p.2) }

/-- The key of a handle of a partition on a die. -/
def handleKey (die part handle : Nat) : Nat := (16 * die + part) * 2 ^ 20 + handle

/-- The writes on their way that the seals of a handle's freed tiles released (R296). -/
def State.freedDeps (s : State) (die part handle : Nat) : List Nat := Tab.get s.freed [] (handleKey die part handle)

/-- Keeps what the seal of a tile that becomes FREE released, while any of it is on its way (R296). -/
def State.keepFreed (s : State) (t : Tile) : State :=
  let deps := if t.wasFull then t.deps.filter fun n => s.inFlight.any fun r => r.serial == n else []
  if deps.isEmpty then s
  else { s with freed := Tab.set s.freed (handleKey t.die t.partition t.handle) (s.freedDeps t.die t.partition t.handle ++ deps).eraseDups }

/-- A tile becomes FREE: its entry goes and its storage returns (R308, R314). -/
def State.freeTile (s : State) (u : Nat) : State :=
  match s.tileU u with
  | none => s
  | some t =>
    let s0 := s.keepFreed t
    let s1 := { s0 with tiles := s.tiles.filter (fun x => x.uid != u), tasks := s.tasks.map fun p => (p.1, wakeTile t p.2) }
    if t.hb then s1
    else match t.funded with
      | some r => match s1.run r with
        | some _ => s1.updRun r fun x => { x with used := x.used - t.storage.length }
        | none => let q := s1.pool t.die t.partition
                  s1.setPool t.die t.partition { q with held := q.held - t.storage.length }
      | none =>
        let q := s1.pool t.die t.partition
        s1.setPool t.die t.partition { q with held := q.held - t.storage.length }

/-- Frees a tile whose reads remaining are 0 with none in progress (R308). -/
def State.settleTile (s : State) (u : Nat) : State :=
  match s.tileU u with
  | none => s
  | some t =>
    if t.state = .filling then s
    else if t.reads = 0 && t.inProg = 0 && t.mode ≠ .pinned then s.freeTile u
    else s

/-- The owner of this tile has ended and its reads are over: R311's rows for a tile that is not FILLING. -/
def State.ownerEndTile (s : State) (u : Nat) : State :=
  match s.tileU u with
  | none => s
  | some t =>
    match t.mode with
    | .pinned => if t.inProg = 0 then s.freeTile u else s
    | .anonymous =>
      if t.inProg = 0 then
        (if t.reads = 0 then s
         else s.logEvent (tileSource t.die) 4 t.partition (BitVec.ofNat 64 t.handle) (BitVec.ofNat 64 t.reads)).freeTile u
      else s
    | .declared => s

/-- The identifier of a reader in an ABANDON event: a run's is that of R252 (R310, R425); for a task activation no rule gives a form, and the model's own
number stands (DESIGN CHOICE, assumption 114). -/
def State.readerIdent (s : State) (reader : Owner) : Word :=
  match reader with
  | .run n => match s.run n with | some r => r.opId | none => 0
  | .graph _ | .activation _ | .ended => BitVec.ofNat 64 reader.id

/-- Abandons a declared slot of a tile that is not FILLING (R310). -/
def State.abandonSlot (s : State) (u slot : Nat) (reader : Owner) : State :=
  match s.tileU u with
  | none => s
  | some t =>
    if t.slotsIn.contains slot || t.done.getLsbD slot || !t.rmask.getLsbD slot then s
    else
      let s1 := s.updTile u fun x => { x with done := x.done ||| BitVec.twoPow 8 slot, reads := x.reads - 1 }
      (s1.logEvent (tileSource t.die) 3 t.partition (BitVec.ofNat 64 (t.handle + slot * 2 ^ 20)) (s1.readerIdent reader)).settleTile u

/-- The slots of an owner whose binding has ended, with the reader that held it (R310, R423). -/
def State.endedSlots (s : State) (o : Owner) : List (Nat × Owner) :=
  (s.bindings.filter fun b => b.ended && b.owner == o).map fun b => (b.slot, b.reader)

/-- What a tile does on leaving FILLING: the slots whose binding ended while it was FILLING, or had ended before it was allocated, abandon it
(R310, R423), and an ended owner's rows of R311 apply. -/
def State.leftFilling (s : State) (u : Nat) : State :=
  match s.tileU u with
  | none => s
  | some t =>
    let s1 := (t.abandoned ++ s.endedSlots t.owner).foldl (fun x p => x.abandonSlot u p.1 p.2) (s.updTile u fun x => { x with abandoned := [] })
    if t.doomed then s1.ownerEndTile u else s1.settleTile u

/-- Whether an engine operation fills a tile. -/
def EngKind.fills (k : EngKind) (u : Nat) : Bool :=
  match k with
  | .draw _ _ t => t == u
  | .draws d => d.tiles.any fun t => t.1 == u
  | .txfer _ t _ _ => t == u
  | .send .. | .copym .. => false

/-- A tile that an engine operation fills reaches FULL or POISON: dr of the task that issued the operation falls (R50), and a WAIT on it acquires
what the tile's move released (R271, R288). -/
def State.filled (s : State) (t : Tile) (deps : List Nat) : State :=
  if t.filling then
    match (s.engines.find? fun e => e.kind.fills t.uid).bind fun e => e.task with
    | some k => (s.lowerCnt k .dr).updTask k fun x => { x with acqDr := (x.acqDr ++ deps).eraseDups }
    | none => s
  else s

/-- FILLING to FULL: a release carrying `deps` (R308). -/
def State.sealTile (s : State) (u : Nat) (deps : List Nat) : State :=
  match s.tileU u with
  | none => s
  | some t => ((s.filled t deps).updTile u fun x => { x with state := .full, filling := false, wasFull := true, deps := deps }).leftFilling u

/-- A tile to POISON, with its counts kept (R308); `log` for the event. -/
def State.poisonTile (s : State) (u : Nat) (log : Bool) : State :=
  match s.tileU u with
  | none => s
  | some t =>
    let s1 := (s.filled t []).updTile u fun x => { x with state := .poison, filling := false }
    let s2 := if log then s1.logEvent (tileSource t.die) 0xB t.partition (BitVec.ofNat 64 t.handle) 0 else s1
    if t.state = .filling then s2.leftFilling u else s2.settleTile u

/-- An agent reads the table entry of a handle: one with an uncorrectable error moves its tile to POISON, and its handle is logged (R331). -/
def State.readEntry (s : State) (die part handle : Nat) : State :=
  match s.tile die part handle with
  | none => s
  | some t => if t.bad then (s.updTile t.uid fun x => { x with bad := false }).poisonTile t.uid true else s

/-- The binding of a slot of an owner that has not ended. -/
def State.binding (s : State) (o : Owner) (k : Nat) : Option Binding := s.bindings.find? fun b => b.owner == o && b.slot == k

/-- Binds slot k of an owner to a reader: anew after an ended binding, never over another reader's (R310). -/
def State.bind (s : State) (o : Owner) (k : Nat) (reader : Owner) : State :=
  match s.binding o k with
  | some b =>
    if b.ended then
      { s with bindings := s.bindings.map fun x => if x.owner == o && x.slot == k then { x with reader := reader, ended := false } else x }
    else s
  | none => { s with bindings := s.bindings ++ [⟨o, k, reader, false⟩] }

/-- Whether a consuming read may begin (R309): `slot` for a declared-reader tile. -/
def Tile.mayRead (t : Tile) (slot : Option Nat) : Bool :=
  decide (t.state ≠ .filling)
  && (match t.mode with
      | .pinned | .anonymous => decide (t.inProg < t.reads)
      | .declared => decide (t.inProg < t.reads)
          && (match slot with
              | some k => t.rmask.getLsbD k && !t.done.getLsbD k && !t.slotsIn.contains k
              | none => false))

/-- The slot a read counts as: none where the tile has no declared readers (R262). -/
def Tile.readSlot (t : Tile) (slot : Option Nat) : Option Nat := if t.mode = .declared then slot else none

/-- Begins a consuming read (R308): the caller has checked `mayRead`. -/
def State.beginRead (s : State) (u : Nat) (slot : Option Nat) : State :=
  (s.updTile u fun t => { t with
    state := if t.state = .full then .draining else t.state
    wasDrain := t.wasDrain || decide (t.state = .full)
    inProg := t.inProg + 1
    slotsIn := (match t.readSlot slot with | some k => t.slotsIn ++ [k] | none => t.slotsIn) }).reached u 3

/-- Ends a consuming read (R308). -/
def State.endRead (s : State) (u : Nat) (slot : Option Nat) : State :=
  match s.tileU u with
  | none => s
  | some t =>
    let s1 := s.updTile u fun t => { t with
      inProg := t.inProg - 1
      reads := if t.mode = .pinned then t.reads else t.reads - 1
      done := (match t.readSlot slot with | some k => t.done ||| BitVec.twoPow 8 k | none => t.done)
      slotsIn := (match t.readSlot slot with | some k => t.slotsIn.erase k | none => t.slotsIn)
      state := if t.state = .draining && decide (t.inProg - 1 = 0) then .full else t.state }
    if t.doomed && t.mode ≠ .declared then (s1.ownerEndTile u).settleTile u else s1.settleTile u

/-- A reader ends: every binding of it is marked ended, and its unread declared tiles are abandoned (R310). -/
def State.readerEnd (s : State) (reader : Owner) : State :=
  let mine := s.bindings.filter fun b => b.reader == reader && !b.ended
  let s1 := { s with bindings := s.bindings.map fun b => if b.reader == reader then { b with ended := true } else b }
  mine.foldl (fun x b =>
    (x.tiles.filter fun t => t.owner == b.owner && t.mode == .declared && t.rmask.getLsbD b.slot && !t.done.getLsbD b.slot).foldl
      (fun y t =>
        if t.state = .filling then y.updTile t.uid fun z => { z with abandoned := z.abandoned ++ [(b.slot, reader)] }
        else y.abandonSlot t.uid b.slot reader) x) s1

/-- R311's row for one tile at its owner's end. A pinned tile that a task fills matches two rows: the model takes the first, by which it is freed with
no event (DESIGN CHOICE, assumption 101). -/
def State.ownerEndOf (s : State) (t : Tile) : State :=
  let s1 := s.updTile t.uid fun x => { x with doomed := true }
  if t.state = .filling then
    (if t.filling then s1
     else if t.mode = .pinned then s1.freeTile t.uid
     else (s1.logEvent (tileSource t.die) 4 t.partition (BitVec.ofNat 64 t.handle) (BitVec.ofNat 64 t.reads)).freeTile t.uid)
  else s1.ownerEndTile t.uid

/-- An owner ends (R311); its bindings end with it (R310), but for those by which R310 still frees a declared-reader tile that is kept. -/
def State.ownerEnd (s : State) (o : Owner) : State :=
  let s1 := (s.tiles.filter fun t => t.owner == o).foldl State.ownerEndOf s
  { s1 with bindings := s1.bindings.filter fun b => b.owner != o || s1.tiles.any fun t => t.owner == o && t.mode == .declared }

/-! ### Groups (R51 to R53) -/

/-- The phase advances when the arrivals equal the members; an empty group dissolves (R52). -/
def Group.settle (g : Group) : Group :=
  if !g.members.isEmpty && g.members.all (fun m => g.arrivals.contains m) then { g with arrivals := [], phase := g.phase + 1 } else g

/-- An activation leaves one group (R52). -/
def Group.leave (g : Group) (t : Nat) : Group :=
  if g.members.contains t then
    Group.settle { g with members := g.members.filter (fun m => m != t), arrivals := g.arrivals.filter fun m => m != t }
  else g

/-- An activation leaves the groups a test picks; groups left empty go (R52). -/
def State.leaveGroups (s : State) (t : Nat) (which : Group → Bool) : State :=
  { s with groups := (s.groups.map fun g => if which g then g.leave t else g).filter fun g => !g.members.isEmpty }

/-- The group of a key on a die in a partition. -/
def State.group (s : State) (die part : Nat) (key : BitVec 32) : Option Group :=
  s.groups.find? fun g => g.die == die && g.part == part && g.key == key

/-! ### Graph failures (R342) -/

/-- A node fails: the graph is cancelled, and the first failure is what its completion record reports (R342, R343). -/
def State.failNode (s : State) (g n reason detail : Nat) : State :=
  (s.updNode g n fun x => { x with status := .failed, ended := true }).updGraph g fun x =>
    if x.failStatus = 0 then { x with cancelled := true, failStatus := 3, failReason := reason, failNode := n, failDetail := detail }
    else { x with cancelled := true }

/-! ### Withdrawing a request -/

/-- Withdraws a task's queued pool request; a grant it had is released (R267, R225). -/
def State.withdraw (s : State) (die p id : Nat) : State :=
  let q := s.pool die p
  let back := ((q.queue.filter fun r => r.id == id && r.granted).map fun r => r.n).foldl (· + ·) 0
  s.setPool die p { q with queue := q.queue.filter (fun r => r.id != id), hbQueue := q.hbQueue.filter (fun r => r.id != id)
                           held := q.held - back }

/-- Forgets what a task was waiting for: the instruction issues again from its start (R48). -/
def State.cancelWait (s : State) (t : Nat) : State :=
  let s1 := match (s.task t).waitFor with
    | some (.grant die _ id _) => s.withdraw die (s.partOf t) id
    | _ => s
  s1.updTask t fun x => { x with waitFor := none, fwCall := none, fwReply := none }

/-! ### Taking an exception and returning from one (R48, R225, R276) -/

/-- Failures of a task that its end leaves unreported: a record of each goes to firmware (R225, DESIGN CHOICE, assumption 88). -/
def State.dropDeferred (s : State) (t : Nat) : State :=
  let l := (s.task t).deferred
  (l.foldl (fun (x : State) d => x.toFirmware (taskSource t) (x.partOf t) (x.taskRecord t 2 ⟨d.code, d.access, d.va.toNat, d.w3.toNat⟩)) s).updTask t fun y =>
    { y with deferred := [] }

/-- A task stops (R48): a class-2 record goes to firmware and the slot becomes IDLE with its channel as it is; it leaves its groups
(R52), its bindings as a reader end (R310), its node fails (R342), and a run whose rebuild stub it ran ends with cause 3 (R374). -/
def State.stopTask (s : State) (t : Nat) (f : Report) : State :=
  let x := s.task t
  let s1 := ((s.cancelWait t).toFirmware (taskSource t) (s.partOf t) (s.taskRecord t 2 f)).dropDeferred t
  let s2 := match x.node with
    | some (g, n) => s1.failNode g n 2 f.code
    | none => s1
  let s3 := match x.stubRun with
    | some r => s2.updRun r fun y => { y with stopping := .now 3 }
    | none => s2
  let s4 := (s3.leaveGroups x.activation fun _ => true).readerEnd (.activation x.activation)
  s4.updTask t fun y => { y with status := .idle, inHandler := false, parked := true, node := none, stubRun := none
                                 relHold := [], fenceDev := ⟨[], []⟩, fenceSys := ⟨[], []⟩ }

/-- Handler entry (R48, R225): EPC receives the address the entry names, the record goes to FREC0 to FREC3, PC to HVEC, ESTAT becomes
RUNNABLE, the in-handler bit is set, and the safe-point counter starts again (R275). -/
def Task.enterHandler (x : Task) (epc : BitVec 16) (r : FRec) : Task :=
  { x with status := .handler, inHandler := true, estat := .runnable, epc := epc, pc := x.hvec, frec := r, spcount := 0 }

/-- Taking an exception: a fault of class `cls` enters the handler, or stops a task that is already in it (R48). -/
def State.takeFault (s : State) (t cls : Nat) (epc : BitVec 16) (f : Report) : State :=
  if (s.task t).inHandler then s.stopTask t f
  else
    let r := s.taskRecord t cls f
    let s1 := (s.cancelWait t).logFault (taskSource t) (s.partOf t) r
    s1.updTask t fun x => x.enterHandler epc r

/-- Returning from an exception (R276): the in-handler bit clears and the status of ESTAT returns, RUNNABLE at EPC or IDLE. -/
def Task.eret (x : Task) : Task :=
  match x.estat with
  | .idle => { x with status := .idle, inHandler := false }
  | _ => { x with status := .runnable, inHandler := false, pc := x.epc }

/-! ### Endpoints and channels (R113, R238, R240) -/

/-- An endpoint's fields: enable, die, ring, channel; `none` for a reserved value. -/
structure Endpoint where
  on   : Bool
  ring : Nat
  chan : Nat
deriving DecidableEq, Repr

/-- R113. -/
def endpointOf (e : BitVec 16) : Option Endpoint :=
  if (e.extractLsb' 10 5 == 0) && !e.getLsbD 4 && decide ((e.extractLsb' 7 3).toNat < 6) then
    some ⟨e.getLsbD 15, 4 * (e.extractLsb' 7 3).toNat + (e.extractLsb' 5 2).toNat, (e.extractLsb' 0 4).toNat⟩
  else none

/-- Whether a run holds its rings. -/
def Run.placed (r : Run) : Bool := match r.phase with | .placed | .running => true | _ => false

/-- The run that occupies a logical ring: where the remap table of its die names a target, the run that has moved there while it is placed
(R113, R379). -/
def State.runOnRing (s : State) (ring : Nat) : Option Run :=
  let moved := (Tab.find s.remap ring).bind fun g => s.runs.find? fun r => r.placed && (r.rings.zip r.phys).contains (ring, g)
  match moved with
  | some r => some r
  | none => s.runs.find? fun r => r.placed && (r.rings.zip r.phys).contains (ring, ring)

/-- The kind byte of a binding (R117). -/
def bindKind (b : Word) : Nat := (b.extractLsb' 56 8).toNat

/-- The 512-bit payload of an entry's word, in lanes 1:0. -/
def wordPayload (w : Word) : Payload := w.setWidth 512

/-- The token an entry becomes in an input FIFO (R240, R117). -/
def entryToken (kind level : BitVec 3) (slice : Bool) (w : Word) : Token :=
  if kind = 1 then ⟨1, level, 0xFFFF, slice, 0, [], false, 0, false⟩
  else if kind = 0 then ⟨0, 0, 0x0003, false, wordPayload w, [], false, 0, false⟩
  else ⟨kind, 0, 0x0003, false, wordPayload w, [], false, 0, false⟩

/-- What became of a delivery. -/
inductive Delivery
  | done (s : State)
  | full
  | none
  | perm
deriving DecidableEq, Repr

/-- Puts an entry into a task's channel; a new entry ends the parking of a stopped slot (R48). -/
def State.pushQ (s : State) (t : Nat) (e : QEntry) : State :=
  (s.setQueue t (s.queue t ++ [e])).updTask t fun x => { x with parked := false }

/-- Puts a token into a channel for every reader. -/
def Chan.push (c : Chan) (t : Token) : Chan := { c with readers := c.readers.map fun r => (r.1, r.2 ++ [t]) }
/-- Whether a channel has a free slot (R18). -/
def Chan.hasRoom (c : Chan) : Bool := c.readers.all fun r => decide (r.2.length < c.depth)
/-- Whether a channel holds anything. -/
def Chan.isEmpty (c : Chan) : Bool := c.readers.all fun r => r.2.isEmpty
/-- Tokens a channel holds: a slot is freed when every reader has consumed it (R18). -/
def Chan.load (c : Chan) : Nat := (c.readers.map fun r => r.2.length).foldl max 0

/-! ### Input FIFOs (R370, R429) -/

/-- Where a source stops presenting input: at a STOP of the safe level, which a marking flags (R370), and for RSTOP.SAFE at a SAFE token
too (R267); `swap` while an accepted image swap is to travel (R268); `number` is that of the marking. -/
structure CutRule where
  safe   : Nat
  flag   : Bool
  stop   : Bool
  swap   : Bool
  number : Nat
deriving DecidableEq, Repr

/-- The rule of a run: a marking of a cyclic run flags nothing, and such a run stops at its QUIET (R267, R381). -/
def Run.cutRule (r : Run) : CutRule :=
  { safe := r.recd.safe, flag := r.marking.isSome && !r.recd.cyclic, stop := decide (r.stopping = .safe) && !r.recd.cyclic
    swap := match r.pending with | some p => p.accepted | none => false
    number := r.markNo }

/-- Whether a token is a STOP of the safe level. -/
def CutRule.isSafe (c : CutRule) (t : Token) : Bool := decide (c.safe ≠ 0) && t.kind == 1 && decide (t.level.toNat = c.safe)

/-- Whether a source stops behind this token. -/
def CutRule.at (c : CutRule) (t : Token) : Bool := ((c.flag || c.stop) && c.isSafe t) || (c.stop && t.kind == 4)

/-- The token as it is presented. -/
def CutRule.mark (c : CutRule) (t : Token) : Token := if c.flag && c.isSafe t then { t with slice := true, mark := c.number } else t

/-- Whether an input FIFO has room for an entry (R429). -/
def InBind.room (i : InBind) : Bool := decide (i.fifo.load + i.kept.length < 32)

/-- An entry reaches an input FIFO (R370, R429). -/
def InBind.accept (c : CutRule) (i : InBind) (t : Token) : InBind :=
  let now := c.swap && !i.swapped && c.isSafe t
  let t := { t with swap := now }
  let i := { i with swapped := i.swapped || now }
  if i.cut then { i with kept := i.kept ++ [t] }
  else { i with fifo := i.fifo.push (c.mark t), cut := c.at t }

/-- Puts the mark of an image swap on the first STOP of the safe level. -/
def CutRule.swapFirst (c : CutRule) : List Token → List Token × Bool
  | [] => ([], false)
  | t :: ts =>
    if c.isSafe t then ({ t with swap := true } :: ts, true)
    else
      let (a, f) := CutRule.swapFirst c ts
      (t :: a, f)

/-- The entries no reader has taken, up to the first the source stops behind. -/
def CutRule.split (c : CutRule) : List Token → List Token × List Token × Bool
  | [] => ([], [], false)
  | t :: ts =>
    if c.at t then ([c.mark t], ts, true)
    else
      let (a, b, f) := CutRule.split c ts
      (t :: a, b, f)

/-- The entries that no reader has taken. -/
def Chan.untaken (c : Chan) : List Token :=
  match c.readers with
  | [] => []
  | r :: rs => r.2.drop (r.2.length - (rs.map fun x => x.2.length).foldl min r.2.length)

/-- Replaces the entries that no reader has taken. -/
def Chan.setUntaken (c : Chan) (a : List Token) : Chan :=
  { c with readers := c.readers.map fun r => (r.1, r.2.take (r.2.length - c.untaken.length) ++ a) }

/-- An input FIFO at a marking or a stop: it stops behind the first such token that no reader has taken (R370). -/
def InBind.cutNow (c : CutRule) (i : InBind) : InBind :=
  if i.cut then i
  else
    match c.split i.fifo.untaken with
    | (a, b, true) => { i with fifo := i.fifo.setUntaken a, kept := b, cut := true }
    | _ => i

/-- An image swap is accepted: it travels with the next STOP of the safe level that no reader has taken (R268). -/
def InBind.swapNow (c : CutRule) (i : InBind) : InBind :=
  match c.swapFirst i.fifo.untaken with
  | (a, true) => { i with fifo := i.fifo.setUntaken a, swapped := true }
  | _ =>
    let (k, f) := c.swapFirst i.kept
    { i with kept := k, swapped := f }

/-- The source presents input again (R374, R377). -/
def InBind.uncut (i : InBind) : InBind :=
  { i with fifo := { i.fifo with readers := i.fifo.readers.map fun r => (r.1, r.2 ++ i.kept) }, kept := [], cut := false }

/-- Delivers an entry to an endpoint in a partition (R113, R240). An entry for a QUEUE binding that a STOP of level 7 has closed goes nowhere, and its
writer goes on (DESIGN CHOICE, assumption 98). -/
def State.deliver (s : State) (part : Nat) (ep : BitVec 16) (e : QEntry) : Delivery :=
  match endpointOf ep with
  | Option.none => .perm
  | some x =>
    if !x.on then .none
    else if s.ringPart x.ring ≠ some part then .perm
    else if x.chan < 8 then
      let t := 8 * x.ring + x.chan
      if (s.queue t).length < 32 then .done (s.pushQ t e) else .full
    else match s.runOnRing x.ring with
      | Option.none => .perm
      | some r =>
        match r.recd.ifb.toList[x.chan - 8]? with
        | Option.none => .perm
        | some b =>
          if bindKind b ≠ 2 then .perm
          else if _hk : x.chan - 8 < 8 then
            let i := r.ins[x.chan - 8]
            if i.closed then .none
            else if i.room then
              let closes := decide (e.kind = 1) && decide (e.level = 7)
              let t := { entryToken e.kind e.level e.slice e.word with deps := e.deps }
              .done (s.updRun r.serial fun y => { y with ins := y.ins.set (x.chan - 8) ({ i.accept r.cutRule t with closed := closes } : InBind) })
            else .full
          else .perm

/-- Delivers an entry where nothing waits: a refused or full endpoint drops it. -/
def State.deliverOrDrop (s : State) (part : Nat) (ep : BitVec 16) (e : QEntry) : State :=
  match s.deliver part ep e with
  | .done s1 => s1
  | _ => s

/-! ### Run records (R383, R384) -/

/-- The identifier of an operation (R252). -/
def opIdent (kind die ring slot serial : Nat) : Word :=
  BitVec.ofNat 64 (kind * 2 ^ 62 + die * 2 ^ 41 + ring * 2 ^ 39 + slot * 2 ^ 36 + serial % 2 ^ 32)

/-- The scroll controller's source number for a run: that of the first ring it lies on, or is to be placed on (R358, R379). -/
def Run.source (r : Run) : Nat :=
  match r.phys ++ r.rings with
  | [] => sourceNo 6 256
  | g :: _ => sourceNo (ringDie g) (210 + g % 4)

/-- Logs a run's record, and buffers it for its fault endpoint while fewer than 8 wait and the endpoint is enabled (R384). -/
def State.runRecord (s : State) (n : Nat) (rec : FRec) : State :=
  match s.run n with
  | none => s
  | some r =>
    let s1 := s.logFault r.source r.partition rec
    if r.records.length < 8 && r.recd.faultEp.getLsbD 15 then s1.updRun n fun y => { y with records := y.records ++ [(rec, 0)] } else s1

/-- A record of a run without a cell: classes 3 and 7. -/
def State.runFault (s : State) (n cls access code va : Nat) : State :=
  match s.run n with
  | none => s
  | some r => s.runRecord n ⟨faultWord0 (s.inc (r.source / 512)) r.partition r.source 0 0 0 cls access code, s.timestamp,
      BitVec.ofNat 64 va, r.opId⟩

/-- Asks for a run to be stopped by hardware; its RUN_END follows when no request is outstanding (R266). -/
def State.endRunSoon (s : State) (n cause : Nat) : State :=
  s.updRun n fun r => match r.stopping with
    | .now _ => r
    | _ => { r with stopping := .now cause }

end Sys2Proof.Machine
end

