-- ==== Sys2Proof/Machine/Flags.lean ====
section
/-! DEFINITION. Machine/Flags: guards, conditions and truth tables, and the statistics an op counts: every one-bit result of the machine. -/
namespace Sys2Proof.Machine

/-- The guard is true when the predicate's value, exclusive-ored with the sense, is 1 (R223). -/
def Guard.holds (g : Guard) (x : Task) : Bool := x.pred g.p != g.sense

/-- A condition of R232 between two words. -/
def Cond.holds (c : Cond) (a y : Word) : Bool :=
  match c with
  | .eq => a == y
  | .ne => a != y
  | .lt => a.slt y
  | .le => a.sle y
  | .gt => y.slt a
  | .ge => y.sle a
  | .ltn => a.ult y
  | .len => a.ule y
  | .gtn => y.ult a
  | .gen => y.ule a

/-- PLOG's table: bit 2 × Pa + Pb (R233). -/
def plogBit (table : BitVec 4) (pa pb : Bool) : Bool := table.getLsbD ((if pa then 2 else 0) + (if pb then 1 else 0))

/-- The category counts saturate: SAT, NAN and UNF at 32 bits, OOB and MISMATCH at 16 (R86). -/
def Silt.count (c : Silt) (e : Ev) : Silt :=
  { c with sat := min (c.sat + e.sat) 0xFFFFFFFF, nan := min (c.nan + e.nan) 0xFFFFFFFF, unf := min (c.unf + e.unf) 0xFFFFFFFF }
/-- One stream-length mismatch (R30). -/
def Silt.addMis (c : Silt) : Silt := { c with mis := min (c.mis + 1) 0xFFFF }
/-- Out-of-bounds reads (R197). -/
def Silt.addOob (c : Silt) (n : Nat) : Silt := { c with oob := min (c.oob + n) 0xFFFF }
/-- No counts. -/
def Silt.zero : Silt := ⟨0, 0, 0, 0, 0⟩

end Sys2Proof.Machine
end

