-- ==== Sys2Proof/Machine/GMem.lean ====
section
/-! DEFINITION. Machine/GMem: the homes of addresses, translation and its walks, permissions, sealed blocks, and the coherent memory of R281 to R294: one home order, and the view each die has of it. -/
namespace Sys2Proof.Machine

/-! ### Formats and physical addresses -/

/-- The type of a format's type code. -/
def fmtTy (f : BitVec 6) : Option Ty :=
  [Ty.i8, .n8, .i16, .n16, .i32, .n32, .i64, .b32, .f32, .f16, .bf16, .e4m3, .e5m2, .q8, .q4][(f.extractLsb' 0 4).toNat]?
/-- A format's group size, 0 for none (R61). -/
def fmtGroup (f : BitVec 6) : Nat :=
  match (f.extractLsb' 4 2).toNat with | 1 => 32 | 2 => 64 | 3 => 128 | _ => 0
/-- Whether a format is valid (R61). -/
def fmtValid (f : BitVec 6) : Bool :=
  match fmtTy f with
  | none => false
  | some .q8 | some .q4 => decide (fmtGroup f ≠ 0)
  | some _ => decide (fmtGroup f = 0)
/-- The element width of a format in bits. -/
def fmtWidth (f : BitVec 6) : Nat :=
  match (f.extractLsb' 0 4).toNat with
  | 0 | 1 | 11 | 12 | 13 => 8
  | 2 | 3 | 9 | 10 => 16
  | 6 => 64
  | 14 => 4
  | _ => 32

/-- The 64 GiB of package addresses that a stack's number gives (R324, assumption 10). -/
def paStack (pa : Nat) : Nat := pa / 2 ^ 36
/-- The compute die of those addresses. -/
def paDie (pa : Nat) : Nat := paStack pa / 2
/-- Whether an address is in package memory (R400). -/
def paHbm (pa : Nat) : Bool := decide (pa < 2 ^ 51)
/-- The space code of a physical address (R400). -/
def paSpace (pa : Nat) : Nat := pa / 2 ^ 50 % 4
/-- The metadata area: the top 768 MiB of each stack (R324). -/
def paMeta (pa : Nat) : Bool := decide (2 ^ 36 - 768 * 2 ^ 20 ≤ pa % 2 ^ 36)
/-- The partition whose unit holds a package address (R392). -/
def State.unitOwner (s : State) (pa : Nat) : Option Nat :=
  (s.partitions.find? fun p => p.2.units.any fun u => u.1 == pa / 2 ^ 21).map Prod.fst

/-- The die in whose HB area an address lies (R332). -/
def State.hbDie (s : State) (pa : Nat) : Option Nat :=
  (s.pools.find? fun q => decide (q.2.hbBase ≤ pa) && decide (pa < q.2.hbBase + 2048 * q.2.hbSize)).map fun q => q.1 / 16

/-- Whether a partition may reach an address through a sealed or a shared mapping (R320): never an HB area, which no virtual address reaches
(R332). -/
def State.paAllowed (s : State) (part : Nat) (shared : Bool) (pa : Nat) : Bool :=
  if paHbm pa then
    !paMeta pa && decide (paStack pa < 12) && (s.hbDie pa).isNone
    && (if shared then (s.part part).units.contains (pa / 2 ^ 21, true) else (s.part part).units.any fun u => u.1 == pa / 2 ^ 21)
  else shared

/-! ### Homes, views and blocks (R282, R284, R328, R329) -/

/-- The device mode of a context. -/
def State.modeOf (s : State) (asid : Nat) : DevMode := match Tab.find s.contexts asid with | some c => c.mode | none => .one

/-- The stack of an address under a mode's interleave of 64 KiB: over all 12 stacks, over the six of its device, or over its die's two (R284). -/
def modeStack (m : DevMode) (pa : Nat) : Nat :=
  match m with
  | .one => pa / 65536 % 12
  | .two => 6 * (paDie pa / 3) + pa / 65536 % 6
  | .six => 2 * paDie pa + pa / 65536 % 2

/-- The stack that holds an address (R282, R284): that of the interleave of the device mode, which for a unit is its partition's default
context's (DEDUCED, assumption 68). The HB area of a die lies on the die's own stacks (R332). -/
def State.stackOf (s : State) (pa : Nat) : Nat :=
  match s.hbDie pa with
  | some d => 2 * d + pa / 65536 % 2
  | none => modeStack (match s.unitOwner pa with | some p => s.modeOf (s.part p).defaultCtx | none => .one) pa

/-- The compute die an address is homed at: the die of its stack (R282). -/
def State.homeOf (s : State) (pa : Nat) : Nat := s.stackOf pa / 2

/-- The byte a die reads: the home's latest, or the older value it still has. The I/O dies and the graph scheduler read the home. A byte of
host memory or of a peer's window is free (assumption 3). -/
def State.view (s : State) (die pa : Nat) : Byte :=
  if !paHbm pa then Config.outsideByte s.freeCtr pa
  else match s.stale.find? fun x => x.die == die && x.pa == pa with
  | some x => x.value
  | none => Memory.read s.mem pa

/-- The bytes a die reads from an address on. -/
def State.viewBytes (s : State) (die : Nat) : Nat → Nat → List Byte
  | _, 0 => []
  | pa, n + 1 => s.view die pa :: State.viewBytes s die (pa + 1) n

/-- The Kiln of a partition on a die. -/
def State.kiln (s : State) (die part : Nat) : Kiln := Tab.get s.kilns Kiln.reset (poolKey die part)

/-- Whether a generation of a partition is live on a die (R329). -/
def Kiln.isLive (k : Kiln) (g : BitVec 16) : Bool := k.live.any fun x => x.1 == g

/-- The number of the node of a counter tree at a level and index: the tree is that of the stack's number of 64 GiB (R327, PRESUMED, assumption
10). -/
def nodeKey (level index : Nat) : Nat := paStack (2048 * (index * 8 ^ level)) * 2 ^ 32 + level * 2 ^ 29 + index

/-- The nodes of a counter tree above a block that HBM holds, leaf first (R327). -/
def treePath (block : Nat) : List Nat := [1, 2, 3].map fun l => nodeKey l (block / 8 ^ l)

/-- Whether a node above a block has failed its MAC, and the block has not been initialised since (R327). -/
def State.nodeFailed (s : State) (block : Nat) : Bool :=
  (treePath block).any fun k => match Tab.find s.treeBad k with
    | some n => decide ((Tab.get s.blocks Block.reset block).since ≤ n)
    | none => false

/-- The fault that reading a block's bytes meets, if any (R328): POISON for an uncorrectable error, TAGFAIL for a sealed block that fails, or that
lies beneath a tree node that does (R327). A block in the cache holds verified plaintext; where its line has an uncorrectable error a clean
block is read again, and a modified one reads as TAGFAIL (R389). -/
def State.blockFault (s : State) (shared : Bool) (pa : Nat) : Option Nat :=
  if !paHbm pa then none
  else
    let b := Tab.get s.blocks Block.reset (pa / 2048)
    if shared then (if b.eccBad then some fPOISON else none)
    else if b.cached && !b.lineBad then none
    else if b.cached && b.dirty then some fTAGFAIL
    else if b.eccBad then some fPOISON
    else if b.badTag || s.nodeFailed (pa / 2048) then some fTAGFAIL
    else match s.unitOwner pa with
      | none => some fTAGFAIL
      | some p => if (s.kiln (s.homeOf pa) p).isLive b.gen then none else some fTAGFAIL

/-! ### Range tables and page tables (R318 to R320) -/

/-- Whether a range entry is valid and covers an address (R318). -/
def rangeCovers (w : BitVec 256) (va : Nat) : Bool :=
  w.getLsbD 63 && decide ((w.extractLsb' 12 36).toNat ≤ va / 4096) && decide (va / 4096 ≤ (w.extractLsb' 76 36).toNat)

/-- Whether the zero fields of a range entry are zero and its cache class is one (R318, R320). -/
def rangeOk (w : BitVec 256) : Bool :=
  w.extractLsb' 204 4 == 0 && w.extractLsb' 180 12 == 0 && w.extractLsb' 112 28 == 0 && w.extractLsb' 64 12 == 0
  && w.extractLsb' 48 15 == 0 && w.extractLsb' 0 12 == 0 && w.extractLsb' 202 2 != 3

/-- The translation that a range entry gives (R318). -/
def rangeTlb (die asid page : Nat) (w : BitVec 256) : TlbEntry :=
  let base := (w.extractLsb' 12 36).toNat
  { die := die, asid := asid, page := page, base := 4096 * base, size := 4096 * ((w.extractLsb' 76 36).toNat + 1 - base)
    pa := 4096 * (w.extractLsb' 140 40).toNat, format := w.extractLsb' 192 6, read := w.getLsbD 198, write := w.getLsbD 199
    atomic := w.getLsbD 200, shared := w.getLsbD 201, cls := w.extractLsb' 202 2, side := w.extractLsb' 208 48, fault := none }

/-- A walk that failed, with the fault it reports. -/
def failedTlb (die asid page code : Nat) : TlbEntry :=
  { die := die, asid := asid, page := page, base := 4096 * page, size := 4096, pa := 0, format := 0, read := false, write := false
    atomic := false, shared := false, cls := 0, side := 0, fault := some code }

/-- Whether the unit of an address is shared. -/
def State.unitShared (s : State) (pa : Nat) : Bool := s.partitions.any fun p => p.2.units.contains (pa / 2 ^ 21, true)

/-- What has come for a reader from an address outside the package (R395). -/
def State.answered (s : State) (who : OutWho) (pa : Nat) : Option Answered := s.answers.find? fun a => a.who == who && a.pa == pa

/-- Why a walk does not go on: it fails with a code, or it asks for bytes outside the package. -/
inductive WalkStop
  | fault (code : Nat)
  | out (pa len : Nat)
deriving DecidableEq, Repr

/-- `n` bytes that the walker of a page reads for a partition, or why its walk stops: a table in another partition's memory or in the metadata
area is a PERM (R4, R320), a block that fails leaves no entry to use (R328), and a table in host memory is asked for (R395). -/
def State.walkRead (s : State) (die part asid page pa n : Nat) : Except WalkStop Nat :=
  if !s.paAllowed part (!paHbm pa) pa then .error (.fault fPERM)
  else if !paHbm pa then
    match s.answered (.walker die asid page) pa with
    | some a => if a.code = 0 then .ok (leNat (a.bytes.take n)) else .error (.fault a.code)
    | none => .error (.out pa n)
  else match s.blockFault (s.unitShared pa) pa with
  | some _ => .error (.fault fXLATE)
  | none => .ok (leNat (s.viewBytes die pa n))

/-- What a walk comes to: an entry, or a read outside the package to wait for. -/
inductive Walked
  | entry (e : TlbEntry)
  | out (pa len : Nat)
deriving DecidableEq, Repr

/-- The end of a walk that stopped. -/
def WalkStop.walked (w : WalkStop) (die asid page : Nat) : Walked :=
  match w with
  | .fault c => .entry (failedTlb die asid page c)
  | .out pa n => .out pa n

/-- The levels of a walk, `n` of them still to be read, from a table (R319). -/
def State.walkLevels (s : State) (die part asid page : Nat) (sides : Vector (BitVec 48) 8) : Nat → Nat → Walked
  | 0, _ => .entry (failedTlb die asid page fXLATE)
  | n + 1, table =>
    match s.walkRead die part asid page (table + 8 * (page / 512 ^ n % 512)) 8 with
    | .error c => c.walked die asid page
    | .ok v =>
      let w := BitVec.ofNat 64 v
      let addr := (w.extractLsb' 12 40).toNat
      if !w.getLsbD 0 || w.extractLsb' 52 3 != 0 || w.extractLsb' 8 4 != 0 then .entry (failedTlb die asid page fXLATE)
      else if w.getLsbD 1 then
        if n = 3 || w.extractLsb' 6 2 == 3 || decide (addr % 512 ^ n ≠ 0) then .entry (failedTlb die asid page fXLATE)
        else .entry
          { die := die, asid := asid, page := page, base := 4096 * (page / 512 ^ n * 512 ^ n), size := 4096 * 512 ^ n, pa := 4096 * addr
            format := w.extractLsb' 58 6, read := w.getLsbD 2, write := w.getLsbD 3, atomic := w.getLsbD 4, shared := w.getLsbD 5
            cls := w.extractLsb' 6 2, side := (sides.toList[(w.extractLsb' 55 3).toNat]?).getD 0, fault := none }
      else if n = 0 || w.extractLsb' 52 12 != 0 || w.extractLsb' 2 6 != 0 then .entry (failedTlb die asid page fXLATE)
      else State.walkLevels s die part asid page sides n (4096 * addr)

/-- The range entries of a context as a page's walker reads them, in order, or why it stops where the table cannot be read. -/
def State.rangeTable (s : State) (die asid page : Nat) (c : CtxRecord) : List (Except WalkStop (BitVec 256)) :=
  (List.range 64).map fun i => (s.walkRead die c.partition asid page (c.rangePA + 32 * i) 32).map (BitVec.ofNat 256)

/-- The first range entry of a table that covers an address: `none` when none does, and a part that cannot be read stops the search. -/
def firstRange (va : Nat) : List (Except WalkStop (BitVec 256)) → Option (Except WalkStop (BitVec 256))
  | [] => none
  | .error c :: _ => some (.error c)
  | .ok w :: ws => if rangeCovers w va then some (.ok w) else firstRange va ws

/-- The walk of a page (R318 to R320): the lowest-numbered range that covers it, else the four levels of the page table. -/
def State.walk (s : State) (die asid page : Nat) : Walked :=
  match Tab.find s.contexts asid with
  | none => .entry (failedTlb die asid page fXLATE)
  | some c =>
    match firstRange (4096 * page) (s.rangeTable die asid page c) with
    | some (.ok w) => .entry (if rangeOk w then rangeTlb die asid page w else failedTlb die asid page fXLATE)
    | some (.error x) => x.walked die asid page
    | none => s.walkLevels die c.partition asid page c.sides 4 c.rootPA

/-! ### Translation (R318 to R323) -/

/-- The permissions an access needs. -/
structure Need where
  r : Bool
  w : Bool
  a : Bool
deriving DecidableEq, Repr

/-- The access code of R383. -/
def Need.code (n : Need) : Nat := if n.a then 3 else if n.w then 2 else 1

/-- What translating one address gives. -/
inductive Xlated
  | ok (pa : Nat) (e : TlbEntry)
  | miss (page : Nat)
  | bad (code access : Nat)
deriving DecidableEq, Repr

/-- The entry of a translation cache for an address. -/
def State.tlbFind (s : State) (die asid va : Nat) : Option TlbEntry :=
  s.tlb.find? fun e => e.die == die && e.asid == asid && e.page == va / 4096

/-- The translation that an access at an address uses (R323): the one its cache holds or, where the tables of the context now say otherwise and
no invalidation has completed since, freely either (assumption 3). Where the tables lie outside the package, the new one is had by a walk. -/
def State.mapping (s : State) (die asid va : Nat) : Option TlbEntry :=
  match s.tlbFind die asid va with
  | none => none
  | some e =>
    if (Tab.find s.contexts asid).isSome && e.fault.isNone && Config.newMapping s.freeCtr asid (va / 4096) then
      match s.walk die asid (va / 4096) with
      | .entry w => some w
      | .out .. => none
    else some e

/-- Translates an address in a context, and checks it (R245, R320). -/
def State.translate (s : State) (die part asid va : Nat) (n : Need) : Xlated :=
  if 2 ^ 48 ≤ va then .bad fXLATE n.code
  else match s.mapping die asid va with
    | none => .miss (va / 4096)
    | some e =>
      match e.fault with
      | some c => .bad c 7
      | none =>
        let pa := e.pa + (va - e.base)
        if 2 ^ 52 ≤ pa || (paSpace pa = 2 && decide (pa / 2 ^ 48 % 4 ≠ 0)) then .bad fXLATE n.code
        else if (n.r && !e.read) || (n.w && !e.write) || (n.a && !e.atomic) || !s.paAllowed part e.shared pa then .bad fPERM n.code
        else .ok pa e

/-- A walk that failed is reported once (R321): its entry goes, so that the next request walks again. -/
def State.dropWalkFault (s : State) (die asid va : Nat) : State :=
  { s with tlb := s.tlb.filter fun e =>
      !(e.die == die && e.asid == asid && e.fault.isSome && e.page == va / 4096) }

/-- Queues walks for pages that missed; misses to one page are one walk (R321). -/
def State.queueWalks (s : State) (die asid : Nat) (pages : List Nat) : State :=
  { s with walks := pages.foldl (fun w p => if w.contains (die, asid, p) then w else w ++ [(die, asid, p)]) s.walks }

/-- The number by which the host's view of shared units is kept, beside the dies' (R299). -/
def hostAgent : Nat := 8

/-- Whether two compute dies are of one device (R284); the host is of none. -/
def sameDevice (m : DevMode) (d e : Nat) : Bool :=
  if e = hostAgent then false
  else match m with
  | .one => true
  | .two => decide (d < 3) == decide (e < 3)
  | .six => d == e

/-- Whether a scope of an agent on die `d` covers the agents of die `e` (R283). -/
def scopeCovers (m : DevMode) (sc : SScope) (d e : Nat) : Bool :=
  match sc with
  | .die => d == e
  | .dev => d == e || sameDevice m d e
  | .sys => true

/-! ### Home order and views (R282, R285, R290 to R292) -/

/-- The writes that a die's vector counts and that are still on their way to some die (R292). -/
def State.depsOf (s : State) (die : Nat) : List Nat :=
  ((s.inFlight.filter fun r => r.src == die || !(s.inFlight.any fun q => q.serial == r.serial && q.dst == die)).map
    fun r => r.serial).eraseDups

/-- Whether every one of these writes has been applied at a die. -/
def State.applied (s : State) (die : Nat) (deps : List Nat) : Bool :=
  deps.all fun d => !(s.inFlight.any fun r => r.serial == d && r.dst == die)

/-- The vector clock of a die: for each of the eight dies, how many of its writes this die has applied (R292). -/
def State.vclock (s : State) (die : Nat) : Vector Nat 8 :=
  Vector.ofFn fun i => s.dieWrites[i] - (s.inFlight.filter fun r => r.src == i.val && r.dst == die).length

/-- The incarnation of a die as another die has learned it from the system channel (R355, R385). -/
def State.knownInc (s : State) (die home : Nat) : BitVec 8 := Tab.get s.learned 0 (8 * die + home)

/-- The incarnation of a home that a request issued now carries (R385): where its die has not learned the present one, the system channel
freely brings it before the request or later (assumption 3). -/
def State.aim (s : State) (die home : Nat) : BitVec 8 × State :=
  if s.knownInc die home = s.inc home then (s.inc home, s)
  else
    let (f, s1) := s.drawNat
    if f % 2 = 0 then (s.knownInc die home, s1)
    else (s.inc home, { s1 with learned := Tab.set s1.learned (8 * die + home) (s.inc home) })

/-- The incarnations that a request to several homes carries. -/
def State.aimAll (die : Nat) : List Nat → State → List (Nat × BitVec 8) × State
  | [], s => ([], s)
  | h :: hs, s =>
    let (i, s1) := s.aim die h
    let (l, s2) := State.aimAll die hs s1
    ((h, i) :: l, s2)

/-- Whether a request of a die to another carries a stale incarnation of it, freely so where the present one has not been learned (R385); and the
state after. -/
def State.misses (s : State) (die home : Nat) : Bool × State :=
  if die = home then (false, s)
  else
    let (i, s1) := s.aim die home
    (i != s.inc home, s1)

/-- Whether a request of a die to one of several carries a stale incarnation (R385), and the state after. -/
def State.missesAny (s : State) (die : Nat) : List Nat → Bool × State
  | [] => (false, s)
  | h :: hs => match s.misses die h with
    | (true, s1) => (true, s1)
    | (false, s1) => s1.missesAny die hs

/-- Whether a write on its way writes a byte. -/
def RemoteWrite.covers (r : RemoteWrite) (pa : Nat) : Bool :=
  decide (r.pa ≤ pa) && (match r.bytes[pa - r.pa]? with | some (some _) => true | _ => false)

/-- A write of the package's memory that takes no place in an order O (R293). -/
def noOrd : Nat → Option Nat := fun _ => none

/-- Who sees a write of a die later: the other compute dies and, of a shared unit, the host, unless the write came through an I/O die (R292, R299). -/
def observers (die : Nat) (shared : Bool) : List Nat :=
  ((List.range 6).filter fun e => e != die) ++ (if shared && decide (die < 6) then [hostAgent] else [])

/-- Whether an agent sees a write of a die at once: its own, and for the host those that came through an I/O die. -/
def seesOwn (die e : Nat) : Bool := e == die || (die == 6 && e == hostAgent)

/-- The stale bytes that a write at a die leaves at the others. -/
def staleFor (s : State) (die serial : Nat) (shared : Bool) (pa : Nat) (bs : List (Option Byte)) : List StaleByte :=
  (observers die shared).flatMap fun e =>
    (List.range bs.length).filterMap fun i =>
      if bs[i]? = some none ∨ s.stale.any fun x => x.die == e && x.pa == pa + i then none
      else some ⟨e, pa + i, Memory.read s.mem (pa + i), serial - 1⟩

/-! ### Sealed blocks (R324 to R331, R356) -/

/-- Replaces a block's metadata. -/
def State.setBlock (s : State) (block : Nat) (b : Block) : State := { s with blocks := Tab.set s.blocks block b }

/-- A block's metadata as a writeback leaves it, unless its version would pass 2^32 − 1 (R326). -/
def Block.sealed (b : Block) (current : BitVec 16) : Option Block :=
  if b.gen = current then
    if b.version = 0xFFFFFFFF then none
    else some { b with version := b.version + 1, cached := false, dirty := false, stalled := false }
  else some { b with gen := current, version := 0, cached := false, dirty := false, stalled := false }

/-- Seals a block of a partition; where a version or a write count of the tree would wrap, the writeback stalls with the block in the cache, and
raises SEALWRAP once (R326, R327, R330). -/
def State.sealBlock (s : State) (block part : Nat) : State :=
  let b := Tab.get s.blocks Block.reset block
  let die := s.homeOf (2048 * block)
  let full := (treePath block).any fun k => decide (Tab.get s.treeCounts 0 k = 2 ^ 48 - 1)
  match if full then none else b.sealed (s.kiln die part).current with
  | some b1 =>
    { (s.setBlock block b1) with treeCounts := (treePath block).foldl (fun t k => Tab.set t k (Tab.get t 0 k + 1)) s.treeCounts }
  | none =>
    if b.stalled then s
    else (s.setBlock block { b with stalled := true, cached := true, dirty := true }).logEvent (sourceNo die 209) 0xC part
      (BitVec.ofNat 64 (2048 * block)) (BitVec.ofNat 64 part)

/-- Writes a modified block back (R326); one whose line has an uncorrectable error is lost and reads as TAGFAIL (R389). -/
def State.writeBack (s : State) (block : Nat) : State :=
  let b := Tab.get s.blocks Block.reset block
  if !(b.cached && b.dirty) then s
  else if b.lineBad then s.setBlock block { b with badTag := true, lineBad := false, cached := false, dirty := false, stalled := false }
  else match s.unitOwner (2048 * block) with
    | none => s.setBlock block { b with cached := false, dirty := false }
    | some p =>
      if s.unitShared (2048 * block) then s.setBlock block { b with cached := false, dirty := false }
      else if (s.kiln (s.homeOf (2048 * block)) p).live.isEmpty then s
      else s.sealBlock block p

/-- The blocks that a die's sealed-block cache holds (R326). -/
def State.cachedBlocks (s : State) (die : Nat) : List Nat :=
  (s.blocks.filter fun b => b.2.cached && s.homeOf (2048 * b.1) == die).map Prod.fst

/-- A fill for a partition that holds its share of its die's cache gives up one of the partition's own blocks, freely which: a modified one is written
back, and a clean one dropped (R326, R356, assumption 3). -/
def State.evict (s : State) (pa : Nat) : State :=
  let own := (s.cachedBlocks (s.homeOf pa)).filter fun b => s.unitOwner (2048 * b) == s.unitOwner pa
  let share := match s.unitOwner pa with | some p => (s.part p).cacheShare | none => 8192
  if own.length < share then s
  else
    let (f, s1) := s.drawNat
    match own[f % own.length]? with
    | none => s1
    | some x =>
      let b := Tab.get s1.blocks Block.reset x
      if b.dirty then s1.writeBack x else s1.setBlock x { b with cached := false }

/-- A verified block is placed in the 16 MiB cache of its home die (R326): an access of sealed memory reads it there. -/
def State.cacheBlock (s : State) (shared : Bool) (pa : Nat) : State :=
  let b := Tab.get s.blocks Block.reset (pa / 2048)
  if shared || !paHbm pa || (b.cached && !b.lineBad) || (s.blockFault shared pa).isSome then s
  else
    let s1 := if b.cached then s else s.evict pa
    s1.setBlock (pa / 2048) { b with cached := true, lineBad := false }

/-- Marks a sealed block as held modified in the sealed-block cache, where a write finds it or brings it (R326). -/
def State.dirtyBlock (s : State) (pa : Nat) : State :=
  let b := Tab.get s.blocks Block.reset (pa / 2048)
  let s1 := if b.cached then s else s.evict pa
  s1.setBlock (pa / 2048) { b with cached := true, dirty := true, lineBad := false }

/-- The end of an access of cache class 1 or 2: the block does not stay in the cache, a modified one being written back (R320, DEDUCED, assumption
111). -/
def State.leaveBlock (s : State) (cls : BitVec 2) (shared : Bool) (pa : Nat) : State :=
  let b := Tab.get s.blocks Block.reset (pa / 2048)
  if cls = 0 || shared || !paHbm pa || !b.cached then s
  else if b.dirty then s.writeBack (pa / 2048)
  else s.setBlock (pa / 2048) { b with cached := false }

/-- A read by the home controller of the block of an address for an access of a cache class (R320, R326). -/
def State.touchBlock (s : State) (e : TlbEntry) (pa : Nat) : State := (s.cacheBlock e.shared pa).leaveBlock e.cls e.shared pa

/-- The TAGFAIL event of a block (R328): block address, partition, generation, and whether a tree node failed. -/
def State.logTagfail (s : State) (part pa : Nat) : State :=
  let b := Tab.get s.blocks Block.reset (pa / 2048)
  s.logEvent (sourceNo (s.homeOf pa) 209) 0xA part (BitVec.ofNat 64 (pa / 2048 * 2048))
    (BitVec.ofNat 64 (part + 65536 * b.gen.toNat + if s.nodeFailed (pa / 2048) then 2 ^ 32 else 0))

/-- Logs what a failing block logs; an address outside the package has no Kiln, and IOD0 logs it (assumption 13). -/
def State.logBlock (s : State) (code part pa : Nat) : State :=
  if code = fTAGFAIL then s.logTagfail part pa
  else if code ≠ fPOISON then s
  else s.logEvent (if paHbm pa then sourceNo (s.homeOf pa) 209 else sourceNo 6 257) 0xB part (BitVec.ofNat 64 (pa / 2048 * 2048)) 0

/-! ### Writes (R285, R292) -/

/-- A write by an agent of a die takes its place in home order and is applied at its die at once; each other compute die, and the host where the
unit is shared (R299), applies it later, after the writes of `deps` for that die (R285, R292); `ord` names the partition whose order O holds the write, for the dies of its
scope (R293). Of `bs` only the bytes that are given are written, as one event (R294). A write outside the package's memory goes out as a
request of its own (R395, R402). -/
def State.storeSome (s : State) (die : Nat) (task : Option Nat) (ord : Nat → Option Nat) (deps : Nat → List Nat) (shared : Bool) (pa : Nat)
    (bs : List (Option Byte)) : State :=
  if !paHbm pa then s
  else
  let serial := s.homeSeq + 1
  let mine := s.stale.filter fun x => !(seesOwn die x.die && decide (pa ≤ x.pa) && (match bs[x.pa - pa]? with | some (some _) => true | _ => false))
  let recs := (observers die shared).map fun e => (⟨serial, die, e, deps e, pa, bs, task, ord e⟩ : RemoteWrite)
  let s1 := { s with
    homeSeq := serial
    stale := mine ++ staleFor s die serial shared pa bs
    inFlight := s.inFlight ++ recs
    mem := Memory.writeSome s.mem pa bs
    dieWrites := if h : die < 8 then s.dieWrites.set die (s.dieWrites[die] + 1) else s.dieWrites }
  if shared then s1 else s1.dirtyBlock pa

/-- A write of bytes that lie together. -/
def State.store (s : State) (die : Nat) (task : Option Nat) (ord : Nat → Option Nat) (deps : Nat → List Nat) (shared : Bool) (pa : Nat)
    (bs : List Byte) : State := s.storeSome die task ord deps shared pa (bs.map some)

/-- The writes a plain write carries to each die: those its task's fence orders before it (R273). -/
def fenceDeps (x : Task) (m : DevMode) (die e : Nat) : List Nat :=
  if sameDevice m die e then x.fenceDev.deps else x.fenceSys.deps

/-- The writes a released write carries to each die (R292). -/
def State.relDeps (s : State) (m : DevMode) (sc : SScope) (die e : Nat) : List Nat :=
  if scopeCovers m sc die e then s.depsOf die else []

/-- One byte of a remote write applied at its die: the value becomes this write's, or the home's when no later write is on its way. -/
def applyByte (e serial : Nat) (rest : List RemoteWrite) (pa : Nat) (b : Byte) (st : List StaleByte) : List StaleByte :=
  match st.find? fun x => x.die == e && x.pa == pa with
  | none => st
  | some x =>
    if serial ≤ x.serial then st
    else
      let others := st.filter fun y => !(y.die == e && y.pa == pa)
      if rest.any fun r => r.dst == e && decide (serial < r.serial) && r.covers pa then
        others ++ [⟨e, pa, b, serial⟩]
      else others

/-- Applies bytes one after another. -/
def applyBytes (e serial : Nat) (rest : List RemoteWrite) : Nat → List (Option Byte) → List StaleByte → List StaleByte
  | _, [], st => st
  | pa, none :: bs, st => applyBytes e serial rest (pa + 1) bs st
  | pa, some b :: bs, st => applyBytes e serial rest (pa + 1) bs (applyByte e serial rest pa b st)

/-- Whether a write on its way may be applied at its die: everything its vector counts has been (R292). -/
def State.canApply (s : State) (r : RemoteWrite) : Bool := s.applied r.dst r.deps

/-- A write is applied at a die. -/
def State.applyRemote (s : State) (r : RemoteWrite) : State :=
  let rest := s.inFlight.filter fun q => !(q.serial == r.serial && q.dst == r.dst)
  { s with inFlight := rest, stale := applyBytes r.dst r.serial rest r.pa r.bytes s.stale }

/-- Whether every write to these bytes has been applied at a die: an atomic reads the latest in home order (R290). -/
def State.upToDate (s : State) (die pa n : Nat) : Bool :=
  !(s.inFlight.any fun r => r.dst == die && decide (r.pa < pa + n) && decide (pa < r.pa + r.bytes.length))

/-! ### Requests outside the package (R395, R402) -/

/-- The key of a scale-out stream: a partition and a peer package. -/
def streamKey (part peer : Nat) : Nat := 4096 * part + peer

/-- The 24 header bytes of a frame (R402). -/
def soHeader (f : SoFrame) (kind length : Nat) : List Byte :=
  leBytes 1 kind ++ leBytes 1 (f.partition % 16) ++ leBytes 2 f.source ++ leBytes 2 f.dest ++ leBytes 2 length ++ leBytes 4 f.seqNo.toNat
  ++ leBytes 4 f.acked.toNat ++ leBytes 8 f.offset.toNat

/-- AES-256-GCM takes each byte with that of the key stream at its place, and gives the bytes back in the same way (R325, R402, assumption 6). -/
def gcmCrypt (key : BitVec 256) (iv : BitVec 96) (bs : List Byte) : List Byte := bs.mapIdx fun i b => b ^^^ Config.gcmStream key iv i

/-- A frame sealed under the pair's key: the ciphertext of its payload, and the tag over header and payload (R402). -/
def soProtect (f : SoFrame) (key : BitVec 256) (kind length : Nat) : SoFrame :=
  let h := soHeader f kind length
  { f with payload := gcmCrypt key (Config.frameIv h) f.payload, tag := Config.gcmTag key (Config.frameIv h) h f.payload }

/-- A received frame with its payload in the clear, where its tag verifies under the pair's key (R402). -/
def soVerify (f : SoFrame) (key : BitVec 256) (kind length : Nat) : Option SoFrame :=
  let h := soHeader f kind length
  let plain := gcmCrypt key (Config.frameIv h) f.payload
  if f.tag = Config.gcmTag key (Config.frameIv h) h plain then some { f with payload := plain } else none

/-- The bytes of a sent frame as an Ethernet II frame: MAC addresses, one 802.1Q tag whose priority code point is the partition's traffic class,
EtherType 0x88B5, header, ciphertext and tag (R401, R402). -/
def SentFrame.bytes (x : SentFrame) : List Byte :=
  leBytes 12 (Config.macs x.frame.dest x.frame.source).toNat ++ [0x81, 0x00] ++ (leBytes 2 (x.pcp.toNat * 2 ^ 13 + Config.vlan.toNat)).reverse
  ++ [0x88, 0xB5] ++ soHeader x.frame x.kind x.length ++ x.frame.payload ++ leBytes 16 x.frame.tag.toNat

/-- A frame of a stream, before it is protected. -/
def State.frameTo (s : State) (q : SoStream) (part peer : Nat) (offset : BitVec 64) (payload : List Byte) : SoFrame :=
  { partition := part, source := s.package, dest := peer, seqNo := q.nextSeq, acked := q.rxSeq - 1, offset := offset, payload := payload, tag := 0 }

/-- Sends a frame that takes the stream's next sequence number and stays unacknowledged (R402). -/
def State.sendFrame (s : State) (part peer kind length : Nat) (offset : BitVec 64) (payload : List Byte) (serial : Option Nat) : State :=
  match Tab.find s.peers (streamKey part peer) with
  | none => s
  | some q =>
    let f := soProtect (s.frameTo q part peer offset payload) q.key kind length
    let x : SentFrame := ⟨kind, f, length, serial, (s.part part).traffic⟩
    { s with peers := Tab.set s.peers (streamKey part peer) { q with nextSeq := q.nextSeq + 1, unacked := q.unacked ++ [x], sent := q.sent ++ [x] } }

/-- The runs of bytes that are given, each with its offset from `n`. -/
def byteRuns : Nat → List (Option Byte) → List (Nat × List Byte)
  | _, [] => []
  | n, none :: bs => byteRuns (n + 1) bs
  | n, some b :: bs =>
    match bs, byteRuns (n + 1) bs with
    | some _ :: _, (_, r) :: rest => (n, b :: r) :: rest
    | _, l => (n, [b]) :: l

/-- Sends a write to a peer's window, when the address is in one: PA[49:38] is the package and PA[37:0] the offset (R400). Each run of bytes that
lie together is a frame, and the last one is the one whose acknowledgement completes the write (R402). -/
def State.sendWrite (s : State) (part pa : Nat) (bs : List (Option Byte)) (serial : Option Nat) : State :=
  if paSpace pa ≠ 3 then s
  else
    let send := fun (n : Option Nat) (x : State) (r : Nat × List Byte) =>
      x.sendFrame part (pa / 2 ^ 38 % 4096) 1 r.2.length (BitVec.ofNat 64 (pa % 2 ^ 38 + r.1)) r.2 n
    let l := byteRuns 0 bs
    match l.getLast? with
    | none => s
    | some r => send serial (l.dropLast.foldl (send none) s) r

/-- The PASID that tags the device requests of a context: that of the interface bound to it (R394, R397), and 0 where none is. -/
def State.pasidOf (s : State) (asid : Nat) : BitVec 20 :=
  match s.ifaces.find? fun i => i.2.binding.getLsbD 63 && (i.2.binding.extractLsb' 14 16).toNat == asid with
  | some i => i.2.binding.extractLsb' 34 20
  | none => 0

/-- The bytes of a host line that IOD0 holds while its port, through which host memory lies, has trained as CXL; a read within it may freely take
them: the host keeps the line coherent and may have taken it back (R399, R400, assumption 3). -/
def State.hostLine (s : State) (pa len : Nat) (op : OutOp) : Option (List Byte) × State :=
  match op, s.hostLines.find? fun x => x.1 == pa / 64 with
  | .read, some x =>
    let (f, s1) := s.drawNat
    if paSpace pa = 2 ∧ pa % 64 + len ≤ 64 ∧ s.cxl[0] ∧ f % 2 = 0 then (some ((x.2.drop (pa % 64)).take len), s1)
    else (none, s1)
  | _, _ => (none, s)

/-- Issues a request to host memory or to a peer's window, to a peer as a frame of its stream. An atomic reads first, and writes with its
answer. A write of a host line that the I/O dies hold ends that copy (R399). -/
def State.askOutside (s0 : State) (die part asid : Nat) (who : OutWho) (va pa len : Nat) (op : OutOp) : State :=
  let (line, s) := s0.hostLine pa len op
  let (n, s1) := s.fresh
  let lines := match op with
    | .read => s1.hostLines
    | _ => s1.hostLines.filter fun x => decide (x.1 < pa / 64) || decide ((pa + len - 1) / 64 < x.1)
  let s2 := { s1 with outReqs := s1.outReqs ++ [⟨n, die, part, who, va, pa, len, op, s.pasidOf asid, line⟩], hostLines := lines }
  match op with
  | .write bs => s2.sendWrite part pa bs (some n)
  | _ => if paSpace pa = 3 then s2.sendFrame part (pa / 2 ^ 38 % 4096) 2 len (BitVec.ofNat 64 (pa % 2 ^ 38)) [] (some n) else s2

/-- Issues a request unless the same one waits for its answer: an access that was asked for through an older translation is not asked for again
(R323). -/
def State.askOnce (s : State) (die part asid : Nat) (who : OutWho) (va pa len : Nat) (op : OutOp) : State :=
  if s.outReqs.any fun o => o.who == who && o.va == va && o.len == len && o.op == op then s else s.askOutside die part asid who va pa len op

/-- A reader is done with what its requests have brought. -/
def State.forget (s : State) (who : OutWho) : State := { s with answers := s.answers.filter fun a => a.who != who }

/-! ### Reading a run of bytes by virtual address (records, images, code) -/

/-- What reading bytes by virtual address gives: the bytes, pages to walk, bytes outside the package to wait for, or a fault with its address. -/
inductive VRead
  | ok (bs : List Byte)
  | miss (pages : List Nat)
  | out (va pa len : Nat)
  | bad (code access va : Nat)
deriving DecidableEq, Repr

/-- Puts one part before the rest. -/
def VRead.cons (bs : List Byte) : VRead → VRead
  | .ok r => .ok (bs ++ r)
  | x => x

/-- Reads `n` bytes from a virtual address in pieces that lie in one 2 KiB block, as a die sees them, those in host memory as they were brought
for the reader (R395); `fuel` bounds the pieces. -/
def State.vread (s : State) (die part asid : Nat) (who : OutWho) : Nat → Nat → Nat → VRead
  | 0, _, _ => .ok []
  | fuel + 1, va, n =>
    if n = 0 then .ok []
    else
      let len := min n (2048 - va % 2048)
      match s.translate die part asid va ⟨true, false, false⟩ with
      | .miss p => .miss [p]
      | .bad c a => .bad c (if a = 7 then 7 else 6) va
      | .ok pa e =>
        if paHbm pa then
          match s.blockFault e.shared pa with
          | some c => .bad c 6 va
          | none => VRead.cons (s.viewBytes die pa len) (State.vread s die part asid who fuel (va + len) (n - len))
        else match s.answered who pa with
          | none => .out va pa len
          | some a =>
            if a.code = 0 then VRead.cons (a.bytes.take len) (State.vread s die part asid who fuel (va + len) (n - len)) else .bad a.code 6 va

/-- Reads `n` bytes at a virtual address for a reader. -/
def State.readV (s : State) (die part asid : Nat) (who : OutWho) (va n : Nat) : VRead := s.vread die part asid who (n / 2048 + 2) va n

/-- The addresses of the page-table entries that a walk reads, `n` levels of them still to be read. -/
def State.levelAddrs (s : State) (die part asid page : Nat) : Nat → Nat → List Nat
  | 0, _ => []
  | n + 1, table =>
    let pa := table + 8 * (page / 512 ^ n % 512)
    pa :: (match s.walkRead die part asid page pa 8 with
      | .error _ => []
      | .ok v =>
        let w := BitVec.ofNat 64 v
        if !w.getLsbD 0 || w.getLsbD 1 then [] else State.levelAddrs s die part asid page n (4096 * (w.extractLsb' 12 40).toNat))

/-- The addresses that the walk of a page reads: range entries up to the first that covers it, else all of them and the page tables. -/
def State.walkAddrs (s : State) (die asid page : Nat) : List Nat :=
  match Tab.find s.contexts asid with
  | none => []
  | some c =>
    let k := (s.rangeTable die asid page c).findIdx fun x => match x with | .error _ => true | .ok w => rangeCovers w (4096 * page)
    let ranges := (List.range (min 64 (k + 1))).map fun i => c.rangePA + 32 * i
    if k < 64 then ranges else ranges ++ s.levelAddrs die c.partition asid page 4 c.rootPA

/-- The blocks that a walk read are placed in the cache (R326). -/
def State.touchWalk (s : State) (die asid page : Nat) : State :=
  (s.walkAddrs die asid page).foldl (fun x pa => x.cacheBlock (s.unitShared pa) pa) s

/-- The blocks that a read of `n` bytes at a virtual address met are placed in the cache (R326). -/
def State.touchPieces (die part asid : Nat) : Nat → Nat → Nat → State → State
  | 0, _, _, s => s
  | fuel + 1, va, n, s =>
    if n = 0 then s
    else
      let len := min n (2048 - va % 2048)
      State.touchPieces die part asid fuel (va + len) (n - len) (match s.translate die part asid va ⟨true, false, false⟩ with
        | .ok pa e => s.touchBlock e pa
        | _ => s)

/-- The blocks of a whole read. -/
def State.touchV (s : State) (die part asid va n : Nat) : State := State.touchPieces die part asid (n / 2048 + 2) va n s

/-- Writes bytes at a virtual address as a die, in pieces of one block, those in host memory by requests (R395); a piece that does not
translate, or whose block fails, is dropped. -/
def State.vwrite (s : State) (die part asid : Nat) (who : OutWho) (deps : Nat → List Nat) : Nat → Nat → List Byte → State
  | 0, _, _ => s
  | fuel + 1, va, bs =>
    if bs.isEmpty then s
    else
      let len := min bs.length (2048 - va % 2048)
      let s1 := match s.translate die part asid va ⟨false, true, false⟩ with
        | .ok pa e =>
          if !paHbm pa then s.askOutside die part asid who va pa len (.write ((bs.take len).map some))
          else if (s.blockFault e.shared pa).isSome then s
          else ((s.cacheBlock e.shared pa).store die none noOrd deps e.shared pa (bs.take len)).leaveBlock e.cls e.shared pa
        | _ => s
      State.vwrite s1 die part asid who deps fuel (va + len) (bs.drop len)

end Sys2Proof.Machine
end

