-- ==== Sys2Proof/Machine/SeqFlow.lean ====
section
/-! DEFINITION. Machine/SeqFlow: how a sequencer instruction issues, waits, completes and faults (R48, R49, R223 to R226), shared by every sequencer meaning. -/
namespace Sys2Proof.Machine

/-- How the order classes and fences hold an instruction back at issue (R241, R249, R273, R302). -/
inductive Gate
  /-- Not held: register, predicate, control, data-store and channel-read instructions, and LDG. -/
  | free
  /-- STG and ATOMG: held by a FENCE.REL; and CINV and ILOAD, which R302 places behind one (DEDUCED, assumption 109). -/
  | store
  /-- Tile, copy, run and graph instructions: held by a FENCE.REL and by an earlier acquire. -/
  | system
  /-- A write of a tile: held as these are, and by every earlier read of the task (R287). -/
  | tileWrite
  /-- A release: held until every earlier access of the task is performed. -/
  | release
deriving DecidableEq, Repr

/-- What one sequencer instruction does once its guard is true. -/
inductive SeqRes
  /-- Completes; the pc goes on. -/
  | done (s : State)
  /-- Completes with the pc given. -/
  | goto (pc : BitVec 16) (s : State)
  /-- Waits. -/
  | wait (w : WaitFor) (s : State)
  /-- Takes a precise fault. -/
  | fault (f : Report) (s : State)
  /-- Takes an exception whose EPC is the address given. -/
  | take (epc : BitVec 16) (f : Report) (s : State)
  /-- Completes, leaving the slot's pc as it is. -/
  | leave (s : State)
  /-- Has done a part of its work and goes on at its next issue (R257). -/
  | more (w : WaitFor) (s : State)

/-- The running task. -/
def State.me (s : State) : Task := s.task s.cur
/-- Changes the running task. -/
def State.updMe (s : State) (f : Task → Task) : State := s.updTask s.cur f
/-- A register of the running task. -/
def State.r (s : State) (r : Reg) : Word := s.me.reg r
/-- Writes a register of the running task. -/
def State.setR (s : State) (r : Reg) (v : Word) : State := s.updMe fun x => x.setReg r v
/-- The die of the running task. -/
def State.myDie (s : State) : Nat := taskDie s.cur
/-- The partition of the running task. -/
def State.myPart (s : State) : Nat := s.partOf s.cur
/-- The context of the running task. -/
def State.myAsid (s : State) : Nat := s.me.context.toNat

/-- The report of a precise fault of the running task: word 3 is the instruction address and `extra` above it (R383). -/
def State.report (s : State) (code access va : Nat) (extra : Nat := 0) : Report :=
  ⟨code, access, va, s.me.pc.toNat + extra * 65536⟩

/-- The destination register, size and sign fields of word 3 (R383). -/
def accessInfo (d : Reg) (size : Nat) (signed : Bool) : Nat := d.val + size * 32 + (if signed then 128 else 0)

/-- The accesses of a task that have not completed. -/
def State.accessesOf (s : State) (t : Nat) : List GAccess := s.accesses.filter fun a => a.task == t

/-- The register an access writes when it completes. -/
def GAccess.dest (a : GAccess) : Option Reg :=
  match a.op with
  | .load _ d => some d
  | .atom _ _ _ _ d => some d
  | .store .. => none

/-- Whether an access is an acquire (R249). -/
def GAccess.acquires (a : GAccess) : Bool :=
  match a.op, a.order with
  | .store .., .ord => true
  | .store .., _ => false
  | _, .acq | _, .ar | _, .ord => true
  | _, _ => false

/-- The accesses of a task that write one of these registers (R226). -/
def State.pendingOn (s : State) (t : Nat) (rs : List Reg) : List Nat :=
  ((s.accessesOf t).filter fun a => match a.dest with | some d => d != 0 && rs.contains d | none => false).map fun a => a.serial

/-- The clk from which these registers' results of multiplications and divisions are available (R226, R227). -/
def Task.dueAt (x : Task) (rs : List Reg) : Nat :=
  ((x.late.filter fun y => rs.any fun r => r.val == y.1).map Prod.snd).foldl max 0

/-- The accesses that hold an instruction of a gate back. -/
def State.heldBy (s : State) (t : Nat) (g : Gate) : List Nat :=
  let live := (s.accessesOf t).map fun a => a.serial
  let fence := (s.task t).relHold.filter fun n => live.contains n
  match g with
  | .free => []
  | .store => fence
  | .system => fence ++ (((s.accessesOf t).filter fun a => a.acquires).map fun a => a.serial)
  | .tileWrite => fence ++ (((s.accessesOf t).filter fun a => a.acquires || a.dest.isSome).map fun a => a.serial)
  | .release => live

/-- Whether the tile of WAITT has reached its state (R272). -/
def tileReached (t : Tile) (st : Nat) : Bool :=
  match st with
  | 1 => decide (t.state = .filling)
  | 2 => decide (t.state = .full) || decide (t.state = .draining) || decide (t.state = .poison)
  | 3 => decide (t.state = .draining) || decide (t.state = .poison)
  | 4 => decide (t.state = .poison)
  | _ => false

/-- Whether a counter is within its WAIT field: 31 ignores the class (R50). -/
def withinField (c : BitVec 8) (f : BitVec 5) : Bool := f == 31 || decide (c.toNat ≤ f.toNat)

/-- Whether a run has ended. -/
def Run.over (r : Run) : Bool := match r.phase with | .ended _ => true | _ => false

/-- The run whose input FIFO an endpoint names. -/
def State.endpointRun (s : State) (ep : BitVec 16) : Option Nat :=
  match endpointOf ep with
  | some x => if x.on && decide (8 ≤ x.chan) then (s.runOnRing x.ring).map fun r => r.serial else none
  | none => none

/-- Whether an endpoint does not make a delivery wait (R240). -/
def State.epRoom (s : State) (part : Nat) (ep : BitVec 16) : Bool :=
  match s.deliver part ep ⟨0, 0, false, 0, []⟩ with | .full => false | _ => true

/-- Whether what the seals of a handle's freed tiles released has reached a task's die: what sees the tile FREE there acquires it (R288, R296). -/
def State.freeSeen (s : State) (t die h : Nat) : Bool := s.applied (taskDie t) (s.freedDeps die (s.partOf t) h)

/-- Whether the condition a task waits for holds (R48). A walk that has ended is over for every request that waited for it, whoever took its failure
(R321). -/
def State.waitOver (s : State) (t : Nat) : WaitFor → Bool
  | .chan => match s.queue t with
    | [] => false
    | e :: _ => s.applied (taskDie t) e.deps
  | .counters w =>
    let c := (s.task t).cnt
    withinField c.ld w.ld && withinField c.st w.st && withinField c.dr w.dr && withinField c.sr w.sr && withinField c.sv w.sv
      && withinField c.rn w.rn && (w.dr == 31 || s.applied (taskDie t) (s.task t).acqDr) && (w.rn == 31 || s.applied (taskDie t) (s.task t).acq)
  | .room ld st dr sr sv rn =>
    let c := (s.task t).cnt
    decide (c.ld.toNat + ld ≤ 255) && decide (c.st.toNat + st ≤ 255) && decide (c.dr.toNat + dr ≤ 255)
      && decide (c.sr.toNat + sr ≤ 255) && decide (c.sv.toNat + sv ≤ 255) && decide (c.rn.toNat + rn ≤ 255)
  | .accesses l => l.all fun n => !(s.accesses.any fun a => a.serial == n)
  | .result c => decide (c ≤ s.clk)
  | .parts _ | .words _ => true
  | .outside => !(s.outReqs.any fun o => o.who == .task t)
  | .tileAt die h u st met =>
    (match u with
      | some n => match s.tileU n with | some x => (met || tileReached x st.val) && s.applied (taskDie t) x.deps | none => met && s.freeSeen t die h
      | none => met || (match s.tile die (s.partOf t) h with | some x => tileReached x st.val | none => decide (st.val = 0) && s.freeSeen t die h))
  | .tileFilled die h => match s.tile die (s.partOf t) h with | some x => decide (x.state ≠ .filling) && s.applied (taskDie t) x.deps | none => true
  | .grant die hb id _ =>
    let q := s.pool die (s.partOf t)
    (if hb then q.hbQueue else q.queue).any fun r => r.id == id && r.granted
  | .walks die asid pages => pages.all fun p => (s.tlbFind die asid (p * 4096)).isSome || !s.walks.contains (die, asid, p)
  | .deliver ep run =>
    match run with
    | none => (s.accessesOf t).isEmpty && s.epRoom (s.partOf t) ep
    | some n => match s.run n with
      | some r => r.over || (r.placed && (s.accessesOf t).isEmpty && s.epRoom (s.partOf t) ep)
      | none => true
  | .groupRoom key => match s.group (taskDie t) (s.partOf t) key with
    | some g => decide (g.members.length < 32) || g.members.contains (s.task t).activation
    | none => decide ((s.groups.filter fun g => g.die == taskDie t).length < 256)
  | .phase key ph => match s.group (taskDie t) (s.partOf t) key with
    | some g => g.phase != ph
    | none => true
  | .firmware => (s.task t).fwReply.isSome
  | .launchRoom => decide ((Tab.get s.pifaces Iface.reset (s.partOf t)).fifo.length < 16)
  | .fence sc =>
    let m := s.modeOf (s.task t).context.toNat
    (s.accessesOf t).isEmpty
      && !(s.inFlight.any fun r => r.task == some t && scopeCovers m sc (taskDie t) r.dst)
      && !(s.inFlight.any fun r => r.ord == some (s.partOf t))
  | .switch => decide ((s.task t).cnt = ⟨0, 0, 0, 0, 0, 0⟩) || decide ((s.task t).switchReq ≠ some .switchOut)

/-- The running task blocks on a condition (R48). -/
def State.block (s : State) (w : WaitFor) : State := s.updMe fun x => { x with status := .blocked, waitFor := some w }

/-- The running task's instruction completes: the pc goes to `npc` and the instruction counts toward SAFEGAP (R224, R275). -/
def State.complete (s : State) (npc : BitVec 16) : State :=
  s.updMe fun x => { x with pc := npc, spcount := x.spcount + 1, waitFor := none }

/-- The address after the running task's instruction (R224). -/
def State.nextPc (s : State) : BitVec 16 := s.me.pc + 8

/-- What follows from an instruction's result. -/
def SeqRes.finish : SeqRes → Out
  | .done s => .next (s.complete s.nextPc)
  | .goto pc s => .next (s.complete pc)
  | .wait w s => .next (s.block w)
  | .fault f s => .next (s.takeFault s.cur (if f.code = fTAGFAIL then 1 else 0) s.me.pc f)
  | .take epc f s => .next (s.takeFault s.cur 0 epc f)
  | .leave s => .next (s.updMe fun x => { x with waitFor := none })
  | .more w s => .next (s.updMe fun x => { x with waitFor := some w })

/-- One sequencer instruction (R223 to R226): a false guard only completes; a pending register, or an access that the gate waits for, holds
the instruction back; a source register with an uncorrectable error is a precise POISON (R389); then the body. -/
def seqExec (g : Guard) (gate : Gate) (reads writes : List Reg) (body : State → SeqRes) (s : State) : Out :=
  if !Guard.holds g s.me then .next (s.complete s.nextPc)
  else
    let pend := s.pendingOn s.cur (reads ++ writes)
    let held := s.heldBy s.cur gate
    if !pend.isEmpty then (SeqRes.wait (.accesses pend) s).finish
    else if s.clk < s.me.dueAt (reads ++ writes) then (SeqRes.wait (.result (s.me.dueAt (reads ++ writes))) s).finish
    else if reads.any (fun r => s.me.softErr.contains r.val) then (SeqRes.fault (s.report fPOISON 1 0) s).finish
    else if !held.isEmpty then (SeqRes.wait (.accesses held) s).finish
    else (body s).finish

/-- Logs the failing block that a read by virtual address met (R328). -/
def State.noteBlock (s : State) (die part asid code va : Nat) : State :=
  if code = fTAGFAIL || code = fPOISON then
    match s.translate die part asid va ⟨true, false, false⟩ with
    | .ok pa _ => s.logBlock code part pa
    | _ => s
  else s

/-- Reads bytes of the running task's context and goes on with them: a page that misses is walked, and a fault of the read is precise (R251,
R265, R280); a part in host memory is asked for and waited for (R395). -/
def readBytes (va n : Nat) (s : State) (k : List Byte → State → SeqRes) : SeqRes :=
  let who := OutWho.task s.cur
  match s.readV s.myDie s.myPart s.myAsid who va n with
  | .miss pages => .wait (.walks s.myDie s.myAsid pages) (s.queueWalks s.myDie s.myAsid pages)
  | .out v pa len => .wait .outside (s.askOnce s.myDie s.myPart s.myAsid who v pa len .read)
  | .bad c acc v => .fault (s.report c acc v) (((s.noteBlock s.myDie s.myPart s.myAsid c v).dropWalkFault s.myDie s.myAsid v).forget who)
  | .ok bs => k bs (s.touchV s.myDie s.myPart s.myAsid va n)

/-- Reads a record or image, of which nothing more is to be read, and goes on with its bytes. -/
def withBytes (va n : Nat) (s : State) (k : List Byte → State → SeqRes) : SeqRes :=
  readBytes va n s fun bs x => k bs (x.forget (.task x.cur))

/-- The parts of an access: whole when naturally aligned, otherwise one for each 8-byte word it touches (R245). -/
def partsOf (va n : Nat) : List (Nat × Nat) :=
  if va % n = 0 then [(va, n)]
  else
    let k := 8 - va % 8
    if n ≤ k then [(va, n)] else [(va, k), (va + k, n - k)]

/-- The size code of an access length, for fault word 3. -/
def sizeCode (n : Nat) : Nat := match n with | 1 => 0 | 2 => 1 | 4 => 2 | _ => 3

/-- Waits for a condition, or goes on. -/
def await (w : WaitFor) (s : State) (k : State → SeqRes) : SeqRes := if s.waitOver s.cur w then k s else .wait w s

/-- Whether a task stands within an instruction of which a part is done, which is no instruction boundary (R225, R257, R280). -/
def Task.midway (x : Task) : Bool := match x.waitFor with | some (.parts _) | some (.words _) => true | _ => false

/-- A failure that reaches a task after its instruction has completed (R225, R253): a blocked task out of its handler enters it at once, a
runnable one at its next boundary, and a task that has ended that activation or is in its handler stops. A slot that has been activated again is
not stopped: only the record goes to firmware (DESIGN CHOICE, assumption 87). -/
def State.deferFault (s : State) (t act : Nat) (d : Deferred) : State :=
  let x := s.task t
  let rep : Report := ⟨d.code, d.access, d.va.toNat, d.w3.toNat⟩
  if x.activation ≠ act then s.toFirmware (taskSource t) (s.partOf t) (s.taskRecord t 2 rep)
  else match x.status with
    | .idle => s.stopTask t rep
    | .handler => s.stopTask t rep
    | .blocked => s.takeFault t d.cls x.pc rep
    | .runnable => s.updTask t fun y => { y with deferred := y.deferred ++ [d] }

/-- The 8-byte word of the instruction store at an address (R235). -/
def Sequencer.fetch (q : Sequencer) (pc : BitVec 16) : Word := BitVec.ofNat 64 (leNat (Memory.readWrap q.istore 65536 pc.toNat 8))

/-- What a turn comes to before any instruction's own meaning. -/
inductive Prepared
  | run (i : Instr) (s : State)
  | answer (o : Out)

/-- The slot whose turn it is: the first in round-robin order that is RUNNABLE or HANDLER (R49). -/
def State.pickSlot (s : State) (ring : Nat) : Option Nat :=
  (s.sequencer ring).order.find? fun k =>
    let st := (s.task (8 * ring + k)).status
    decide (st = .runnable) || decide (st = .handler)

/-- A slot goes to the end of the round-robin order. -/
def State.rotate (s : State) (ring k : Nat) : State :=
  let q := s.sequencer ring
  s.setSequencer ring { q with order := q.order.filter (fun j => j != k) ++ [k] }

/-- A sequencer's turn: the next slot's pending deferred fault, its SPGAP, its fetch and the ILLOP checks of its word, in that order;
otherwise the decoded instruction is to be run (R49, R109, R225, R275, R389). Of several failures known at one boundary the first enters the
handler, and each other waits for a boundary out of it (DESIGN CHOICE, assumption 88). -/
def State.issue (s : State) (ring : Nat) : Prepared :=
  match (if s.enabled.contains ring then s.pickSlot ring else none) with
  | none => .answer (.next s)
  | some k =>
    let t := 8 * ring + k
    let s1 := { (s.rotate ring k) with cur := t }
    let x := s1.task t
    match x.inHandler || x.midway, x.deferred with
    | false, d :: rest =>
      .answer (.next ((s1.updTask t fun y => { y with deferred := rest }).takeFault t d.cls x.pc
        ⟨d.code, d.access, d.va.toNat, d.w3.toNat⟩))
    | _, _ =>
      if x.safegap ≠ 0 ∧ x.safegap.toNat ≤ x.spcount.toNat then
        .answer (SeqRes.fault (s1.report fSPGAP 0 x.spcount.toNat) s1).finish
      else if (s1.sequencer ring).ibad.contains (x.pc.toNat / 8) then .answer (SeqRes.fault (s1.report fPOISON 1 0) s1).finish
      else match decodeSeq ((s1.sequencer ring).fetch x.pc) with
        | .error _ => .answer (SeqRes.fault (s1.report fILLOP 0 0) s1).finish
        | .ok i => .run i s1

end Sys2Proof.Machine
end

