-- ==== Sys2Proof/Machine/Tiles.lean ====
section
/-! DEFINITION. Machine/Tiles: tile storage, pools and their queues, the tile instructions, and the pool's own steps (R254 to R258, R304 to R316, R332). -/
namespace Sys2Proof.Machine

/-! ### Descriptors and storage (R112, R254, R305) -/

/-- The fields of a tile descriptor (R112). -/
structure Desc where
  count  : Nat
  mode   : Nat
  hb     : Bool
  format : BitVec 6
  k      : Nat
  rows   : Nat
deriving DecidableEq, Repr

/-- R112. -/
def descOf (d : BitVec 27) : Desc :=
  { count := (d.extractLsb' 19 8).toNat, mode := (d.extractLsb' 17 2).toNat, hb := d.getLsbD 16, format := d.extractLsb' 10 6
    k := (d.extractLsb' 6 4).toNat + 1, rows := (d.extractLsb' 0 6).toNat + 1 }

/-- Whether mode and count are in range (R112, R254). -/
def countOk (mode count : Nat) : Bool :=
  match mode with
  | 0 => decide (1 ≤ count) && decide (count ≤ 254)
  | 1 => decide (1 ≤ count)
  | 2 => decide (count = 0)
  | _ => false

/-- Elements per row (R73). -/
def rowElems (k : Nat) (f : BitVec 6) : Nat := 64 * k * 8 / fmtWidth f

/-- Whether a tile of this shape may have this format: valid, and for a grouped format E a multiple of G (R61, R73). -/
def shapeOk (k : Nat) (f : BitVec 6) : Bool := fmtValid f && (fmtGroup f == 0 || rowElems k f % fmtGroup f == 0)

/-- Bytes of the side area (R305). -/
def sideBytes (rows k : Nat) (f : BitVec 6) : Nat := if fmtGroup f = 0 then 0 else 4 * rows * (rowElems k f / fmtGroup f)

/-- Units of 2 KiB that bytes take. -/
def unitsOf (n : Nat) : Nat := (n + 2047) / 2048

/-- Granules of a tile (R254). -/
def granulesOf (rows k : Nat) (f : BitVec 6) : Nat := unitsOf (rows * 64 * k) + unitsOf (sideBytes rows k f)

/-- The key of a granule of a die. -/
def granuleKey (die g : Nat) : Nat := die * 262144 + g

/-- The physical address of an HB block of a partition on a die (R332). -/
def State.hbAddr (s : State) (die part b : Nat) : Nat := (s.pool die part).hbBase + 2048 * b

/-- The byte of a storage unit of a tile: of the granule, or of the sealed block for an HB tile (R305, R332). -/
def State.unitByte (s : State) (t : Tile) (u off : Nat) : Byte :=
  match t.storage[u]? with
  | none => 0
  | some g => if t.hb then Memory.read s.mem (s.hbAddr t.die t.partition g + off) else Memory.read s.sram (granuleKey t.die g * 2048 + off)

/-- The `n` bytes of a tile from offset `x` of its storage, data area first. -/
def State.tileBytes (s : State) (t : Tile) (base : Nat) : Nat → Nat → List Byte
  | _, 0 => []
  | x, n + 1 => s.unitByte t (base + x / 2048) (x % 2048) :: State.tileBytes s t base (x + 1) n

/-- Bytes of the data area (R305). -/
def State.tileData (s : State) (t : Tile) (x n : Nat) : List Byte := s.tileBytes t 0 x n

/-- Bytes of the side area (R305). -/
def State.tileSide (s : State) (t : Tile) (y n : Nat) : List Byte := s.tileBytes t (unitsOf t.dataBytes) y n

/-- Writes one byte of a storage unit. -/
def State.setUnitByte (s : State) (t : Tile) (u off : Nat) (b : Byte) : State :=
  match t.storage[u]? with
  | none => s
  | some g =>
    if t.hb then { s with mem := Memory.write s.mem (s.hbAddr t.die t.partition g + off) b }
    else { s with sram := Memory.write s.sram (granuleKey t.die g * 2048 + off) b }

/-- Writes bytes of a tile from an offset of its storage. -/
def State.setTileBytes (s : State) (t : Tile) (base : Nat) : Nat → List Byte → State
  | _, [] => s
  | x, b :: bs => State.setTileBytes (s.setUnitByte t (base + x / 2048) (x % 2048) b) t base (x + 1) bs

/-- The storage units that bytes x to x + n − 1 of an area lie in. -/
def Tile.unitsTouched (t : Tile) (base x n : Nat) : List Nat :=
  (List.range ((x + n + 2047) / 2048 - x / 2048)).filterMap fun i => t.storage[base + x / 2048 + i]?

/-- The key of the 256-bit word of tile storage that holds a byte of a granule (R331). -/
def wordKey (die g off : Nat) : Nat := 64 * granuleKey die g + off / 32

/-- The 256-bit words that bytes x to x + n − 1 of an area of an SP tile lie in (R331). -/
def Tile.wordsTouched (t : Tile) (base x n : Nat) : List Nat :=
  (List.range ((x + n + 31) / 32 - x / 32)).filterMap fun i =>
    let y := x / 32 * 32 + 32 * i
    (t.storage[base + y / 2048]?).map fun g => wordKey t.die g (y % 2048)

/-- Writes bytes of an area; the blocks of an HB tile are written in the sealed-block cache (R332), and a word written whole holds no error
(R331). -/
def State.setTileArea (s : State) (t : Tile) (base x : Nat) (bs : List Byte) : State :=
  let s1 := s.setTileBytes t base x bs
  if t.hb then (t.unitsTouched base x bs.length).foldl (fun y g => y.dirtyBlock (s.hbAddr t.die t.partition g)) s1
  else if s1.sramBad.isEmpty then s1
  else
    let first := (x + 31) / 32 * 32
    let whole := t.wordsTouched base first ((x + bs.length) / 32 * 32 - first)
    { s1 with sramBad := s1.sramBad.filter fun k => !whole.contains k }

/-- Sealed blocks of an HB tile that bytes x to x + n − 1 of an area lie in are placed in the cache by a read (R326, R332). -/
def State.touchTile (s : State) (t : Tile) (base x n : Nat) : State :=
  if t.hb then (t.unitsTouched base x n).foldl (fun y g => y.cacheBlock false (s.hbAddr t.die t.partition g)) s else s

/-- Writes bytes of the data area. -/
def State.setTileData (s : State) (t : Tile) (x : Nat) (bs : List Byte) : State := s.setTileArea t 0 x bs
/-- Writes bytes of the side area. -/
def State.setTileSide (s : State) (t : Tile) (y : Nat) (bs : List Byte) : State := s.setTileArea t (unitsOf t.dataBytes) y bs

/-- What fails among bytes x to x + n − 1 of an area: 256-bit words with an uncorrectable error, or HB blocks that fail (R331, R332). -/
def State.badUnits (s : State) (t : Tile) (base x n : Nat) : List Nat :=
  if t.hb then (t.unitsTouched base x n).filter fun g => (s.blockFault false (s.hbAddr t.die t.partition g)).isSome
  else if s.sramBad.isEmpty then []
  else (t.wordsTouched base x n).filter fun k => s.sramBad.contains k

/-- Whether reading bytes of a tile meets a failing unit. -/
def State.tileBad (s : State) (t : Tile) (base x n : Nat) : Bool := !(s.badUnits t base x n).isEmpty

/-- A failing unit moves the tile to POISON (R308, R331, R332); the event names what failed. -/
def State.tileFails (s : State) (t : Tile) (base x n : Nat) : State :=
  match t.hb, s.badUnits t base x n with
  | true, g :: _ =>
    let pa := s.hbAddr t.die t.partition g
    match s.blockFault false pa with
    | some c => (s.logBlock c t.partition pa).poisonTile t.uid false
    | none => s.poisonTile t.uid true
  | _, _ => s.poisonTile t.uid true

/-- Whether a write to bytes of an HB tile meets a block that fails: the write reads the block first (R246, R332). -/
def State.hbBad (s : State) (t : Tile) (base x n : Nat) : Bool := t.hb && s.tileBad t base x n

/-! ### Pools (R312 to R315) -/

/-- Granules free to any partition (R312): below 0 where figures were raised above what is left. -/
def State.sharedFree (s : State) (die : Nat) : Int :=
  262144 - ((((List.range 16).map fun p => max (s.pool die p).held (s.pool die p).res).foldl (· + ·) 0 : Nat) : Int)

/-- Whether a request of n granules is grantable (R312). -/
def State.grantable (s : State) (die p n : Nat) : Bool :=
  let q := s.pool die p
  decide (q.held + n ≤ q.lim) && decide (((max (q.held + n) q.res - max q.held q.res : Nat) : Int) ≤ s.sharedFree die)

/-- Tile-table entries a partition has on a die, granted requests included (R313). -/
def State.entriesUsed (s : State) (die p : Nat) : Nat :=
  let q := s.pool die p
  (s.tiles.filter fun t => t.die == die && t.partition == p).length
  + (q.queue.filter fun r => r.granted && r.entry).length + (q.hbQueue.filter fun r => r.granted && r.entry).length

/-- Whether an entry is free within the partition's quota and the die's table (R313). -/
def State.entryFree (s : State) (die p : Nat) : Bool :=
  decide (s.entriesUsed die p < (s.pool die p).quota)
  && decide (((List.range 16).map fun i => s.entriesUsed die i).foldl (· + ·) 0 < 65536)

/-- Free HB blocks of a partition on a die (R313). -/
def State.hbFree (s : State) (die p : Nat) : Nat :=
  let q := s.pool die p
  q.hbSize - ((s.tiles.filter fun t => t.die == die && t.partition == p && t.hb).map fun t => t.storage.length).foldl (· + ·) 0
  - ((q.hbQueue.filter fun r => r.granted).map fun r => r.n).foldl (· + ·) 0

/-- Whether the storage and the entry a request needs are there now (R313). -/
def State.fits (s : State) (die p : Nat) (hb entry : Bool) (n : Nat) : Bool :=
  (if hb then decide (n ≤ s.hbFree die p) else s.grantable die p n) && (!entry || s.entryFree die p)

/-- The requests that still wait in a queue. -/
def waiting (q : List PoolReq) : List PoolReq := q.filter fun r => !r.granted

/-- Whether a new request is granted at once: nothing waits before it and it fits (R313). -/
def State.grantNow (s : State) (die p : Nat) (hb entry : Bool) (n : Nat) : Bool :=
  let q := s.pool die p
  (waiting (if hb then q.hbQueue else q.queue)).isEmpty && s.fits die p hb entry n

/-- Charges granules to a pool partition. -/
def State.charge (s : State) (die p n : Nat) : State :=
  let q := s.pool die p
  s.setPool die p { q with held := q.held + n }

/-- Queues a request (R313). -/
def State.enqueue (s : State) (die p : Nat) (hb : Bool) (r : PoolReq) : State :=
  let q := s.pool die p
  s.setPool die p (if hb then { q with hbQueue := q.hbQueue ++ [r] } else { q with queue := q.queue ++ [r] })

/-- Takes a request out of its queue, its grant staying charged. -/
def State.takeRequest (s : State) (die p id : Nat) : State :=
  let q := s.pool die p
  s.setPool die p { q with queue := q.queue.filter (fun r => r.id != id), hbQueue := q.hbQueue.filter fun r => r.id != id }

/-- Free numbers below `size`, from a starting number on: `n` of them that are not used. -/
def pickFree (used : List Nat) (size : Nat) : Nat → Nat → Nat → List Nat
  | 0, _, _ => []
  | fuel + 1, pos, n =>
    if n = 0 then []
    else if used.contains pos then pickFree used size fuel ((pos + 1) % size) n
    else pos :: pickFree used size fuel ((pos + 1) % size) (n - 1)

/-- Granules, or HB blocks, in use on a die. -/
def State.usedUnits (s : State) (die p : Nat) (hb : Bool) : List Nat :=
  (s.tiles.filter fun t => t.die == die && t.hb == hb && (!hb || t.partition == p)).flatMap fun t => t.storage

/-- A granule passes to a pool partition: it is zeroed unless it last belonged to the same one (R306). -/
def State.ownGranule (s : State) (die p g : Nat) : State :=
  let key := granuleKey die g
  if Tab.find s.sramOwner key = some p then s
  else { s with sram := Memory.zero s.sram (key * 2048) 2048, sramOwner := Tab.set s.sramOwner key p, sramBad := s.sramBad.filter fun k => k / 64 != key }

/-- Chooses storage freely among what is free (R305, assumption 3). -/
def State.chooseUnits (s : State) (die p : Nat) (hb : Bool) (n : Nat) : List Nat × State :=
  let (f, s1) := s.drawNat
  let size := if hb then (s.pool die p).hbSize else 262144
  let used := s.usedUnits die p hb
  let us := pickFree used size (n + used.length) (if size = 0 then 0 else f % size) n
  (us, if hb then s1 else us.foldl (fun x g => x.ownGranule die p g) s1)

/-- Chooses a handle freely among those no tile of the partition uses on the die (R254). -/
def State.chooseHandle (s : State) (die p : Nat) : Nat × State :=
  let (f, s1) := s.drawNat
  let used := (s.tiles.filter fun t => t.die == die && t.partition == p).map fun t => t.handle - 1
  (((pickFree used 1048575 (used.length + 1) (f % 1048575) 1).headD 0) + 1, s1)

/-- The read-count mode of its code. -/
def tileModeOf : Nat → TileMode
  | 0 => .anonymous
  | 1 => .declared
  | _ => .pinned

/-- Set bits of a mask. -/
def maskCount (m : BitVec 8) : Nat := ((List.range 8).filter fun i => m.getLsbD i).length

/-- A WAITT that named a handle with no tile now waits for the tile that takes it, which is FILLING (R272). -/
def nameWait (die part handle uid : Nat) (p : Task) (taskPart : Nat) : Task :=
  match p.waitFor with
  | some (.tileAt d h none st m) => if d == die && h == handle && taskPart == part then { p with waitFor := some (.tileAt d h (some uid) st (m || decide (st.val = 1))) } else p
  | _ => p

/-- Makes a tile in FILLING whose storage is already charged (R254, R306, R308); gives its number and handle. -/
def State.makeTile (s : State) (die part : Nat) (d : Desc) (owner : Owner) (filling : Bool) (funded : Option Nat) : Nat × Nat × State :=
  let (units, s1) := s.chooseUnits die part d.hb (granulesOf d.rows d.k d.format)
  let (handle, s2) := s1.chooseHandle die part
  let (uid, s3) := s2.fresh
  let mask : BitVec 8 := if d.mode = 1 then BitVec.ofNat 8 d.count else 0
  let reads := match d.mode with
    | 0 => d.count
    | 1 => maskCount mask
    | _ => 255
  let t : Tile := {
    uid := uid, die := die, handle := handle, partition := part, state := .filling, mode := tileModeOf d.mode, reads := reads, inProg := 0
    rmask := mask, done := 0, rows := d.rows, k := d.k, format := d.format, hb := d.hb, filling := filling, valid := 0, owner := owner
    storage := units, funded := funded, slotsIn := [], doomed := false, wasFull := false, wasDrain := false, abandoned := [], deps := [], bad := false }
  (uid, handle, { s3 with tiles := s3.tiles ++ [t], tasks := s3.tasks.map fun p => (p.1, nameWait die part handle uid p.2 (s3.partOf p.1)) })

/-- The owner of what a task allocates: its graph, or its own activation (R254). -/
def State.ownerOf (s : State) (t : Nat) : Owner :=
  match (s.task t).node with
  | some (g, _) => .graph g
  | none => .activation (s.task t).ownerAct

/-- Waits for an allocation's grant in the queue's order, and goes on when it is there (R254, R313). -/
def allocThen (die part : Nat) (hb : Bool) (n : Nat) (src : Option GrantFor) (s : State) (k : State → SeqRes) : SeqRes :=
  match s.me.waitFor with
  | some (.grant d h id x) => await (.grant d h id x) s fun s => k (s.takeRequest d part id)
  | _ =>
    if s.grantNow die part hb true n then k (if hb then s else s.charge die part n)
    else
      let (id, s1) := s.fresh
      .wait (.grant die hb id src) (s1.enqueue die part hb ⟨id, .task s.cur, n, true, false, s.clk, false⟩)

/-! ### The tile instructions -/

/-- The handle of a register (R252). -/
def handleOf (w : Word) : Nat := (w.extractLsb' 0 20).toNat
/-- The failing address of a tile fault: handle and die (R383). -/
def tileVa (die handle : Nat) : Nat := handle + die * 2 ^ 20

/-- TALLOC from a descriptor (R254). -/
def tallocWith (d : Reg) (desc : BitVec 27) (s : State) : SeqRes :=
  let x := descOf desc
  if !countOk x.mode x.count then .fault (s.report fILLOP 0 0) s
  else if !shapeOk x.k x.format then .fault (s.report fFMT 0 0) s
  else
    allocThen s.myDie s.myPart x.hb (granulesOf x.rows x.k x.format) none s fun s =>
      let (_, handle, s1) := s.makeTile s.myDie s.myPart x (s.ownerOf s.cur) false none
      .done (s1.setR d (BitVec.ofNat 64 handle))

/-- TALLOC, immediate form (R254). -/
def execTalloc (g : Guard) (d : Reg) (desc : BitVec 27) (s : State) : Out := seqExec g .system [] [d] (fun s => tallocWith d desc s) s
/-- TALLOC, register form (R254). -/
def execTallocReg (g : Guard) (d a : Reg) (s : State) : Out :=
  seqExec g .system [a] [d] (fun s => tallocWith d ((s.r a).extractLsb' 0 27) s) s

/-- TSEAL: a release at DEV scope (R255). -/
def execTseal (g : Guard) (a : Reg) (s : State) : Out :=
  seqExec g .release [a] [] (fun s =>
    let h := handleOf (s.r a)
    let s := s.readEntry s.myDie s.myPart h
    match s.tile s.myDie s.myPart h with
    | none => .fault (s.report fTSTATE 0 (tileVa s.myDie h)) s
    | some t =>
      if t.state = .filling && !t.filling then .done (s.sealTile t.uid (s.depsOf s.myDie))
      else .fault (s.report fTSTATE 0 (tileVa s.myDie h)) s) s

/-- The state code of a tile (R44). -/
def TileState.code : TileState → Nat
  | .filling => 1 | .full => 2 | .draining => 3 | .poison => 4
/-- The mode code of a tile (R256). -/
def TileMode.code : TileMode → Nat
  | .anonymous => 0 | .declared => 1 | .pinned => 2

/-- The status word (R256). -/
def Tile.status (t : Tile) : Word :=
  BitVec.ofNat 64 (((List.range 64).filter fun i => t.valid.getLsbD i).length * 2 ^ 48 + (t.rows - 1) * 2 ^ 41 + (t.k - 1) * 2 ^ 37
    + t.format.toNat * 2 ^ 31 + (if t.hb then 2 ^ 30 else 0) + t.mode.code * 2 ^ 28 + t.done.toNat * 2 ^ 20 + t.rmask.toNat * 2 ^ 12
    + t.reads * 2 ^ 4 + (if t.filling then 8 else 0) + t.state.code)

/-- Whether a tile shows a FULL whose release has not reached a die yet: what observes it there acquires that release (R44, R296). -/
def State.unseen (s : State) (die : Nat) (t : Tile) : Bool := (t.state == .full || t.state == .draining) && !s.applied die t.deps

/-- TSTAT: a handle with no tile reads as zeros (R256). It reads FULL or DRAINING, and FREE after them, once what the seal released has reached its
die. -/
def execTstat (g : Guard) (d a : Reg) (s : State) : Out :=
  seqExec g .system [a] [d] (fun s =>
    let s := s.readEntry s.myDie s.myPart (handleOf (s.r a))
    match s.tile s.myDie s.myPart (handleOf (s.r a)) with
    | some t => if s.unseen s.myDie t then .leave s else .done (s.setR d t.status)
    | none => if s.freeSeen s.cur s.myDie (handleOf (s.r a)) then .done (s.setR d 0) else .leave s) s

/-- The byte offset of TLOAD and TSTORE (R257). -/
def tileOff (b : Word) (imm : BitVec 32) : Nat := (b + imm.signExtend 64).toNat

/-- The bytes that the earlier parts of the running task's misaligned access of a tile have moved (R257). -/
def State.movedBytes (s : State) : List Byte := match s.me.waitFor with | some (.parts l) => l | _ => []

/-- The part of an access of a tile that comes after `done` bytes: its offset, its length, and whether it is the last (R245, R257). -/
def nextPart (x n done : Nat) : Nat × Nat × Bool :=
  match partsOf x n with
  | (_, k) :: _ => if done = 0 then (x, k, k == n) else (x + done, n - done, true)
  | [] => (x, n, true)

/-- TLOAD: a peek; the tile must be FULL or DRAINING, and FILLING is waited for (R257). A misaligned one is performed by parts. -/
def execTload (g : Guard) (sz : LoadSize) (d a b : Reg) (imm : BitVec 32) (s : State) : Out :=
  seqExec g .system [a, b] [d] (fun s =>
    let h := handleOf (s.r a)
    let x := tileOff (s.r b) imm
    let info := accessInfo d (sizeCode sz.bytes) sz.signed
    let got := s.movedBytes
    let p := nextPart x sz.bytes got.length
    let s := s.readEntry s.myDie s.myPart h
    match s.tile s.myDie s.myPart h with
    | none => .fault (s.report fTOVER 1 (tileVa s.myDie h) info) s
    | some t =>
      if t.dataBytes < x + sz.bytes then .fault (s.report fPERM 1 (tileVa s.myDie h) info) s
      else match t.state with
        | .filling => .wait (.tileFilled s.myDie h) s
        | .poison => .fault (s.report fPOISON 1 (tileVa s.myDie h) info) s
        | _ =>
          if s.unseen s.myDie t then .wait (.tileFilled s.myDie h) s
          else if s.tileBad t 0 p.1 p.2.1 then .fault (s.report fPOISON 1 (tileVa s.myDie h) info) (s.tileFails t 0 p.1 p.2.1)
          else
            let bs := got ++ s.tileData t p.1 p.2.1
            let s := s.touchTile t 0 p.1 p.2.1
            if p.2.2 then .done (s.setR d (extendWord sz.signed bs)) else .more (.parts bs) s) s

/-- The validity bits of the rows that bytes x to x + n − 1 touch. -/
def touchRows (rowBytes x n : Nat) (v : BitVec 64) : BitVec 64 :=
  (List.range n).foldl (fun m i => m ||| BitVec.twoPow 64 ((x + i) / rowBytes)) v

/-- TSTORE (R257): it follows every earlier read of the task (R287). A misaligned one is performed by parts. -/
def execTstore (g : Guard) (sz : Size) (d a b : Reg) (imm : BitVec 32) (s : State) : Out :=
  seqExec g .tileWrite [a, b, d] [] (fun s =>
    let h := handleOf (s.r a)
    let x := tileOff (s.r b) imm
    let info := accessInfo d (sizeCode sz.bytes) false
    let put := s.movedBytes
    let p := nextPart x sz.bytes put.length
    let s := s.readEntry s.myDie s.myPart h
    match s.tile s.myDie s.myPart h with
    | none => .fault (s.report fTSTATE 2 (tileVa s.myDie h) info) s
    | some t =>
      if t.dataBytes < x + sz.bytes then .fault (s.report fPERM 2 (tileVa s.myDie h) info) s
      else if t.state = .filling then
        if s.hbBad t 0 p.1 p.2.1 then .fault (s.report fTSTATE 2 (tileVa s.myDie h) info) (s.tileFails t 0 p.1 p.2.1)
        else
          let bs := ((wordBytes sz.bytes (s.r d)).drop put.length).take p.2.1
          let s1 := (s.setTileData t p.1 bs).updTile t.uid fun y => { y with valid := touchRows y.rowBytes p.1 p.2.1 y.valid }
          if p.2.2 then .done s1 else .more (.parts (put ++ bs)) s1
      else .fault (s.report fTSTATE 2 (tileVa s.myDie h) info) s) s

/-! ### The pool's own steps -/

/-- Grants the head of a queue when it fits (R313, R314). -/
def State.grantHead (s : State) (die p : Nat) (hb : Bool) : State :=
  let q := s.pool die p
  let l := if hb then q.hbQueue else q.queue
  match waiting l with
  | [] => s
  | r :: _ =>
    if s.fits die p hb r.entry r.n then
      let l1 := l.map fun x => if x.id == r.id then { x with granted := true } else x
      s.setPool die p (if hb then { q with hbQueue := l1 } else { q with queue := l1, held := q.held + r.n })
    else s

/-- POOL_GRANT (R314): the head of a die's SP or HB queue of a partition is granted when it has become grantable. -/
def execPoolGrant (die partition : Nat) (hb : Bool) (s : State) : Out := .next (s.grantHead die partition hb)

/-- POOL_FIGURES_SET (R312): firmware sets reserve, limit and entry quota; a setting it must not make is refused. -/
def execPoolFiguresSet (die partition res lim quota : Nat) (s : State) : Out :=
  let q := s.pool die partition
  let total := ((List.range 16).map fun i => if i = partition then res else (s.pool die i).res).foldl (· + ·) 0
  if die < 6 ∧ partition < 16 ∧ res ≤ lim ∧ total ≤ 262144 then
    .next (s.setPool die partition { q with res := res, lim := lim, quota := quota })
  else .next s

/-- The number of a requester in the payload of ASTALL's event: its kind in bits [31:28] (DESIGN CHOICE, assumption 69). -/
def Requester.code : Requester → Nat
  | .task t => t
  | .engine n => 2 ^ 28 + n % 2 ^ 28
  | .reserve n => 2 * 2 ^ 28 + n % 2 ^ 28
  | .seam n vs _ => 3 * 2 ^ 28 + n % 2 ^ 16 * 2 ^ 12 + vs % 2 ^ 12

/-- ASTALL (R316): a request that has waited the firmware-set number of clk is reported to firmware once, with its requester. -/
def execAstall (die partition request : Nat) (s : State) : Out :=
  let q := s.pool die partition
  match (q.queue ++ q.hbQueue).find? fun r => r.id == request && !r.granted && !r.stalled with
  | none => .next s
  | some r =>
    if s.clk < r.since + s.figures.astallClk then .next s
    else
      let mark := fun x : PoolReq => if x.id == request then { x with stalled := true } else x
      let s1 := s.setPool die partition { q with queue := q.queue.map mark, hbQueue := q.hbQueue.map mark }
      .next (({ s1 with astalls := s1.astalls ++ [(die, r.who, r.n, q.held, q.lim, s.sharedFree die)] }).logEvent (tileSource die) 5
        partition (BitVec.ofNat 64 (r.who.code + r.n * 2 ^ 32)) (BitVec.ofNat 64 (q.held + q.lim * 2 ^ 20) + (BitVec.ofInt 64 (s.sharedFree die) <<< 40)))

end Sys2Proof.Machine
end

