-- ==== Sys2Proof/Machine/Engine.lean ====
section
/-! DEFINITION. Machine/Engine: engine operations (DRAW, DRAWS, SEND, COPYM, TXFER), their completion, holding and abandonment, and the streams they are served through (R118, R253, R258 to R264, R354). -/
namespace Sys2Proof.Machine

/-! ### Streams (R354) -/

/-- Streams bound to a streamer of a die. -/
def State.bound (s : State) (die k : Nat) : Nat := (s.streams.filter fun x => x.die == die && x.streamer == some k).length

/-- The streamer with the fewest bound streams, when that is below 64. -/
def State.freeStreamer (s : State) (die : Nat) : Option Nat :=
  let best := (List.range 32).foldl (fun b k => if s.bound die k < s.bound die b then k else b) 0
  if s.bound die best < 64 then some best else none

/-- The priority class of what an owner's operations do: its graph's or its run's, and 0 for a task that no graph dispatched (DESIGN CHOICE, assumption 70). -/
def State.ownerClass (s : State) (o : Owner) : Nat :=
  match o with
  | .graph g => (match s.graph g with | some x => x.cls | none => 0)
  | .run n => (match s.run n with | some x => x.recd.priority | none => 0)
  | _ => 0

/-- The weight of a stream: its partition's × (its class + 1). -/
def State.streamWeight (s : State) (who : StreamOf) : Nat :=
  match who with
  | .engine n => (match s.engine n with | some e => (s.part e.part).weight * (s.ownerClass e.owner + 1) | none => 1)
  | .cell n _ _ => (match s.run n with | some r => (s.part r.partition).weight * (r.recd.priority + 1) | none => 1)

/-- A stream starts: bound at once when nothing waits before it and a streamer has room. -/
def State.openStream (s : State) (die : Nat) (who : StreamOf) : State :=
  let (id, s1) := s.fresh
  let free := if s.streams.any fun x => x.die == die && x.streamer.isNone then none else s.freeStreamer die
  { s1 with streams := s1.streams ++ [⟨id, die, free, who, false, false, s.clk, s.streamWeight who⟩] }

/-- A stream ends. -/
def State.closeStream (s : State) (who : StreamOf) : State := { s with streams := s.streams.filter fun x => x.who != who }

/-- Changes a stream. -/
def State.updStream (s : State) (who : StreamOf) (f : Stream → Stream) : State :=
  { s with streams := s.streams.map fun x => if x.who == who then f x else x }

/-- Whether the request that a stream has shown its streamer is still to be made: not one that is held, or of a run that stops or is marked. -/
def State.stillWaits (s : State) (x : Stream) : Bool :=
  x.waiting && (match x.who with
    | .engine n => (match s.engine n with | some e => e.held.isNone | none => false)
    | .cell n slot _ => (match s.run n with
        | some r => decide (r.phase = .running) && decide (r.stopping = .no) && r.marking.isNone
            && (match Tab.find r.stripes slot with | some st => !st.restoring | none => false)
        | none => false))

/-- Whether the streamer serves a request of this stream next: promoted requests go first, the oldest of them before the others, and the rest by
weighted round robin, in which a stream has as many requests served in a round as its weight. -/
def State.mayServe (s : State) (who : StreamOf) : Bool :=
  match s.streams.find? fun x => x.who == who with
  | none => false
  | some x =>
    let others := s.streams.filter fun y => y.die == x.die && y.streamer == x.streamer && y.who != who && s.stillWaits y
    x.streamer.isSome
    && (if x.promoted then others.all fun y => !y.promoted || decide (x.since ≤ y.since)
        else others.all (fun y => !y.promoted) && (decide (0 < x.credit) || others.all fun y => y.credit == 0))

/-- A request of a stream waits at its streamer. -/
def State.present (s : State) (who : StreamOf) : State :=
  s.updStream who fun x => if x.waiting then x else { x with waiting := true, since := s.clk }

/-- A request of a stream has been served; where the stream had used up its round, a new one begins at its streamer. -/
def State.served (s : State) (who : StreamOf) : State :=
  match s.streams.find? fun x => x.who == who with
  | none => s
  | some x =>
    let again := fun (y : Stream) =>
      if x.credit = 0 ∧ y.die = x.die ∧ y.streamer = x.streamer then { y with credit := s.streamWeight y.who } else y
    { s with streams := s.streams.map again }.updStream who fun y => { y with waiting := false, promoted := false, credit := y.credit - 1 }

/-- STREAMER_BIND (R354): the stream that has waited longest on a die is bound when a streamer has room. -/
def execStreamerBind (die : Nat) (s : State) : Out :=
  match s.streams.find? fun x => x.die == die && x.streamer.isNone, s.freeStreamer die with
  | some x, some k =>
    .next { s with streams := s.streams.map fun y => if y.id == x.id then { y with streamer := some k, since := s.clk } else y }
  | _, _ => .next s

/-- STREAMER_PROMOTE (R354): a request that has waited at its streamer for the firmware-set number of clk is promoted. -/
def execStreamerPromote (die stream : Nat) (s : State) : Out :=
  .next { s with streams := s.streams.map fun x =>
    if x.die == die && x.id == stream && x.streamer.isSome && x.waiting && decide (x.since + s.figures.promoteClk ≤ s.clk) then { x with promoted := true }
    else x }

/-! ### View records (R118) -/

/-- A signed number of 64 bits. -/
def sgn64 (v : Nat) : Int := if v < 2 ^ 63 then (v : Int) else (v : Int) - 2 ^ 64

/-- The little-endian field of `n` bytes at an offset. -/
def fieldAt (bs : List Byte) (off n : Nat) : Nat := leNat ((bs.drop off).take n)

/-- The view a record gives, when it keeps R118. -/
def viewOf (bs : List Byte) : Option View :=
  let flags := fieldAt bs 0x3C 4
  let size := fun d => fieldAt bs (8 + 4 * d) 4
  let stride := fun d => sgn64 (fieldAt bs (0x18 + 8 * d) 8)
  if 1 ≤ flags ∧ flags ≤ 4 ∧ (List.range 4).all fun d => if d < flags then size d != 0 else size d == 0 && stride d == 0 then
    some { base := fieldAt bs 0 8, sizes := Vector.ofFn fun d => size d.val, strides := Vector.ofFn fun d => stride d.val
           fill := BitVec.ofNat 32 (fieldAt bs 0x38 4), dims := flags }
  else none

/-- Coordinate d of a coordinate register (R118). -/
def coord (c : Word) (d : Nat) : Nat := (c.extractLsb' (16 * d) 16).toNat

/-- Reads the view record a register names and goes on with it: a page that misses is walked, a record that cannot be read is a precise
fault, and one that breaks R118, its coordinates included, is an ILLOP. -/
def withView (a coords : Word) (s : State) (k : View → State → SeqRes) : SeqRes :=
  if a.toNat % 64 ≠ 0 then .fault (s.report fILLOP 0 0) s
  else withBytes a.toNat 64 s fun bs s =>
    match viewOf bs with
    | none => .fault (s.report fILLOP 0 0) s
    | some v =>
      if (List.range 4).all fun d => decide (d < v.dims) || coord coords d == 0 then k v s else .fault (s.report fILLOP 0 0) s

/-! ### Geometry (R259) -/

/-- The in-bounds rows of a tile: row, address of its first element, and its number of in-bounds elements. -/
def geoRows (v : View) (coords : Word) (rows k w : Nat) : List (Nat × Nat × Nat) :=
  let e := 512 * k / w
  let c0 := coord coords 0
  let inside := decide (c0 * e < v.sizes[0])
    && (decide (v.dims ≤ 2) || decide (coord coords 2 < v.sizes[2])) && (decide (v.dims ≤ 3) || decide (coord coords 3 < v.sizes[3]))
  let size1 := if v.dims < 2 then 1 else v.sizes[1]
  let at0 : Int := (v.base : Int) + (c0 * e * w / 8 : Nat) + (coord coords 2 : Int) * v.strides[2] + (coord coords 3 : Int) * v.strides[3]
  if inside then
    (List.range rows).filterMap fun i =>
      let r := coord coords 1 * rows + i
      if r < size1 then some (i, ((at0 + (r : Int) * v.strides[1]) % 2 ^ 64).toNat, min e (v.sizes[0] - c0 * e)) else none
  else []

/-- A dimension-0 stride that disagrees with the format, or a misaligned base (R259). -/
def layoutBad (v : View) (w : Nat) : Bool :=
  (if 8 ≤ w then v.strides[0] != ((w / 8 : Nat) : Int) else v.strides[0] != 0) || v.base % max 1 (w / 8) != 0

/-- Bytes of n elements of w bits. -/
def elemBytes (n w : Nat) : Nat := (n * w + 7) / 8

/-! ### The requests of an engine operation (R253, R259, R260, R263, R294) -/

/-- What translating or reading for an engine gives: a value, pages to walk, a condition that holds the request, or a request that failed. -/
inductive EngR (α : Type)
  | ok (a : α)
  | miss (pages : List Nat)
  | hold (code access va : Nat)
  | sick (code pa va : Nat)

/-- Goes on with the value. -/
def EngR.andThen {α β : Type} (x : EngR α) (f : α → EngR β) : EngR β :=
  match x with
  | .ok a => f a
  | .miss p => .miss p
  | .hold c a v => .hold c a v
  | .sick c p v => .sick c p v

/-- Does one thing for each item, in order. -/
def EngR.each {α β : Type} (f : α → EngR β) : List α → EngR (List β)
  | [] => .ok []
  | x :: xs => (f x).andThen fun y => (EngR.each f xs).andThen fun ys => .ok (y :: ys)

/-- A naturally aligned 64-byte piece of a range of virtual addresses, or the part of one that the range covers (R294). -/
structure Span where
  va    : Nat
  pa    : Nat
  len   : Nat
  entry : TlbEntry
deriving DecidableEq, Repr

/-- Translates a range piece by piece. -/
def State.spansFrom (s : State) (die part asid : Nat) (n : Need) (fmt : Option (BitVec 6)) : Nat → Nat → Nat → EngR (List Span)
  | 0, _, _ => .ok []
  | fuel + 1, va, len =>
    if len = 0 then .ok []
    else
      let k := min len (64 - va % 64)
      match s.translate die part asid va n with
      | .miss p => .miss [p]
      | .bad c a => .hold c a va
      | .ok pa e =>
        if !fmtValid e.format || (match fmt with | some f => f != e.format | none => false) then .hold fFMT n.code va
        else (State.spansFrom s die part asid n fmt fuel (va + k) (len - k)).andThen fun r => .ok (⟨va, pa, k, e⟩ :: r)

/-- The pieces of a range, with the format its pages must have. -/
def State.spans (s : State) (e : EngOp) (n : Need) (fmt : Option (BitVec 6)) (va len : Nat) : EngR (List Span) :=
  s.spansFrom e.die e.part e.asid n fmt (len / 64 + 2) va len

/-- A request of an operation: a piece that it reads, or that it writes with the bytes of `data`. `half` keeps the high four bits of the last byte,
and `whole` writes a failing block of which the operation writes every byte. -/
structure EngReq where
  x     : Span
  data  : Option (List Byte)
  half  : Bool
  whole : Bool
deriving DecidableEq, Repr

/-- A read of a piece. -/
def Span.read (x : Span) : EngReq := ⟨x, none, false, false⟩

/-- What a request for a piece has brought: an access is made once, through one translation (R323). -/
def EngOp.brought (e : EngOp) (x : Span) (write : Bool) : Option OutAnswer :=
  e.answers.find? fun a => a.va == x.va && a.len == x.len && a.write == write

/-- The requests that are still to be made. -/
def EngOp.todo (e : EngOp) (rs : List EngReq) : List EngReq := rs.filter fun r => (e.brought r.x r.data.isSome).isNone

/-- The bytes that requests have brought, or the first that failed. -/
def EngOp.bytesOf (e : EngOp) (xs : List Span) : EngR (List Byte) :=
  (EngR.each (fun x => match e.brought x false with
    | some a => if a.code = 0 then .ok a.bytes else .sick a.code x.pa x.va
    | none => .ok []) xs).andThen fun l => .ok l.flatten

/-- A request of an operation has brought something. -/
def State.engBring (s : State) (e : EngOp) (r : EngReq) (code : Nat) (bs : List Byte) : State :=
  s.updEngine e.serial fun y => { y with answers := y.answers ++ [⟨r.x.va, r.x.len, r.data.isSome, code, bs⟩] }

/-- A block written whole holds what was written, whatever it held; one beneath a failed tree node stays as it is until firmware initialises the
region again (R327). -/
def State.renewBlock (s : State) (pa : Nat) : State :=
  let b := Tab.get s.blocks Block.reset (pa / 2048)
  s.setBlock (pa / 2048) { b with badTag := false, eccBad := false, lineBad := false, cached := true, dirty := true }

/-- Writes the bytes of a piece as an engine, as one event. -/
def State.engWrite (s : State) (e : EngOp) (r : EngReq) (bs : List Byte) : State :=
  let old := s.view e.die (r.x.pa + r.x.len - 1)
  let out := if r.half then bs.dropLast ++ [(bs.getLast?.getD 0 &&& 0x0F) ||| (old &&& 0xF0)] else bs
  s.store e.die none noOrd (fun _ => []) r.x.entry.shared r.x.pa out

/-- A request is performed at its home as one event (R294), or goes outside the package (R395). One that carries a stale incarnation of its home
completes with DIERESET (R385), and one whose block fails brings that failure (R328). -/
def State.engPerform (e : EngOp) (s : State) (r : EngReq) : State :=
  if !paHbm r.x.pa then
    s.askOnce e.die e.part e.asid (.engine e.serial) r.x.va r.x.pa r.x.len (match r.data with | some bs => .write (bs.map some) | none => .read)
  else
    let (i, s1) := s.aim e.die (s.homeOf r.x.pa)
    if i ≠ s.inc (s.homeOf r.x.pa) then s1.engBring e r fDIERESET []
    else
      let s2 := if r.whole then s1.renewBlock r.x.pa else s1.cacheBlock r.x.entry.shared r.x.pa
      (match s2.blockFault r.x.entry.shared r.x.pa with
      | some c => s2.engBring e r c []
      | none => match r.data with
        | none => s2.engBring e r 0 (s2.viewBytes e.die r.x.pa r.x.len)
        | some bs => (s2.engWrite e r bs).engBring e r 0 []).leaveBlock r.x.entry.cls r.x.entry.shared r.x.pa

/-- The requests that are made together with one: those of the same block that it writes whole. -/
def EngReq.together (r q : EngReq) : Bool := q == r || (r.whole && q.whole && q.x.pa / 2048 == r.x.pa / 2048)

/-- A turn of an operation with requests still to be made: when its streamer serves it, one of them is made, freely which (R294, R354, assumption
3). -/
def State.engAsk (s : State) (e : EngOp) (rs : List EngReq) : State :=
  if !s.mayServe (.engine e.serial) then s.present (.engine e.serial)
  else
    let (f, s1) := s.drawNat
    let now := match rs[f % rs.length]? with
      | some r => rs.filter r.together
      | none => []
    (now.foldl (State.engPerform e) s1).served (.engine e.serial)

/-- The address of the group record of the element at an address (R74). -/
def State.recordVa (s : State) (e : EngOp) (n : Need) (f : BitVec 6) (va : Nat) : EngR Nat :=
  match s.translate e.die e.part e.asid va n with
  | .miss p => .miss [p]
  | .bad c a => .hold c a va
  | .ok _ x => .ok ((((x.base : Int) + x.side.toInt + (4 * ((va - x.base) * 8 / fmtWidth f / fmtGroup f) : Nat)) % 2 ^ 64).toNat)

/-- Groups of a row that hold an in-bounds element: the records of these are copied, and of a row partly in bounds no other, whose place in the side
area stays zero (DESIGN CHOICE, assumption 100). -/
def rowGroups (f : BitVec 6) (nel : Nat) : Nat := if fmtGroup f = 0 then 0 else (nel + fmtGroup f - 1) / fmtGroup f

/-- The requests of one in-bounds row of a fill: its number, its in-bounds elements, and the pieces of its elements and of its records. -/
structure FillRow where
  row  : Nat
  nel  : Nat
  data : List Span
  recs : List Span
deriving DecidableEq, Repr

/-- Translates one in-bounds row of a fill. A tile group takes the record of the memory group that its first element lies in, which is the one
record there is where rows start on a group boundary of their mapping; elsewhere the spec states no other (DESIGN CHOICE, assumption 71). -/
def State.fillRow (s : State) (e : EngOp) (f : BitVec 6) (row : Nat × Nat × Nat) : EngR FillRow :=
  let w := fmtWidth f
  (s.spans e ⟨true, false, false⟩ (some f) row.2.1 (elemBytes row.2.2 w)).andThen fun d =>
    (EngR.each (fun g => (s.recordVa e ⟨true, false, false⟩ f (row.2.1 + g * fmtGroup f * w / 8)).andThen fun r => s.spans e ⟨true, false, false⟩ none r 4)
      (List.range (rowGroups f row.2.2))).andThen fun rs => .ok ⟨row.1, row.2.2, d, rs.flatten⟩

/-- What the requests of a row have brought: row, in-bounds elements, bytes and records. -/
def EngOp.rowOf (e : EngOp) (r : FillRow) : EngR (Nat × Nat × List Byte × List Byte) :=
  (e.bytesOf r.data).andThen fun bs => (e.bytesOf r.recs).andThen fun rs => .ok (r.row, r.nel, bs, rs)

/-- One row's bytes of fill value (R118). -/
def fillBytes (fill : BitVec 32) (w n : Nat) : List Byte :=
  let v := if w = 64 then (fill.signExtend 64).toNat else fill.toNat % 2 ^ w
  if w = 4 then List.replicate (n / 2) (BitVec.ofNat 8 (v * 17))
  else (List.replicate n (leBytes (w / 8) v)).flatten

/-- A row: elements from memory first, the fill value after them. -/
def mergeRow (fill : BitVec 32) (w e nel : Nat) (bs : List Byte) : List Byte :=
  let full := fillBytes fill w e
  if w = 4 && nel % 2 = 1 then
    let last : Byte := bs.getLast?.getD 0
    let other : Byte := (full.drop (nel / 2)).headD 0
    bs.dropLast ++ [(last &&& 0x0F) ||| (other &&& 0xF0)] ++ full.drop bs.length
  else bs ++ full.drop bs.length

/-! ### Records, ends and holds -/

/-- Reports a failure of an operation: to its task as a deferred fault (R253), or to its graph node as the node's failure (R342). -/
def State.engReport (s : State) (e : EngOp) (cls code access va : Nat) : State :=
  match e.task with
  | some t => s.deferFault t e.act ⟨code, access, cls, BitVec.ofNat 64 va, e.opId⟩
  | none => match e.node with
    | some (g, n) => s.failNode g n 3 code
    | none => s

/-- The counter falls. -/
def State.engLower (s : State) (e : EngOp) (k : Cnt) : State := match e.task with | some t => s.lowerCnt t k | none => s

/-- An operation is over: its stream ends, and its node's agent has ended. -/
def State.engEnd (s : State) (e : EngOp) : State :=
  let s1 := (s.dropEngine e.serial).closeStream (.engine e.serial)
  match e.node with
  | some (g, n) => s1.updNode g n fun x => { x with ended := true }
  | none => s1

/-- A condition of R253 holds the request; a graph's copy fails instead (R342). -/
def State.engHold (s : State) (e : EngOp) (code access va : Nat) : State :=
  let s1 := s.dropWalkFault e.die e.asid va
  match e.task with
  | some _ => (s1.updEngine e.serial fun x => { x with held := some ⟨code, va⟩ }).engReport e 5 code access va
  | none => (s1.engReport e 5 code access va).engEnd e

/-- Pages of an operation that missed go to the walkers. -/
def State.engMiss (s : State) (e : EngOp) (pages : List Nat) : State := s.queueWalks e.die e.asid pages

/-- The identifier of a new operation of the running task's sequencer (R252). -/
def State.newIdent (s : State) (kind slot : Nat) : Word × State :=
  let r := taskRing s.cur
  let q := s.sequencer r
  (opIdent kind s.myDie (r % 4) slot q.serial.toNat, s.setSequencer r { q with serial := q.serial + 1 })

/-- Starts an engine operation of the running task; gives its number. -/
def State.startEngine (s : State) (kind : EngKind) (format : BitVec 6) : Nat × State :=
  let (id, s1) := s.newIdent 1 (taskSlot s.cur)
  let (n, s2) := s1.fresh
  let e : EngOp := { serial := n, opId := id, task := some s.cur, act := s.me.activation, node := none, part := s.myPart, asid := s.myAsid
                     die := s.myDie, owner := s.ownerOf s.cur, kind := kind, held := none, reading := none, readDone := false
                     request := none, funded := none, format := format, left := [], writes := [], sides := [], answers := [] }
  (n, { s2 with engines := s2.engines ++ [e] }.openStream s.myDie (.engine n))

/-! ### Consuming reads by tasks' engines (R308 to R310) -/

/-- Whether a consuming read as a slot raises TOVER: R309's conditions, or the slot of an ended binding (R310). -/
def State.readRefused (s : State) (t : Tile) (slot : Option Nat) : Bool :=
  !t.mayRead slot
  || (match t.readSlot slot with
      | some k => (match s.binding t.owner k with | some b => b.ended | none => false)
      | none => false)

/-- Begins the read; a task's first read as a slot of an owner binds it (R310). -/
def State.beginTaskRead (s : State) (t : Tile) (slot : Option Nat) (act : Nat) : State :=
  let s1 := match t.readSlot slot with
    | some k => if (s.binding t.owner k).isNone then s.bind t.owner k (.activation act) else s
    | none => s
  s1.beginRead t.uid slot

/-! ### DRAW (R260) -/

/-- The descriptor of a DRAW with the page format in place of its zero format. -/
def drawDesc (desc : BitVec 27) (f : BitVec 6) : Desc := { descOf desc with format := f }

/-- Whether a DRAW descriptor is one (R112). -/
def drawDescOk (desc : BitVec 27) : Bool :=
  let x := descOf desc
  countOk x.mode x.count && x.format == 0

/-- DRAW (R260). -/
def execDraw (g : Guard) (d a b : Reg) (desc : BitVec 27) (s : State) : Out :=
  seqExec g .system [a, b] [d] (fun s =>
    match s.me.waitFor with
    | some (.grant _ _ _ (some (.draw v f))) => drawAlloc v f s
    | _ =>
    if !drawDescOk desc then .fault (s.report fILLOP 0 0) s
    else withView (s.r a) (s.r b) s fun v s =>
      match s.translate s.myDie s.myPart s.myAsid v.base ⟨true, false, false⟩ with
      | .miss p => .wait (.walks s.myDie s.myAsid [p]) (s.queueWalks s.myDie s.myAsid [p])
      | .bad c acc => .fault (s.report c acc v.base) (s.dropWalkFault s.myDie s.myAsid v.base)
      | .ok _ e =>
        let x := drawDesc desc e.format
        if !shapeOk x.k x.format then .fault (s.report fFMT 1 v.base) s
        else await (.room 0 0 1 0 0 0) s fun s => drawAlloc v e.format s) s
where
  /-- The allocation, and the start of the engine. -/
  drawAlloc (v : View) (f : BitVec 6) (s : State) : SeqRes :=
    let x := drawDesc desc f
    allocThen s.myDie s.myPart x.hb (granulesOf x.rows x.k x.format) (some (.draw v f)) s fun s =>
      let (uid, handle, s1) := s.makeTile s.myDie s.myPart x (s.ownerOf s.cur) true none
      let (_, s2) := s1.startEngine (.draw v (s.r b) uid) x.format
      .done ((s2.raiseCnt s2.cur .dr 1).setR d (BitVec.ofNat 64 handle))

/-- The requests of a fill, by row, or what stops it. A misaligned base and a disagreeing stride of dimension 0 hold the fill, where a row is in bounds:
the spec does not say whether their FMT is precise at the DRAW (DESIGN CHOICE, assumption 102). -/
def State.fillRead (s : State) (e : EngOp) (t : Tile) (v : View) (coords : Word) : EngR (List FillRow) :=
  let w := fmtWidth t.format
  let rows := geoRows v coords t.rows t.k w
  if !rows.isEmpty && layoutBad v w then .hold fFMT 1 v.base else EngR.each (s.fillRow e t.format) rows

/-- Writes a fill into its tile and makes it FULL (R260). -/
def State.fillWrite (s : State) (t : Tile) (v : View) (rows : List (Nat × Nat × List Byte × List Byte)) : State :=
  let w := fmtWidth t.format
  let e := rowElems t.k t.format
  if s.hbBad t 0 0 t.dataBytes then s.tileFails t 0 0 t.dataBytes
  else
    let blank := (List.range t.rows).foldl (fun x i => x.setTileData t (i * t.rowBytes) (fillBytes v.fill w e)) s
    let s1 := blank.setTileSide t 0 (List.replicate (sideBytes t.rows t.k t.format) 0)
    let s2 := rows.foldl (fun x r =>
      let y := x.setTileData t (r.1 * t.rowBytes) (mergeRow v.fill w e r.2.1 r.2.2.1)
      if fmtGroup t.format = 0 then y else y.setTileSide t (4 * (r.1 * (e / fmtGroup t.format))) r.2.2.2) s1
    let mask := rows.foldl (fun (m : BitVec 64) r => m ||| BitVec.twoPow 64 r.1) 0
    let s3 := s2.updTile t.uid fun x => { x with valid := mask }
    let s4 := if rows.isEmpty then s3.setPart t.partition { (s3.part t.partition) with oobDraws := (s3.part t.partition).oobDraws + 1 } else s3
    s4.sealTile t.uid (s4.depsOf t.die)

/-- The requests of a fill's rows. -/
def fillReqs (rows : List FillRow) : List EngReq := rows.flatMap fun r => (r.data ++ r.recs).map Span.read

/-- An agent reads the table entry of a tile it knows by number (R331). -/
def State.readUid (s : State) (uid : Nat) : State :=
  match s.tileU uid with
  | some t => s.readEntry t.die t.partition t.handle
  | none => s

/-- One turn of a fill: the state after it, and whether the fill is over. A tile that has left FILLING takes no write, and the engine reports
nothing of it (R44, R253, R382). -/
def State.fillStep (s0 : State) (e : EngOp) (uid : Nat) (v : View) (coords : Word) : State × Bool :=
  let s := s0.readUid uid
  match s.tileU uid with
  | none => (s, true)
  | some t =>
    if t.state ≠ .filling then (s, true)
    else match s.fillRead e t v coords with
      | .miss pages => (s.engMiss e pages, false)
      | .hold c a va => (s.engHold e c a va, false)
      | .sick .. => (s, false)
      | .ok rows =>
        if !(e.todo (fillReqs rows)).isEmpty then (s.engAsk e (e.todo (fillReqs rows)), false)
        else match EngR.each e.rowOf rows with
          | .ok l => (s.fillWrite t v l, true)
          | .sick c pa va =>
            let s1 := (s.logBlock c e.part pa).poisonTile uid (c == fDIERESET)
            (if c = fDIERESET then s1.engReport e 6 c 1 va else s1, true)
          | _ => (s, false)

/-- DRAW_COMPLETE (R260): a turn of a DRAW's fill: its requests, and once they are answered the tile's move to FULL or POISON, with which dr
falls. -/
def execDrawComplete (serial : Nat) (s : State) : Out :=
  match s.engine serial with
  | none => .next s
  | some e =>
    match e.kind with
    | .draw v coords uid =>
      if e.held.isSome then .next s
      else
        let (s1, done) := s.fillStep e uid v coords
        .next (if done then s1.engEnd e else s1)
    | _ => .next s

/-! ### DRAWS (R261) -/

/-- DRAWS (R261). -/
def execDraws (g : Guard) (a b c : Reg) (dim : Fin 4) (desc : BitVec 27) (s : State) : Out :=
  seqExec g .system [a, b, c] [] (fun s =>
    let m := ((s.r c).extractLsb' 16 16).toNat
    let ep := (s.r c).extractLsb' 0 16
    if !drawDescOk desc || decide (255 < m) then .fault (s.report fILLOP 0 0) s
    else if (match s.deliver s.myPart ep ⟨0, 0, false, 0, []⟩ with | .perm => true | _ => false) then .fault (s.report fPERM 0 0) s
    else withView (s.r a) (s.r b) s fun v s =>
      if m = 0 then .done s
      else await (.room 0 0 m 0 0 0) s fun s =>
        let (_, s1) := s.startEngine (.draws ⟨v, s.r b, dim.val, desc, m, 0, [], false, ep, s.endpointRun ep⟩) 0
        .done (s1.raiseCnt s1.cur .dr m)) s

/-- The coordinates of tile t: coordinate `dim` goes up by t modulo 2^16 (R261). -/
def coordsOf (c : Word) (dim t : Nat) : Word :=
  let x := (coord c dim + t) % 65536
  (c &&& ~~~(BitVec.ofNat 64 (65535 * 2 ^ (16 * dim)))) ||| BitVec.ofNat 64 (x * 2 ^ (16 * dim))

/-- Whether a run lives. -/
def State.runLives (s : State) (n : Nat) : Bool :=
  match s.run n with
  | some r => (match r.phase with | .ended _ => false | _ => true)
  | none => false

/-- Replaces the drawing of a DRAWS. -/
def State.setDrawing (s : State) (e : EngOp) (d : Drawing) : State := s.updEngine e.serial fun x => { x with kind := .draws d }

/-- The run that a DRAWS' input FIFO belongs to, while it lives. -/
def State.drawRun (s : State) (d : Drawing) : Option Nat := d.run.filter s.runLives

/-- Delivers an entry of a DRAWS: once the run of its input FIFO has ended, later entries are discarded (R261); while that run is suspended they
wait, and where it has resumed on other rings they are discarded as a SENDQ's is (DESIGN CHOICE, assumption 99). -/
def State.drawsDeliver (s : State) (e : EngOp) (d : Drawing) (x : QEntry) : Delivery :=
  match d.run with
  | none => s.deliver e.part d.ep x
  | some n => match (if s.runLives n then s.run n else none) with
    | none => .none
    | some r => if !r.placed then .full else if s.endpointRun d.ep = some n then s.deliver e.part d.ep x else .none

/-- The allocation of a DRAWS' next tile is there: the tile is made, owned by the run of its endpoint while that lives (R311, R315). -/
def State.drawsMake (s : State) (e : EngOp) (d : Drawing) (x : Desc) (funded : Option Nat) : State :=
  let owner := match s.drawRun d with | some r => Owner.run r | none => e.owner
  let (uid, handle, s1) := s.makeTile e.die e.part x owner true funded
  (s1.setDrawing e { d with next := d.next + 1, tiles := d.tiles ++ [(uid, handle)] }).updEngine e.serial fun y =>
    { y with request := none, funded := none }

/-- The run whose reserve, on its home die, funds n granules of a die, which it takes at once (R315). -/
def State.takeReserve (s : State) (die : Nat) (run : Option Nat) (n : Nat) : Option (Nat × State) :=
  match run with
  | none => none
  | some r => match s.run r with
    | none => none
    | some x => if x.reserved && x.home == die && decide (x.used + n ≤ x.recd.reserve) then some (r, s.updRun r fun y => { y with used := y.used + n }) else none

/-- Requests the allocation of a DRAWS' next tile (R261, R315). -/
def State.drawsRequest (s : State) (e : EngOp) (d : Drawing) (x : Desc) : State :=
  let n := granulesOf x.rows x.k x.format
  match (if x.hb then none else s.takeReserve e.die (s.drawRun d) n) with
  | some (r, s1) =>
    if s1.grantNow e.die e.part false true 0 then s1.drawsMake e d x (some r)
    else
      let (id, s2) := s1.fresh
      (s2.enqueue e.die e.part false ⟨id, .engine e.serial, 0, true, false, s.clk, false⟩).updEngine e.serial fun y =>
        { y with request := some id, funded := some r, format := x.format }
  | none =>
    if s.grantNow e.die e.part x.hb true n then (if x.hb then s else s.charge e.die e.part n).drawsMake e d x none
    else
      let (id, s1) := s.fresh
      (s1.enqueue e.die e.part x.hb ⟨id, .engine e.serial, n, true, false, s.clk, false⟩).updEngine e.serial fun y =>
        { y with request := some id, funded := none, format := x.format }

/-- Whether an operation's queued request has been granted. -/
def State.engGranted (s : State) (e : EngOp) : Bool :=
  match e.request with
  | none => false
  | some id => let q := s.pool e.die e.part; (q.queue ++ q.hbQueue).any fun r => r.id == id && r.granted

/-- Whether a run still holds its reserve. -/
def State.funds (s : State) (run : Nat) : Bool := match s.run run with | some r => r.reserved | none => false

/-- The next allocation of a DRAWS: its format is that of the page of the view's base, as for a DRAW (R260, R261). -/
def State.drawsAlloc (s : State) (e : EngOp) (d : Drawing) : State :=
  match e.request with
  | some id =>
    if s.engGranted e then (s.takeRequest e.die e.part id).drawsMake e d (drawDesc d.desc e.format) (e.funded.filter s.funds) else s
  | none =>
    match s.translate e.die e.part e.asid d.view.base ⟨true, false, false⟩ with
    | .miss p => s.engMiss e [p]
    | .bad c a => s.engHold e c a d.view.base
    | .ok _ x =>
      let y := drawDesc d.desc x.format
      if !shapeOk y.k y.format then s.engHold e fFMT 1 d.view.base else s.drawsRequest e d y

/-- The entry of a drawn tile (R261). -/
def drawsEntry (t handle : Nat) : QEntry := ⟨0, 0, false, BitVec.ofNat 64 (t * 2 ^ 20 + handle), []⟩

/-- Fills and delivers the oldest tile of a DRAWS, in that order (R261). -/
def State.drawsHead (s : State) (e : EngOp) (d : Drawing) (uid handle : Nat) (rest : List (Nat × Nat)) : State :=
  let t := d.next - d.tiles.length
  let (s1, done) := if d.filled then (s, true) else s.fillStep e uid d.view (coordsOf d.coords d.dim t)
  if !done then s1
  else
    let s2 := s1.updEngine e.serial fun y => { y with answers := [] }
    match s2.drawsDeliver e d (drawsEntry t handle) with
    | .full => s2.setDrawing e { d with filled := true }
    | .done s3 => s3.setDrawing e { d with tiles := rest, filled := false }
    | _ => s2.setDrawing e { d with tiles := rest, filled := false }

/-- DRAWS_TILE_COMPLETE (R261): a DRAWS moves on. It asks for its next tile while the endpoint has room, or fills its oldest tile and
delivers its handle; which of the two comes first is free (assumption 3). After the last tile it delivers a STOP of level 1 and ends. -/
def execDrawsTileComplete (serial : Nat) (s : State) : Out :=
  match s.engine serial with
  | none => .next s
  | some e =>
    match e.kind with
    | .draws d =>
      if e.held.isSome then .next s
      else
        let room := match s.drawsDeliver e d ⟨0, 0, false, 0, []⟩ with | .full => false | _ => true
        let more := decide (d.next < d.total) && (if e.request.isSome then s.engGranted e else room)
        let (f, s1) := s.drawNat
        match d.tiles with
        | [] =>
          if d.next < d.total then .next (if more then s1.drawsAlloc e d else s1)
          else match s1.drawsDeliver e d ⟨1, 1, false, 0, []⟩ with
            | .full => .next s1
            | .done s2 => .next (s2.engEnd e)
            | _ => .next (s1.engEnd e)
        | (uid, handle) :: rest =>
          if more && f % 2 = 0 then .next (s1.drawsAlloc e d) else .next (s1.drawsHead e d uid handle rest)
    | _ => .next s

/-! ### SEND (R262) -/

/-- SEND (R262). -/
def execSend (g : Guard) (a b c : Reg) (slot : Fin 8) (valid : Bool) (sc : SScope) (s : State) : Out :=
  seqExec g .system [a, b, c] [] (fun s =>
    withView (s.r b) (s.r c) s fun v s =>
      await (.room 0 0 0 1 1 0) s fun s =>
        let (_, s1) := s.startEngine (.send (handleOf (s.r a)) v (s.r c) (if valid then some slot.val else none) sc) 0
        .done ((s1.raiseCnt s1.cur .sr 1).raiseCnt s1.cur .sv 1)) s

/-- A SEND that cannot go on: sr and sv fall, and the task takes the deferred fault. -/
def State.sendFails (s : State) (e : EngOp) (code handle : Nat) : State :=
  (((s.engLower e .sr).engLower e .sv).engReport e 6 code 1 (tileVa e.die handle)).engEnd e

/-- What one row of a SEND writes: its in-bounds elements, and its records, which go back whole as the tile's side area holds them, bits [7:0]
included (DESIGN CHOICE, assumption 72). -/
def State.sendRow (s : State) (e : EngOp) (t : Tile) (row : Nat × Nat × Nat) :
    EngR ((Nat × List Byte × Bool) × List (Nat × List Byte)) :=
  let w := fmtWidth t.format
  let n := elemBytes row.2.2 w
  let per := rowElems t.k t.format / max 1 (fmtGroup t.format)
  (s.spans e ⟨false, true, false⟩ (some t.format) row.2.1 n).andThen fun _ =>
    (EngR.each (fun g =>
      (s.recordVa e ⟨false, true, false⟩ t.format (row.2.1 + g * fmtGroup t.format * w / 8)).andThen fun r =>
        (s.spans e ⟨false, true, false⟩ none r 4).andThen fun _ => .ok (r, s.tileSide t (4 * (row.1 * per + g)) 4))
      (List.range (rowGroups t.format row.2.2))).andThen fun sides =>
        .ok ((row.2.1, s.tileData t (row.1 * t.rowBytes) n, w == 4 && row.2.2 % 2 == 1), sides)

/-- The layout of a SEND: the page of the view's base has the tile's format, the dimension-0 stride agrees with it, and the base is aligned
(R259, R262). -/
def State.sendLayout (s : State) (e : EngOp) (t : Tile) (v : View) : EngR Unit :=
  match s.translate e.die e.part e.asid v.base ⟨false, false, false⟩ with
  | .miss p => .miss [p]
  | .bad c a => .hold c (if a = 7 then 7 else 2) v.base
  | .ok _ x => if x.format != t.format || layoutBad v (fmtWidth t.format) then .hold fFMT 2 v.base else .ok ()

/-- SEND_READ_DONE (R262): first the consuming read begins, once the tile is FULL or DRAINING and what its seal released is applied at the engine's die
(R288, R296); then, its data taken and its requests
translated and checked, it ends and sr falls. -/
def execSendReadDone (serial : Nat) (s : State) : Out :=
  match s.engine serial with
  | none => .next s
  | some e =>
    match e.kind with
    | .send handle v coords slot _ =>
      if e.held.isSome || e.readDone then .next s
      else match e.reading with
        | none =>
          let s := s.readEntry e.die e.part handle
          match s.tile e.die e.part handle with
          | none => .next (s.sendFails e fTOVER handle)
          | some t =>
            if t.state = .filling || !s.applied e.die t.deps then .next s
            else if s.readRefused t slot then .next (s.sendFails e fTOVER handle)
            else .next ((s.beginTaskRead t slot e.act).updEngine serial fun x =>
              { x with reading := some ⟨t.uid, t.readSlot slot⟩, format := t.format })
        | some rd =>
          match s.tileU rd.tile with
          | none => .next (s.sendFails e fTOVER handle)
          | some t =>
            let side := unitsOf t.dataBytes
            let s := (s.touchTile t 0 0 t.dataBytes).touchTile t side 0 (sideBytes t.rows t.k t.format)
            let poisonEnd := fun x : State => .next ((x.endRead t.uid rd.slot).sendFails e fPOISON handle)
            if t.state = .poison then poisonEnd s
            else if s.tileBad t 0 0 t.dataBytes || s.tileBad t side 0 (sideBytes t.rows t.k t.format) then
              poisonEnd (s.tileFails t 0 0 t.dataBytes)
            else
              let w := fmtWidth t.format
              let rows := (geoRows v coords t.rows t.k w).filter fun r => t.valid.getLsbD r.1
              match (if rows.isEmpty then .ok () else s.sendLayout e t v).andThen fun _ => EngR.each (s.sendRow e t) rows with
                | .miss pages => .next (s.engMiss e pages)
                | .hold c acc va => .next (s.engHold e c acc va)
                | .sick c _ va => .next (s.engHold e c 2 va)
                | .ok l =>
                  let s1 := (s.endRead t.uid rd.slot).engLower e .sr
                  if l.isEmpty then .next ((s1.engLower e .sv).engEnd e)
                  else .next (s1.updEngine serial fun x =>
                    { x with reading := none, readDone := true, writes := l.map Prod.fst, sides := (l.map Prod.snd).flatten })
    | _ => .next s

/-- The requests that write bytes over their pieces; the last byte of one outside the package that keeps its high four bits is read first. -/
def EngOp.writeReqs (e : EngOp) (half : Bool) : List Span → List Byte → List EngReq
  | [], _ => []
  | x :: xs, bs =>
    let mine := bs.take x.len
    let last : Span := ⟨x.va + x.len - 1, x.pa + x.len - 1, 1, x.entry⟩
    let here :=
      if half && xs.isEmpty && !paHbm x.pa then
        match e.brought last false with
        | some a => [last.read, ⟨x, some (mine.dropLast ++ [(mine.getLast?.getD 0 &&& 0x0F) ||| (a.bytes.headD 0 &&& 0xF0)]), false, false⟩]
        | none => [last.read]
      else [⟨x, some mine, half && xs.isEmpty, false⟩]
    here ++ EngOp.writeReqs e half xs (bs.drop x.len)

/-- The write requests of a SEND whose read is done. -/
def State.sendReqs (s : State) (e : EngOp) : EngR (List EngReq) :=
  let need : Need := ⟨false, true, false⟩
  (EngR.each (fun w : Nat × List Byte × Bool =>
    (s.spans e need (some e.format) w.1 w.2.1.length).andThen fun sp => .ok (e.writeReqs w.2.2 sp w.2.1)) e.writes).andThen fun a =>
      (EngR.each (fun w : Nat × List Byte => (s.spans e need none w.1 w.2.length).andThen fun sp => .ok (e.writeReqs false sp w.2)) e.sides).andThen
        fun b => .ok (a ++ b).flatten

/-- The requests of an operation that failed, one for each block: code, access, physical and virtual address. -/
def EngOp.failures (e : EngOp) (rs : List EngReq) : List (Nat × Nat × Nat × Nat) :=
  (rs.filterMap fun r => match e.brought r.x r.data.isSome with
    | some a => if a.code = 0 then none else some (a.code, if r.data.isSome then 2 else 1, r.x.pa, r.x.va)
    | none => none).foldl (fun l b => if l.any fun x => x.2.2.1 / 2048 == b.2.2.1 / 2048 then l else l ++ [b]) []

/-- Logs and reports each failing block of an operation once (R262, R263, R328). -/
def State.reportBlocks (s : State) (e : EngOp) (bad : List (Nat × Nat × Nat × Nat)) : State :=
  bad.foldl (fun x b => (x.logBlock b.1 e.part b.2.2.1).engReport e 6 b.1 b.2.1 b.2.2.2) s

/-- SEND_WRITES_VISIBLE (R262): a turn of the writes of a SEND whose read is done; once all are performed at the scope sv falls. -/
def execSendWritesVisible (serial : Nat) (s : State) : Out :=
  match s.engine serial with
  | none => .next s
  | some e =>
    match e.kind with
    | .send .. =>
      if e.held.isSome || !e.readDone then .next s
      else match s.sendReqs e with
        | .miss pages => .next (s.engMiss e pages)
        | .hold c acc va => .next (s.engHold e c acc va)
        | .sick c _ va => .next (s.engHold e c 2 va)
        | .ok rs =>
          if !(e.todo rs).isEmpty then .next (s.engAsk e (e.todo rs))
          else .next (((s.engLower e .sv).reportBlocks e (e.failures rs)).engEnd e)
    | _ => .next s

/-! ### COPYM (R263) -/

/-- COPYM (R263). -/
def execCopym (g : Guard) (a b c : Reg) (sc : SScope) (s : State) : Out :=
  seqExec g .system [a, b, c] [] (fun s =>
    if 2 ^ 40 ≤ (s.r c).toNat then .fault (s.report fILLOP 0 0) s
    else await (.room 0 1 0 0 0 0) s fun s =>
      let (_, s1) := s.startEngine (.copym (s.r a).toNat (s.r b).toNat (s.r c).toNat sc) 0
      .done (s1.raiseCnt s1.cur .st 1)) s

/-- Bytes of a copy that lie in one 64-byte piece of the source, `src`, and in one of the destination, `dst`: how many, and where in each they
begin. -/
structure CopyPiece where
  src  : Span
  dst  : Span
  skip : Nat
  into : Nat
  len  : Nat
deriving DecidableEq, Repr

/-- The part of a span's piece that a range of `n` bytes from an address covers (R294). -/
def Span.within (x : Span) (first n : Nat) : Span :=
  let a := max first (x.va / 64 * 64)
  ⟨a, x.pa - (x.va - a), min (first + n) (x.va / 64 * 64 + 64) - a, x.entry⟩

/-- Translates what is left of a copy, piece by piece: pages of one format, not grouped (R263). -/
def State.copyPieces (s : State) (e : EngOp) (dst src : Nat) : Nat → Nat → Nat → EngR (List CopyPiece)
  | 0, _, _ => .ok []
  | fuel + 1, off, n =>
    if n = 0 then .ok []
    else
      let len := min n (min (64 - (dst + off) % 64) (64 - (src + off) % 64))
      (s.spansFrom e.die e.part e.asid ⟨true, false, false⟩ none 2 (src + off) len).andThen fun a =>
        (s.spansFrom e.die e.part e.asid ⟨false, true, false⟩ none 2 (dst + off) len).andThen fun b =>
          match a, b with
          | [x], [y] =>
            if x.entry.format != y.entry.format || fmtGroup x.entry.format != 0 then .hold fFMT 1 (src + off)
            else
              let u := x.within src (off + n)
              let v := y.within dst (off + n)
              (State.copyPieces s e dst src fuel (off + len) (n - len)).andThen fun r => .ok (⟨u, v, x.va - u.va, y.va - v.va, len⟩ :: r)
          | _, _ => .hold fFMT 1 (src + off)

/-- The pieces of a whole copy: at most two begin in each 64 bytes. -/
def State.copyAll (s : State) (e : EngOp) (dst src n : Nat) : EngR (List CopyPiece) := s.copyPieces e dst src (n / 32 + 3) 0 n

/-- Whether the copy writes every byte of the block that a destination address lies in, so that it need not be read (R246). -/
def coversBlock (dst n va : Nat) : Bool := decide (dst ≤ va / 2048 * 2048) && decide (va / 2048 * 2048 + 2048 ≤ dst + n)

/-- Whether the source of a piece has been read, with its bytes. -/
def CopyPiece.got (e : EngOp) (p : CopyPiece) : Option (List Byte) :=
  match e.brought p.src false with
  | some a => if a.code = 0 then some ((a.bytes.drop p.skip).take p.len) else none
  | none => none

/-- The bytes of pieces that follow each other, once all of them have been read. -/
def copiedBytes (e : EngOp) (ps : List CopyPiece) : Option (List Byte) :=
  ps.foldr (fun p l => (p.got e).bind fun a => l.map fun b => a ++ b) (some [])

/-- The write of a piece of the destination, once what goes there has been read, before or after the copy itself has written there (R263, R294).
Where a source block failed, only the bytes of the other are written. A failing block that the copy covers is written whole, once all that
goes there has been read. -/
def State.copyWrites (s : State) (e : EngOp) (dst n : Nat) (ps : List CopyPiece) (d : Span) : List EngReq :=
  let fails := paHbm d.pa && coversBlock dst n d.va && (s.blockFault d.entry.shared d.pa).isSome && !s.nodeFailed (d.pa / 2048)
  let mine := ps.filter fun p => p.dst == d
  let block := ps.filter fun p => p.dst.va / 2048 == d.va / 2048
  if !((if fails then block else mine).all fun p => (e.brought p.src false).isSome) then []
  else match copiedBytes e mine with
    | some bs => [⟨d, some bs, false, fails && (copiedBytes e block).isSome⟩]
    | none => mine.filterMap fun p => (p.got e).map fun bs => ⟨⟨d.va + p.into, d.pa + p.into, p.len, d.entry⟩, some bs, false, false⟩

/-- The requests of a copy: each piece of the source is read, and each of the destination written. -/
def State.copyReqs (s : State) (e : EngOp) (dst n : Nat) (ps : List CopyPiece) : List EngReq :=
  (ps.map fun p => p.src.read).eraseDups ++ (ps.map CopyPiece.dst).eraseDups.flatMap (s.copyWrites e dst n ps)

/-- COPYM_COMPLETE (R263): a turn of a copy, which for a graph node follows its predecessors' writes (R301); once every byte is performed st falls, and a copy of a graph node ends its node's agent (R346). -/
def execCopymComplete (serial : Nat) (s : State) : Out :=
  match s.engine serial with
  | none => .next s
  | some e =>
    match e.kind with
    | .copym dst src n _ =>
      if e.held.isSome || !s.applied e.die (s.nodeDeps e.node) then .next s
      else match s.copyAll e dst src n with
        | .miss pages => .next (s.engMiss e pages)
        | .hold c acc va => .next (s.engHold e c acc va)
        | .sick c _ va => .next (s.engHold e c 1 va)
        | .ok ps =>
          let rs := s.copyReqs e dst n ps
          if !(e.todo rs).isEmpty then .next (s.engAsk e (e.todo rs))
          else .next (((s.engLower e .st).reportBlocks e (e.failures rs)).engEnd e)
    | _ => .next s

/-! ### TXFER (R258) -/

/-- TXFER (R258): the new tile takes the shape and format that the source has at issue. A request to either die with a stale incarnation of it ends the
TXFER at issue with a precise DIERESET (R385, DEDUCED, assumption 108). -/
def execTxfer (g : Guard) (d a : Reg) (x : TxWord) (s : State) : Out :=
  seqExec g .system [a] [d] (fun s =>
    let h := handleOf (s.r a)
    let slot := if x.valid then some x.slot.val else none
    if !countOk x.mode.toNat x.count.toNat then .fault (s.report fILLOP 0 0) s
    else match s.me.waitFor with
      | some (.grant _ _ _ (some (.txfer rows k format src))) => finish rows k format src h slot s
      | _ =>
        match s.missesAny s.myDie [x.srcDie.val, x.dstDie.val] with
        | (true, s) => .fault (s.report fDIERESET 0 (tileVa x.srcDie.val h)) s
        | (false, s) =>
          let s := s.readEntry x.srcDie.val s.myPart h
          match s.tile x.srcDie.val s.myPart h with
          | none => .fault (s.report fTOVER 0 (tileVa x.srcDie.val h)) s
          | some t => await (.room 0 0 1 0 0 0) s fun s => finish t.rows t.k t.format t.uid h slot s) s
where
  /-- The allocation on the destination die, and the start of the engine. -/
  finish (rows k : Nat) (format : BitVec 6) (src h : Nat) (slot : Option Nat) (s : State) : SeqRes :=
    let desc : Desc := ⟨x.count.toNat, x.mode.toNat, x.level, format, k, rows⟩
    allocThen x.dstDie.val s.myPart x.level (granulesOf rows k format) (some (.txfer rows k format src)) s fun s =>
      let (uid, handle, s1) := s.makeTile x.dstDie.val s.myPart desc (s.ownerOf s.cur) true none
      let (_, s2) := s1.startEngine (.txfer src uid slot (tileVa x.srcDie.val h)) format
      .done ((s2.raiseCnt s2.cur .dr 1).setR d (BitVec.ofNat 64 handle))

/-- A tile that an engine fills becomes POISON, with its event, unless it has left FILLING. -/
def State.spoil (s : State) (uid : Nat) : State :=
  match s.tileU uid with
  | some t => if t.state = .filling then s.poisonTile uid true else s
  | none => s

/-- A TXFER's destination becomes POISON, with which dr falls. -/
def State.txferFails (s : State) (e : EngOp) (tile : Nat) (code : Option Nat) (va : Nat) : State :=
  let s1 := s.spoil tile
  (match code with | some c => s1.engReport e 6 c 1 va | none => s1).engEnd e

/-- The 64-byte pieces of `n` bytes of an area of a tile: the storage unit the area starts at, the piece's offset and its length (R294). -/
def areaPieces (base n : Nat) : List (Nat × Nat × Nat) := (List.range ((n + 63) / 64)).map fun i => (base, 64 * i, min 64 (n - 64 * i))

/-- The pieces of a tile's data and side areas. -/
def Tile.pieces (t : Tile) : List (Nat × Nat × Nat) :=
  areaPieces 0 t.dataBytes ++ areaPieces (unitsOf t.dataBytes) (sideBytes t.rows t.k t.format)

/-- A TXFER copies a piece of its source to the same place of its new tile, as one event (R258, R294). -/
def State.copyPiece (s : State) (src dst : Tile) (p : Nat × Nat × Nat) : State :=
  (s.touchTile src p.1 p.2.1 p.2.2).setTileArea dst p.1 p.2.1 (s.tileBytes src p.1 p.2.1 p.2.2)

/-- A TXFER ends its consuming read, and its destination becomes POISON. -/
def State.txferSpoils (s : State) (e : EngOp) (rd : ReadInProg) (tile : Nat) (code : Option Nat) (va : Nat) : State :=
  (s.endRead rd.tile rd.slot).txferFails e tile code va

/-- A turn of the copy of a TXFER, when its streamer serves it: one piece, freely which (R294, R354, assumption 3). -/
def State.txferTurn (s : State) (e : EngOp) (rd : ReadInProg) (t u : Tile) (va : Nat) : State :=
  if !s.mayServe (.engine e.serial) then s.present (.engine e.serial)
  else
    let (f, s1) := s.drawNat
    match e.left[f % e.left.length]? with
    | none => s1
    | some p =>
      match s1.missesAny e.die [t.die, u.die] with
      | (true, s2) => s2.txferSpoils e rd u.uid (some fDIERESET) va
      | (false, s2) =>
        if s2.tileBad t p.1 p.2.1 p.2.2 then (s2.tileFails t p.1 p.2.1 p.2.2).txferSpoils e rd u.uid none 0
        else if s2.hbBad u p.1 p.2.1 p.2.2 then ((s2.tileFails u p.1 p.2.1 p.2.2).endRead rd.tile rd.slot).engEnd e
        else ((s2.copyPiece t u p).served (.engine e.serial)).updEngine e.serial fun y => { y with left := y.left.erase p }

/-- TXFER_COMPLETE (R258): first the consuming read of the source begins; then the bytes are copied, a piece a turn; then the read ends, and the new
tile becomes FULL on its die, with which dr falls. What the source's seal released is applied at the new tile's die first. A destination that has
left FILLING takes no write, and the engine reports nothing of it (R382). -/
def execTxferComplete (serial : Nat) (s0 : State) : Out :=
  match s0.engine serial with
  | none => .next s0
  | some e =>
    match e.kind with
    | .txfer src tile slot va =>
      let s := (s0.readUid src).readUid tile
      if e.held.isSome then .next s0
      else match e.reading with
        | none =>
          match s.tileU src with
          | none => .next (s.txferFails e tile (some fTOVER) va)
          | some t =>
            match s.misses e.die t.die with
            | (true, s) => .next (s.txferFails e tile (some fDIERESET) va)
            | (false, s) =>
              if t.state = .filling then .next s
              else if slot.isSome != decide (t.mode = .declared) || s.readRefused t slot then
                .next (s.txferFails e tile (some fTOVER) va)
              else .next ((s.beginTaskRead t slot e.act).updEngine serial fun y =>
                { y with reading := some ⟨src, t.readSlot slot⟩, left := t.pieces })
        | some rd =>
          match s.tileU src, s.tileU tile with
          | some t, some u =>
            if t.state = .poison then .next (s.txferSpoils e rd tile none 0)
            else if u.state ≠ .filling then .next ((s.endRead src rd.slot).engEnd e)
            else if !s.applied u.die t.deps then .next s
            else if !e.left.isEmpty then .next (s.txferTurn e rd t u va)
            else .next ((((s.updTile tile fun y => { y with valid := t.valid }).endRead src rd.slot).sealTile tile t.deps).engEnd e)
          | _, _ => .next (s.txferFails e tile (some fTOVER) va)
    | _ => .next s0

/-! ### Abandoning and releasing held operations (R253, R267, R269) -/

/-- A DRAWS gives up the allocation it waits for: its queued request and what a run's reserve had given for it, which is the partition's ordinary
holding once the run has ended (R253, R315). -/
def State.unrequest (s : State) (e : EngOp) (d : Drawing) : State :=
  match e.request with
  | none => s
  | some id =>
    let x := drawDesc d.desc e.format
    let n := granulesOf x.rows x.k x.format
    let s1 := s.withdraw e.die e.part id
    match e.funded with
    | some r =>
      if s.funds r then s1.updRun r fun y => { y with used := y.used - n }
      else s1.setPool e.die e.part { (s1.pool e.die e.part) with held := (s1.pool e.die e.part).held - n }
    | none => s1

/-- Abandons an operation that holds a request (R253). -/
def State.abandon (s : State) (e : EngOp) : State :=
  match e.kind with
  | .draw _ _ uid => (s.spoil uid).engEnd e
  | .draws d =>
    let s0 := s.unrequest e d
    let s1 := d.tiles.foldl (fun x t => x.spoil t.1) s0
    let s2 := (List.range (d.total - d.next)).foldl (fun x _ => x.engLower e .dr) s1
    (s2.setDrawing e { d with total := d.next }).updEngine e.serial fun x => { x with held := none, request := none, funded := none }
  | .send .. =>
    let s1 := match e.reading with | some rd => (s.endRead rd.tile rd.slot).engLower e .sr | none => if e.readDone then s else s.engLower e .sr
    (s1.engLower e .sv).engEnd e
  | .copym .. => (s.engLower e .st).engEnd e
  | .txfer _ tile _ _ =>
    let s1 := match e.reading with | some rd => s.endRead rd.tile rd.slot | none => s
    (s1.spoil tile).engEnd e

/-- The requests of an operation that may be outstanding: those it has still to make (R385). -/
def State.engOpen (s : State) (e : EngOp) : List EngReq :=
  match e.kind with
  | .draw v c uid => fill v c uid
  | .draws d => match d.tiles with
    | (uid, _) :: _ => if d.filled then [] else fill d.view (coordsOf d.coords d.dim (d.next - d.tiles.length)) uid
    | [] => []
  | .send .. => if e.readDone then (match s.sendReqs e with | .ok rs => e.todo rs | _ => []) else []
  | .copym dst src n _ => match s.copyAll e dst src n with
    | .ok ps => e.todo (s.copyReqs e dst n ps)
    | _ => []
  | .txfer .. => []
where
  /-- The reads of a fill that are still to be made. -/
  fill (v : View) (c : Word) (uid : Nat) : List EngReq :=
    match s.tileU uid with
    | none => []
    | some t => match s.fillRead e t v c with
      | .ok rows => e.todo (fillReqs rows)
      | _ => []

/-- Requests of an operation that were outstanding complete with DIERESET: which of those that `which` picks were, and whether a write was
performed, is free (R300, R385, assumption 3). -/
def State.engLose (s : State) (e : EngOp) (which : EngReq → Bool) : State :=
  ((s.engOpen e).filter fun r => paHbm r.x.pa && which r).foldl (fun (x : State) r =>
    let (f, y) := x.drawNat
    if f % 2 = 0 then y
    else
      let z := match r.data with
        | some bs => if f / 2 % 2 = 0 && (y.blockFault r.x.entry.shared r.x.pa).isNone then y.engWrite e r bs else y
        | none => y
      z.engBring e r fDIERESET []) s

/-- Replays an operation's held request: its next step translates and checks it again (R269). -/
def State.replay (s : State) (e : EngOp) : State := s.updEngine e.serial fun x => { x with held := none }

/-- HELD_REQUEST_FIRMWARE_RELEASE (R253): firmware resumes or abandons a held operation. -/
def execHeldRequestFirmwareRelease (serial : Nat) (resume : Bool) (s : State) : Out :=
  match s.engine serial with
  | none => .next s
  | some e => if e.held.isNone then .next s else if resume then .next (s.replay e) else .next (s.abandon e)

end Sys2Proof.Machine
end

