-- ==== Sys2Proof/Machine/RunOps.lean ====
section
/-! DEFINITION. Machine/RunOps: a run's stripes and ops, its flight count, and the passing of time (R368, R380, R381). -/
namespace Sys2Proof

/-- The class of a port. -/
inductive PortKind
  | unused | const | stream | held
deriving DecidableEq, Repr

/-- R124. -/
def Port.kind (p : Port) : PortKind :=
  match p.src with
  | .unused => .unused
  | .imm | .zero | .arg _ => .const
  | .pa _ | .sl _ | .st _ => if p.hold.toNat ≤ 1 then .stream else .held

/-- Whether an instruction reads a stream (R37): one of its ports is a stream port, or it is a switch op. -/
def Instr.readsStream (i : Instr) : Bool :=
  match ccParts i, mcParts i with
  | some (_, f), _ => [f.a, f.b, f.c].any fun p => p.kind == .stream
  | _, some (_, f) => [f.a, f.b, f.c].any fun p => p.kind == .stream
  | _, _ => (swParts i).isSome

end Sys2Proof

namespace Sys2Proof.Machine

/-- Whether an op starts its one pass of its own, at configuration: its trigger port is unused (R199, R370). -/
def Instr.isSource : Instr → Bool
  | .trd f | .trdc f | .lreq f => f.a.src == .unused
  | _ => false

/-- The instruction an op was configured with. -/
def Image.instr (im : Image) (a : OpAddr) : Option Instr := (im.ops.find? fun o => o.1 == a).map Prod.snd

/-- Whether an op is a source whose pass is still to be made. -/
def Stripe.passDue (p : Stripe) (o : OpAddr × OpState) : Bool :=
  o.2.passes == 0 && !o.2.cut && (match p.image.instr o.1 with | some i => Instr.isSource i | none => false)

/-- An empty sum. -/
def SnSum.empty (n : BitVec 16) : SnSum := ⟨n, 0, 0, 0, 0, 0, 0⟩

/-- The open sum of a sequence number. -/
def SnNode.sum (n : SnNode) (q : BitVec 16) : SnSum := (n.sums.find? fun x => x.seqNo == q).getD (SnSum.empty q)

/-- Whether the oldest sum is complete (R175). -/
def SnNode.complete (n : SnNode) (f : SNFrame) : Bool := decide (f.inputs.toNat ≤ (n.sum n.oldest).evts)

/-- Whether a Silt node has a complete sum that it has not written yet (R175). -/
def Stripe.sumDue (p : Stripe) (x : Nat × SnNode) : Bool :=
  p.image.ops.any fun o => match o.2 with
    | .snadd f | .snsink f => f.index.val == x.1 && x.2.complete f
    | _ => false

/-- Bits that a predicate channel holds: a slot is freed when every reader has consumed it (R18, R98). -/
def PChan.load (c : PChan) : Nat := (c.readers.map fun r => r.2.length).foldl max 0

/-- Whether a predicate channel has a free slot: depth 4 (R98). -/
def PChan.hasRoom (c : PChan) : Bool := c.readers.all fun r => decide (r.2.length < 4)

/-- A predicate channel of a stripe. -/
def Stripe.pchan (p : Stripe) (i : PChanId) : Option PChan := p.pchans.find? fun c => c.id == i

/-- The frame of a predicate node (R103). -/
def Instr.pnFrame : Instr → Option PNFrame
  | .plogic f | .pdup f | .pgen f => some f
  | _ => none

/-- Whether a predicate destination of a node takes a bit, as far as the run's stripes show: a full channel does not; `next` is the stripe that
the channels PP lead to. -/
def Stripe.takesBit (p : Stripe) (next : Option Stripe) : PDst → Bool
  | .pl n => ((p.pchan (.pl n.val)).map PChan.hasRoom).getD true
  | .pp n => ((next.bind fun q => q.pchan (.pp n.val)).map PChan.hasRoom).getD true
  | .ps _ | .q _ | .none => true

/-- Whether a predicate node has a bit at every used input, and room for what it writes. -/
def Stripe.nodeMoves (p : Stripe) (next : Option Stripe) (a : OpAddr) (f : PNFrame) : Bool :=
  ([(0, f.in0), (1, f.in1), (2, f.in2)].all fun x =>
    x.2 == PSrc.none || p.pchans.any fun c => c.readers.any fun r => r.1 == .input a x.1 && !r.2.isEmpty)
  && [f.out0, f.out1, f.out2, f.out3].all (p.takesBit next)

/-- The bits of a stripe's predicate channels that are in flight (R380, DEDUCED, assumption 95): those at the input of a node that is to take them.
What stands at the predicate input of an op is taken only with a token, which counts itself; a PGEN with no input fills such a channel for ever,
and its run completes none the less (R172, R422). -/
def Stripe.bitFlight (p : Stripe) (next : Option Stripe) : Nat :=
  let nodes := p.image.ops.filter fun o => match Instr.pnFrame o.2 with | some f => p.nodeMoves next o.1 f | none => false
  ((p.pchans.filter fun c => c.readers.any fun r => match r.1 with | .input a _ => nodes.any fun o => o.1 == a | _ => false).map PChan.load).foldl (· + ·) 0

/-- Tokens and predicate tokens in flight that stand in a stripe's channels. -/
def Stripe.standing (p : Stripe) (next : Option Stripe) : Nat := (p.chans.map Chan.load).foldl (· + ·) 0 + p.bitFlight next

/-- The stripe of a run that a stripe's pass channels lead to, where it is configured (R38). -/
def Run.after (r : Run) (p : Stripe) : Option Stripe := (r.stripes.find? fun x => x.2.vs == (p.vs + 1) % r.recd.v).map Prod.snd

/-- The entries of a seam FIFO that are in flight (R380): all, but for the bits that nodes without an input put there, which fill it for ever as
they fill a channel (DEDUCED, assumption 95). -/
def Run.seamFlight (r : Run) (q : Seam) : Nat :=
  let own := match q.ch with | .pp n => r.selfFed.contains (q.vs, n.val) | _ => false
  q.toks.length + (if own then 0 else q.bits.length) + q.words.length

/-- The ops of a stripe that read a stream. -/
def Stripe.readers (p : Stripe) : List (OpAddr × OpState) :=
  p.ops.filter fun o => match p.image.instr o.1 with | some i => i.readsStream | none => false

/-- Whether a stripe has nothing outstanding: every request answered, every firing written, every Silt queue empty (R37, R177). -/
def Stripe.idle (p : Stripe) : Bool :=
  !p.restoring && (p.ops.all fun o => o.2.mcq.isEmpty && o.2.outq.isEmpty && o.2.heldReq.isNone)
  && p.sns.all fun n => n.2.queue.isEmpty && n.2.outq.isEmpty && !p.sumDue n

/-- Whether the generators of a stripe have completed every pass they started and its consuming reads have ended (R198). -/
def Stripe.passesDone (p : Stripe) : Bool :=
  p.ops.all (fun o => o.2.reading.isEmpty && (o.1.cls != .mc || o.2.agIdx.isNone)) && !(p.ops.any p.passDue)

/-- Whether a stripe retires (R37, R198): every op that reads a stream has consumed a STOP of the round level, every pass is complete, and
nothing is outstanding. -/
def Stripe.retires (r : Run) (p : Stripe) : Bool :=
  decide (r.p < r.recd.v) && decide (r.recd.round ≠ 0) && p.idle && p.passesDone && p.readers.all (fun o => decide (r.recd.round ≤ o.2.stopSeen))

/-- Tokens and requests of one stripe (R380): a pass that a source has not finished is a request of its own. -/
def Stripe.flight (p : Stripe) (next : Option Stripe) : Nat :=
  p.standing next
  + ((p.ops.map fun o => o.2.mcq.length + o.2.outq.length + o.2.ring.length + (if o.2.heldReq.isSome then 1 else 0)
      + (if p.passDue o then 1 else 0)).foldl (· + ·) 0)
  + ((p.sns.map fun n => n.2.queue.length + n.2.outq.length + (if p.sumDue n then 1 else 0)).foldl (· + ·) 0)
  + (if p.restoring then 1 else 0)

/-- The configuration that the scroll controller makes next: those to be made again first, none under a marking (R36, R371, R374). -/
def Run.nextConfig (r : Run) : Option Nat :=
  match r.resumeK with
  | k :: _ => some k
  | [] => if r.marking.isSome then none else if r.p < r.recd.v || r.nextK < r.recd.v then some r.nextK else none

/-- That configuration, when its slot is free. -/
def Run.dueConfig (r : Run) : Option Nat :=
  match r.nextConfig with
  | some k => if (Tab.find r.stripes (k % r.p)).isNone then some k else none
  | none => none

/-- The flight count of a run without the entries that stand behind the STOP a source stopped at (R380). -/
def Run.ahead (r : Run) : Nat :=
  ((r.stripes.map fun p => p.2.flight (r.after p.2) + (if p.2.retires r then 1 else 0)).foldl (· + ·) 0)
  + (r.moved.filter fun p => p.2.restoring).length
  + ((r.seams.map r.seamFlight).foldl (· + ·) 0)
  + ((r.ins.toList.map fun i => i.fifo.load + (if i.held.isSome then 1 else 0)).foldl (· + ·) 0)
  + ((r.outs.toList.map fun o => o.fifo.length).foldl (· + ·) 0)
  + (if r.heldCfg.isSome then 1 else 0) + (if r.dueConfig.isSome then 1 else 0)

/-- The flight count of a run (R380). -/
def Run.flight (r : Run) : Nat := r.ahead + (r.ins.toList.map fun i => i.kept.length).foldl (· + ·) 0

/-- The dies a run lies on. -/
def Run.dies (r : Run) : List Nat := (r.phys.map ringDie).eraseDups

/-- The clocks of a quiet window: 64 on one die, 512 on a chain of dies (R381). -/
def Run.window (r : Run) : Nat := if r.dies.length ≤ 1 then 64 else 512

/-- The safe points that every op of a stripe that reads a stream has passed and that are not counted yet (R368). -/
def Stripe.safePassed (p : Stripe) : Nat :=
  match p.readers.map fun o => o.2.safeSeen with
  | [] => 0
  | n :: ns => ns.foldl min n

/-- The stripe whose safe points return a die's counter to 0: the one that holds VS(V−1), where the die has it, else the die's last in slot
order (R348, R368). -/
def Run.gapStripe (r : Run) (die : Nat) : Option (Nat × Stripe) :=
  let mine := r.stripes.filter fun x => (r.phys[x.1 / 32]?).map ringDie == some die
  match mine.find? fun x => x.2.vs + 1 == r.recd.v with
  | some x => some x
  | none => if r.dies.length ≤ 1 then none else mine.foldl (fun b x => match b with | some y => if y.1 < x.1 then some x else b | none => some x) none

/-- The safe points passed since the last turn take effect (R368). -/
def Run.countSafe (r : Run) : Run :=
  let reset := r.dies.filter fun d => match r.gapStripe d with | some x => decide (0 < x.2.safePassed) | none => false
  { r with
    gaps := reset.foldl (fun g d => Tab.set g d 0) r.gaps
    stripes := r.stripes.map fun p =>
      let n := p.2.safePassed
      (p.1, if n = 0 then p.2 else { p.2 with ops := p.2.ops.map fun o => (o.1, { o.2 with safeSeen := o.2.safeSeen - n }) }) }

/-- Whether the stripe that holds VS0 waits on an empty input FIFO while no other part of the run holds anything in flight (R368): what there is
stands in that stripe's own channels; an entry of another input FIFO is another part's (DEDUCED, assumption 96). -/
def Run.starved (r : Run) : Bool :=
  match r.stripes.find? fun p => p.2.vs == 0 with
  | none => false
  | some p =>
    r.ins.toList.any (fun i => i.fifo.readers.any fun x => x.1 != .nobody && x.2.isEmpty)
    && decide (r.flight = p.2.standing (r.after p.2))

/-- Time passes for a run: each die's SAFEGAP counter runs while something is in flight, the quiet counter while nothing is (R368, R381); `saving`
while a save of it outside the package is unanswered (R380). -/
def Run.elapse (clk : Nat) (saving : Bool) (r : Run) : Run :=
  if r.phase = .running then
    if r.flight = 0 && !saving then { r with quietClk := r.quietClk + clk }
    else { r with
      gaps := if r.starved then r.gaps else r.dies.foldl (fun g d => Tab.set g d (Tab.get g 0 d + clk)) r.gaps
      quietClk := 0, quietDone := false }
  else r

/-- The stripe in a slot of a run. -/
def Run.stripe (r : Run) (slot : Nat) : Option Stripe := Tab.find r.stripes slot

/-- The configured instruction at a place. -/
def State.opInstr (s : State) (p : OpPlace) : Option Instr :=
  match s.run p.run with
  | none => none
  | some r => match r.stripe p.slot with
    | none => none
    | some st => st.image.instr p.op

/-- Whether a save of a run has writes outside the package that are not answered (R351, R380, R395). -/
def State.saving (s : State) (n : Nat) : Bool :=
  s.outReqs.any fun o => o.who == .run n && (match o.op with | .write _ => true | _ => false)

/-- Time passes before a turn. -/
def State.elapse (s : State) (clk ticks : Nat) : State :=
  { s with clk := s.clk + clk, freeCtr := s.freeCtr + 1, timestamp := s.timestamp + BitVec.ofNat 64 ticks, runs := s.runs.map fun r => r.countSafe.elapse clk (s.saving r.serial) }

/-- Whether an instruction is a package reset, the one step a package that is off takes (R388). -/
def Instr.isPackageReset : Instr → Bool
  | .packageReset .. => true
  | _ => false

/-- The configuration of the stripe at a place has an uncorrectable error: its run ends with cause 3 and a class-7 POISON record (R389). -/
def State.configBad (s : State) (p : OpPlace) : Bool :=
  match (s.run p.run).bind fun r => r.stripe p.slot with
  | some st => st.bad
  | none => false

/-- What the next turn of the agenda comes to, before any instruction's own meaning: nothing when the agenda is empty; a sequencer's turn;
the configured instruction of an op; or a step of another agent, which is the one kind of instruction without an encoding. -/
def State.prepare (s : State) : Prepared :=
  match s.agenda with
  | [] => if s.off then .answer (.fault .packageOff) else .answer (.next s)
  | t :: rest =>
    let s1 := { (s.elapse t.clk t.ticks) with agenda := rest }
    match t.act with
    | .seq ring => if s.off then .answer (.fault .packageOff) else s1.issue ring
    | .op p =>
      if s.off then .answer (.fault .packageOff)
      else if s1.configBad p then .answer (.next ((s1.runFault p.run 7 0 fPOISON 0).endRunSoon p.run 3))
      else match s1.opInstr p with
        | none => .answer (.next s1)
        | some i => .run i { s1 with focus := p }
    | .agent i =>
      if (encode i).isSome then .answer (.refused .notAnAgentStep)
      else if s.off && !Instr.isPackageReset i then .answer (.fault .packageOff)
      else .run i s1

/-- Places a sequencer word: in the instruction store of ring 0 at the pc of its slot 0, with that slot RUNNABLE and first in turn, and
ring 0's turn next. -/
def State.placeWord (s : State) (w : Word) : State :=
  let q := s.sequencer 0
  let x := s.task 0
  let s1 := s.setSequencer 0 { q with
    istore := Memory.writeWrap 65536 q.istore x.pc.toNat (wordBytes 8 w)
    ibad := q.ibad.filter fun b => b != x.pc.toNat / 8
    order := 0 :: q.order.filter fun k => k != 0 }
  { (s1.setTask 0 { x with status := .runnable, deferred := [] }) with
    off := false, agenda := ⟨0, 0, .seq 0⟩ :: s.agenda, enabled := if s.enabled.contains 0 then s.enabled else 0 :: s.enabled }

end Sys2Proof.Machine
end

