-- ==== Sys2Proof/Machine/Launch.lean ====
section
/-! DEFINITION. Machine/Launch: the run record and its checks, the start of a run, and its unconfiguring (R12, R37, R88, R91, R113, R115 to R117, R265, R267, R347). -/
namespace Sys2Proof.Machine

/-! ### CRC-32C (R91) -/

/-- One bit of the reflected CRC. -/
def crcBit (c : BitVec 32) : BitVec 32 := if c.getLsbD 0 then (c >>> 1) ^^^ 0x82F63B78#32 else c >>> 1

/-- One byte. -/
def crcByte (c : BitVec 32) (b : Byte) : BitVec 32 :=
  let c0 := c ^^^ b.setWidth 32
  crcBit (crcBit (crcBit (crcBit (crcBit (crcBit (crcBit (crcBit c0)))))))

/-- CRC-32C: the Castagnoli polynomial in reflected form, initial value and final exclusive-or of all ones. -/
def crc32c (bs : List Byte) : BitVec 32 := ~~~(bs.foldl crcByte 0xFFFFFFFF#32)

/-! ### Run records (R116, R117) -/

/-- Stripes granted and occupied (R12). -/
def RunRec.granted (r : RunRec) : Nat := if r.pmax ≠ 0 then min r.pmax (32 * r.ringCount) else 32 * r.ringCount
/-- P. -/
def RunRec.p (r : RunRec) : Nat := min r.v r.granted

/-- Whether an endpoint value is one (R113). -/
def epOk (e : BitVec 16) : Bool := (endpointOf e).isSome

/-- Whether a binding is one (R117). -/
def bindOk (b : Word) : Bool :=
  match bindKind b with
  | 0 => b.extractLsb' 0 56 == 0
  | 1 => b.extractLsb' 25 31 == 0
  | 2 => b.extractLsb' 16 40 == 0 && epOk (b.extractLsb' 0 16)
  | _ => false

/-- The words of a table of a record. -/
def wordsAt (bs : List Byte) (off : Nat) : Vector Word 8 := Vector.ofFn fun i => BitVec.ofNat 64 (fieldAt bs (off + 8 * i.val) 8)

/-- The fields of a run record. -/
def runRecOf (bs : List Byte) : RunRec :=
  { image := BitVec.ofNat 64 (fieldAt bs 0 8), v := fieldAt bs 0x08 2, pmax := fieldAt bs 0x0A 2, ringCount := fieldAt bs 0x0C 1
    cyclic := (fieldAt bs 0x0D 1).testBit 0, cross := (fieldAt bs 0x0D 1).testBit 1, safe := fieldAt bs 0x0E 1
    round := fieldAt bs 0x0F 1, safegap := fieldAt bs 0x10 4, reserve := fieldAt bs 0x14 4
    faultEp := BitVec.ofNat 16 (fieldAt bs 0x18 2), quietEp := BitVec.ofNat 16 (fieldAt bs 0x1A 2)
    doneEp := BitVec.ofNat 16 (fieldAt bs 0x1C 2), ifb := wordsAt bs 0x20, ofb := wordsAt bs 0x60
    slots := (List.range 8).foldl (fun (m : BitVec 8) k => if (fieldAt bs (0xA0 + 4 * k) 4).testBit 31 then m ||| BitVec.twoPow 8 k else m) 0
    stub := BitVec.ofNat 64 (fieldAt bs 0xC0 8), stateArea := BitVec.ofNat 64 (fieldAt bs 0xC8 8), asid := fieldAt bs 0xD0 2
    priority := fieldAt bs 0xD2 1
    args := Vector.ofFn fun i => BitVec.ofNat 64 (fieldAt bs (0xE0 + 8 * i.val) 8) }

/-- Whether a run has a rebuild stub (R116). -/
def RunRec.hasStub (r : RunRec) : Bool := !r.stub.getLsbD 0
/-- The address of the rebuild stub. -/
def RunRec.stubAddr (r : RunRec) : BitVec 16 := r.stub.extractLsb' 0 16

/-- Whether a record passes R116, R117, R12, R37 and R347 in a partition; `node` for a graph's RUN node. DESIGN CHOICE, assumption 73: of a rebuild
stub word whose bit [0] is set ("none") only the zero field [63:20] is checked, and [19:1] are ignored. Unsafe. -/
def State.runRecOk (s : State) (part : Nat) (node : Bool) (bs : List Byte) : Bool :=
  let r := runRecOf bs
  decide (1 ≤ r.v) && decide (r.v ≤ 4096) && decide (r.pmax ≠ 1) && decide (1 ≤ r.ringCount) && decide (r.ringCount ≤ 24)
  && decide (fieldAt bs 0x0D 1 < 4) && decide (r.safe ≤ 7) && decide (r.round ≤ 7) && decide (r.priority ≤ 7)
  && decide (fieldAt bs 0x1E 2 = 0) && decide (fieldAt bs 0xD3 13 = 0)
  && epOk r.faultEp && epOk r.quietEp && epOk r.doneEp && r.ifb.toList.all bindOk && r.ofb.toList.all bindOk
  && ((List.range 8).all fun k => decide (fieldAt bs (0xA0 + 4 * k) 4 % 2 ^ 31 = 0))
  && r.stub.extractLsb' 20 44 == 0 && (!r.hasStub || (r.stub.extractLsb' 0 3 == 0 && (!node || r.stub.getLsbD 19)))
  && decide (r.image.toNat % 32 = 0)
  && (decide (r.asid = 0) || (s.part part).contexts.contains r.asid)
  && !(decide (r.granted < r.v) && decide (r.round = 0))
  && !(r.cyclic && decide (r.granted < r.v))

/-- An input FIFO at launch: closed for a NONE binding (R266), of 32 entries (R429). -/
def InBind.init (i : Nat) (b : Word) : InBind :=
  { fifo := ⟨.pa i, 32, [(.nobody, [])]⟩, kept := [], held := none, begun := none, row := 0, col := 0, closed := decide (bindKind b = 0), cut := false, swapped := true }

/-- A run at launch (R265). -/
def Run.init (serial : Nat) (ident : Word) (part : Nat) (launcher : Launcher) (owner : Owner) (rec : RunRec) (slots : BitVec 8)
    (asid : Nat) (deps : List Nat) : Run :=
  { serial := serial, opId := ident, partition := part, asid := if rec.asid = 0 then asid else rec.asid, launcher := launcher
    owner := owner, recd := rec, phase := .launched, rings := [], phys := [], home := 0, p := rec.p, nextK := 0, reserved := false, used := 0
    stripes := [], seams := [], selfFed := [], saved := [], taken := [], ins := Vector.ofFn fun i => InBind.init i.val rec.ifb[i]
    outs := Vector.replicate 8 ⟨[], 0, 0, none⟩, gaps := [], quietClk := 0, quietDone := false, quiets := 0, stopping := .no
    marking := none, markClk := 0, markNo := 0, released := [], moved := [], pending := none, images := rec.image, dir := [], records := [], due := none
    slots := rec.slots ||| slots, heldCfg := none, resumeK := [], retiredK := [], resuming := .no, fetch := none, deps := deps }

/-- Launches a run; its reader slots are bound for its owner (R265, R310). -/
def State.launch (s : State) (ident : Word) (part : Nat) (launcher : Launcher) (owner : Owner) (rec : RunRec) (slots : BitVec 8)
    (asid : Nat) (deps : List Nat) : Nat × State :=
  let (n, s1) := s.fresh
  let r := Run.init n ident part launcher owner rec slots asid deps
  let s2 := { s1 with runs := s1.runs ++ [r] }
  (n, (List.range 8).foldl (fun x k => if r.slots.getLsbD k then x.bind owner k (.run n) else x) s2)

/-! ### Unconfiguring (R266, R267) -/

/-- Releases the granules that seam FIFOs hold outside a reserve. -/
def Run.seamHeld (r : Run) : Nat := (r.seams.map fun q => (q.grans.filter fun f => !f).length).foldl (· + ·) 0

/-- The first die of a run: the die of its first ring, whose view of memory its scroll controller has (assumption 11). -/
def Run.die (r : Run) : Nat := match r.rings with | [] => 0 | g :: _ => ringDie g

/-- The ring that slot `i` of a run lies on (R348, R379). -/
def Run.slotPhys (r : Run) (i : Nat) : Nat := (r.phys[i / 32]?).getD 0

/-- The logical ring of slot `i` of a run (R113). -/
def Run.slotRing (r : Run) (i : Nat) : Nat := (r.rings[i / 32]?).getD 0

/-- The consuming reads a run has in progress. -/
def Run.readings (r : Run) : List ReadInProg :=
  (r.stripes.flatMap fun p => p.2.ops.flatMap fun o => o.2.reading ++ o.2.mcq.flatMap fun x => x.reads) ++ (r.ins.toList.filterMap fun i => i.begun)

/-- Whether a run's stop leaves the tokens already written to OF0 to OF7: the rejection of an image does (R107). -/
def Run.keepsOuts (r : Run) : Bool := match r.stopping with | .now c => c == 4 | _ => false

/-- Unconfigures every stripe: tokens in channels and seam FIFOs are discarded, held requests dropped, streams end, and the reads in
progress end as read (R267, R310). What a rejected image's run has written to its outputs remains (R107). -/
def State.unconfigure (s : State) (n : Nat) : State :=
  match s.run n with
  | none => s
  | some r =>
    let s1 := r.readings.foldl (fun x rd => x.endRead rd.tile rd.slot) s
    let pools := s1.setPool r.home r.partition { (s1.pool r.home r.partition) with
      held := (s1.pool r.home r.partition).held - r.seamHeld
      queue := (s1.pool r.home r.partition).queue.filter fun q => match q.who with | .seam m _ _ => m != n | _ => true }
    let s2 := ({ pools with streams := pools.streams.filter fun x => match x.who with | .cell m _ _ => m != n | _ => true }).forget (.run n)
    s2.updRun n fun x => { x with
      stripes := [], seams := [], heldCfg := none, released := [], moved := [], marking := none, pending := none, resumeK := [], retiredK := []
      resuming := .no, fetch := none, used := x.used - (x.seams.map fun q => (q.grans.filter fun f => f).length).foldl (· + ·) 0
      ins := x.ins.map fun i => { i with fifo := { i.fifo with readers := [(.nobody, [])] }, kept := [], held := none, begun := none }
      outs := x.outs.map fun o => if x.keepsOuts then o else { o with fifo := [], held := none } }

/-- The sources of a run present input again (R374, R377), up to the next safe point where it has been marked meanwhile (R370); where an RSTOP.SAFE
is pending, the flagged STOP they stopped at is its safe point, and they present nothing further (R267, R375). -/
def Run.restart (r : Run) : Run :=
  let stay := decide (r.stopping = .safe)
  let again := fun (i : InBind) => if r.marking.isSome then i.uncut.cutNow r.cutRule else i.uncut
  { r with
    resuming := .no
    ins := if stay then r.ins else r.ins.map again
    stripes := r.stripes.map fun p =>
      (p.1, { p.2 with ops := p.2.ops.map fun o => (o.1, { o.2 with cut := stay && o.2.cut, flagSeen := false }) }) }

/-- Stops a run at once (R267). -/
def State.stopNow (s : State) (n cause : Nat) : State :=
  match s.run n with
  | none => s
  | some r =>
    match r.phase with
    | .ended _ => s
    | _ => ((s.unconfigure n).updRun n fun x => { x with stopping := .now cause })

end Sys2Proof.Machine
end

