-- ==== Sys2Proof/Machine/Operands.lean ====
section
/-! DEFINITION. Machine/Operands: tokens and their elements, the operand forms of the fabric (sources, ports, held tokens, predicates), its destinations (lines, edges, the next virtual stripe, seam FIFOs, output FIFOs, sequencer channels), and the firing procedure of R127. -/
namespace Sys2Proof

/-- The cell number of an op in an ERR token and a fault record (R31, R383): memory cells follow the compute cells. -/
def OpAddr.cell (a : OpAddr) : Nat := if a.cls = .mc then 16 + a.index else a.index


/-- The number of a port letter. -/
def PortName.idx : PortName → Nat
  | .a => 0 | .b => 1 | .c => 2


/-- A STOP through an output's stop action (R26); `none` is dropped. -/
def StopAct.apply (a : StopAct) (t : Machine.Token) : Option Machine.Token :=
  if t.kind != 1 then some t
  else match a with
    | .forward => some t
    | .drop => none
    | .raise => some { t with level := if t.level = 7 then 7 else t.level + 1 }
    | .lower => some { t with level := if t.level ≤ 1 then 1 else t.level - 1 }

/-- The ports of a stage frame with their letters. -/
def CCFrame.ports (f : CCFrame) : List (PortName × Port) := [(.a, f.a), (.b, f.b), (.c, f.c)]
/-- The stream ports. -/
def CCFrame.streams (f : CCFrame) : List (PortName × Port) := f.ports.filter fun p => p.2.kind == .stream
/-- The held ports. -/
def CCFrame.helds (f : CCFrame) : List (PortName × Port) := f.ports.filter fun p => p.2.kind == .held

end Sys2Proof

namespace Sys2Proof.Machine

/-! ### Tokens (R19 to R25, R31) -/

/-- A DATA token. -/
def dataTok (mask : BitVec 16) (p : Payload) : Token := ⟨0, 0, mask, false, p, [], false, 0, false⟩
/-- What a STOP that nothing marked carries. -/
def Ride.none : Ride := ⟨false, false, 0⟩
/-- What a token carries. -/
def Token.ride (t : Token) : Ride := ⟨t.slice, t.swap, t.mark⟩
/-- What two STOPs that become one carry. -/
def Ride.join (a b : Ride) : Ride := ⟨a.slice || b.slice, a.swap || b.swap, max a.mark b.mark⟩
/-- What some STOPs that become one carry. -/
def rides (ts : List Token) : Ride := ts.foldl (fun r t => r.join t.ride) Ride.none
/-- A STOP of a level. -/
def stopTok (level : BitVec 3) (r : Ride) : Token := ⟨1, level, 0xFFFF, r.slice, 0, [], r.swap, r.mark, false⟩

/-- A DATA token. -/
def Token.isData (t : Token) : Bool := t.kind == 0
/-- A STOP. -/
def Token.isStop (t : Token) : Bool := t.kind == 1
/-- An ERR. -/
def Token.isErr (t : Token) : Bool := t.kind == 2
/-- A marker: PLANE, SAFE or MARK (R23). -/
def Token.isMarker (t : Token) : Bool := t.kind == 3 || t.kind == 4 || t.kind == 5
/-- A reserved kind, or a STOP of level 0 (R20, R25). -/
def Token.isBad (t : Token) : Bool := t.kind == 6 || t.kind == 7 || (t.kind == 1 && t.level == 0)

/-- Error codes of R32: MISMATCH. -/
def eMISMATCH : Nat := 1
/-- IDXRANGE. -/
def eIDXRANGE : Nat := 2
/-- POISON. -/
def ePOISON : Nat := 3
/-- BADTOK. -/
def eBADTOK : Nat := 4
/-- TAGFAIL. -/
def eTAGFAIL : Nat := 5
/-- PERM. -/
def ePERM : Nat := 6
/-- DIERESET. -/
def eDIERESET : Nat := 7

/-- An ERR token (R31). -/
def errTok (time : Word) (vs cell slot code : Nat) : Token :=
  ⟨2, 0, 0xFFFF, false,
    BitVec.ofNat 512 (time.toNat * 2 ^ 64 + vs % 4096 * 2 ^ 52 + cell % 32 * 2 ^ 47 + slot % 8 * 2 ^ 44 + code % 65536), [], false, 0, false⟩

/-- A token as the scroll controller or a binding reads it: from storage with an uncorrectable error it is ERR POISON (R331, R389), which no cell
or stage creates, so that those fields are free (assumption 3). -/
def State.readToken (s : State) (vs : Nat) (t : Token) : Token × State :=
  if t.bad then
    let (f, s1) := s.drawNat
    ({ errTok s1.timestamp vs (f % 32) (f / 32 % 8) ePOISON with deps := t.deps }, s1)
  else (t, s)

/-! ### Elements (R21, R22) -/

/-- Element e of width w of a payload. -/
def elem (p : Payload) (w e : Nat) : Nat := (p.extractLsb' (w * e) w).toNat
/-- Lane l of a payload. -/
def lane (p : Payload) (l : Nat) : Nat := elem p 32 l
/-- Lanes 1:0 of a payload. -/
def lanes10 (p : Payload) : Word := p.extractLsb' 0 64
/-- Whether element e of width w lies in valid lanes. -/
def validE (m : BitVec 16) (w e : Nat) : Bool :=
  if w = 64 then m.getLsbD (2 * e) && m.getLsbD (2 * e + 1) else m.getLsbD (w * e / 32)

/-- The number of a payload whose elements of width w, from element e on, are given. -/
def packFrom (w : Nat) : Nat → List Nat → Nat
  | _, [] => 0
  | e, v :: vs => v % 2 ^ w * 2 ^ (w * e) + packFrom w (e + 1) vs

/-- The payload of a list of elements of width w, from element 0. -/
def packElems (w : Nat) (vs : List Nat) : Payload := BitVec.ofNat 512 (packFrom w 0 vs)

/-- Computes element by element in the valid lanes of a token, keeps its other lanes and its mask, and adds the events (R22, R84). -/
def mapElems (w : Nat) (a : Token) (f : Nat → Nat × Ev) : Token × Ev :=
  let rs := (List.range (512 / w)).map fun e => if validE a.mask w e then f e else (elem a.payload w e, Ev.zero)
  (dataTok a.mask (packElems w (rs.map Prod.fst)), (rs.map Prod.snd).foldl Ev.add Ev.zero)

/-- A value read through a port's modifiers (R95): absolute first; integers wrap, floats change the sign bit only. -/
def modified (t : Ty) (p : Port) (v : Nat) : Nat :=
  if t.isInt then
    let x := Ty.intOf t v
    let x := if p.abs && decide (x < 0) then -x else x
    wrapNat t.width (if p.neg then -x else x)
  else if t.isFlt then
    let x := if p.abs then v % 2 ^ (t.width - 1) else v
    if p.neg then (if x < 2 ^ (t.width - 1) then x + 2 ^ (t.width - 1) else x - 2 ^ (t.width - 1)) else x
  else v

/-- Element e of a port's token as the op reads it (R125). -/
def readElem (t : Ty) (p : Port) (x : Token) (e : Nat) : Nat := modified t p (elem x.payload t.width e)

/-- A port's payload as the op reads it: every element through the port's modifiers (R125). -/
def readPayload (t : Ty) (p : Port) (x : Token) : Payload :=
  if p.neg || p.abs then packElems t.width ((List.range (512 / t.width)).map fun e => readElem t p x e) else x.payload

/-- The token a broadcasting port holds: one lane, or lane pair for a 64-bit type, in every lane (R95). -/
def broadcast (t : Ty) (p : Port) (x : Token) : Token :=
  if !p.bcast then x
  else
    let l := p.lane.toNat
    let y := if t.width = 64 then packElems 64 (List.replicate 8 (elem x.payload 64 (l / 2))) else packElems 32 (List.replicate 16 (lane x.payload l))
    { x with mask := if x.mask.getLsbD l then 0xFFFF else 0, payload := y }

/-- The token a constant source presents (R35). -/
def constTok (t : Ty) (v : Word) : Token :=
  dataTok 0xFFFF (if t.width = 64 then packElems 64 (List.replicate 8 v.toNat) else packElems 32 (List.replicate 16 (v.toNat % 2 ^ 32)))

/-! ### Ports (R124) -/

/-! ### Channels -/

/-- The tokens that a reader has not yet consumed. -/
def Chan.waiting (c : Chan) (r : Reader) : List Token := ((c.readers.find? fun x => x.1 == r).map Prod.snd).getD []
/-- A reader consumes its oldest token. -/
def Chan.pop (c : Chan) (r : Reader) : Chan := { c with readers := c.readers.map fun x => if x.1 == r then (x.1, x.2.drop 1) else x }
/-- The bits that a reader has not yet consumed. -/
def PChan.waiting (c : PChan) (r : Reader) : List PTok := ((c.readers.find? fun x => x.1 == r).map Prod.snd).getD []
/-- A reader consumes its oldest bit. -/
def PChan.pop (c : PChan) (r : Reader) : PChan := { c with readers := c.readers.map fun x => if x.1 == r then (x.1, x.2.drop 1) else x }
/-- Puts a bit into a predicate channel for every reader. -/
def PChan.push (c : PChan) (b : PTok) : PChan := { c with readers := c.readers.map fun r => (r.1, r.2 ++ [b]) }

/-- A data channel of a stripe. -/
def Stripe.chan (p : Stripe) (i : ChanId) : Option Chan := p.chans.find? fun c => c.id == i
/-- Changes a data channel of a stripe. -/
def Stripe.updChan (p : Stripe) (i : ChanId) (f : Chan → Chan) : Stripe :=
  { p with chans := p.chans.map fun c => if c.id == i then f c else c }
/-- Changes a predicate channel of a stripe. -/
def Stripe.updPchan (p : Stripe) (i : PChanId) (f : PChan → PChan) : Stripe :=
  { p with pchans := p.pchans.map fun c => if c.id == i then f c else c }
/-- A Silt node of a stripe. -/
def Stripe.sn (p : Stripe) (n : Nat) : SnNode := Tab.get p.sns SnNode.init n
/-- Changes a Silt node of a stripe. -/
def Stripe.updSn (p : Stripe) (n : Nat) (f : SnNode → SnNode) : Stripe := { p with sns := Tab.set p.sns n (f (p.sn n)) }
/-- A cell's matrix unit. -/
def Stripe.matrix (p : Stripe) (c : Nat) : Matrix := Tab.get p.cells Matrix.init c
/-- The state of an op. -/
def Stripe.opState (p : Stripe) (o : OpAddr) : Option OpState := (p.ops.find? fun x => x.1 == o).map Prod.snd
/-- Replaces the state of an op. -/
def Stripe.setOp (p : Stripe) (o : OpAddr) (v : OpState) : Stripe := { p with ops := p.ops.map fun x => if x.1 == o then (x.1, v) else x }

/-- Changes a stripe of a run. -/
def State.updStripe (s : State) (n slot : Nat) (f : Stripe → Stripe) : State :=
  s.updRun n fun r => { r with stripes := Tab.upd r.stripes slot f }

/-! ### An op at work -/

/-- An op at its turn: the machine before the turn and as it now stands, the run and stripe as they were, the op's place and state, and what
its firing writes: tokens by output, predicate bits, Silt counts, and the writes its tokens are ordered after. -/
structure Work where
  s0   : State
  s    : State
  run  : Run
  slot : Nat
  st   : Stripe
  o    : OpAddr
  op   : OpState
  outs : List (Nat × Token)
  bits : List (PDst × Bool)
  silt : Bool
  deps : List Nat


/-- Whether an op waits for its stripe's retirement, release or swap: it has consumed the STOP of the round level in a run that scrolls
(R37, R38), the flagged STOP of a marking (R371), or the STOP of an image swap (R268), or presents nothing further (R370). -/
def OpState.parked (r : Run) (x : OpState) : Bool :=
  (decide (r.p < r.recd.v) && decide (r.recd.round ≠ 0) && decide (r.recd.round ≤ x.stopSeen))
  || (r.marking.isSome && x.flagSeen) || x.swapSeen || x.cut

/-- Whether a rebuild stub is still to run before anything else of a resumed run does (R54, R374). -/
def Run.stubFirst (r : Run) : Bool := match r.resuming with | .stub | .slots true => true | _ => false

/-- The op at a place. -/
def State.workOf (s : State) (p : OpPlace) : Option Work :=
  match s.run p.run with
  | none => none
  | some r =>
    match Tab.find r.stripes p.slot with
    | none => none
    | some st =>
      match st.opState p.op with
      | none => none
      | some x =>
        some { s0 := s, s := s, run := r, slot := p.slot, st := st, o := p.op, op := x, outs := [], bits := [], silt := false, deps := [] }

/-- Whether an op may work: its stripe is restored, its run is not stopped (R267, R350), and no rebuild stub comes before it (R54). -/
def Work.works (w : Work) : Bool :=
  let stopped : Bool := match w.run.stopping with | .now _ => true | _ => false
  decide (w.run.phase = .running) && !w.st.restoring && !stopped && !w.run.stubFirst

/-- The op at a place, when its stripe is resident and it may work. -/
def State.workAt (s : State) (p : OpPlace) : Option Work := (s.workOf p).filter Work.works

/-- The die of the op's stripe. -/
def Work.die (w : Work) : Nat := ringDie (w.run.slotRing w.slot)
/-- The source number of the op's stripe (R358). -/
def Work.source (w : Work) : Nat := sourceNo w.die (32 * (w.run.slotPhys w.slot % 4) + w.slot % 32)
/-- Whether the stripe holds VS0. -/
def Work.first (w : Work) : Bool := decide (w.st.vs = 0)

/-- The stripe as it now stands. -/
def Work.cur (w : Work) : Stripe :=
  match w.s.run w.run.serial with
  | some r => (Tab.find r.stripes w.slot).getD w.st
  | none => w.st

/-- An ERR that this op creates now (R31). A switch element has no cell or stage number: those fields are free (assumption 3). -/
def Work.err (w : Work) (code : Nat) : Token × Work :=
  match w.o.cls with
  | .sw =>
    let (f, s1) := w.s.drawNat
    (errTok w.s.timestamp w.st.vs (f % 32) (f / 32 % 8) code, { w with s := s1 })
  | _ => (errTok w.s.timestamp w.st.vs w.o.cell w.o.slot code, w)

/-- The channel a source names in the op's stripe. -/
def Work.srcChan (w : Work) (src : Src) : Option ChanId :=
  match src with
  | .pa n => some (.pa n.val)
  | .sl n => some (.sl n.val)
  | .st j => some (.edge w.o.index j.val w.o.slot)
  | .imm | .zero | .arg _ | .unused => none

/-- The tokens that stand before a reader at a source: PA0 to PA7 of VS0 are the input FIFOs (R16, R38), which present nothing while the
rebuild stub of a resumed run has not run (R374). -/
def Work.queue (w : Work) (src : Src) (r : Reader) : List Token :=
  match w.srcChan src with
  | none => []
  | some (.pa n) =>
    if w.first then
      match w.s.run w.run.serial with
      | some x => if x.resuming != .no then [] else if h : n < 8 then x.ins[n].fifo.waiting r else []
      | none => []
    else ((w.cur.chan (.pa n)).map fun c => c.waiting r).getD []
  | some i => ((w.cur.chan i).map fun c => c.waiting r).getD []

/-- What the firing writes is ordered after some writes too (R295). -/
def Work.after (w : Work) (deps : List Nat) : Work := { w with deps := w.deps ++ deps.filter fun d => !w.deps.contains d }

/-- Consumes the token at the head of a source. -/
def Work.pop (w : Work) (src : Src) (r : Reader) : Work :=
  let w := w.after (match w.queue src r with | t :: _ => t.deps | [] => [])
  match w.srcChan src with
  | none => w
  | some (.pa n) =>
    if w.first then
      if h : n < 8 then
        { w with s := w.s.updRun w.run.serial fun x => { x with ins := x.ins.set n { x.ins[n] with fifo := x.ins[n].fifo.pop r } } }
      else w
    else { w with s := w.s.updStripe w.run.serial w.slot fun p => p.updChan (.pa n) fun c => c.pop r }
  | some i => { w with s := w.s.updStripe w.run.serial w.slot fun p => p.updChan i fun c => c.pop r }

/-- The token at the head of a source: a reserved token is replaced there by ERR BADTOK (R20, R25, R125), and one read from storage with an
uncorrectable error by ERR POISON (R331, R389). -/
def Work.headAt (w : Work) (src : Src) (r : Reader) : Option Token :=
  match w.queue src r with
  | [] => none
  | t :: _ =>
    some (if t.bad then { (w.err ePOISON).1 with deps := t.deps } else if t.isBad then { (w.err eBADTOK).1 with deps := t.deps } else t)

/-- The reader of a port. -/
def Work.reader (w : Work) (n : PortName) : Reader := .port w.o n
/-- The token at the head of a port's channel. -/
def Work.head (w : Work) (n : PortName) (p : Port) : Option Token := w.headAt p.src (w.reader n)

/-- The token resident at a held port. -/
def Work.resident (w : Work) (n : PortName) : Option HeldTok := Tab.find w.op.held n.idx

/-- The token that a firing uses at a port: a constant, the resident token, or the head, broadcast as the port says. -/
def Work.portTok (w : Work) (t : Ty) (imm : Word) (n : PortName) (p : Port) : Option Token :=
  match p.kind with
  | .unused => some (dataTok 0 0)
  | .const =>
    some (broadcast t p (match p.src with
      | .imm => constTok t imm
      | .arg i => constTok t w.run.recd.args[i]
      | _ => constTok t 0))
  | .stream => (w.head n p).map fun x => if x.isData then broadcast t p x else x
  | .held =>
    match w.resident n with
    | some h => some (broadcast t p h.tok)
    | none => (w.head n p).map fun x => if x.isData then broadcast t p x else x

/-- A DATA firing uses a port: a stream's head is consumed, a held port's becomes resident and counts down (R29). -/
def Work.take (w : Work) (n : PortName) (p : Port) : Work :=
  match p.kind with
  | .unused | .const => w
  | .stream => w.pop p.src (w.reader n)
  | .held =>
    match w.resident n with
    | some h =>
      let w := w.after h.tok.deps
      match h.left with
      | none => w
      | some k => { w with op := { w.op with held := if k ≤ 1 then Tab.del w.op.held n.idx else Tab.set w.op.held n.idx { h with left := some (k - 1) } } }
    | none =>
      match w.head n p with
      | none => w
      | some x =>
        let w1 := w.pop p.src (w.reader n)
        if !x.isData then w1
        else
          let left := if p.hold = 255 then none else some (p.hold.toNat - 1)
          { w1 with op := { w1.op with held := Tab.set w1.op.held n.idx ⟨x, left⟩ } }

/-- The ERR that stands at a port, if any: at the head of a stream port or of a held port with nothing resident (R29, R33), or in place of a
resident token whose storage has an uncorrectable error (R389). -/
def Work.errAt (w : Work) (p : PortName × Port) : Option Token :=
  match w.resident p.1 with
  | some h => if h.tok.bad then some { (w.err ePOISON).1 with deps := h.tok.deps } else none
  | none => match w.head p.1 p.2 with
    | some t => if t.isErr then some t else none
    | none => none

/-- An ERR at a held port is consumed: from its channel, or as the resident token it replaces. -/
def Work.dropErr (w : Work) (p : PortName × Port) : Work :=
  if (w.resident p.1).isSome then { w with op := { w.op with held := Tab.del w.op.held p.1.idx } } else w.pop p.2.src (w.reader p.1)

/-- Releases every held token (R29). -/
def Work.release (w : Work) : Work := { w with op := { w.op with held := [] } }

/-! ### Predicates (R28, R98) -/

/-- The predicate channel a source names. -/
def Work.psrcChan (w : Work) (src : PSrc) : Option PChanId :=
  match src with
  | .pp n => some (.pp n.val)
  | .pl n => some (.pl n.val)
  | .ps j => some (.edge w.o.index j.val w.o.slot)
  | .none => none

/-- The predicate token at the head of a predicate source. -/
def Work.pheadTok (w : Work) (src : PSrc) (r : Reader) : Option PTok :=
  match w.psrcChan src with
  | none => none
  | some i => match w.cur.pchan i with
    | none => none
    | some c => (c.waiting r).head?

/-- The bit at the head of a predicate source, before the sense. -/
def Work.phead (w : Work) (src : PSrc) (r : Reader) : Option Bool := (w.pheadTok src r).map PTok.bit

/-- The writes that the bit at the head of a predicate source is ordered after (R295). -/
def Work.pdeps (w : Work) (src : PSrc) (r : Reader) : List Nat := match w.pheadTok src r with | some b => b.deps | none => []

/-- Consumes a bit. -/
def Work.ppop (w : Work) (src : PSrc) (r : Reader) : Work :=
  let w := w.after (w.pdeps src r)
  match w.psrcChan src with
  | none => w
  | some i => { w with s := w.s.updStripe w.run.serial w.slot fun p => p.updPchan i fun c => c.pop r }

/-- The bit of an op's predicate input, after its sense; 1 where none is configured; `none` while it waits. -/
def Work.predBit (w : Work) (src : PSrc) (sense : Bool) : Option Bool :=
  match src with
  | .none => some true
  | _ => (w.phead src (.pred w.o)).map fun b => b != sense

/-- Consumes the bit of an op's predicate input. -/
def Work.takePred (w : Work) (src : PSrc) : Work :=
  match src with
  | .none => w
  | _ => w.ppop src (.pred w.o)

/-! ### Destinations -/

/-- The stripe of the run that now holds the next configuration in sequence, if it can take tokens (R38, R350). -/
def Work.nextStripe (w : Work) : Option (Nat × Stripe) :=
  match w.s0.run w.run.serial with
  | none => none
  | some r => r.stripes.find? fun x => x.2.k == w.st.k + 1 && !x.2.restoring

/-- The seam FIFO of a channel of the next virtual stripe. -/
def Run.seam (r : Run) (vs : Nat) (ch : SeamCh) : Option Seam := r.seams.find? fun q => q.vs == vs && q.ch == ch
/-- Replaces a seam FIFO; one that is left empty with no granule goes. -/
def Run.setSeam (r : Run) (q : Seam) : Run :=
  { r with seams := (r.seams.filter fun x => !(x.vs == q.vs && x.ch == q.ch))
      ++ (if q.toks.isEmpty && q.bits.isEmpty && q.words.isEmpty && q.grans.isEmpty then [] else [q]) }
/-- The virtual stripe that follows. -/
def Work.nextVs (w : Work) : Nat := (w.st.vs + 1) % w.run.recd.v
/-- Entries a seam FIFO holds. -/
def Seam.count (q : Seam) : Nat := q.toks.length + q.words.length

/-- A seam FIFO's request for a granule that waits in its pool, by number, with its grant (R313, R315). -/
def State.seamRequest (s : State) (r : Run) (vs : Nat) (ch : SeamCh) : Option PoolReq :=
  (s.pool r.home r.partition).queue.find? fun q => q.who == .seam r.serial vs ch

/-- Whether a seam FIFO can take one entry more: in its granules, or with a granule from the reserve, granted at once, or granted by the
queue (R315, R352). -/
def State.seamRoom (s : State) (n vs : Nat) (ch : SeamCh) : Bool :=
  match s.run n with
  | none => false
  | some r =>
    let q := (r.seam vs ch).getD ⟨vs, ch, [], [], [], 0, []⟩
    decide (q.head + q.count < 30 * q.grans.length)
    || (match s.seamRequest r vs ch with
        | some x => x.granted
        | none => (r.reserved && decide (r.used < r.recd.reserve)) || s.grantNow r.home r.partition false false 1)

/-- A seam FIFO takes a granule for the entry that arrives, when its granules are full (R352). -/
def State.seamGrow (s : State) (n vs : Nat) (ch : SeamCh) : State :=
  match s.run n with
  | none => s
  | some r =>
    let q := (r.seam vs ch).getD ⟨vs, ch, [], [], [], 0, []⟩
    if q.head + q.count < 30 * q.grans.length then s
    else
      let more := fun (f : Bool) (x : Run) => x.setSeam { q with grans := q.grans ++ [f] }
      match s.seamRequest r vs ch with
      | some x => if x.granted then (s.takeRequest r.home r.partition x.id).updRun n (more false) else s
      | none =>
        if r.reserved && decide (r.used < r.recd.reserve) then s.updRun n fun x => more true { x with used := x.used + 1 }
        else if s.grantNow r.home r.partition false false 1 then (s.charge r.home r.partition 1).updRun n (more false)
        else s

/-- Queues a seam FIFO's request for a granule, when it has none (R313, R352). -/
def State.seamAsk (s : State) (n vs : Nat) (ch : SeamCh) : State :=
  match s.run n with
  | none => s
  | some r =>
    if (s.seamRequest r vs ch).isSome then s
    else
      let (id, s1) := s.fresh
      s1.enqueue r.home r.partition false ⟨id, .seam n vs ch, 1, false, false, s.clk, false⟩

/-- Appends to a seam FIFO. -/
def State.seamPut (s : State) (n vs : Nat) (ch : SeamCh) (f : Seam → Seam) : State :=
  s.updRun n fun r => r.setSeam (f ((r.seam vs ch).getD ⟨vs, ch, [], [], [], 0, []⟩))

/-- Where a write toward the next virtual stripe goes: into its channel, into a seam FIFO, or nowhere yet. A run that does not scroll has no
seam FIFO, and its writers wait (R38, R353). -/
inductive Onward
  | direct (slot : Nat) (st : Stripe)
  | seam
  | wait
deriving DecidableEq, Repr

/-- R38. -/
def Work.onward (w : Work) (ch : SeamCh) : Onward :=
  let seamed : Bool := match w.s0.run w.run.serial with | some r => (r.seam w.nextVs ch).isSome | none => false
  match w.nextStripe, seamed with
  | some (slot, p), false => .direct slot p
  | _, _ => if w.run.p < w.run.recd.v then .seam else .wait

/-- The task that owns channel Qn of the sequencer of the stripe's logical ring (R113). -/
def Work.qTask (w : Work) (n : Fin 8) : Nat := 8 * w.run.slotRing w.slot + n.val

/-- The entry a token becomes in Qn; ERR and PLANE become none (R238). -/
def tokenEntry (t : Token) (deps : List Nat) : Option QEntry :=
  if t.isData then some ⟨0, 0, false, lanes10 t.payload, deps⟩
  else if t.isStop then some ⟨1, t.level, t.slice, 0, deps⟩
  else if t.kind = 4 then some ⟨4, 0, false, 0, deps⟩
  else if t.kind = 5 then some ⟨5, 0, false, lanes10 t.payload, deps⟩
  else none

/-- A record of an op of the fabric: classes 3 and 4 (R383). -/
def Work.record (w : Work) (cls access code va : Nat) (time : Word) : FRec :=
  ⟨faultWord0 (w.s.inc w.die) w.run.partition w.source w.st.vs w.o.cell w.o.slot cls access code, time, BitVec.ofNat 64 va, w.run.opId⟩

/-- Absorbs a token that is written nowhere: an ERR becomes an EFLOW record, a MARK logs its event (R23, R34). -/
def Work.absorb (w : Work) (t : Token) : Work :=
  if t.isErr then
    let rec4 := w.record 4 0 fEFLOW (lanes10 t.payload).toNat (t.payload.extractLsb' 64 64)
    { w with s := w.s.runRecord w.run.serial rec4 }
  else if t.kind = 5 then { w with s := w.s.logEvent w.source 9 w.run.partition (lanes10 t.payload) 0 }
  else w

/-- Whether a destination has a free slot for a token, as the turn began (R27). -/
def Work.room (w : Work) (d : Dst) (t : Token) : Bool :=
  match d with
  | .none => true
  | .sl n => ((w.st.chan (.sl n.val)).map Chan.hasRoom).getD true
  | .st k => ((w.st.chan (.edge w.o.index w.o.slot k.val)).map Chan.hasRoom).getD true
  | .q n => (tokenEntry t []).isNone || decide ((w.s0.queue (w.qTask n)).length < 32)
  | .pa n =>
    if w.st.vs + 1 = w.run.recd.v then
      if h : n.val < 8 then
        bindKind w.run.recd.ofb[n.val] == 0 || decide ((match w.s0.run w.run.serial with | some r => r.outs[n.val].fifo.length | none => 0) ≤ Config.ofMore)
      else true
    else match w.onward (.pa n) with
      | .direct _ p => ((p.chan (.pa n.val)).map Chan.hasRoom).getD true
      | .seam => w.s0.seamRoom w.run.serial w.nextVs (.pa n)
      | .wait => false

/-- Writes a token to a destination. -/
def Work.put (w : Work) (d : Dst) (t : Token) : Work :=
  let t := { t with deps := t.deps ++ w.deps.filter fun x => !t.deps.contains x }
  let mine := fun (i : ChanId) => { w with s := w.s.updStripe w.run.serial w.slot fun p => p.updChan i fun c => c.push t }
  match d with
  | .none => w
  | .sl n => mine (.sl n.val)
  | .st k => mine (.edge w.o.index w.o.slot k.val)
  | .q n =>
    match tokenEntry t t.deps with
    | none => w.absorb t
    | some e => let w1 := w.absorb t; { w1 with s := w1.s.pushQ (w.qTask n) e }
  | .pa n =>
    if w.st.vs + 1 = w.run.recd.v then
      if h : n.val < 8 then
        if bindKind w.run.recd.ofb[n.val] == 0 then w
        else let more := fun (r : Run) => { r with outs := r.outs.set n.val { r.outs[n.val] with fifo := r.outs[n.val].fifo ++ [t] } }
          { w with s := w.s.updRun w.run.serial more }
      else w
    else match w.onward (.pa n) with
      | .direct slot _ => { w with s := w.s.updStripe w.run.serial slot fun p => p.updChan (.pa n.val) fun c => c.push t }
      | .seam => { w with s := (w.s.seamGrow w.run.serial w.nextVs (.pa n)).seamPut w.run.serial w.nextVs (.pa n) fun q =>
          { q with toks := q.toks ++ [t] } }
      | .wait => w

/-- Whether a predicate destination has a free slot. A seam FIFO of predicate bits takes no granule (R352, R353). -/
def Work.proom (w : Work) (d : PDst) : Bool :=
  match d with
  | .none => true
  | .pl n => ((w.st.pchan (.pl n.val)).map PChan.hasRoom).getD true
  | .ps k => ((w.st.pchan (.edge w.o.index w.o.slot k.val)).map PChan.hasRoom).getD true
  | .q n => decide ((w.s0.queue (w.qTask n)).length < 32)
  | .pp n => match w.onward (.pp n) with
    | .direct _ p => ((p.pchan (.pp n.val)).map PChan.hasRoom).getD true
    | .seam => true
    | .wait => false

/-- Writes a predicate bit to a destination; a bit to Qn is a DATA entry of 0 or 1 (R169). -/
def Work.pput (w : Work) (d : PDst) (b : Bool) : Work :=
  match d with
  | .none => w
  | .pl n => { w with s := w.s.updStripe w.run.serial w.slot fun p => p.updPchan (.pl n.val) fun c => c.push ⟨b, w.deps⟩ }
  | .ps k => { w with s := w.s.updStripe w.run.serial w.slot fun p => p.updPchan (.edge w.o.index w.o.slot k.val) fun c => c.push ⟨b, w.deps⟩ }
  | .q n => { w with s := w.s.pushQ (w.qTask n) ⟨0, 0, false, if b then 1 else 0, w.deps⟩ }
  | .pp n => match w.onward (.pp n) with
    | .direct slot _ => { w with s := w.s.updStripe w.run.serial slot fun p => p.updPchan (.pp n.val) fun c => c.push ⟨b, w.deps⟩ }
    | .seam => { w with s := w.s.seamPut w.run.serial w.nextVs (.pp n) fun q => { q with bits := q.bits ++ [⟨b, w.deps⟩] } }
    | .wait => w

/-! ### Silt counts (R85, R173) -/

/-- A Silt token. -/
def siltWord (seqNo : BitVec 16) (cat count : Nat) : Word :=
  BitVec.ofNat 64 (seqNo.toNat * 2 ^ 48 + cat * 2 ^ 32 + count % 2 ^ 32)

/-- The four count tokens of an emission. -/
def Silt.words (c : Silt) (seqNo : BitVec 16) : List Word :=
  [siltWord seqNo 0 c.sat, siltWord seqNo 1 c.nan, siltWord seqNo 2 c.unf, siltWord seqNo 3 (c.oob * 65536 + c.mis)]

/-- Whether the op's Silt node has room for an emission: a queue of 16 (R174). -/
def Work.siltRoom (w : Work) (node : BitVec 5) : Bool := decide ((w.st.sn node.toNat).queue.length + 4 ≤ 16)

/-- Emits the counts and sets them to 0 (R85). -/
def Work.siltEmit (w : Work) (node : BitVec 5) : Work :=
  let ws := w.op.silt.words w.op.seqNo
  { w with
    s := w.s.updStripe w.run.serial w.slot fun p => p.updSn node.toNat fun q => { q with queue := q.queue ++ ws }
    op := { w.op with silt := Silt.zero, seqNo := w.op.seqNo + 1 } }

/-- Counts the events of a result, when statistics are on. -/
def Work.count (w : Work) (on : Bool) (e : Ev) : Work := if on then { w with op := { w.op with silt := w.op.silt.count e } } else w
/-- Counts a mismatch. -/
def Work.countMis (w : Work) (on : Bool) : Work := if on then { w with op := { w.op with silt := w.op.silt.addMis } } else w
/-- Counts out-of-bounds results. -/
def Work.countOob (w : Work) (on : Bool) (n : Nat) : Work := if on then { w with op := { w.op with silt := w.op.silt.addOob n } } else w

/-! ### What a firing writes -/

/-- Writes a token to one output. -/
def Work.emit (w : Work) (i : Nat) (t : Token) : Work := { w with outs := w.outs ++ [(i, t)] }
/-- Writes a token to OA and to OB (R126). -/
def Work.emit2 (w : Work) (t : Token) : Work := (w.emit 0 t).emit 1 t
/-- Writes a predicate bit. -/
def Work.bit (w : Work) (d : PDst) (b : Bool) : Work := { w with bits := w.bits ++ [(d, b)] }

/-- The first token of each output, through its stop action. -/
def firstOuts : List (Nat × Token) → List Nat → List (Nat × Token)
  | [], _ => []
  | (i, t) :: rest, seen => if seen.contains i then firstOuts rest seen else (i, t) :: firstOuts rest (i :: seen)

/-- What is left of a list of outputs after the first token of each. -/
def restOuts : List (Nat × Token) → List Nat → List (Nat × Token)
  | [], _ => []
  | (i, t) :: rest, seen => if seen.contains i then (i, t) :: restOuts rest seen else restOuts rest (i :: seen)

/-- An output field, unused where there is none. -/
def outAt (fs : List OutF) (i : Nat) : OutF := (fs[i]?).getD ⟨.none, .forward⟩

/-- Whether an output can take a token now. -/
def Work.outRoom (w : Work) (fs : List OutF) (x : Nat × Token) : Bool :=
  match (outAt fs x.1).stop.apply x.2 with
  | none => true
  | some t => w.room (outAt fs x.1).dst t

/-- Writes a token to an output under its stop action. -/
def Work.outPut (fs : List OutF) (w : Work) (x : Nat × Token) : Work :=
  match (outAt fs x.1).stop.apply x.2 with
  | none => w
  | some t => w.put (outAt fs x.1).dst t

/-- Stores the op's state back. -/
def Work.store (w : Work) : State := w.s.updStripe w.run.serial w.slot fun p => p.setOp w.o w.op

/-- Whether two writes of one firing went past what a sequencer channel or a seam FIFO of the run holds: each alone had a slot (R27). -/
def Work.fitsAll (w : Work) : Bool :=
  ((List.range 8).all fun n => decide ((w.s.queue (8 * w.run.slotRing w.slot + n)).length ≤ max 32 (w.s0.queue (8 * w.run.slotRing w.slot + n)).length))
  && (match w.s.run w.run.serial with
      | some r => r.seams.all fun q => decide (q.head + q.count ≤ 30 * q.grans.length)
      | none => true)

/-- The seam FIFO that a token goes into, if any. -/
def Work.seamOf (fs : List OutF) (w : Work) (x : Nat × Token) : Option SeamCh :=
  match (outAt fs x.1).stop.apply x.2 with
  | none => none
  | some _ => match (outAt fs x.1).dst with
    | .pa n =>
      if w.st.vs + 1 = w.run.recd.v then none
      else match w.onward (.pa n) with
        | .seam => some (.pa n)
        | _ => none
    | _ => none

/-- The seam FIFOs that tokens wait for ask for their granules, each for one that those before it leave it none of (R57, R313, R352). -/
def Work.asks (fs : List OutF) (w : Work) (l : List (Nat × Token)) (s : State) : State :=
  ((l.filterMap (w.seamOf fs)).foldl (fun (p : State × State) ch =>
    if p.1.seamRoom w.run.serial w.nextVs ch then (p.1.seamGrow w.run.serial w.nextVs ch, p.2)
    else (p.1, p.2.seamAsk w.run.serial w.nextVs ch)) (s, s)).2

/-- What a firing comes to when it happens: one token goes to each output now, and the rest follow one by one (R153). -/
def Work.written (fs : List OutF) (node : BitVec 5) (w : Work) : Work :=
  let w1 := if w.silt then w.siltEmit node else w
  let w2 := (firstOuts w.outs []).foldl (Work.outPut fs) w1
  w.bits.foldl (fun x b => x.pput b.1 b.2) w2

/-- Whether every output that a firing writes has a free slot, the predicate outputs and the Silt node among them (R27). -/
def Work.canCommit (fs : List OutF) (node : BitVec 5) (w : Work) : Bool :=
  (firstOuts w.outs []).all (w.outRoom fs) && w.bits.all (fun b => w.proom b.1) && (!w.silt || w.siltRoom node) && (w.written fs node).fitsAll

/-- The end of a firing: it happens when every output has room (R27); otherwise the op waits with its inputs. -/
def Work.commit (fs : List OutF) (node : BitVec 5) (w : Work) : Out :=
  if w.canCommit fs node then
    let w3 := w.written fs node
    .next ({ w3 with op := { w3.op with outq := restOuts w.outs [] } }).store
  else .next (w.asks fs (firstOuts w.outs []) w.s0)

/-- Writes what an earlier firing left to write, one token for each output that has room (R153). -/
def Work.flush (fs : List OutF) (w : Work) : Out :=
  let now := (firstOuts w.op.outq []).filter (w.outRoom fs)
  let w1 := now.foldl (Work.outPut fs) w
  let left := restOuts (w.op.outq.filter fun x => now.any fun y => y.1 == x.1) [] ++ w.op.outq.filter fun x => !(now.any fun y => y.1 == x.1)
  if w1.fitsAll then
    .next (w.asks fs ((firstOuts w.op.outq []).filter fun x => !(now.any fun y => y.1 == x.1)) ({ w1 with op := { w1.op with outq := left } }).store)
  else .next (w.asks fs (firstOuts w.op.outq []) w.s0)

/-- The value of a stage register with an uncorrectable error becomes ERR POISON (R389): a total or a buffer holds it until it goes out. -/
def Work.readRegister (w : Work) : Work :=
  if w.op.bad then { w with op := { w.op with bad := false, erred := some (w.op.erred.getD (w.err ePOISON).1) } } else w

/-- The state of an op whose counters, carry and flags start again. -/
def OpState.restarted (x : OpState) : OpState := { x with bad := false, carry := none, count := 0, flag := false, part := 0, row := 0, col := 0 }

/-- A firing that reads a counter, a carry or a flag: with an uncorrectable error there, ERR POISON goes to every output in the firing's place,
and the register starts again (R389, DEDUCED, assumption 112). -/
def Work.throughRegister (fs : List OutF) (fire : Work → Option Work) (w : Work) : Option Work :=
  if w.op.bad then (fire { w with op := w.op.restarted }).map fun _ =>
    let (e, w1) := ({ w with op := w.op.restarted }).err ePOISON
    (List.range fs.length).foldl (fun y i => y.emit i e) w1
  else fire w

/-- One turn of an op: first what an earlier firing left to write; nothing while it waits for its stripe; else what its firing does, if it
can fire. -/
def Work.turn (fs : List OutF) (node : BitVec 5) (fire : Work → Option Work) (w : Work) : Out :=
  if !w.op.outq.isEmpty then w.flush fs
  else if w.op.parked w.run then .next w.s0
  else match fire w with
    | none => .next w.s0
    | some w1 => w1.commit fs node

/-! ### The firing procedure of the compute-cell ops (R127) -/

/-- What distinguishes one op from another: what a DATA firing writes from its three port tokens, what a predicated-off firing writes,
what an ERR firing writes, and the end-of-sequence action. -/
structure Behave where
  data : Work → Token → Token → Token → Work
  off  : Work → Token → Work
  err  : Work → Token → Work
  fin  : Work → Work

/-- The behaviour of an op whose firing writes the same token to OA and OB and that has no end-of-sequence action. -/
def Behave.plain (data : Work → Token → Token → Token → Work) : Behave :=
  { data := data, off := fun w a => w.emit2 a, err := fun w e => w.emit2 e, fin := id }

/-- Consumes the heads of ports. -/
def Work.popAll (w : Work) (ps : List (PortName × Port)) : Work := ps.foldl (fun x p => x.pop p.2.src (x.reader p.1)) w

/-- A STOP passes an op: what R37, R368, R371 and R268 remember of it. The flagged STOP is that of the run's own pending marking (R369). -/
def Work.passStop (w : Work) (level : BitVec 3) (r : Ride) : Work :=
  let safe := decide (w.run.recd.safe ≠ 0) && decide (level.toNat = w.run.recd.safe)
  { w with op := { w.op with
      stopSeen := max w.op.stopSeen level.toNat
      flagSeen := w.op.flagSeen || (r.slice && w.run.marking.isSome && r.mark == w.run.markNo)
      swapSeen := w.op.swapSeen || r.swap
      safeSeen := if safe then w.op.safeSeen + 1 else w.op.safeSeen } }

/-- A marker passes an op: a SAFE token is a safe point (R54, R368). -/
def Work.passMarker (w : Work) (t : Token) : Work := if t.kind = 4 then { w with op := { w.op with safeSeen := w.op.safeSeen + 1 } } else w

/-- The marker that a firing forwards, with the ports it consumes: every stream port where one kind stands at all of them, else the
first port letter that has one (R23, R127). -/
def markerAt (heads : List ((PortName × Port) × Option Token)) (streams : List (PortName × Port)) : Option (Token × List (PortName × Port)) :=
  match heads.filterMap fun h => match h.2 with | some t => if t.isMarker then some (t, h.1) else none | none => none with
  | [] => none
  | (t, p) :: _ =>
    let same := streams.all fun q => heads.any fun h => h.1 == q && (match h.2 with | some x => x.kind == t.kind | none => false)
    some (t, if same && p.2.kind == .stream then streams else [p])

/-- The end of a sequence (R127): held tokens are released, each held port without one consuming its next, the Silt counts go out, and the
op's end-of-sequence action is done; `none` while a held port has nothing. An ERR stands for the value it was to be (R29, R33). -/
def Work.endSeq (f : CCFrame) (b : Behave) (w : Work) : Option Work :=
  let empty := f.helds.filter fun p => (w.resident p.1).isNone
  if empty.all fun p => match w.head p.1 p.2 with | some t => t.isData || t.isErr | none => false then
    some (b.fin { (w.popAll empty).release with silt := f.stats })
  else none

/-- The STOP with which a firing answers the STOPs it consumed. -/
def Work.stopOut (f : CCFrame) (b : Behave) (level : BitVec 3) (r : Ride) (w : Work) : Option Work :=
  let w1 := w.passStop level r
  (if f.level ≤ level then w1.endSeq f b else some w1).map fun w2 => w2.emit2 (stopTok level r)

/-- The highest STOP level among tokens. -/
def topStop (ts : List Token) : BitVec 3 := ts.foldl (fun m t => if t.isStop && decide (m < t.level) then t.level else m) 0

/-- One resolving round (R30, R128): discards at each port in order until a STOP of level ≥ `lev` stands there; `none` of the level while a
port is empty. What the consumed STOPs carry is collected. `fuel` bounds the discards. -/
def Work.discard (lev : BitVec 3) (src : Src) (r : Reader) : Nat → Work × Ride → (Work × Ride) × Bool
  | 0, x => (x, false)
  | fuel + 1, (w, sl) =>
    match w.headAt src r with
    | none => ((w, sl), false)
    | some t =>
      if t.isStop && decide (lev ≤ t.level) then ((w, sl), true)
      else Work.discard lev src r fuel (w.pop src r, if t.isStop then sl.join t.ride else sl)

/-- The resolution of a mismatch over sources in order (R128), as far as the tokens present allow: the op, the level reached, what the
consumed STOPs carried,
and whether all sources now show a STOP of that level. `fuel` bounds how often the level rises. -/
def Work.resolve (ps : List (Src × Reader)) : Nat → BitVec 3 → Work × Ride → (Work × Ride) × BitVec 3 × Bool
  | 0, lev, x => (x, lev, false)
  | fuel + 1, lev, x =>
    let (y, all) := ps.foldl (fun (a : (Work × Ride) × Bool) p =>
      let (b, ok) := Work.discard lev p.1 p.2 ((a.1.1.queue p.1 p.2).length + 1) a.1
      (b, a.2 && ok)) (x, true)
    if !all then (y, lev, false)
    else
      let top := topStop (ps.filterMap fun p => y.1.headAt p.1 p.2)
      if top = lev then (y, lev, true)
      else
        let z := ps.foldl (fun (a : Work × Ride) p =>
          match a.1.headAt p.1 p.2 with
          | some t => if t.level < top then (a.1.pop p.1 p.2, a.2.join t.ride) else a
          | none => a) y
        Work.resolve ps fuel top z

/-- Goes on with a resolution over some sources: `stop` is done when it ends. -/
def Work.resolveStep (ps : List (Src × Reader)) (lev : BitVec 3) (sl : Ride) (stop : BitVec 3 → Ride → Work → Option Work) (w : Work) :
    Option Work :=
  let ((w1, sl1), lev1, done) := Work.resolve ps 8 lev (w, sl)
  if done then
    let heads := ps.filterMap fun p => w1.headAt p.1 p.2
    let w2 := ps.foldl (fun x p => x.pop p.1 p.2) w1
    stop lev1 (sl1.join (rides heads)) { w2 with op := { w2.op with resolving := none } }
  else some { w1 with op := { w1.op with resolving := some (lev1, sl1) } }

/-- One firing by R127, if the op can fire. -/
def ccFire (f : CCFrame) (b : Behave) (w : Work) : Option Work :=
  let S := f.streams
  let H := f.helds
  let srcs := S.map fun p => (p.2.src, w.reader p.1)
  match w.op.resolving with
  | some (lev, sl) =>
    match w.resolveStep srcs lev sl (fun l r x => x.stopOut f b l r) with
    | some w1 => some w1
    | none =>
      -- the STOP that ends the resolution waits for a held port; a marker that stands there goes first (R30, R127)
      match markerAt ((H.filter fun p => (w.resident p.1).isNone).map fun p => (p, w.head p.1 p.2)) S with
      | some (t, ps) => some (((w.popAll ps).passMarker t).emit2 t)
      | none => none
  | none =>
    let heads := (S ++ H).map fun p => (p, w.head p.1 p.2)
    match markerAt heads S with
    | some (t, ps) => some (((w.popAll ps).passMarker t).emit2 t)
    | none =>
      let hs := S.filterMap fun p => w.head p.1 p.2
      if hs.length ≠ S.length then none
      else
        let top := topStop hs
        if top ≠ 0 then
          if hs.all fun t => t.isStop && t.level == top then (w.popAll S).stopOut f b top (rides hs)
          else
            let (e, w1) := w.err eMISMATCH
            let w2 := (w1.emit2 { e with deps := (hs.flatMap fun t => t.deps).eraseDups }).countMis f.stats
            some { w2 with op := { w2.op with resolving := some (top, Ride.none) } }
        else
          let fresh := H.filter fun p => (w.resident p.1).isNone
          let errs := f.ports.filter fun p => (S ++ H).contains p && (w.errAt p).isSome
          -- every ERR at a held port is consumed, and the one of the earliest letter passes (R29, R33)
          match errs, w.predBit f.pin f.psense with
          | _, none => none
          | p :: _, some _ =>
            match w.errAt p with
            | none => none
            | some e =>
              let w1 := (errs.filter fun q => !S.contains q).foldl Work.dropErr (w.popAll S)
              some (b.err (w1.takePred f.pin) e)
          | [], some bit =>
            if fresh.all fun p => match w.head p.1 p.2 with | some t => t.isData | none => false then
              match w.portTok f.ty f.imm .a f.a, w.portTok f.ty f.imm .b f.b, w.portTok f.ty f.imm .c f.c with
              | some a, some y, some c =>
                let w1 := ((f.ports.foldl (fun x p => x.take p.1 p.2) w).takePred f.pin)
                some (if bit then b.data w1 a y c else b.off w1 a)
              | _, _, _ => none
            else none

/-- The turn of a compute-cell op. -/
def ccTurn (f : CCFrame) (fire : Work → Option Work) (s : State) : Out :=
  match s.workAt s.focus with
  | none => .next s
  | some w => w.turn [f.oa, f.ob] f.silt (Work.throughRegister [f.oa, f.ob] fire)

/-- The turn of a compute-cell op that collects a total or a buffer. -/
def ccTotal (f : CCFrame) (fire : Work → Option Work) (s : State) : Out :=
  match s.workAt s.focus with
  | none => .next s
  | some w => w.turn [f.oa, f.ob] f.silt fun x => fire x.readRegister

/-- The turn of a compute-cell op that follows R127 and has no register. -/
def ccExec (f : CCFrame) (b : Behave) (s : State) : Out := ccTotal f (ccFire f b) s

end Sys2Proof.Machine
end

