-- ==== Sys2Proof/Machine/CellArith.lean ====
section
/-! DEFINITION. Machine/CellArith: the integer, logic, float, conversion and lane ops of the compute cells (R133 to R150). -/
namespace Sys2Proof.Machine

/-! ### Element by element -/

/-- An op that computes each valid element from its three operands and writes it to OA and OB (R126, R133, R138). -/
def elementwise (f : CCFrame) (g : Nat → Nat → Nat → Nat × Ev) : Behave :=
  Behave.plain fun w a b c =>
    let r := mapElems f.ty.width a fun e => g (readElem f.ty f.a a e) (readElem f.ty f.b b e) (readElem f.ty f.c c e)
    (w.count f.stats r.2).emit2 r.1

/-- An element op on the integer values of A, B and C, brought into T (R133). -/
def intFin (f : CCFrame) (g : Int → Int → Int → Int) : Behave :=
  elementwise f fun a b c => finInt f.ty f.sat (g (f.ty.intOf a) (f.ty.intOf b) (f.ty.intOf c))

/-- An element op on patterns, which counts nothing (R133). -/
def onPattern (f : CCFrame) (g : Nat → Nat → Nat) : Behave := elementwise f fun a b _ => (g a b % 2 ^ f.ty.width, Ev.zero)

/-- The leading zero bits of a pattern of width w. -/
def clzOf (w v : Nat) : Nat := if v = 0 then w else w - 1 - Nat.log2 v
/-- The one bits of a pattern of width w. -/
def popOf (w v : Nat) : Nat := ((List.range w).filter fun i => v.testBit i).length
/-- A pattern rotated left. -/
def rolOf (w v s : Nat) : Nat := v * 2 ^ s + v / 2 ^ (w - s)

/-- PASS (R133). -/
def execPass (f : CCFrame) (s : State) : Out := ccExec f (onPattern f fun a _ => a) s
/-- ADD (R133). -/
def execCcAdd (f : CCFrame) (s : State) : Out := ccExec f (intFin f fun a b _ => a + b) s
/-- SUB (R133). -/
def execCcSub (f : CCFrame) (s : State) : Out := ccExec f (intFin f fun a b _ => a - b) s
/-- MUL (R133). -/
def execCcMul (f : CCFrame) (s : State) : Out := ccExec f (intFin f fun a b _ => a * b) s
/-- MULH: floor(a × b / 2^w) (R133). -/
def execCcMulh (f : CCFrame) (s : State) : Out :=
  ccExec f (elementwise f fun a b _ => (wrapNat f.ty.width (f.ty.intOf a * f.ty.intOf b / ((2 ^ f.ty.width : Nat) : Int)), Ev.zero)) s
/-- MAD (R133). -/
def execMad (f : CCFrame) (s : State) : Out := ccExec f (intFin f fun a b c => a * b + c) s
/-- MIN (R133). -/
def execCcMin (f : CCFrame) (s : State) : Out := ccExec f (onPattern f fun a b => if f.ty.intOf b < f.ty.intOf a then b else a) s
/-- MAX (R133). -/
def execCcMax (f : CCFrame) (s : State) : Out := ccExec f (onPattern f fun a b => if f.ty.intOf a < f.ty.intOf b then b else a) s
/-- ABSD (R133). -/
def execAbsd (f : CCFrame) (s : State) : Out := ccExec f (intFin f fun a b _ => ((a - b).natAbs : Int)) s
/-- AND (R133). -/
def execCcAnd (f : CCFrame) (s : State) : Out := ccExec f (onPattern f fun a b => a &&& b) s
/-- OR (R133). -/
def execCcOr (f : CCFrame) (s : State) : Out := ccExec f (onPattern f fun a b => a ||| b) s
/-- XOR (R133). -/
def execCcXor (f : CCFrame) (s : State) : Out := ccExec f (onPattern f fun a b => a ^^^ b) s
/-- ANDN (R133). -/
def execCcAndn (f : CCFrame) (s : State) : Out := ccExec f (onPattern f fun a b => a &&& (f.ty.ones ^^^ b)) s
/-- SHL (R133). -/
def execCcShl (f : CCFrame) (s : State) : Out := ccExec f (onPattern f fun a b => a * 2 ^ (b % f.ty.width)) s
/-- SHR (R133). -/
def execCcShr (f : CCFrame) (s : State) : Out := ccExec f (onPattern f fun a b => a / 2 ^ (b % f.ty.width)) s
/-- SAR (R133). -/
def execCcSar (f : CCFrame) (s : State) : Out :=
  ccExec f (onPattern f fun a b => wrapNat f.ty.width (f.ty.intOf a / ((2 ^ (b % f.ty.width) : Nat) : Int))) s
/-- ROL (R133). -/
def execRol (f : CCFrame) (s : State) : Out := ccExec f (onPattern f fun a b => rolOf f.ty.width a (b % f.ty.width)) s
/-- CLZ (R133). -/
def execCcClz (f : CCFrame) (s : State) : Out := ccExec f (onPattern f fun a _ => clzOf f.ty.width a) s
/-- POPC (R133). -/
def execCcPopc (f : CCFrame) (s : State) : Out := ccExec f (onPattern f fun a _ => popOf f.ty.width a) s

/-! ### Comparisons and selection (R134 to R136, R139) -/

/-- The condition of op flags [2:0]. -/
def condOf (f : CCFrame) : CmpCond := (cmpCondOf (f.flags.extractLsb' 0 3).toNat).getD .eq

/-- A comparison of two elements as T, with its events. -/
def cmpElem (f : CCFrame) (flt : Bool) (a b : Nat) : Bool × Ev :=
  if flt then fCmp f.ty (condOf f) a b else (intCmp (condOf f) (f.ty.intOf a) (f.ty.intOf b), Ev.zero)

/-- CMPV and FCMPV: all ones where the condition holds (R134). -/
def cmpMask (f : CCFrame) (flt : Bool) : Behave :=
  elementwise f fun a b _ => let r := cmpElem f flt a b; (if r.1 then f.ty.ones else 0, r.2)

/-- CMPP and FCMPP: one predicate bit for each DATA or ERR element, and port A's token unchanged (R136). A mismatch (R30) is no ERR firing of port
A's stream, and writes no bit (DESIGN CHOICE, assumption 65). -/
def cmpPred (f : CCFrame) (flt : Bool) : Behave :=
  { data := fun w a b _ =>
      let rs := ((List.range (512 / f.ty.width)).filter fun e => validE a.mask f.ty.width e).map fun e =>
        cmpElem f flt (readElem f.ty f.a a e) (readElem f.ty f.b b e)
      let v := if f.flags.getLsbD 3 then rs.all Prod.fst else rs.any Prod.fst
      ((w.count f.stats ((rs.map Prod.snd).foldl Ev.add Ev.zero)).emit2 a).bit f.pout v
    off := fun w a => (w.emit2 a).bit f.pout false
    err := fun w e => (w.emit2 e).bit f.pout false
    fin := id }

/-- CMPV (R134). -/
def execCmpv (f : CCFrame) (s : State) : Out := ccExec f (cmpMask f false) s
/-- SELV: patterns, chosen by the pattern of port C (R135). -/
def execSelv (f : CCFrame) (s : State) : Out := ccExec f (elementwise f fun a b c => (if c ≠ 0 then a else b, Ev.zero)) s
/-- CMPP (R136). -/
def execCmpp (f : CCFrame) (s : State) : Out := ccExec f (cmpPred f false) s
/-- DIVI: quotients to OA, remainders to OB (R137). -/
def execDivi (f : CCFrame) (s : State) : Out :=
  ccExec f { Behave.plain (fun w a b _ =>
    let pair := fun e => divPair f.ty.width f.ty.isSigned (readElem f.ty f.a a e) (readElem f.ty f.b b e)
    let q := mapElems f.ty.width a fun e => ((pair e).1, Ev.zero)
    let r := mapElems f.ty.width a fun e => ((pair e).2, Ev.zero)
    (w.emit 0 q.1).emit 1 r.1) with } s

/-! ### Floats (R138 to R140) -/

/-- A float op on the values of A, B and C. -/
def floatOp (f : CCFrame) (g : FV → FV → FV → Nat × Ev) : Behave :=
  elementwise f fun a b c => g (f.ty.floatOf a) (f.ty.floatOf b) (f.ty.floatOf c)

/-- FADD (R138). -/
def execFadd (f : CCFrame) (s : State) : Out := ccExec f (floatOp f fun a b _ => fAdd f.ty f.rm f.sat a b) s
/-- FSUB (R138). -/
def execFsub (f : CCFrame) (s : State) : Out := ccExec f (floatOp f fun a b _ => fAdd f.ty f.rm f.sat a b.negate) s
/-- FMUL (R138). -/
def execFmul (f : CCFrame) (s : State) : Out := ccExec f (floatOp f fun a b _ => fMul f.ty f.rm f.sat a b) s
/-- FMA (R138). -/
def execFma (f : CCFrame) (s : State) : Out := ccExec f (floatOp f fun a b c => fFma f.ty f.rm f.sat a b c) s
/-- FMIN (R139). -/
def execFmin (f : CCFrame) (s : State) : Out := ccExec f (elementwise f fun a b _ => fMinMax f.ty false a b) s
/-- FMAX (R139). -/
def execFmax (f : CCFrame) (s : State) : Out := ccExec f (elementwise f fun a b _ => fMinMax f.ty true a b) s
/-- FDIV (R138). -/
def execFdiv (f : CCFrame) (s : State) : Out := ccExec f (floatOp f fun a b _ => fDiv f.ty f.rm f.sat a b) s
/-- FSQRT (R138). -/
def execFsqrt (f : CCFrame) (s : State) : Out := ccExec f (floatOp f fun a _ _ => fSqrt f.ty f.rm f.sat a) s
/-- FRCP (R138). -/
def execFrcp (f : CCFrame) (s : State) : Out := ccExec f (floatOp f fun a _ _ => fDiv f.ty f.rm f.sat (.fin false 1 0) a) s
/-- FRSQ (R138). -/
def execFrsq (f : CCFrame) (s : State) : Out := ccExec f (floatOp f fun a _ _ => fRsq f.ty f.rm f.sat a) s
/-- FEXP2 (R82). -/
def execFexp2 (f : CCFrame) (s : State) : Out := ccExec f (elementwise f fun a _ _ => fExp2 f.ty f.sat a) s
/-- FLOG2 (R82). -/
def execFlog2 (f : CCFrame) (s : State) : Out := ccExec f (elementwise f fun a _ _ => fLog2 f.ty f.sat a) s
/-- FTANH (R82). -/
def execFtanh (f : CCFrame) (s : State) : Out := ccExec f (elementwise f fun a _ _ => fTanh f.ty a) s
/-- FCMPV (R139). -/
def execFcmpv (f : CCFrame) (s : State) : Out := ccExec f (cmpMask f true) s
/-- FCMPP (R139). -/
def execFcmpp (f : CCFrame) (s : State) : Out := ccExec f (cmpPred f true) s
/-- FCLASS (R140). -/
def execFclass (f : CCFrame) (s : State) : Out := ccExec f (elementwise f fun a _ _ => (fClass f.ty a, Ev.zero)) s

/-! ### Conversions (R141 to R143) -/

/-- The destination type. -/
def destTy (f : CCFrame) : Ty := (tyOfCode (f.ext.extractLsb' 0 4)).getD .i32

/-- The lanes of a conversion's output that are valid: those whose every element is computed (R142). -/
def convMask (w n : Nat) (computed : Nat → Bool) : BitVec 16 :=
  (List.range 16).foldl (fun m l =>
    let es := if w = 64 then [l / 2] else (List.range (32 / w)).map fun i => 32 / w * l + i
    if es.all fun e => decide (e < n) && computed e then m ||| BitVec.twoPow 16 l else m) 0

/-- A conversion from T to U, element by element over the n elements of the wider type's token; the events of elements in the result's valid
lanes count (R84, R142). -/
def convert (f : CCFrame) (u : Ty) (g : Token → Nat → Nat × Ev) : Behave :=
  Behave.plain fun w a b _ =>
    let n := 512 / max f.ty.width u.width
    let rs := (List.range n).map fun e => if validE a.mask f.ty.width e then g b (readElem f.ty f.a a e) else (0, Ev.zero)
    let y := dataTok (convMask u.width n fun e => validE a.mask f.ty.width e) (packElems u.width (rs.map Prod.fst))
    let counted := (rs.zipIdx.filter fun r => validE y.mask u.width r.2).map fun r => r.1.2
    (w.count f.stats (counted.foldl Ev.add Ev.zero)).emit2 y

/-- CVT (R141). -/
def execCvt (f : CCFrame) (s : State) : Out :=
  let u := destTy f
  ccExec f (convert f u fun _ v =>
    if f.ty.isFloat then floatToFloat u f.rm f.sat (f.ty.floatOf v) else finInt u f.sat (f.ty.intOf v)) s
/-- CVTI (R141). -/
def execCvti (f : CCFrame) (s : State) : Out :=
  ccExec f (convert f (destTy f) fun _ v => floatToInt (destTy f) f.rm f.sat (f.ty.floatOf v)) s
/-- CVTF (R141). -/
def execCvtf (f : CCFrame) (s : State) : Out :=
  ccExec f (convert f (destTy f) fun _ v => intToFloat (destTy f) f.rm f.sat (f.ty.intOf v)) s
/-- QNT (R143). -/
def execQnt (f : CCFrame) (s : State) : Out :=
  ccExec f (convert f (destTy f) fun b v => qntElem (destTy f) f.rm (f.ty.floatOf v) (lane b.payload 0)) s
/-- DQNT (R143). -/
def execDqnt (f : CCFrame) (s : State) : Out :=
  ccExec f (convert f (destTy f) fun b v => dqntElem (destTy f) f.rm f.sat v (lane b.payload 0)) s

/-! ### PACK and UNPK (R144 to R146) -/

/-- The number of parts: extension [1:0]. -/
def packR (f : CCFrame) : Nat := 2 ^ (f.ext.extractLsb' 0 2).toNat

/-- What a PACK's buffer is emitted as: its data, or the first ERR it absorbed. -/
def packOut (x : OpState) : Token := match x.erred with | some e => e | none => dataTok x.bufMask x.tot
/-- An empty PACK buffer. -/
def packClear (x : OpState) : OpState := { x with tot := 0, bufMask := 0, part := 0, erred := none }

/-- A PACK's firing (R144). -/
def packFire (f : CCFrame) (w : Work) : Option Work :=
  match w.portTok f.ty f.imm .a f.a with
  | none => none
  | some t =>
    let r := packR f
    if t.isData || t.isErr then
      let j := w.op.part
      let w1 := w.pop f.a.src (w.reader .a)
      let x := if t.isErr then { w1.op with erred := some (w1.op.erred.getD t) }
        else { w1.op with
          tot := w1.op.tot ||| ((t.payload.setWidth (512 / r)).setWidth 512 <<< (512 / r * j))
          bufMask := w1.op.bufMask ||| ((t.mask.setWidth (16 / r)).setWidth 16 <<< (16 / r * j)) }
      if j + 1 = r then some ({ w1 with op := packClear x }.emit2 (packOut x))
      else some { w1 with op := { x with part := j + 1 } }
    else if decide (0 < w.op.part) && (t.isMarker || decide (f.level ≤ t.level)) then
      some ({ w with op := packClear w.op }.emit2 (packOut w.op))
    else ccFire f (Behave.plain fun x a _ _ => x.emit2 a) w

/-- PACK (R144). -/
def execPack (f : CCFrame) (s : State) : Out := ccTotal f (packFire f) s

/-- Part j of a token: the low bits and lanes of the output (R145). -/
def unpkPart (r j : Nat) (t : Token) : Token :=
  { t with mask := ((t.mask >>> (16 / r * j)).setWidth (16 / r)).setWidth 16
           payload := ((t.payload >>> (512 / r * j)).setWidth (512 / r)).setWidth 512, deps := [] }

/-- An UNPK's firing; an ERR is kept with its first copy, so that a BADTOK made at the head is the same in all of them (R145). -/
def unpkFire (f : CCFrame) (w : Work) : Option Work :=
  match w.portTok f.ty f.imm .a f.a with
  | none => none
  | some t =>
    if t.isData || t.isErr then
      let r := packR f
      let j := w.op.part
      let e := w.op.erred.getD t
      let y := if t.isErr then e else unpkPart r j t
      let w1 := if j + 1 = r then w.pop f.a.src (w.reader .a) else { w with deps := t.deps }
      some ({ w1 with op := { w1.op with part := if j + 1 = r then 0 else j + 1
                                         erred := if t.isErr && decide (j + 1 < r) then some e else none } }.emit2 y)
    else ccFire f (Behave.plain fun x a _ _ => x.emit2 a) w

/-- UNPK (R145). -/
def execUnpk (f : CCFrame) (s : State) : Out := ccTotal f (unpkFire f) s

/-! ### Lane moves (R147) -/

/-- Moves whole lanes with their mask bits (R147). -/
def moveLanes (f : CCFrame) (src : Token → Nat → Nat) : Behave :=
  Behave.plain fun w a b _ =>
    let p := readPayload f.ty f.a a
    let mask := (List.range 16).foldl (fun m l => if a.mask.getLsbD (src b l) then m ||| BitVec.twoPow 16 l else m) (0 : BitVec 16)
    w.emit2 (dataTok mask (packElems 32 ((List.range 16).map fun l => lane p (src b l))))

/-- Whether the index or amount comes from port B. -/
def fromB (f : CCFrame) : Bool := f.flags.getLsbD 0
/-- The amount of LROT and BCST. -/
def moveBy (f : CCFrame) (b : Token) : Nat := if fromB f then lane (readPayload f.ty f.b b) 0 % 16 else (f.ext.extractLsb' 0 4).toNat

/-- SHUF (R147). -/
def execShuf (f : CCFrame) (s : State) : Out :=
  ccExec f (moveLanes f fun b l => if fromB f then lane (readPayload f.ty f.b b) l % 16 else (f.imm.extractLsb' (4 * l) 4).toNat) s
/-- LROT (R147). -/
def execLrot (f : CCFrame) (s : State) : Out := ccExec f (moveLanes f fun b l => (l + moveBy f b) % 16) s
/-- BCST (R147). -/
def execBcst (f : CCFrame) (s : State) : Out := ccExec f (moveLanes f fun b _ => moveBy f b) s

/-! ### Reductions (R148, R149) -/

/-- The identity of a kind (R148). -/
def kindIdent (t : Ty) (k : Nat) : Nat :=
  match k with
  | 1 => if t.isFlt then t.infBits false else wrapNat t.width t.intMax
  | 2 => if t.isFlt then t.infBits true else wrapNat t.width t.intMin
  | 3 => t.ones
  | _ => 0

/-- The exact sum of float terms, rounded once; signalling NaNs are counted where they are operands (R148). -/
def sumFloats (t : Ty) (rm : Rm) (sat : Bool) (vs : List FV) : Nat × Ev :=
  let isInf := fun (n : Bool) (v : FV) => decide (v = .inf n)
  if vs.any FV.isNan then (t.nanBits, Ev.zero)
  else if vs.any (isInf true) && vs.any (isInf false) then (t.nanBits, Ev.oneNan)
  else if vs.any (isInf true) then infResult t sat true
  else if vs.any (isInf false) then infResult t sat false
  else
    let fs := vs.filterMap fun v => match v with | .fin n m e => some (n, m, e) | _ => none
    if fs.all fun x => x.2.1 == 0 then (t.signBit (fs.all fun x => x.1), Ev.zero) else roundSum t rm sat fs

/-- The lesser or greater of float patterns, as FMIN and FMAX (R139). -/
def pickFloats (t : Ty) (isMax : Bool) : List Nat → Nat
  | [] => kindIdent t (if isMax then 2 else 1)
  | v :: vs => vs.foldl (fun a b => (fMinMax t isMax a b).1) (if (t.floatOf v).isNan then t.nanBits else v)

/-- Comb of R148 on patterns of T. -/
def comb (t : Ty) (rm : Rm) (sat : Bool) (k : Nat) (vs : List Nat) : Nat × Ev :=
  if vs.isEmpty then (kindIdent t k, Ev.zero)
  else match k with
    | 0 =>
      if t.isFlt then sumFloats t rm sat (vs.map t.floatOf)
      else finInt t sat ((vs.map t.intOf).foldl (· + ·) 0)
    | 1 =>
      if t.isFlt then (pickFloats t false vs, Ev.zero)
      else (wrapNat t.width ((vs.map t.intOf).foldl min t.intMax), Ev.zero)
    | 2 =>
      if t.isFlt then (pickFloats t true vs, Ev.zero)
      else (wrapNat t.width ((vs.map t.intOf).foldl max t.intMin), Ev.zero)
    | 3 => (vs.foldl (· &&& ·) t.ones, Ev.zero)
    | 4 => (vs.foldl (· ||| ·) 0, Ev.zero)
    | _ => (vs.foldl (· ^^^ ·) 0, Ev.zero)

/-- The kind of op flags [2:0]. -/
def kindOf (f : CCFrame) : Nat := (f.flags.extractLsb' 0 3).toNat

/-- The signalling NaN operands among patterns (R66). -/
def sigEvents (t : Ty) (vs : List Nat) : Ev := if t.isFlt then Ev.nans ((vs.map fun v => (t.floatOf v).sig).foldl (· + ·) 0) else Ev.zero

/-- The elements of a token with their validity. -/
def elemsOf (f : CCFrame) (a : Token) : List (Nat × Bool) :=
  (List.range (512 / f.ty.width)).map fun e => (e, validE a.mask f.ty.width e)

/-- The outputs of a scan from element to element: the terms before this element, newest last (R148). -/
def scanOuts (f : CCFrame) (a : Token) (excl : Bool) : List (Nat × Bool) → List Nat → List (Nat × Ev)
  | [], _ => []
  | (e, ok) :: rest, terms =>
    if ok then
      let terms1 := terms ++ [readElem f.ty f.a a e]
      comb f.ty f.rm f.sat (kindOf f) (if excl then terms else terms1) :: scanOuts f a excl rest terms1
    else (elem a.payload f.ty.width e, Ev.zero) :: scanOuts f a excl rest terms

/-- SCAN (R148). -/
def scanBehave (f : CCFrame) : Behave :=
  { Behave.plain (fun w a _ _ =>
      let excl := f.flags.getLsbD 3
      let c0 := match w.op.carry with | some c => [c.toNat] | none => []
      let es := elemsOf f a
      let outs := scanOuts f a excl es c0
      let vals := (es.filter Prod.snd).map fun e => readElem f.ty f.a a e.1
      let last := comb f.ty f.rm f.sat (kindOf f) (c0 ++ vals)
      let ev := Ev.add (Ev.add ((outs.map Prod.snd).foldl Ev.add Ev.zero) (sigEvents f.ty vals)) (if excl && !vals.isEmpty then last.2 else Ev.zero)
      let w1 := if vals.isEmpty then w else { w with op := { w.op with carry := some (BitVec.ofNat 64 last.1) } }
      (w1.count f.stats ev).emit2 (dataTok a.mask (packElems f.ty.width (outs.map Prod.fst))))
    with fin := fun w => { w with op := { w.op with carry := none } } }

/-- SCAN (R148). -/
def execScan (f : CCFrame) (s : State) : Out := ccTurn f (ccFire f (scanBehave f)) s

/-- RED (R149). -/
def execRed (f : CCFrame) (s : State) : Out :=
  ccExec f (Behave.plain fun w a _ _ =>
    let vals := ((elemsOf f a).filter Prod.snd).map fun e => readElem f.ty f.a a e.1
    let r := comb f.ty f.rm f.sat (kindOf f) vals
    let mask : BitVec 16 := if vals.isEmpty then 0 else if f.ty.width = 64 then 3 else 1
    (w.count f.stats (Ev.add r.2 (sigEvents f.ty vals))).emit2 (dataTok mask (packElems f.ty.width [r.1]))) s

/-- LIDX: every element receives its index, and the mask is port A's (R150). -/
def execLidx (f : CCFrame) (s : State) : Out :=
  ccExec f (Behave.plain fun w a b _ =>
    let b0 := f.ty.intOf (readElem f.ty f.b b 0)
    let rs := (elemsOf f a).map fun e => let r := finInt f.ty f.sat (b0 + (e.1 : Int)); (r.1, if e.2 then r.2 else Ev.zero)
    (w.count f.stats ((rs.map Prod.snd).foldl Ev.add Ev.zero)).emit2 (dataTok a.mask (packElems f.ty.width (rs.map Prod.fst)))) s

end Sys2Proof.Machine
end

