-- ==== Sys2Proof/Machine/CellStream.lean ====
section
/-! DEFINITION. Machine/CellStream: the stream ops of the compute cells, the predicate nodes and the Silt nodes (R151 to R177). -/
namespace Sys2Proof.Machine

/-- The behaviour that passes port A's token on. -/
def passOn : Behave := Behave.plain fun w a _ _ => w.emit2 a

/-! ### Where tokens go (R156 to R158) -/

/-- A STEER's firing: DATA and ERR alike take a bit, and go to OA under 1, to OB under 0 (R156). -/
def steerFire (f : CCFrame) (w : Work) : Option Work :=
  match w.head .a f.a with
  | none => none
  | some t =>
    if t.isData || t.isErr then
      match w.predBit f.pin f.psense, w.portTok f.ty f.imm .a f.a with
      | some b, some a => some (((w.take .a f.a).takePred f.pin).emit (if b then 0 else 1) a)
      | _, _ => none
    else ccFire f passOn w

/-- STEER (R156). -/
def execSteer (f : CCFrame) (s : State) : Out := ccTotal f (steerFire f) s

/-- FILT: a lane stays valid where port B's lane is not zero (R157). -/
def execFilt (f : CCFrame) (s : State) : Out :=
  ccExec f (Behave.plain fun w a b _ =>
    let y := readPayload f.ty f.b b
    let mask := (List.range 16).foldl (fun m l => if a.mask.getLsbD l && lane y l != 0 then m ||| BitVec.twoPow 16 l else m) (0 : BitVec 16)
    if f.flags.getLsbD 0 && mask == 0 then w else w.emit2 { a with mask := mask, deps := [] }) s

/-- Takes the token at the head of a port and writes it: a STOP ends sequences as R127 gives. -/
def takeFrom (f : CCFrame) (n : PortName) (p : Port) (t : Token) (w : Work) : Option Work :=
  let w1 := w.pop p.src (w.reader n)
  if t.isStop then w1.stopOut f passOn t.level t.ride
  else some (w1.emit2 (if t.isData then broadcast f.ty p t else t))

/-- Two parked ports (R158): equal levels are consumed together, else the lower STOP goes alone. -/
def bothParked (f : CCFrame) (x y : Token) (w : Work) : Option Work :=
  if x.level = y.level then
    ((w.pop f.a.src (w.reader .a)).pop f.b.src (w.reader .b)).stopOut f passOn x.level (x.ride.join y.ride)
  else if x.level < y.level then takeFrom f .a f.a x w
  else takeFrom f .b f.b y w

/-- A merge's firing; `choose` picks a port (true for A) from whether A and B are takeable, or gives the firing of its own (R158). -/
def mergeFire (f : CCFrame) (passStops : Bool) (choose : Work → Bool → Bool → Option Token → Option Token → Option Work) (w : Work) : Option Work :=
  let ha := w.head .a f.a
  let hb := w.head .b f.b
  let marker : Option Token → Bool := fun h => match h with | some t => t.isMarker | none => false
  let stop : Option Token → Bool := fun h => match h with | some t => t.isStop && !passStops | none => false
  match ha, hb with
  | some x, _ =>
    if marker ha then some (((w.pop f.a.src (w.reader .a)).passMarker x).emit2 x)
    else match hb with
      | some y =>
        if marker hb then some (((w.pop f.b.src (w.reader .b)).passMarker y).emit2 y)
        else if stop ha && stop hb then bothParked f x y w
        else choose w (!stop ha) (!stop hb) ha hb
      | none => if stop ha then none else choose w true false ha hb
  | none, some y =>
    if marker hb then some (((w.pop f.b.src (w.reader .b)).passMarker y).emit2 y)
    else if stop hb then none
    else choose w false true ha hb
  | none, none => none

/-- MERGE's choice (R158): the port a bit names, or A before B. -/
def mergeChoose (f : CCFrame) (w : Work) (ta tb : Bool) (ha hb : Option Token) : Option Work :=
  let take (a : Bool) (w : Work) : Option Work :=
    match (if a then ha else hb) with
    | some t => if a then takeFrom f .a f.a t w else takeFrom f .b f.b t w
    | none => none
  match f.pin with
  | .none => take ta w
  | _ =>
    match w.predBit f.pin f.psense with
    | none => none
    | some b =>
      if (if b then ta else tb) then take b (w.takePred f.pin)
      else if (if b then ha else hb).isSome then
        let (e, w1) := (w.takePred f.pin).err eMISMATCH
        some ((w1.emit2 e).countMis f.stats)
      else none

/-- MERGE (R158). -/
def execMerge (f : CCFrame) (s : State) : Out := ccTotal f (mergeFire f false (mergeChoose f)) s

/-- CMERGE's choice: the port that the last firing did not take from (R158). -/
def cmergeChoose (f : CCFrame) (w : Work) (ta tb : Bool) (ha hb : Option Token) : Option Work :=
  let a := ta && (!tb || !w.op.flag)
  match (if a then ha else hb) with
  | none => none
  | some t =>
    let w1 := { w with op := { w.op with flag := a } }
    if a then takeFrom f .a f.a t w1 else takeFrom f .b f.b t w1

/-- CMERGE (R158). -/
def execCmerge (f : CCFrame) (s : State) : Out := ccTurn f (mergeFire f (f.flags.getLsbD 0) (cmergeChoose f)) s

/-! ### Totals (R159, R160) -/

/-- Whether OB carries port A's stream. -/
def through (f : CCFrame) : Bool := f.flags.getLsbD 3

/-- A total at the end of its sequence: to OA, and to OB unless it carries port A's stream. -/
def emitTotal (f : CCFrame) (w : Work) (t : Token) : Work := if through f then w.emit 0 t else w.emit2 t

/-- The token of ACC's totals (R159). -/
def accToken (f : CCFrame) (x : OpState) : Token :=
  let w := f.ty.width
  let full := fun e => x.nonEmpty.getLsbD e
  let mask := (List.range 16).foldl (fun m l =>
    let es := if w = 64 then [l / 2] else (List.range (32 / w)).map fun i => 32 / w * l + i
    if es.any full then m ||| BitVec.twoPow 16 l else m) (0 : BitVec 16)
  dataTok mask (packElems w ((List.range (512 / w)).map fun e => if full e then elem x.tot w e else kindIdent f.ty (kindOf f)))

/-- A NaN enters a total as the canonical NaN (R65). -/
def firstTerm (t : Ty) (v : Nat) : Nat := if t.isFlt && (t.floatOf v).isNan then t.nanBits else v

/-- ACC (R159). -/
def accBehave (f : CCFrame) : Behave :=
  { data := fun w a _ _ =>
      let wd := f.ty.width
      let rs := (List.range (512 / wd)).map fun e =>
        if validE a.mask wd e then
          let v := readElem f.ty f.a a e
          if w.op.nonEmpty.getLsbD e then comb f.ty f.rm f.sat (kindOf f) [elem w.op.tot wd e, v]
          else ((if kindOf f ≤ 2 then firstTerm f.ty v else v), Ev.zero)
        else (elem w.op.tot wd e, Ev.zero)
      let vals := ((elemsOf f a).filter Prod.snd).map fun e => readElem f.ty f.a a e.1
      let full := (List.range (512 / wd)).foldl (fun m e => if validE a.mask wd e then m ||| BitVec.twoPow 128 e else m) w.op.nonEmpty
      let w1 := { w with op := { w.op with tot := packElems wd (rs.map Prod.fst), nonEmpty := full } }
      let w2 := w1.count f.stats (Ev.add ((rs.map Prod.snd).foldl Ev.add Ev.zero) (sigEvents f.ty vals))
      if through f then w2.emit 1 a else w2
    off := fun w a => w.emit2 a
    err := fun w e =>
      let w1 := { w with op := { w.op with erred := some (w.op.erred.getD e) } }
      if through f then w1.emit 1 e else w1
    fin := fun w =>
      let t := match w.op.erred with | some e => e | none => accToken f w.op
      emitTotal f { w with op := { w.op with tot := 0, nonEmpty := 0, erred := none } } t }

/-- ACC (R159). -/
def execAcc (f : CCFrame) (s : State) : Out := ccExec f (accBehave f) s

/-- Raises a count that stays at 2^32 − 1, with one SAT event when it cannot take the whole (R160). -/
def raiseCount (f : CCFrame) (w : Work) (n : Nat) : Work :=
  let x := w.op.count.toNat + n
  let w1 := { w with op := { w.op with count := BitVec.ofNat 32 (min x 0xFFFFFFFF) } }
  if 0xFFFFFFFF < x then w1.count f.stats Ev.oneSat else w1

/-- COUNT (R160). -/
def countBehave (f : CCFrame) : Behave :=
  let byElem := f.flags.getLsbD 0
  { data := fun w a _ _ =>
      let n := if byElem then ((elemsOf f a).filter Prod.snd).length else 1
      let w1 := raiseCount f w n
      if through f then w1.emit 1 a else w1
    off := fun w a => w.emit2 a
    err := fun w e =>
      let w1 := raiseCount f { w with op := { w.op with erred := some (w.op.erred.getD e) } } (if byElem then 0 else 1)
      if through f then w1.emit 1 e else w1
    fin := fun w =>
      let t := match w.op.erred with | some e => e | none => dataTok 1 (w.op.count.setWidth 512)
      emitTotal f { w with op := { w.op with count := 0, erred := none } } t }

/-- COUNT (R160). -/
def execCount (f : CCFrame) (s : State) : Out := ccExec f (countBehave f) s

/-! ### How many tokens (R161, R162) -/

/-- The port tokens of a DATA firing, when every stream port shows DATA and every held port has a value, with nothing consumed. Between two
sequences a marker at any port comes first (R127); once tokens of one are written, the firing goes on to its end (R153). -/
def ccReady (f : CCFrame) (w : Work) : Option (Token × Token × Token) :=
  if w.op.resolving.isSome then none
  else if w.op.count = 0 && f.helds.any fun p => match w.head p.1 p.2 with | some t => t.isMarker | none => false then none
  else if (f.streams ++ f.helds).all fun p =>
      ((w.resident p.1).isSome && p.2.kind == .held) || (match w.head p.1 p.2 with | some t => t.isData | none => false) then
    match w.portTok f.ty f.imm .a f.a, w.portTok f.ty f.imm .b f.b, w.portTok f.ty f.imm .c f.c with
    | some a, some b, some c => some (a, b, c)
    | _, _, _ => none
  else none

/-- A DATA firing uses every port. -/
def Work.takeAll (f : CCFrame) (w : Work) : Work := f.ports.foldl (fun x p => x.take p.1 p.2) w

/-- Token i of an arithmetic sequence (R161). -/
def genToken (f : CCFrame) (start : Int) (count i : Nat) : Token × Ev :=
  let n := 512 / f.ty.width
  let d : Int := f.ext.toInt
  let rs := (List.range n).map fun j =>
    if i * n + j < count then finInt f.ty f.sat (start + ((i * n + j : Nat) : Int) * d) else (0, Ev.zero)
  let mask := (List.range 16).foldl (fun m l =>
    if i * n + (if f.ty.width = 64 then l / 2 else l) < count then m ||| BitVec.twoPow 16 l else m) (0 : BitVec 16)
  (dataTok mask (packElems f.ty.width (rs.map Prod.fst)), (rs.map Prod.snd).foldl Ev.add Ev.zero)

/-- GEN's firing: one token of the sequence a turn, then the STOP, with which the trigger is consumed; `count` holds the tokens written
(R161). -/
def genFire (f : CCFrame) (w : Work) : Option Work :=
  match ccReady f w with
  | some (_, b, c) =>
    let n := 512 / f.ty.width
    let count := readElem f.ty f.c c 0 % 2 ^ 32
    let i := w.op.count.toNat
    if i < (count + n - 1) / n then
      let r := genToken f (f.ty.intOf (readElem f.ty f.b b 0)) count i
      some (({ w with op := { w.op with count := w.op.count + 1 } }.count f.stats r.2).emit2 r.1)
    else
      let w1 := w.takeAll f
      some ({ w1 with op := { w1.op with count := 0 } }.emit2 (stopTok f.level Ride.none))
  | none => ccFire f { passOn with err := fun x e => (x.emit2 e).emit2 (stopTok f.level Ride.none) } w

/-- GEN (R161). -/
def execGen (f : CCFrame) (s : State) : Out := ccTurn f (genFire f) s

/-- REPL's firing: one copy a turn; `count` holds the copies made (R162). -/
def replFire (f : CCFrame) (w : Work) : Option Work :=
  let close := fun (x : Work) => if f.flags.getLsbD 1 then x.emit2 (stopTok f.level Ride.none) else x
  match ccReady f w with
  | some (a, b, _) =>
    let k := if f.flags.getLsbD 0 then lane (readPayload f.ty f.b b) 0 % 65536 else (f.ext.extractLsb' 0 16).toNat
    let i := w.op.count.toNat
    if k = 0 then some (close (w.takeAll f))
    else if i + 1 < k then some ({ w with op := { w.op with count := w.op.count + 1 }, deps := a.deps }.emit2 a)
    else
      let w1 := w.takeAll f
      some (close ({ w1 with op := { w1.op with count := 0 } }.emit2 a))
  | none => ccFire f { passOn with err := fun x e => close (x.emit2 e) } w

/-- REPL (R162). -/
def execRepl (f : CCFrame) (s : State) : Out := ccTurn f (replFire f) s

/-! ### Where sequences end (R163 to R165) -/

/-- The k of extension [15:0]. -/
def extK (f : CCFrame) : Nat := (f.ext.extractLsb' 0 16).toNat

/-- LEVUP's firing: `count` holds the STOPs of its level since the last above it (R163). -/
def levupFire (f : CCFrame) (w : Work) : Option Work :=
  match w.head .a f.a with
  | none => none
  | some t =>
    if t.isStop then
      let kth := t.level == f.level && decide (w.op.count.toNat + 1 = extK f)
      let n : BitVec 32 := if t.level < f.level then w.op.count else if t.level == f.level && !kth then w.op.count + 1 else 0
      let out := if kth then f.level + 1 else t.level
      let w1 := (w.pop f.a.src (w.reader .a)).passStop t.level t.ride
      let w2 := { w1 with op := { w1.op with count := n }, silt := f.stats && decide (f.level ≤ t.level) }
      some (w2.emit2 (stopTok out t.ride))
    else ccFire f passOn w

/-- LEVUP (R163). -/
def execLevup (f : CCFrame) (s : State) : Out := ccTurn f (levupFire f) s

/-- LEVDN's firing: `count` holds the DATA and ERR tokens since the last STOP of its level or above (R164). -/
def levdnFire (f : CCFrame) (w : Work) : Option Work :=
  match w.head .a f.a with
  | none => none
  | some t =>
    if (t.isData || t.isErr) && decide (extK f ≤ w.op.count.toNat) then
      some ({ w with op := { w.op with count := 0 } }.emit2 (stopTok f.level Ride.none))
    else
      let up := fun (x : Work) => { x with op := { x.op with count := x.op.count + 1 } }
      ccFire f { data := fun x a _ _ => (up x).emit2 a, off := fun x a => x.emit2 a, err := fun x e => (up x).emit2 e
                 fin := fun x => { x with op := { x.op with count := 0 } } } w

/-- LEVDN (R164). -/
def execLevdn (f : CCFrame) (s : State) : Out := ccTurn f (levdnFire f) s

/-- STOPAT: `flag` is its discard mode (R165). -/
def stopatBehave (f : CCFrame) : Behave :=
  { data := fun w a _ _ =>
      if w.op.flag then w
      else
        let w1 := { w with op := { w.op with flag := true } }
        if f.flags.getLsbD 0 then w1 else w1.emit2 a
    off := fun w a => if w.op.flag then w else w.emit2 a
    err := fun w e => if w.op.flag then w else w.emit2 e
    fin := fun w => { w with op := { w.op with flag := false } } }

/-- STOPAT (R165). -/
def execStopat (f : CCFrame) (s : State) : Out := ccTurn f (ccFire f (stopatBehave f)) s

/-- SINK's firing: everything is consumed; an ERR becomes EFLOW, a MARK its event (R166). -/
def sinkFire (f : CCFrame) (w : Work) : Option Work :=
  match w.head .a f.a with
  | none => none
  | some t =>
    let w1 := w.pop f.a.src (w.reader .a)
    if t.isStop then
      let w2 := w1.passStop t.level t.ride
      some { w2 with silt := f.stats && decide (f.level ≤ t.level) }
    else some ((w1.passMarker t).absorb t)

/-- SINK (R166). -/
def execSink (f : CCFrame) (s : State) : Out := ccTotal f (sinkFire f) s

/-! ### Tokens and predicates (R167, R168) -/

/-- TOKP (R167). -/
def execTokp (f : CCFrame) (s : State) : Out :=
  ccExec f { passOn with
    data := fun w a _ _ =>
      let vals := ((elemsOf f a).filter Prod.snd).map fun e => readElem f.ty f.a a e.1
      (w.emit2 a).bit f.pout (if f.flags.getLsbD 3 then vals.all fun v => v != 0 else vals.any fun v => v != 0)
    err := fun w e => (w.emit2 e).bit f.pout false } s

/-- The token in which every element is a bit (R168). -/
def bitToken (f : CCFrame) (mask : BitVec 16) (b : Bool) : Token :=
  dataTok mask (packElems f.ty.width (List.replicate (512 / f.ty.width) (if b then 1 else 0)))

/-- PTOK (R168). -/
def execPtok (f : CCFrame) (s : State) : Out :=
  ccExec f { passOn with data := fun w a _ _ => w.emit2 (bitToken f a.mask true), off := fun w a => w.emit2 (bitToken f a.mask false) } s

/-! ### Predicate nodes (R169 to R172) -/

/-- The bit at input i of a node, after its sense; an unused input reads 0 (R170). -/
def pnIn (w : Work) (i : Nat) (src : PSrc) (sense : Bool) : Option Bool :=
  match src with
  | .none => some false
  | _ => (w.phead src (.input w.o i)).map fun b => b != sense

/-- Consumes the bit at a used input. -/
def pnPop (w : Work) (i : Nat) (src : PSrc) : Work :=
  match src with
  | .none => w
  | _ => w.ppop src (.input w.o i)

/-- Writes a bit to every used destination. -/
def pnWrite (f : PNFrame) (b : Bool) (w : Work) : Work := (((w.bit f.out0 b).bit f.out1 b).bit f.out2 b).bit f.out3 b

/-- The turn of a predicate node. -/
def pnTurn (fire : Work → Option Work) (s : State) : Out :=
  match s.workAt s.focus with
  | none => .next s
  | some w => w.turn [] 0 (Work.throughRegister [] fire)

/-- PLOGIC (R170). -/
def execPlogic (f : PNFrame) (s : State) : Out :=
  pnTurn (fun w =>
    match pnIn w 0 f.in0 f.sense0, pnIn w 1 f.in1 f.sense1, pnIn w 2 f.in2 f.sense2 with
    | some a, some b, some c =>
      let n := (if c then 4 else 0) + (if b then 2 else 0) + (if a then 1 else 0)
      some (pnWrite f (f.table.getLsbD n) (pnPop (pnPop (pnPop w 0 f.in0) 1 f.in1) 2 f.in2))
    | _, _, _ => none) s

/-- PDUP: the copies made are `count` (R171). -/
def execPdup (f : PNFrame) (s : State) : Out :=
  pnTurn (fun w =>
    match pnIn w 0 f.in0 f.sense0 with
    | none => none
    | some b =>
      let last := decide (w.op.count.toNat = f.plen.toNat)
      let w1 := if last then pnPop w 0 f.in0 else w.after (w.pdeps f.in0 (.input w.o 0))
      some (pnWrite f b { w1 with op := { w1.op with count := if last then 0 else w1.op.count + 1 } })) s

/-- PGEN: the position is `count` (R172). -/
def execPgen (f : PNFrame) (s : State) : Out :=
  pnTurn (fun w =>
    match pnIn w 0 f.in0 f.sense0 with
    | none => none
    | some _ =>
      let p := w.op.count.toNat
      let w1 := pnPop w 0 f.in0
      some (pnWrite f (f.pattern.getLsbD p) { w1 with op := { w1.op with count := if p = f.plen.toNat then 0 else w1.op.count + 1 } })) s

/-! ### Silt nodes (R173 to R177) -/

/-- Adds a Silt token of a category below 4 (R175). -/
def SnSum.add (x : SnSum) (t : Word) : SnSum :=
  let c := (t.extractLsb' 0 32).toNat
  match (t.extractLsb' 32 3).toNat with
  | 0 => { x with sat := min (x.sat + c) 0xFFFFFFFF }
  | 1 => { x with nan := min (x.nan + c) 0xFFFFFFFF }
  | 2 => { x with unf := min (x.unf + c) 0xFFFFFFFF }
  | _ => { x with oob := min (x.oob + c / 65536) 0xFFFF, mis := min (x.mis + c % 65536) 0xFFFF, evts := x.evts + 1 }

/-- The four tokens of a sum. -/
def sumWords (q : BitVec 16) (sat nan unf oob mis : Nat) : List Word :=
  [siltWord q 0 sat, siltWord q 1 nan, siltWord q 2 unf, siltWord q 3 (oob * 65536 + mis)]

/-- Takes the oldest sum out. -/
def SnNode.advance (n : SnNode) : SnNode := { n with sums := n.sums.filter (fun x => x.seqNo != n.oldest), oldest := n.oldest + 1 }

/-- Accepts the token at the head of the queue, when its sequence number is in the window of four; one of a reserved category is
discarded (R173, R175). -/
def SnNode.accept (n : SnNode) : SnNode :=
  match n.queue with
  | [] => n
  | t :: rest =>
    let q := t.extractLsb' 48 16
    if t.getLsbD 34 then { n with queue := rest }
    else if 4 ≤ (q - n.oldest).toNat then n
    else { n with queue := rest, sums := n.sums.filter (fun x => x.seqNo != q) ++ [(n.sum q).add t] }

/-- Changes the node at work. -/
def Work.updNode (w : Work) (f : SNFrame) (g : SnNode → SnNode) : State := w.s.updStripe w.run.serial w.slot fun p => p.updSn f.index.val g

/-- Writes the next waiting word of a node to its destination, when that has room. -/
def snFlush (f : SNFrame) (t : Word) (w : Work) : Out :=
  let done (x : Work) : Out := .next (x.updNode f fun n => { n with outq := n.outq.drop 1 })
  let into (p : Stripe) (k : Nat) : Bool := decide ((p.sn k).queue.length < 16)
  match f.dst with
  | .none => done w
  | .here k =>
    if into w.st k.val then
      done { w with s := w.s.updStripe w.run.serial w.slot fun p => p.updSn k.val fun n => { n with queue := n.queue ++ [t] } }
    else .next w.s0
  | .next k =>
    (match w.onward (.sn k) with
     | .direct slot p =>
       if into p k.val then
         done { w with s := w.s.updStripe w.run.serial slot fun p => p.updSn k.val fun n => { n with queue := n.queue ++ [t] } }
       else .next w.s0
     | .seam =>
       if w.s0.seamRoom w.run.serial w.nextVs (.sn k) then
         done { w with s := (w.s.seamGrow w.run.serial w.nextVs (.sn k)).seamPut w.run.serial w.nextVs (.sn k) fun q =>
           { q with words := q.words ++ [t] } }
       else .next (w.s0.seamAsk w.run.serial w.nextVs (.sn k))
     | .wait => .next w.s0)
  | .q k =>
    if (w.s0.queue (w.qTask k)).length < 32 then done { w with s := w.s.pushQ (w.qTask k) ⟨0, 0, false, t, []⟩ } else .next w.s0

/-- The turn of a Silt node: a waiting word, else a complete sum, else the token at the head of its queue. -/
def snTurn (f : SNFrame) (whenDone : SnNode → SnNode) (flush : Word → Work → Out) (s : State) : Out :=
  match s.workAt s.focus with
  | none => .next s
  | some w =>
    let n := w.st.sn f.index.val
    match n.outq with
    | t :: _ => flush t w
    | [] => .next (w.updNode f fun n => if n.complete f then whenDone n else n.accept)

/-- SNADD (R175). -/
def execSnadd (f : SNFrame) (s : State) : Out :=
  snTurn f (fun n => let x := n.sum n.oldest
    { n.advance with outq := sumWords n.oldest x.sat x.nan x.unf x.oob x.mis }) (snFlush f) s

/-- The running totals with a completed sum (R176). -/
def SnNode.total (n : SnNode) : SnNode :=
  let x := n.sum n.oldest
  { n.advance with
    tSat := min (n.tSat + x.sat) 0xFFFFFFFF, tNan := min (n.tNan + x.nan) 0xFFFFFFFF, tUnf := min (n.tUnf + x.unf) 0xFFFFFFFF
    tOob := min (n.tOob + x.oob) 0xFFFF, tMis := min (n.tMis + x.mis) 0xFFFF, done := min (n.done + 1) 0xFFFF }

/-- The 64 bytes of an SNSINK's row (R176). -/
def snRow (n : SnNode) (q : BitVec 16) : List Byte :=
  leBytes 64 (n.tSat + n.tNan * 2 ^ 32 + n.tUnf * 2 ^ 64 + (n.tOob * 65536 + n.tMis) * 2 ^ 96 + q.toNat * 2 ^ 128 + n.done * 2 ^ 144)

/-- The row write of an SNSINK of mode 0; a tile that is not FILLING, or has no such row, stalls the node with a TSTATE record (R176). -/
def snWrite (f : SNFrame) (q : Word) (w : Work) : Out :=
  let n := w.st.sn f.index.val
  if n.stalled then .next w.s0
  else
    let stall : Out :=
      .next ((w.updNode f fun x => { x with stalled := true }).runRecord w.run.serial
        (w.record 3 2 fTSTATE (tileVa w.die f.handle.toNat) w.s.timestamp))
    match w.s.tile w.die w.run.partition f.handle.toNat with
    | none => stall
    | some t =>
      if t.bad then .next (w.s0.readEntry w.die w.run.partition f.handle.toNat)
      else if t.state = .filling && decide (f.row.toNat < t.rows) then
        if w.s.hbBad t 0 (f.row.toNat * t.rowBytes) 64 then .next (w.s.tileFails t 0 (f.row.toNat * t.rowBytes) 64)
        else
          let s1 := (w.s.setTileData t (f.row.toNat * t.rowBytes) (snRow n (q.setWidth 16))).updTile t.uid fun y =>
            { y with valid := y.valid ||| BitVec.twoPow 64 f.row.toNat }
          .next ({ w with s := s1 }.updNode f fun x => { x with outq := x.outq.drop 1, resumed := false })
      else stall

/-- SNSINK (R176). -/
def execSnsink (f : SNFrame) (s : State) : Out :=
  snTurn f (fun n => let x := n.total
    { x with outq := if f.mode then sumWords n.oldest x.tSat x.tNan x.tUnf x.tOob x.tMis else [n.oldest.setWidth 64] })
    (if f.mode then snFlush f else snWrite f) s

end Sys2Proof.Machine
end

