-- ==== Sys2Proof/Machine/Legal.lean ====
section
/-! DEFINITION. Machine/Legal: which fields each op's entry accepts (R106, R124, R129 to R150, R155 to R186, R199 to R203, R218), and the acceptance of a whole stripe image. -/
namespace Sys2Proof

/-- The dimensions a pass steps through: all, or dimension 0 in WRAP mode. -/
def AGFrame.stepped (g : AGFrame) : Nat := if g.mode = .wrap then 1 else g.dims.val

/-- The first indices of a pass. -/
def AGFrame.start (g : AGFrame) : List Nat := List.replicate g.stepped 0

end Sys2Proof

namespace Sys2Proof.Machine

/-! ### Ports and fields -/

/-- An unused port: source 0x3F and every other bit zero (R124). -/
def portUnused (p : Port) : Bool := p.src == .unused && p.hold == 0 && !p.neg && !p.abs && !p.bcast && p.lane == 0
/-- A port that names a source. -/
def portUsed (p : Port) : Bool := p.src != .unused
/-- A stream port (R124). -/
def portStream (p : Port) : Bool := p.kind == .stream
/-- A port without modifiers. -/
def portPlain (p : Port) : Bool := !p.neg && !p.abs

/-- Whether the first n ports are used, the others unused, and one of them is a stream port (R124). -/
def portsOk (f : CCFrame) (n : Nat) : Bool :=
  portUsed f.a && (if 2 ≤ n then portUsed f.b else portUnused f.b) && (if 3 ≤ n then portUsed f.c else portUnused f.c)
  && (portStream f.a || portStream f.b || portStream f.c)

/-- The zero-field rules of R129: rounding and saturate where the entry uses them, and op flags and extension as it allows. -/
def fieldsOk (f : CCFrame) (rm sat flags ext : Bool) : Bool := (rm || f.rm == .rne) && (sat || !f.sat) && flags && ext

/-- No predicate out (R94, R126). -/
def noPout (f : CCFrame) : Bool := f.pout == .none
/-- No predicate in (R152). -/
def noPin (f : CCFrame) : Bool := f.pin == .none

/-- INT or B32. -/
def intOrBits (t : Ty) : Bool := t.isInt || t == .b32
/-- INT, FLT or B32. -/
def wordTy (t : Ty) : Bool := t.isInt || t.isFlt || t == .b32
/-- The 32-bit types of R199. -/
def ty32 (t : Ty) : Bool := t == .i32 || t == .n32 || t == .f32 || t == .b32
/-- INT, Q8 or Q4. -/
def intAny (t : Ty) : Bool := t.isInt || t == .q8 || t == .q4

/-- A row of R133 and R138: type, ports, rounding used, saturate used; no op flags, extension or predicate out. -/
def rowOk (f : CCFrame) (ty : Bool) (n : Nat) (rm sat : Bool) : Bool :=
  ty && portsOk f n && fieldsOk f rm sat (f.flags == 0) (f.ext == 0) && noPout f

/-- A comparison (R134, R136, R139): its condition, and op flags [3] for the predicate forms. -/
def cmpOk (f : CCFrame) (ty : Bool) (flt pred : Bool) : Bool :=
  ty && portsOk f 2 && fieldsOk f false false
    (decide ((f.flags.extractLsb' 0 3).toNat ≤ 6) && (flt || f.flags.extractLsb' 0 3 != 6) && (pred || f.flags.getLsbD 3 == false)) (f.ext == 0)
  && (pred || noPout f)

/-- The destination type of extension [3:0], the rest of the extension being zero. -/
def toTy (f : CCFrame) : Option Ty := if f.ext.extractLsb' 4 28 == 0 then tyOfCode (f.ext.extractLsb' 0 4) else none

/-- A conversion (R141): its pair of types, ports, and whether it rounds. -/
def convOk (f : CCFrame) (pair : Ty → Bool) (n : Nat) (rm : Bool) : Bool :=
  (match toTy f with | some u => pair u && u != f.ty | none => false)
  && portsOk f n && fieldsOk f rm true (f.flags == 0) true && noPout f && (decide (n < 2) || portPlain f.b)

/-- PACK and UNPK (R144 to R146). -/
def packOk (f : CCFrame) : Bool :=
  portStream f.a && portPlain f.a && portUnused f.b && portUnused f.c && f.pin == .none && noPout f
  && fieldsOk f false false (f.flags == 0) (f.ext.extractLsb' 2 30 == 0 && f.ext.extractLsb' 0 2 != 0)

/-- SHUF, LROT and BCST (R147). -/
def moveOk (f : CCFrame) (shuf : Bool) : Bool :=
  let fromB := f.flags.getLsbD 0
  wordTy f.ty && portsOk f (if fromB then 2 else 1) && noPout f
  && fieldsOk f false false (f.flags.extractLsb' 1 3 == 0)
      (if shuf then f.ext == 0 && (!fromB || f.imm == 0) else f.ext.extractLsb' 4 28 == 0 && (!fromB || f.ext == 0))

/-- Kinds and types of SCAN, RED and ACC (R148, R149, R159). -/
def kindOk (f : CCFrame) : Bool :=
  let k := (f.flags.extractLsb' 0 3).toNat
  decide (k ≤ 5) && (if k ≤ 2 then f.ty.isInt || f.ty.isFlt else intOrBits f.ty)
/-- Whether a reduction rounds: ADD on FLT. -/
def kindRounds (f : CCFrame) : Bool := f.flags.extractLsb' 0 3 == 0 && f.ty.isFlt
/-- Whether a reduction saturates: ADD. -/
def kindSats (f : CCFrame) : Bool := f.flags.extractLsb' 0 3 == 0

/-- SCAN and RED (R148, R149). -/
def scanOk (f : CCFrame) (excl : Bool) : Bool :=
  kindOk f && portsOk f 1 && noPout f && fieldsOk f (kindRounds f) (kindSats f) (excl || f.flags.getLsbD 3 == false) (f.ext == 0)

/-- A stream op of R155: type, port B and C, op flags, extension, rounding, saturate, predicate in and out, modifiers on port A. -/
def streamOk (f : CCFrame) (ty b c flags ext rm sat pin pout modA : Bool) : Bool :=
  ty && portStream f.a && (modA || portPlain f.a) && b && c && fieldsOk f rm sat flags ext && pin && pout

/-- The k of extension [15:0] alone. -/
def kOnly (f : CCFrame) : Bool := f.ext.extractLsb' 16 16 == 0

/-- A group code with a grouped type (R179): none for the others, 1–2 for Q8, 1–3 for Q4. -/
def groupOk (t : Ty) (g : BitVec 2) : Bool :=
  match t with
  | .q8 => g == 1 || g == 2
  | .q4 => g != 0
  | _ => g == 0

/-- The type and weight types of MMA (R181). -/
def mmaPair (t u : Ty) : Bool :=
  match t with
  | .e4m3 | .e5m2 => u == .e4m3 || u == .e5m2
  | .f16 => u == .f16
  | .bf16 => u == .bf16
  | .i8 | .n8 | .q8 => u == .i8 || u == .n8 || u == .q8
  | .q4 => u == .q4
  | _ => false

/-- A matrix op (R179): type, port B, extension, flags, rounding, saturate; no modifier, predicate or port C. -/
def matOk (f : CCFrame) (ty b ext flags rm sat : Bool) : Bool :=
  ty && portStream f.a && portPlain f.a && b && portUnused f.c && fieldsOk f rm sat flags ext && noPin f && noPout f

/-- The destination types of ACCOUT (R186). -/
def accoutPair (t u : Ty) : Bool :=
  match t with
  | .f32 => u == .f32 || u == .f16 || u == .bf16 || u == .e4m3 || u == .e5m2
  | .i32 => u == .i32 || u == .n32 || u == .i16 || u == .n16 || u == .i8 || u == .n8
  | _ => false

/-- A port B that is used as a stream without modifiers, or unused. -/
def portB (f : CCFrame) (used : Bool) : Bool := if used then portStream f.b && portPlain f.b else portUnused f.b

/-- What the entry of a compute-cell op accepts. -/
def ccLegal (i : Instr) : Bool :=
  match i with
  | .pass f => rowOk f (wordTy f.ty) 1 false false
  | .ccAdd f | .ccSub f | .ccMul f | .absd f => rowOk f f.ty.isInt 2 false true
  | .ccMulh f | .ccMin f | .ccMax f => rowOk f f.ty.isInt 2 false false
  | .mad f => rowOk f f.ty.isInt 3 false true
  | .ccAnd f | .ccOr f | .ccXor f | .ccAndn f | .ccShl f | .ccShr f | .rol f => rowOk f (intOrBits f.ty) 2 false false
  | .ccSar f => rowOk f f.ty.isSigned 2 false false
  | .ccClz f | .ccPopc f => rowOk f (intOrBits f.ty) 1 false false
  | .cmpv f => cmpOk f f.ty.isInt false false
  | .selv f => rowOk f (wordTy f.ty) 3 false false && portPlain f.c
  | .cmpp f => cmpOk f f.ty.isInt false true
  | .divi f => rowOk f f.ty.isInt 2 false true
  | .fadd f | .fsub f | .fmul f | .fdiv f => rowOk f f.ty.isFlt 2 true true
  | .fma f => rowOk f f.ty.isFlt 3 true true
  | .fmin f | .fmax f => rowOk f f.ty.isFlt 2 false false
  | .fsqrt f | .frcp f | .frsq f => rowOk f f.ty.isFlt 1 true true
  | .fexp2 f | .flog2 f | .ftanh f => rowOk f f.ty.isFlt 1 false true
  | .fcmpv f => cmpOk f f.ty.isFlt true false
  | .fcmpp f => cmpOk f f.ty.isFlt true true
  | .fclass f => rowOk f f.ty.isFlt 1 false false
  | .cvt f =>
    if intAny f.ty then convOk f intAny 1 false else convOk f (fun u => f.ty.isFloat && u.isFloat) 1 true
  | .cvti f => convOk f (fun u => f.ty.isFloat && u.isInt) 1 true
  | .cvtf f => convOk f (fun u => f.ty.isInt && u.isFloat) 1 true
  | .qnt f => convOk f (fun u => f.ty.isFlt && (u == .q8 || u == .q4)) 2 true
  | .dqnt f => convOk f (fun u => (f.ty == .q8 || f.ty == .q4) && u.isFlt) 2 true
  | .pack f | .unpk f => packOk f
  | .shuf f => moveOk f true
  | .lrot f | .bcst f => moveOk f false
  | .scan f => scanOk f true
  | .red f => scanOk f false
  | .lidx f => rowOk f f.ty.isInt 2 false true
  | .steer f => streamOk f true (portUnused f.b) (portUnused f.c) (f.flags == 0) (f.ext == 0) false false (!noPin f) (noPout f) false
  | .filt f => streamOk f true (portUsed f.b) (portUnused f.c) (f.flags.extractLsb' 1 3 == 0) (f.ext == 0) false false (noPin f) (noPout f) false
  | .merge f => streamOk f true (portStream f.b && portPlain f.b) (portUnused f.c) (f.flags == 0) (f.ext == 0) false false true (noPout f) false
  | .cmerge f =>
    streamOk f true (portStream f.b && portPlain f.b) (portUnused f.c) (f.flags.extractLsb' 1 3 == 0) (f.ext == 0) false false (noPin f)
      (noPout f) false
  | .acc f =>
    streamOk f (kindOk f) (portUnused f.b) (portUnused f.c) true (f.ext == 0) (kindRounds f) (kindSats f) (noPin f) (noPout f) true
  | .count f =>
    streamOk f true (portUnused f.b) (portUnused f.c) (f.flags.extractLsb' 1 2 == 0) (f.ext == 0) false false (noPin f) (noPout f) false
  | .gen f =>
    streamOk f (f.ty == .i32 || f.ty == .n32 || f.ty == .i64) (portUsed f.b) (portUsed f.c) (f.flags == 0) true false true (noPin f) (noPout f)
      false
  | .repl f =>
    streamOk f true (if f.flags.getLsbD 0 then portUsed f.b else portUnused f.b) (portUnused f.c) (f.flags.extractLsb' 2 2 == 0)
      (kOnly f) false false (noPin f) (noPout f) false
  | .levup f =>
    streamOk f true (portUnused f.b) (portUnused f.c) (f.flags == 0) (kOnly f && f.ext != 0) false false (noPin f) (noPout f) false && f.level != 7
  | .levdn f => streamOk f true (portUnused f.b) (portUnused f.c) (f.flags == 0) (kOnly f && f.ext != 0) false false (noPin f) (noPout f) false
  | .stopat f =>
    streamOk f true (portUnused f.b) (portUnused f.c) (f.flags.extractLsb' 1 3 == 0) (f.ext == 0) false false (!noPin f) (noPout f) false
  | .sink f =>
    streamOk f true (portUnused f.b) (portUnused f.c) (f.flags == 0) (f.ext == 0) false false (noPin f) (noPout f) false
    && f.oa.dst == .none && f.ob.dst == .none
  | .tokp f =>
    streamOk f (wordTy f.ty) (portUnused f.b) (portUnused f.c) (f.flags.extractLsb' 0 3 == 0) (f.ext == 0) false false (noPin f) (!noPout f) true
  | .ptok f => streamOk f f.ty.isInt (portUnused f.b) (portUnused f.c) (f.flags == 0) (f.ext == 0) false false (!noPin f) (noPout f) false
  | .lds f =>
    let g := f.ext.extractLsb' 4 2
    let q := f.ty == .q8 || f.ty == .q4
    matOk f (q || f.ty == .e4m3 || f.ty == .e5m2 || f.ty == .i8 || f.ty == .n8 || f.ty == .f16 || f.ty == .bf16) (portB f q)
      (f.ext.extractLsb' 0 4 == 0 && f.ext.extractLsb' 6 26 == 0 && groupOk f.ty g) (f.flags.extractLsb' 1 3 == 0) false false
  | .mma f =>
    matOk f (match toTy f with | some u => mmaPair f.ty u | none => false) (portUnused f.b) true (f.flags.extractLsb' 1 3 == 0) false true
  | .mmaq f =>
    let u := tyOfCode (f.ext.extractLsb' 0 4)
    let g := f.ext.extractLsb' 4 2
    let okU : Bool := (u == some .q8 && groupOk .q8 g) || (u == some .q4 && groupOk .q4 g)
    matOk f (f.ty == .e4m3 || f.ty == .e5m2 || f.ty == .i8) (portB f (u == some .q4)) (f.ext.extractLsb' 6 26 == 0 && okU)
      (f.flags.extractLsb' 1 3 == 0) false true
  | .accz f => matOk f (f.ty == .b32) (portUnused f.b) (f.ext == 0) (f.flags.extractLsb' 1 3 == 0) false false
  | .accout f =>
    matOk f (match tyOfCode (f.ext.extractLsb' 0 4) with | some u => accoutPair f.ty u | none => false) (portUnused f.b)
      (f.ext.extractLsb' 11 21 == 0 && decide ((f.ext.extractLsb' 4 7).toNat ≤ 64)) (f.flags.extractLsb' 2 2 == 0) (f.ty == .f32) true && f.level != 7
  | .accin f => matOk f (f.ty == .f32 || f.ty == .i32) (portUnused f.b) (f.ext == 0) (f.flags.extractLsb' 1 3 == 0) false false
  | .mtrn f =>
    matOk f (f.ty == .e4m3 || f.ty == .e5m2 || f.ty == .i8 || f.ty == .n8) (portUnused f.b) (f.ext == 0) (f.flags.extractLsb' 1 3 == 0) false false
  | _ => false

/-! ### Memory cells (R192, R199 to R203) -/

/-- A dimension whose count and whose whole count-from-argument field are zero (R201). -/
def dimFree (d : AGDim) : Bool := d.count == 0 && !d.argEn && !d.argSel
/-- No stop map entry (R203). -/
def noStops (g : AGFrame) : Bool := g.d0.stop == 0 && g.d1.stop == 0 && g.d2.stop == 0 && g.d3.stop == 0

/-- The rules of the generator's mode (R201, R202). -/
def agLegal (g : AGFrame) : Bool :=
  match g.mode with
  | .off | .affine => true
  | .indir => decide (g.dims.val ≤ 2) && dimFree g.d0 && dimFree g.d1 && g.d1.stop == 0
  | .wrap => g.dims == 2 && g.d1.stride == 0 && g.d1.count != 0

/-- A row of R199: type, ports A and B (used or unused), generator modes, handle from C, seal at end, and whether the op names a tile. -/
def mcRow (f : MCFrame) (g : Option AGFrame) (ty a b : Bool) (modes : List AGMode) (fromC seals tile : Bool) : Bool :=
  let mode := match g with | some x => x.mode | none => .off
  ty && a && b && modes.contains mode && (match g with | some x => agLegal x | none => true)
  && (fromC || !f.fromC) && (!f.fromC || portUsed f.c) && (seals || !f.sealEnd)
  && (if tile then f.fromC || f.handle != 0 else f.handle == 0)
  && portPlain f.a && portPlain f.b && portPlain f.c

/-- Port A or B as a stream, or unused. -/
def mcPort (p : Port) (used : Bool) : Bool := if used then portStream p else portUnused p
/-- A port C that supplies no handle. -/
def mcC (f : MCFrame) (used : Bool) : Bool := f.fromC || mcPort f.c used

/-- The subops an op accepts with its type (R100). -/
def subopOk (t : Ty) (sub : Nat) : Bool :=
  match sub with
  | 0 | 1 | 2 => t != .b32
  | 3 | 4 | 5 => t.isInt || t == .b32
  | 6 | 7 => t.isInt || t == .b32 || t == .f32
  | _ => false

/-- What the entry of a memory-cell op accepts, with its address generator. -/
def mcLegal (i : Instr) (g : Option AGFrame) : Bool :=
  let mode : AGMode := match g with | some x => x.mode | none => .off
  let dims : Nat := match g with | some x => x.dims.val | none => 0
  let stopless : Bool := match g with | some x => noStops x | none => true
  let common (f : MCFrame) (sub sat consume pin : Bool) : Bool :=
    (sub || f.subop == 0) && (sat || !f.sat) && (consume || !f.consume) && (pin || f.pin == .none)
  match i with
  | .trd f =>
    mcRow f g true (portStream f.a || portUnused f.a) (portUnused f.b) [.off, .affine, .wrap] true false true && mcC f false
    && common f false false true false && f.pout == .none && (mode != .off || decide (2 ≤ f.level.toNat))
  | .twr f =>
    mcRow f g true (portUnused f.a) (portStream f.b) [.off, .affine, .wrap] true true true && mcC f false && common f false false false true
    && f.pout == .none && f.oa.dst == .none && stopless && (mode != .off || decide (2 ≤ f.level.toNat))
  | .trdc f =>
    mcRow f g (ty32 f.ty) (portStream f.a || portUnused f.a) (portUnused f.b) [.off] true false true && mcC f false
    && common f false false true false && f.pout == .none && decide (2 ≤ f.level.toNat)
  | .twrc f =>
    mcRow f g (ty32 f.ty) (portStream f.a) (portStream f.b) [.off] true true true && mcC f false && common f false false false false
    && f.pout == .none && f.oa.dst == .none
  | .gath f =>
    mcRow f g (ty32 f.ty) (portStream f.a) (portUnused f.b) [.off, .indir] false false true
    && (portUnused f.c || (portStream f.c && (mode == .off || dims == 2))) && common f false false true false && f.pout == .none
  | .scat f =>
    mcRow f g (ty32 f.ty) (portStream f.a) (portStream f.b) [.off, .indir] false true true && mcC f false && common f false false false true
    && f.pout == .none && f.oa.dst == .none && decide (dims ≤ 1) && stopless
  | .rmwa f =>
    mcRow f g (ty32 f.ty) (portStream f.a) (portStream f.b) [.off, .indir] false true true && mcC f false
    && common f true (f.subop == 0) false true && f.pout == .none && decide (f.subop.toNat ≤ 5) && subopOk f.ty f.subop.toNat
    && decide (dims ≤ 1) && stopless
  | .tas f =>
    mcRow f g (f.ty == .b32) (portStream f.a) (portUnused f.b) [.off, .indir] false true true && mcC f false && common f false false false true
    && f.pout != .none && decide (dims ≤ 1) && stopless
  | .atom f =>
    mcRow f g (f.ty == .i64 || ty32 f.ty) (portStream f.a) (portStream f.b) [.off] false false false && mcC f (f.subop == 7)
    && common f true (f.subop == 0) false true && f.pout == .none && subopOk f.ty f.subop.toNat && f.scope != .run
  | .lreq f =>
    mcRow f g true (portStream f.a || (portUnused f.a && (mode == .affine || mode == .wrap))) (portUnused f.b)
      [.off, .affine, .wrap, .indir] false false false && mcC f false
    && common f false false false false && f.pout == .none && f.scope != .run && (mode != .indir || stopless)
  | .sreq f =>
    mcRow f g true (mcPort f.a (mode == .off)) (portStream f.b) [.off, .affine, .wrap] false false false && mcC f false
    && common f false false false true && f.pout == .none && f.oa.dst == .none && f.scope != .run && stopless
  | .fifo f =>
    mcRow f g true (portUnused f.a) (portStream f.b) [.off] false false true && mcC f false && common f false false false false
    && f.pout == .none
  | .lut f =>
    mcRow f g (ty32 f.ty) (portStream f.a) (portUnused f.b) [.off] false false true && mcC f false && common f false false false false
    && f.pout == .none
  | _ => false

/-! ### Switches and nodes (R102 to R104, R169 to R172, R218) -/

/-- What R218 accepts. -/
def swLegal (i : Instr) : Bool :=
  let used (f : SWFrame) : Bool := f.ins.toList.any (fun s => s != .unused) && f.outs.toList.any fun o => o.dst != .none
  let dsts (f : SWFrame) : Bool := f.outs.toList.all fun o => match o.dst with | .st _ => false | _ => true
  match i with
  | .selx f => used f && dsts f && portUsed f.idx && f.flags == 0
  | .dist f => used f && dsts f && portUsed f.idx && f.flags == 0 && (f.ins.toList.drop 1).all fun s => s == .unused
  | .arb f => used f && dsts f && portUnused f.idx && f.flags.extractLsb' 1 3 == 0
  | .join f => used f && dsts f && portUnused f.idx && f.flags == 0
  | _ => false

/-- What R170 to R172 accept. -/
def pnLegal (i : Instr) : Bool :=
  match i with
  | .plogic f => f.pattern == 0 && f.plen == 0
  | .pdup f => f.in0 != .none && f.in1 == .none && f.in2 == .none && f.table == 0 && f.pattern == 0
  | .pgen f => f.in1 == .none && f.in2 == .none && f.table == 0
  | _ => false

/-- What R104 accepts. -/
def snLegal (i : Instr) : Bool :=
  match i with
  | .snadd f => f.handle == 0 && !f.mode && f.row == 0
  | .snsink f => if f.mode then f.handle == 0 && f.row == 0 else f.handle != 0 && f.dst == .none
  | _ => false

/-! ### A whole stripe image (R17, R89 to R106, R178) -/

/-- The outputs an op writes. -/
def instrOuts (i : Instr) : List Dst :=
  match ccParts i, mcParts i, swParts i with
  | some (_, f), _, _ => [f.oa.dst, f.ob.dst]
  | _, some (_, f), _ => [f.oa.dst, f.ob.dst]
  | _, _, some (_, f) => f.outs.toList.map OutF.dst
  | _, _, _ => []

/-- The predicate destinations an op writes. -/
def instrPouts (i : Instr) : List PDst :=
  match ccParts i, mcParts i, pnParts i with
  | some (_, f), _, _ => [f.pout]
  | _, some (_, f), _ => [f.pout]
  | _, _, some (_, f) => [f.out0, f.out1, f.out2, f.out3]
  | _, _, _ => []

/-- The sources an op reads, with their readers. -/
def instrReads (a : OpAddr) (i : Instr) : List (Src × Reader) :=
  match ccParts i, mcParts i, swParts i with
  | some (_, f), _, _ => [(f.a.src, .port a .a), (f.b.src, .port a .b), (f.c.src, .port a .c)]
  | _, some (_, f), _ => [(f.a.src, .port a .a), (f.b.src, .port a .b), (f.c.src, .port a .c)]
  | _, _, some (_, f) => (f.idx.src, .index a) :: (List.range 8).map fun n => ((f.ins.toList[n]?).getD .unused, .input a n)
  | _, _, _ => []

/-- The predicate sources an op reads, with their readers. -/
def instrPreads (a : OpAddr) (i : Instr) : List (PSrc × Reader) :=
  match ccParts i, mcParts i, pnParts i with
  | some (_, f), _, _ => [(f.pin, .pred a)]
  | _, some (_, f), _ => [(f.pin, .pred a)]
  | _, _, some (_, f) => [(f.in0, .input a 0), (f.in1, .input a 1), (f.in2, .input a 2)]
  | _, _, _ => []

/-- Whether no value occurs twice. -/
def allDiff {α : Type} [BEq α] : List α → Bool
  | [] => true
  | x :: xs => !xs.contains x && allDiff xs

/-- The edges of one compute cell (R96, R98): every STj and PSj read is written by stage j for this stage, no stage's two outputs name one
stage, and no predicate out names its own stage's input. -/
def edgesOk (ops : List (OpAddr × Instr)) : Bool :=
  let cc := ops.filter fun o => o.1.cls == .cc
  let stage (c j : Nat) : Option Instr := (cc.find? fun o => o.1.index == c && o.1.slot == j).map Prod.snd
  cc.all fun o =>
    ((instrReads o.1 o.2).all fun r => match r.1 with
      | .st j => (match stage o.1.index j.val with
          | some i => (instrOuts i).any fun d => match d with | .st k => k.val == o.1.slot | _ => false
          | none => false)
      | _ => true)
    && ((instrPreads o.1 o.2).all fun r => match r.1 with
      | .ps j => (match stage o.1.index j.val with
          | some i => (instrPouts i).any fun d => match d with | .ps k => k.val == o.1.slot | _ => false
          | none => false)
      | _ => true)
    && (match instrOuts o.2 with | [.st j, .st k] => j != k | _ => true)
    && ((instrPouts o.2).all fun d => match d with | .ps k => k.val != o.1.slot | _ => true)

/-- One writer for each PA, SL, PP and PL channel (R17, R98). -/
def writersOk (ops : List (OpAddr × Instr)) : Bool :=
  allDiff ((ops.flatMap fun o => instrOuts o.2).filter fun d => match d with | .pa _ | .sl _ => true | _ => false)
  && allDiff ((ops.flatMap fun o => instrPouts o.2).filter fun d => match d with | .pp _ | .pl _ => true | _ => false)

/-- The limits on the first and the last virtual stripe (R38). -/
def borderOk (first last : Bool) (ops : List (OpAddr × Instr)) : Bool :=
  (!first || ops.all fun o =>
    ((instrReads o.1 o.2).all fun r => match r.1 with | .pa n => decide (n.val < 8) | _ => true)
    && (instrPreads o.1 o.2).all fun r => match r.1 with | .pp _ => false | _ => true)
  && (!last || ops.all fun o =>
    ((instrOuts o.2).all fun d => match d with | .pa n => decide (n.val < 8) | _ => true)
    && ((instrPouts o.2).all fun d => match d with | .pp _ => false | _ => true)
    && (match snParts o.2 with | some (_, f) => (match f.dst with | .next _ => false | _ => true) | none => true))

/-- The matrix rules of a cell (R178): at most one loader, and weight types and group codes that match it. -/
def matrixOk (ops : List (OpAddr × Instr)) : Bool :=
  (List.range 16).all fun c =>
    let mine := (ops.filter fun o => o.1.cls == .cc && o.1.index == c).map Prod.snd
    let loaders := mine.filterMap fun i => match i with
      | .lds f => some (f.ty.width, f.ext.extractLsb' 4 2)
      | .mtrn f => some (f.ty.width, 0)
      | _ => none
    let users := mine.filterMap fun i => match i with
      | .mma f => (toTy f).map fun u => (u.width, (0 : BitVec 2))
      | .mmaq f => (tyOfCode (f.ext.extractLsb' 0 4)).map fun u => (u.width, f.ext.extractLsb' 4 2)
      | _ => none
    match loaders with
    | [] => true
    | [l] => users.all fun u => u == l
    | _ => false

/-- What one op's entry accepts (R106). -/
def opLegal (gens : Tab AGFrame) (o : OpAddr × Instr) : Bool :=
  match o.1.cls with
  | .cc => ccLegal o.2
  | .mc => mcLegal o.2 (Tab.find gens o.1.index)
  | .sw => swLegal o.2
  | .pn => pnLegal o.2
  | .sn => snLegal o.2

end Sys2Proof.Machine
end

