-- ==== Sys2Proof/Machine/SeqMem.lean ====
section
/-! DEFINITION. Machine/SeqMem: channels, the data store, and global memory accesses of a ring sequencer (R238 to R251), with the completion of an access. -/
namespace Sys2Proof.Machine

/-! ### Channels -/

/-- WAITCH (R239). -/
def execWaitch (g : Guard) (s : State) : Out := seqExec g .free [] [] (fun s => await .chan s fun s => .done s) s

/-- What RECV writes to its second register (R239). -/
def QEntry.info (e : QEntry) : Word :=
  BitVec.ofNat 64 (e.kind.toNat + 8 * (if e.kind = 1 then e.level.toNat else 0) + 64 * (if e.slice then 1 else 0))

/-- RECV (R239). -/
def execRecv (g : Guard) (d e : Reg) (s : State) : Out :=
  seqExec g .free [] [d, e] (fun s => await .chan s fun s =>
    match s.queue s.cur with
    | [] => .wait .chan s
    | h :: t => .done (((s.setQueue s.cur t).setR d h.word).setR e h.info)) s

/-- The die of a run's first consumer of its input: that of the stripe that holds VS0 (R241). -/
def Run.firstDie (r : Run) : Option Nat := (r.stripes.find? fun x => x.2.vs == 0).bind fun x => (r.phys[x.1 / 32]?).map ringDie

/-- The die that receives an entry sent to an endpoint: that of a channel's ring, or of the first consumer of an input FIFO, where one is
configured. -/
def State.receiverDie (s : State) (x : Endpoint) : Option Nat :=
  if x.chan < 8 then some (ringDie x.ring) else (s.runOnRing x.ring).bind Run.firstDie

/-- The writes an entry's release orders before it for a receiver on another die of the device (R241). -/
def State.sendDeps (s : State) (ep : BitVec 16) : List Nat :=
  match endpointOf ep with
  | some x =>
    let die := s.receiverDie x
    if die != some s.myDie && scopeCovers (s.modeOf s.myAsid) .dev s.myDie (die.getD (ringDie x.ring)) then s.depsOf s.myDie else []
  | none => []

/-- The die of an endpoint's ring. -/
def endpointDie (ep : BitVec 16) : Nat := match endpointOf ep with | some x => ringDie x.ring | none => 0

/-- A SENDQ whose endpoint was good at issue: its entry is placed after every earlier access of its task, when there is room (R240, R241); it
goes nowhere once the run that had the endpoint is gone from it, by its end or by its resumption on other rings (DESIGN CHOICE, assumption 99).
One that carries a stale incarnation of the endpoint's die takes DIERESET (R385). -/
def sendNow (k : SendKind) (w : Word) (ep : BitVec 16) (run : Option Nat) (s : State) : SeqRes :=
  if s.waitOver s.cur (.deliver ep run) then
    if s.endpointRun ep ≠ run then .done s
    else match s.misses s.myDie (endpointDie ep) with
      | (true, s1) => .fault (s1.report fDIERESET 0 0) s1
      | (false, s1) => match s1.deliver s1.myPart ep ⟨k.code, k.level, false, w, s.sendDeps ep⟩ with
        | .done s2 => .done s2
        | _ => .done s1
  else .wait (.deliver ep run) s

/-- The endpoint's whole outcome at a SENDQ (R240): what is refused, or completes at once, is told at issue. -/
def sendTo (k : SendKind) (w : Word) (ep : BitVec 16) (s : State) : SeqRes :=
  match s.me.waitFor with
  | some (.deliver _ run) => sendNow k w ep run s
  | _ => match s.deliver s.myPart ep ⟨0, 0, false, 0, []⟩ with
    | .perm => .fault (s.report fPERM 0 0) s
    | .none => .done s
    | _ => sendNow k w ep (s.endpointRun ep) s

/-- SENDQ with an immediate endpoint (R240, R241). -/
def execSendq (g : Guard) (k : SendKind) (a : Reg) (ep : BitVec 16) (s : State) : Out :=
  seqExec g .free [a] [] (fun s => sendTo k (s.r a) ep s) s
/-- SENDQ with its endpoint in a register (R240, R241). -/
def execSendqReg (g : Guard) (k : SendKind) (a b : Reg) (s : State) : Out :=
  seqExec g .free [a, b] [] (fun s => sendTo k (s.r a) ((s.r b).extractLsb' 0 16) s) s

/-! ### The data store (R242, R243) -/

/-- The byte address: bits 16 to 0 of the sum (R242). -/
def dataAddr (a : Word) (imm : BitVec 32) : Nat := ((a + imm.signExtend 64).extractLsb' 0 17).toNat

/-- Whether an access of the data store reads a word with an uncorrectable error (R389). -/
def Sequencer.dataBad (q : Sequencer) (x n : Nat) : Bool :=
  (List.range n).any fun i => q.dbad.contains ((x + i) % 131072 / 8)

/-- LD (R242). -/
def execLd (g : Guard) (sz : LoadSize) (d a : Reg) (imm : BitVec 32) (s : State) : Out :=
  seqExec g .free [a] [d] (fun s =>
    let q := s.sequencer (taskRing s.cur)
    let x := dataAddr (s.r a) imm
    if q.dataBad x sz.bytes then .fault (s.report fPOISON 1 0 (accessInfo d 0 sz.signed)) s
    else .done (s.setR d (extendWord sz.signed (Memory.readWrap q.dstore 131072 x sz.bytes)))) s
/-- ST: the data register stands in d (R242). -/
def execSt (g : Guard) (sz : Size) (d a : Reg) (imm : BitVec 32) (s : State) : Out :=
  seqExec g .free [a, d] [] (fun s =>
    let r := taskRing s.cur
    let q := s.sequencer r
    let x := dataAddr (s.r a) imm
    .done (s.setSequencer r { q with dstore := Memory.writeWrap 131072 q.dstore x (wordBytes sz.bytes (s.r d)) })) s

/-! ### Issuing a global access (R244 to R249) -/

/-- What translating every part gives: the parts by physical address, the pages to walk, or the first fault. -/
inductive PartsX
  | ok (ps : List (Nat × Nat × Bool)) (cls : List (BitVec 2))
  | miss (pages : List Nat)
  | bad (code access va : Nat)

/-- Translates every part before any is performed (R245). -/
def State.translateParts (s : State) (die part asid : Nat) (n : Need) : List (Nat × Nat) → PartsX
  | [] => .ok [] []
  | (va, len) :: rest =>
    match s.translate die part asid (va % 2 ^ 64) n with
    | .bad c a => .bad c a va
    | .miss p =>
      match State.translateParts s die part asid n rest with
      | .bad c a v => .bad c a v
      | .miss ps => .miss (p :: ps)
      | .ok _ _ => .miss [p]
    | .ok pa e =>
      match State.translateParts s die part asid n rest with
      | .ok ps cs => .ok ((pa, len, e.shared) :: ps) (e.cls :: cs)
      | x => x

/-- Issues an access of the running task: an untranslated page is walked first, a fault is precise, and the counter rises (R225, R245,
R247, R251). -/
def issueAccess (op : GOp) (order : Order) (scope : SScope) (va : Word) (n : Nat) (need : Need) (info : Nat) (k : Cnt) (s : State) :
    SeqRes :=
  match s.translateParts s.myDie s.myPart s.myAsid need (partsOf va.toNat n) with
  | .bad c a v => .fault (s.report c a v info) (s.dropWalkFault s.myDie s.myAsid v)
  | .miss pages => .wait (.walks s.myDie s.myAsid pages) (s.queueWalks s.myDie s.myAsid pages)
  | .ok ps cs =>
    await (if k = .st then .room 0 1 0 0 0 0 else .room 1 0 0 0 0 0) s fun s =>
      let (id, s1) := s.fresh
      let (tincs, s2) := State.aimAll s.myDie ((ps.filter fun p => paHbm p.1).map fun p => s.homeOf p.1).eraseDups s1
      let acc : GAccess := ⟨id, s.cur, s.me.activation, s.me.pc, op, order, scope, s.myPart, s.myAsid, va, ps, cs, s.inc s.myDie, tincs, [], none⟩
      .done ({ s2 with accesses := s2.accesses ++ [acc] }.raiseCnt s.cur k 1)

/-- LDG (R245, R247). -/
def execLdg (g : Guard) (sz : LoadSize) (o : LdOrder) (sc : SScope) (d a : Reg) (imm : BitVec 32) (s : State) : Out :=
  seqExec g .free [a] [d] (fun s =>
    issueAccess (.load sz d) o.cls sc (s.r a + imm.signExtend 64) sz.bytes ⟨true, false, false⟩
      (accessInfo d (sizeCode sz.bytes) sz.signed) .ld s) s
/-- STG: the data register stands in d and is read at issue (R245, R247). -/
def execStg (g : Guard) (sz : Size) (o : StOrder) (sc : SScope) (d a : Reg) (imm : BitVec 32) (s : State) : Out :=
  seqExec g .store [a, d] [] (fun s =>
    issueAccess (.store sz d (s.r d)) o.cls sc (s.r a + imm.signExtend 64) sz.bytes ⟨false, true, false⟩
      (accessInfo d (sizeCode sz.bytes) false) .st s) s

/-- An ATOMG of one op code: the low address bits of its size are cleared (R245, R248). -/
def atomg (code : Nat) (g : Guard) (sz : ASize) (o : Order) (sc : SScope) (d a b c : Reg) (s : State) : Out :=
  seqExec g .store [a, b, c] [d] (fun s =>
    issueAccess (.atom code sz (s.r b) (s.r c) d) o sc (BitVec.ofNat 64 ((s.r a).toNat / sz.bytes * sz.bytes)) sz.bytes
      ⟨true, true, true⟩ (accessInfo d (sizeCode sz.bytes) false) .ld s) s

/-- ATOMG.ADD (R248). -/
def execAtomgAdd (g : Guard) (sz : ASize) (o : Order) (sc : SScope) (d a b : Reg) (s : State) : Out := atomg 0 g sz o sc d a b 0 s
/-- ATOMG.MIN (R248). -/
def execAtomgMin (g : Guard) (sz : ASize) (o : Order) (sc : SScope) (d a b : Reg) (s : State) : Out := atomg 1 g sz o sc d a b 0 s
/-- ATOMG.MAX (R248). -/
def execAtomgMax (g : Guard) (sz : ASize) (o : Order) (sc : SScope) (d a b : Reg) (s : State) : Out := atomg 2 g sz o sc d a b 0 s
/-- ATOMG.MINN (R248). -/
def execAtomgMinn (g : Guard) (sz : ASize) (o : Order) (sc : SScope) (d a b : Reg) (s : State) : Out := atomg 3 g sz o sc d a b 0 s
/-- ATOMG.MAXN (R248). -/
def execAtomgMaxn (g : Guard) (sz : ASize) (o : Order) (sc : SScope) (d a b : Reg) (s : State) : Out := atomg 4 g sz o sc d a b 0 s
/-- ATOMG.AND (R248). -/
def execAtomgAnd (g : Guard) (sz : ASize) (o : Order) (sc : SScope) (d a b : Reg) (s : State) : Out := atomg 5 g sz o sc d a b 0 s
/-- ATOMG.OR (R248). -/
def execAtomgOr (g : Guard) (sz : ASize) (o : Order) (sc : SScope) (d a b : Reg) (s : State) : Out := atomg 6 g sz o sc d a b 0 s
/-- ATOMG.XOR (R248). -/
def execAtomgXor (g : Guard) (sz : ASize) (o : Order) (sc : SScope) (d a b : Reg) (s : State) : Out := atomg 7 g sz o sc d a b 0 s
/-- ATOMG.XCHG (R248). -/
def execAtomgXchg (g : Guard) (sz : ASize) (o : Order) (sc : SScope) (d a b : Reg) (s : State) : Out := atomg 8 g sz o sc d a b 0 s
/-- ATOMG.CAS: Sc is the compare value (R111, R248). -/
def execAtomgCas (g : Guard) (sz : ASize) (o : Order) (sc : SScope) (d a b c : Reg) (s : State) : Out := atomg 9 g sz o sc d a b c s

/-! ### Performing a global access (R225, R246 to R250, R293) -/

/-- The new value of an ATOMG, of `n` bytes; `none` for a CAS that fails (R248). -/
def atomNew (code n : Nat) (old b c : Nat) : Option Nat :=
  let m := 2 ^ (8 * n)
  let sg := fun v : Nat => if v < m / 2 then (v : Int) else (v : Int) - m
  match code with
  | 0 => some ((old + b) % m)
  | 1 => some (if sg old ≤ sg b then old else b)
  | 2 => some (if sg old ≤ sg b then b else old)
  | 3 => some (min old b)
  | 4 => some (max old b)
  | 5 => some (old &&& b)
  | 6 => some (old ||| b)
  | 7 => some (old ^^^ b)
  | 8 => some b
  | _ => if old = c then some b else none

/-- Whether two ranges of bytes meet. -/
def overlap (a n b m : Nat) : Bool := decide (a < b + m) && decide (b < a + n)

/-- Whether an access writes memory. -/
def GAccess.writes (a : GAccess) : Bool := match a.op with | .load .. => false | _ => true

/-- Whether the order rules let an access perform its next part now: the same-byte rule and the classes of R249, R287's read before
write, and the order O of R293. An atomic reads the latest write in home order (R290). -/
def State.mayPerform (s : State) (a : GAccess) : Bool :=
  let before := (s.accessesOf a.task).filter fun b => decide (b.serial < a.serial)
  let die := taskDie a.task
  let rel := match a.order with | .rel | .ar | .ord => true | _ => false
  !(before.any fun b => b.acquires)
  && !(before.any fun b => b.parts.any fun p => a.parts.any fun q => overlap p.1 p.2.1 q.1 q.2.1)
  && (!rel || before.isEmpty)
  && (!a.writes || before.all fun b => b.dest.isNone)
  && (a.order != .ord || !(s.inFlight.any fun r => r.ord == some a.part))
  && (match a.op, a.parts with
      | .atom .., p :: _ => s.upToDate die p.1 p.2.1
      | _, _ => true)

/-- The writes a store of an access orders before it at each die: those that a fence of its task orders before it, and for a release those that its
own scope adds (R273, R288). -/
def State.accessDeps (s : State) (a : GAccess) (e : Nat) : List Nat :=
  let x := s.task a.task
  let m := s.modeOf x.context.toNat
  let die := taskDie a.task
  match a.order with
  | .rel | .ar | .ord => s.relDeps m a.scope die e ++ fenceDeps x m die e
  | _ => fenceDeps x m die e

/-- A fence waits for one access less; with its last it holds what its die has seen (R273). -/
def FenceHold.drop (f : FenceHold) (serial : Nat) (seen : List Nat) : FenceHold :=
  if f.hold.contains serial then
    let h := f.hold.filter fun n => n != serial
    { hold := h, deps := if h.isEmpty then seen else f.deps }
  else f

/-- An access leaves the list; a fence that waited for it alone then holds what its die has seen (R273). -/
def State.dropAccess (s : State) (a : GAccess) : State :=
  let s1 := { s with accesses := s.accesses.filter fun b => b.serial != a.serial }
  s1.updTask a.task fun x =>
    let seen := s1.depsOf (taskDie a.task)
    { x with
      relHold := x.relHold.filter fun n => n != a.serial, fenceDev := x.fenceDev.drop a.serial seen, fenceSys := x.fenceSys.drop a.serial seen }

/-- The counter an access raised (R247). -/
def GAccess.cnt (a : GAccess) : Cnt := match a.op with | .store .. => .st | _ => .ld

/-- The size, sign and destination an access reports (R383): for a store, which has no destination register, the data register that stands in its
field d, as its precise faults do (DESIGN CHOICE, assumption 86). -/
def GAccess.info (a : GAccess) : Nat :=
  match a.op with
  | .load sz d => accessInfo d (sizeCode sz.bytes) sz.signed
  | .store sz d _ => accessInfo d (sizeCode sz.bytes) false
  | .atom _ sz _ _ d => accessInfo d (sizeCode sz.bytes) false

/-- An access fails after issue: its register stays, its counter falls, and the task takes a deferred fault (R225). -/
def State.failAccess (s : State) (a : GAccess) (code : Nat) : State :=
  let acc := match a.op with | .load .. => 1 | .store .. => 2 | .atom .. => 3
  ((s.dropAccess a).lowerCnt a.task a.cnt).deferFault a.task a.act
    ⟨code, acc, 1, a.va, BitVec.ofNat 64 (a.pc.toNat + a.info * 65536)⟩

/-- An access completes: its register, if any, receives the value, and its counter falls (R247). -/
def State.endAccess (s : State) (a : GAccess) : State :=
  let s1 := (s.dropAccess a).lowerCnt a.task a.cnt
  match a.op with
  | .load sz d => s1.updTask a.task fun x => x.setReg d (extendWord sz.signed a.got)
  | .atom _ _ _ _ d => s1.updTask a.task fun x => x.setReg d (extendWord false a.got)
  | .store .. => s1

/-- After a part: completes, goes on with the next part, or, for a store of the ordered class, waits to be applied everywhere. -/
def State.partDone (s : State) (a : GAccess) (serial : Nat) : State :=
  if !a.parts.isEmpty then { s with accesses := s.accesses.map fun b => if b.serial == a.serial then a else b }
  else if a.order = .ord && a.writes && s.inFlight.any (fun r => r.serial == serial && r.ord.isSome) then
    { s with accesses := s.accesses.map fun b => if b.serial == a.serial then { a with written := some serial } else b }
  else s.endAccess a

/-- Performs the next part of an access as one event (R246, R248, R294). -/
def State.performPart (s : State) (a : GAccess) (pa n : Nat) (shared : Bool) (rest : List (Nat × Nat × Bool)) : State :=
  let die := taskDie a.task
  let rests := a.classes.drop 1
  match s.blockFault shared pa with
  | some c => (s.logBlock c a.part pa).failAccess a c
  | none =>
    let s := s.cacheBlock shared pa
    let m := s.modeOf (s.task a.task).context.toNat
    let ord := fun e => if a.order = .ord && scopeCovers m a.scope die e then some a.part else none
    (match a.op with
    | .load .. => s.partDone { a with parts := rest, classes := rests, got := a.got ++ s.viewBytes die pa n } 0
    | .store sz _ v =>
      let bs := ((wordBytes sz.bytes v).drop a.got.length).take n
      let s1 := s.store die (some a.task) ord (s.accessDeps a) shared pa bs
      s1.partDone { a with parts := rest, classes := rests, got := a.got ++ bs } s1.homeSeq
    | .atom code sz b c _ =>
      let old := Memory.readBytes s.mem pa n
      let a1 := { a with parts := rest, classes := rests, got := old }
      match atomNew code sz.bytes (leNat old) (b.toNat % 2 ^ (8 * sz.bytes)) (c.toNat % 2 ^ (8 * sz.bytes)) with
      | some v =>
        let s1 := s.store die (some a.task) ord (s.accessDeps a) shared pa (leBytes n v)
        s1.partDone a1 s1.homeSeq
      | none => s.partDone a1 0).leaveBlock (a.classes.headD 0) shared pa

/-- Whether an access carries an incarnation of a home that is no longer the home's (R385). -/
def State.staleTarget (s : State) (a : GAccess) : Bool := a.tincs.any fun x => s.inc x.1 != x.2

/-- What the next part of an access asks for outside the package. -/
def GAccess.outOp (a : GAccess) (n : Nat) : OutOp :=
  match a.op with
  | .load .. => .read
  | .store sz _ v => .write ((((wordBytes sz.bytes v).drop a.got.length).take n).map some)
  | .atom code sz b c _ => .atomg code n (b.toNat % 2 ^ (8 * sz.bytes)) (c.toNat % 2 ^ (8 * sz.bytes))

/-- GLOBAL_ACCESS_COMPLETE (R247): the next part of an issued access is performed, when the order rules let it; with its last part the
access completes. A part in host memory or a peer's window goes out as a request, whose answer performs it (R395, R402). -/
def execGlobalAccessComplete (serial : Nat) (s : State) : Out :=
  match s.accesses.find? fun a => a.serial == serial with
  | none => .next s
  | some a =>
    match a.written with
    | some w => if s.inFlight.any fun r => r.serial == w && r.ord.isSome then .next s else .next (s.endAccess a)
    | none =>
      match a.parts with
      | [] => .next (s.endAccess a)
      | (pa, n, sh) :: rest =>
        if !s.mayPerform a then .next s
        else if s.staleTarget a then .next (s.failAccess a fDIERESET)
        else if paHbm pa then .next (s.performPart a pa n sh rest)
        else .next (s.askOnce (taskDie a.task) a.part a.asid (.access serial) a.va.toNat pa n (a.outOp n))

/-- REMOTE_WRITE_APPLY (R292): a die applies a write from another die once it has applied everything the write's vector counts. -/
def execRemoteWriteApply (die serial : Nat) (s : State) : Out :=
  match s.inFlight.find? fun r => r.dst == die && r.serial == serial with
  | none => .next s
  | some r => if s.canApply r then .next (s.applyRemote r) else .next s

end Sys2Proof.Machine
end

