-- ==== Sys2Proof/Machine/MemCell.lean ====
section
/-! DEFINITION. Machine/MemCell: the memory-cell ops, their address generators, and the responses and acknowledgements that leave them (R188 to R217). -/
namespace Sys2Proof

/-- The ports of a memory-cell frame with their letters. -/
def MCFrame.ports (f : MCFrame) : List (PortName × Port) := [(.a, f.a), (.b, f.b), (.c, f.c)]
/-- The stream ports. -/
def MCFrame.streams (f : MCFrame) : List (PortName × Port) := f.ports.filter fun p => p.2.kind == .stream
/-- The held ports. -/
def MCFrame.helds (f : MCFrame) : List (PortName × Port) := f.ports.filter fun p => p.2.kind == .held
/-- Whether an op's one pass is made at configuration: its trigger port is unused (R199). -/
def MCFrame.source (f : MCFrame) : Bool := f.a.src == .unused

/-- The dimensions a generator uses, innermost first (R101). -/
def AGFrame.used (g : AGFrame) : List AGDim := [g.d0, g.d1, g.d2, g.d3].take g.dims.val

/-- Whether a scope reaches beyond the die. -/
def Scope.wide : Scope → Bool
  | .dev | .sys => true
  | _ => false

/-- The count of dimension d: from the frame, or from an argument (R101, R200). -/
def agCount (args : Vector Word 4) (d : Nat) (x : AGDim) : Nat :=
  if x.argEn then ((args.toList[2 * (d / 2) + (if x.argSel then 1 else 0)]?).getD 0).toNat % 65536 else x.count.toNat

/-- The counts of the dimensions in use. -/
def AGFrame.counts (g : AGFrame) (args : Vector Word 4) : List Nat := (g.used.zip (List.range 4)).map fun x => agCount args x.2 x.1

/-- Whether a pass makes no access: some used dimension has count 0 (R203). -/
def AGFrame.empty (g : AGFrame) (args : Vector Word 4) : Bool := (g.counts args).any fun c => c == 0

/-- The highest stop map entry among dimensions. -/
def topEntry (ds : List AGDim) : BitVec 3 := ds.foldl (fun m d => if m < d.stop then d.stop else m) 0

/-- The address of a step (R200, R202). -/
def AGFrame.addr (g : AGFrame) (idx : List Nat) (p : Nat) : Int :=
  if g.mode = .wrap then (g.base.toNat : Int) + (p : Int)
  else (g.base.toNat : Int) + ((g.used.zip idx).map fun x => (x.2 : Int) * x.1.stride.toInt).foldl (· + ·) 0

/-- The position that follows in WRAP mode (R202). -/
def AGFrame.advance (g : AGFrame) (args : Vector Word 4) (p : Nat) : Nat :=
  if g.mode = .wrap then (((p : Int) + g.d0.stride.toInt) % ((64 * agCount args 1 g.d1 : Nat) : Int)).toNat else p

/-- How many of the innermost dimensions a step completes. -/
def completed : List Nat → List Nat → Nat
  | i :: is, c :: cs => if i + 1 = c then completed is cs + 1 else 0
  | _, _ => 0

/-- The indices after a step, and the STOP it emits, 0 for none; `none` when the pass is over (R200). -/
def AGFrame.next (g : AGFrame) (args : Vector Word 4) (idx : List Nat) : Option (List Nat) × BitVec 3 :=
  let n := completed idx (g.counts args)
  let stop := topEntry (g.used.take n)
  if idx.length ≤ n then (none, stop)
  else (some ((List.replicate n 0) ++ ((idx[n]?).getD 0 + 1) :: idx.drop (n + 1)), stop)

/-- The scope of a memory cell's global access as a sequencer's. -/
def Scope.seq : Scope → SScope
  | .run | .die => .die
  | .dev => .dev
  | .sys => .sys

/-- The frame of a memory-cell op. -/
def Instr.mcFrame : Instr → Option MCFrame
  | .trd f | .twr f | .trdc f | .twrc f | .gath f | .scat f | .rmwa f | .tas f | .atom f | .lreq f | .sreq f | .fifo f | .lut f => some f
  | _ => none

/-- The ops whose OB carries acknowledgements (R191). -/
def Instr.acks : Instr → Bool
  | .twr _ | .twrc _ | .scat _ | .sreq _ => true
  | _ => false

end Sys2Proof

namespace Sys2Proof.Machine

/-! ### One attempt of an op -/

/-- What an attempt comes to: the firing so far, or what it leaves where it waits or is held. -/
abbrev McR := Except Work Work

/-- The op as its turn began: nothing of the attempt remains. -/
def Work.back (w : Work) : Work :=
  { w with s := w.s0, op := (w.st.opState w.o).getD w.op, outs := [], bits := [], silt := false, deps := [] }

/-- The attempt waits. -/
def Work.stay (w : Work) : McR := .error w.back

/-- A condition of R195 holds the request, with its record of class 3. -/
def Work.hold (w : Work) (code access va : Nat) : McR :=
  let b := w.back
  let s1 := b.s.runRecord b.run.serial (b.record 3 access code va b.s.timestamp)
  .error { b with s := s1, op := { b.op with heldReq := some ⟨code, va⟩ } }

/-- Turns an attempt into a turn. -/
def McR.out : McR → Work
  | .ok w => w
  | .error w => w

/-- The op's generator, unless it is off. -/
def Work.gen (w : Work) : Option AGFrame :=
  match Tab.find w.st.image.gens w.o.index with
  | some g => if g.mode = .off then none else some g
  | none => none

/-- The writes that the tokens at a firing's ports, and its predicate bit, are ordered after (R295). -/
def Work.portDeps (f : MCFrame) (w : Work) : List Nat :=
  ((f.ports.flatMap fun p => match w.resident p.1 with
    | some h => h.tok.deps
    | none => (match w.head p.1 p.2 with | some t => t.deps | none => [])) ++ w.pdeps f.pin (.pred w.o)).eraseDups

/-- The writes that a response at a scope is ordered after: what its die has seen (R288, R295). -/
def Work.scopeDeps (f : MCFrame) (w : Work) : List Nat := if f.scope.wide then w.s.depsOf w.die else []

/-- Those of some writes that are still on their way, each once. -/
def State.onWay (s : State) (deps : List Nat) : List Nat := deps.eraseDups.filter fun d => s.inFlight.any fun r => r.serial == d

/-- The op's buffer, or what it has written, is ordered after its firing's tokens and what the attempt has acquired (R286, R295). -/
def Work.gather (f : MCFrame) (w : Work) : Work := { w with op := { w.op with deps := w.s.onWay (w.op.deps ++ w.deps ++ w.portDeps f) } }

/-- A token that answers an access: ordered after the firing's tokens, what the attempt has acquired and, at its scope, after the access. -/
def Work.answer (f : MCFrame) (w : Work) (t : Token) : Token :=
  { t with deps := (t.deps ++ w.deps ++ w.portDeps f ++ w.scopeDeps f).eraseDups }

/-- Queues what leaves the outputs next (R189); `part` counts what the present firing has queued. -/
def Work.queueItem (w : Work) (x : McItem) : Work :=
  { w with op := { w.op with mcq := w.op.mcq ++ [{ x with more := decide (w.op.part ≠ 0) }], part := w.op.part + 1 } }

/-- What the last answer queued came from (R195, R385). -/
def Work.asking (a : Asked) (w : Work) : Work :=
  { w with op := { w.op with mcq := w.op.mcq.modify (w.op.mcq.length - 1) fun x => { x with asked := some a } } }

/-- Queues the same token for OA and OB. -/
def Work.respond (f : MCFrame) (w : Work) (t : Token) : Work :=
  let x := w.answer f t
  w.queueItem ⟨some x, some x, none, false, none, none, []⟩

/-- Queues an acknowledgement for OB, which follows the writes of every earlier firing too (R191, R286). -/
def Work.ack (f : MCFrame) (w : Work) (t : Token) : Work :=
  w.queueItem ⟨none, some (w.answer f { t with deps := t.deps ++ w.op.deps }), none, false, none, none, []⟩

/-- A firing uses every port. -/
def Work.takeMc (f : MCFrame) (w : Work) : Work :=
  let w1 := f.ports.foldl (fun x p => x.take p.1 p.2) w
  w1.takePred f.pin

/-- The token a firing uses at a port. -/
def Work.tok (f : MCFrame) (w : Work) (n : PortName) (p : Port) : Token := (w.portTok f.ty f.imm n p).getD (dataTok 0 0)

/-! ### Sequences (R190, R193) -/

/-- Ends the op's sequence: held tokens are released and the Silt counts go out (R190). -/
def Work.endMc (f : MCFrame) (w : Work) : McR :=
  let w1 := w.release
  if !f.stats then .ok w1
  else if w1.siltRoom f.silt then .ok (w1.siltEmit f.silt)
  else w.stay

/-- Queues a STOP, ordered after `deps`, for every output that carries a stream; the consuming reads of the sequence that it ends go with it
(R190, R193). -/
def Work.queueStop (f : MCFrame) (w : Work) (deps : List Nat) (t : Token) : Work :=
  let x := { t with deps := deps.eraseDups }
  let ended := if f.level ≤ t.level then w.op.reading else []
  let w1 := { w with op := { w.op with reading := if f.level ≤ t.level then [] else w.op.reading } }
  w1.queueItem ⟨some x, some x, none, false, none, none, ended⟩

/-- A STOP that the op emits of its own (R190, R200, R204). A source flags the one of the safe level after which it presents nothing, and
sends an image swap with the first (R268, R370). -/
def Work.ownStop (f : MCFrame) (w : Work) (level : BitVec 3) : McR :=
  let r := match w.s.run w.run.serial with | some x => x.cutRule | none => w.run.cutRule
  let safe := f.source && r.isSafe (stopTok level Ride.none)
  let t1 := stopTok level ⟨safe && r.flag, safe && r.swap && !w.op.swapSeen, if safe && r.flag then r.number else 0⟩
  let w1 := { w with op := { w.op with cut := w.op.cut || (safe && (r.flag || r.stop)), swapSeen := w.op.swapSeen || t1.swap } }
  if f.level ≤ level then
    (if f.stats then (if w1.siltRoom f.silt then .ok (w1.siltEmit f.silt) else w.stay) else .ok w1).map fun x =>
      ({ x with op := { x.op with flag := true } }).queueStop f (x.deps ++ x.portDeps f) t1
  else .ok (w1.queueStop f (w1.deps ++ w1.portDeps f) t1)

/-- A pass ends: its trigger is consumed with its last STOP, and held tokens go if a STOP of it ended the sequence (R190, R204). -/
def Work.endPass (f : MCFrame) (w : Work) : Work :=
  let w1 := w.takeMc f
  let w2 := if w1.op.flag then w1.release else w1
  { w2 with op := { w2.op with agIdx := none, row := 0, col := 0, passes := 1, flag := false } }

/-! ### The address generator (R200 to R203) -/

/-- The address of element j of an index in INDIR mode (R201), or `unit × (x + j)` with the generator off. -/
def elemAddr (g : Option AGFrame) (unit x j : Nat) : Int :=
  match g with
  | some g => (g.base.toNat : Int) + (x : Int) * g.d0.stride.toInt + (j : Int) * g.d1.stride.toInt
  | none => ((unit * (x + j) : Nat) : Int)

/-- The next address of a write op, with the op after it; no address beyond the end of a pass (R203). -/
def Work.writeAddr (w : Work) (g : AGFrame) : Option Int × Work :=
  let args := w.run.recd.args
  if w.op.passes ≠ 0 then (none, w)
  else if g.empty args then (none, { w with op := { w.op with passes := 1 } })
  else
    let idx := w.op.agIdx.getD g.start
    let a := g.addr idx w.op.agPos
    let nxt := (g.next args idx).1
    (some a, { w with op := { w.op with agIdx := nxt, agPos := g.advance args w.op.agPos, passes := if nxt.isNone then 1 else 0 } })

/-! ### Tiles (R193, R194) -/

/-- The handle of a firing: fixed, or of port C (R199). -/
def Work.handle (f : MCFrame) (w : Work) : Nat := if f.fromC then lane (w.tok f .c f.c).payload 0 % 2 ^ 20 else f.handle.toNat

/-- The slot as which a run reads a declared-reader tile: the lowest of its slots of that owner set in the mask and not done (R116). -/
def State.runSlot (s : State) (run : Nat) (t : Tile) : Option Nat :=
  (List.range 8).find? fun k => t.rmask.getLsbD k && !t.done.getLsbD k
    && s.bindings.any fun b => b.owner == t.owner && b.slot == k && b.reader == .run run && !b.ended

/-- The tile that an op's access finds under a handle. An entry with an uncorrectable error moves its tile to POISON first (R331). -/
def Work.entry (w : Work) (handle : Nat) : Except Work (Option Tile) :=
  match w.s.tile w.die w.run.partition handle with
  | some t => if t.bad then .error { w.back with s := w.s0.readEntry w.die w.run.partition handle } else .ok (some t)
  | none => .ok none

/-- The tile of a read, found FULL, DRAINING or POISON, with a consuming read begun where the op makes one; a FILLING tile is waited for,
and a read waits while the op's earlier one of the same handle has not ended (R193, R194, R309). What the seal released is acquired (R194,
R296). -/
def Work.readTile (f : MCFrame) (w : Work) (handle : Nat) : Except Work (Work × Tile) :=
  (w.entry handle).bind fun x =>
    match x with
    | none => (w.hold fTOVER 1 (tileVa w.die handle)).bind fun x => .error x
    | some t =>
      let w1 := { w with deps := w.deps ++ t.deps }
      if t.state = .filling then .error w.back
      else if !f.consume || w.op.reading.any (fun r => r.tile == t.uid) then .ok (w1, t)
      else if w.op.mcq.any fun x => x.reads.any fun r => r.tile == t.uid then .error w.back
      else
        let slot := if t.mode = .declared then w.s.runSlot w.run.serial t else none
        if !t.mayRead slot then (w.hold fTOVER 1 (tileVa w.die handle)).bind fun x => .error x
        else .ok ({ w1 with s := w.s.beginRead t.uid slot, op := { w.op with reading := w.op.reading ++ [⟨t.uid, slot⟩] } }, t)

/-- The tile of a write: it must be FILLING (R194); a block of an HB tile that fails poisons it (R332). -/
def Work.writeTile (w : Work) (access handle x n : Nat) : Except Work Tile :=
  (w.entry handle).bind fun y =>
    match y with
    | none => (w.hold fTSTATE access (tileVa w.die handle)).bind fun y => .error y
    | some t =>
      if t.state ≠ .filling then (w.hold fTSTATE access (tileVa w.die handle)).bind fun y => .error y
      else if w.s.hbBad t 0 x n then .error { w.back with s := w.s0.tileFails t 0 x n }
      else .ok t

/-- The payload of 64 bytes. -/
def payloadOf (bs : List Byte) : Payload := BitVec.ofNat 512 (leNat bs)

/-- The token that a read of 64 bytes of a tile gives, with the storage's own failures (R194, R195). -/
def Work.tileToken (w : Work) (t : Tile) (x : Nat) : Token × Work :=
  if t.state = .poison then w.err ePOISON
  else if w.s.tileBad t 0 x 64 then
    let (e, w1) := w.err ePOISON
    (e, { w1 with s := w1.s.tileFails t 0 x 64 })
  else (dataTok 0xFFFF (payloadOf (w.s.tileData t x 64)), { w with s := w.s.touchTile t 0 x 64 })

/-- Writes the valid lanes of a token at a byte offset of a tile, and sets the validity bits of the rows it writes (R194). -/
def State.writeLanes (s : State) (t : Tile) (x : Nat) (a : Token) : State :=
  let ls := (List.range 16).filter fun l => a.mask.getLsbD l
  let s1 := ls.foldl (fun y l => y.setTileData t (x + 4 * l) (leBytes 4 (lane a.payload l))) s
  s1.updTile t.uid fun y => { y with valid := ls.foldl (fun v l => touchRows t.rowBytes (x + 4 * l) 4 v) y.valid }

/-- Whether an element address lies in a tile and is a multiple of 4 (R203). -/
def elemIn (t : Tile) (a : Int) : Bool := decide (0 ≤ a) && decide (a.toNat % 4 = 0) && decide (a.toNat + 4 ≤ t.dataBytes)
/-- Whether a token address lies in a tile and is a multiple of 64. -/
def tokenIn (t : Tile) (a : Int) : Bool := decide (0 ≤ a) && decide (a.toNat % 64 = 0) && decide (a.toNat + 64 ≤ t.dataBytes)
/-- Whether the row of an address is valid. -/
def rowValid (t : Tile) (a : Nat) : Bool := t.valid.getLsbD (a / t.rowBytes)

/-- The tile that a closing STOP closes: the fixed handle, or the one the op last wrote, or the one port C now names (R205). -/
def Work.closing (f : MCFrame) (w : Work) : Option Nat :=
  if !f.fromC then some f.handle.toNat
  else if w.op.curHandle ≠ 0 then some w.op.curHandle
  else if f.c.kind == .stream then none
  else ((w.portTok f.ty f.imm .c f.c).filter Token.isData).map fun t => lane t.payload 0 % 2 ^ 20

/-- A closing STOP seals the tile when seal at end is set, a release of all that its token and the op's writes are ordered after (R296); a tile
that is not FILLING holds it (R194, R205). -/
def Work.close (f : MCFrame) (w : Work) : McR :=
  let done : Work := { w with op := { w.op with row := 0, col := 0, agIdx := none, passes := 0, curHandle := 0 } }
  if !f.sealEnd then .ok done
  else match w.closing f with
    | none => .ok done
    | some h => (w.entry h).bind fun x => match x with
      | some t =>
        if t.state = .filling then .ok { done with s := done.s.sealTile t.uid (w.deps ++ w.op.deps ++ w.scopeDeps f).eraseDups }
        else w.hold fTSTATE 2 (tileVa w.die h)
      | none => w.hold fTSTATE 2 (tileVa w.die h)

/-! ### The firing of a memory-cell op -/

/-- What distinguishes one memory-cell op: a write op or not, whether its firings write, whether one that makes several accesses is in progress
(R189), its DATA firing, what it does under a bit of 0, what it does before it passes a STOP on, what it writes before it passes a marker on,
and what an ERR writes. -/
structure McBehave where
  writes : Bool
  stores : Bool
  mid    : OpState → Bool
  data   : Work → McR
  off    : Work → Work
  stop   : BitVec 3 → Work → McR
  mark   : Work → Work
  err    : Work → Token → Work

/-- The held ports without a token, which the end of a sequence waits for (R29). -/
def Work.unfilled (f : MCFrame) (w : Work) : List (PortName × Port) := f.helds.filter fun p => (w.resident p.1).isNone

/-- Whether the end of a sequence by a STOP of a level need not wait for a held port. -/
def Work.mayEnd (f : MCFrame) (level : BitVec 3) (w : Work) : Bool :=
  decide (level < f.level) || (w.unfilled f).all fun p => match w.head p.1 p.2 with | some t => t.isData || t.isErr | none => false

/-- The tokens that a write op takes and does not use: each ERR becomes an EFLOW record (R34). -/
def Work.absorbErrs (ts : List Token) (w : Work) : Work := (ts.filter Token.isErr).foldl Work.absorb w

/-- A STOP that the firing has consumed: what the op does at it, the end of the sequence, and the STOP behind its responses (R190). -/
def mcStop (f : MCFrame) (b : McBehave) (level : BitVec 3) (r : Ride) (w : Work) : McR :=
  if !w.mayEnd f level then w.stay
  else (b.stop level (w.passStop level r)).bind fun w1 =>
    let deps := fun (x : Work) => x.deps ++ (if b.stores then x.op.deps ++ x.scopeDeps f else [])
    if f.level ≤ level then
      let ts := (w1.unfilled f).filterMap fun p => w1.head p.1 p.2
      let w2 := w1.popAll (w1.unfilled f)
      ((if b.writes then w2.absorbErrs ts else w2).endMc f).bind fun w3 => .ok (w3.queueStop f (deps w3) (stopTok level r))
    else .ok (w1.queueStop f (deps w1) (stopTok level r))

/-- A marker goes on, behind what the op still has to write for the requests before it; a write op absorbs it (R190). -/
def mcMark (b : McBehave) (x : Token × List (PortName × Port)) (w : Work) : Work :=
  let w1 := ((if b.writes then w else b.mark w).popAll x.2).passMarker x.1
  let t := { x.1 with deps := w1.deps.eraseDups }
  if b.writes then w1.absorb x.1 else w1.queueItem ⟨some t, some t, none, false, none, none, []⟩

/-- Whether a firing of an op that walks a generator, a row or lanes is in progress. -/
def OpState.within (x : OpState) : Bool := x.agIdx.isSome || decide (x.col ≠ 0)
/-- One access a firing. -/
def OpState.never (_ : OpState) : Bool := false

/-- A new firing of an op, by R127 and R190; `none` when nothing it needs is there. -/
def mcBegin (f : MCFrame) (b : McBehave) (w : Work) : Option Work :=
  let S := f.streams
  let H := f.helds
  match w.op.resolving with
  | some (lev, sl) =>
    match w.resolveStep (S.map fun p => (p.2.src, w.reader p.1)) lev sl fun l r x => if x.mayEnd f l then some (mcStop f b l r x).out else none with
    | some w1 => some w1
    -- the STOP that ends the resolution waits for a held port; a marker that stands there goes first (R30, R127)
    | none => (markerAt ((w.unfilled f).map fun p => (p, w.head p.1 p.2)) S).map fun x => mcMark b x w
  | none =>
    match markerAt ((S ++ H).map fun p => (p, w.head p.1 p.2)) S with
    | some x => some (mcMark b x w)
    | none =>
      let hs := S.filterMap fun p => w.head p.1 p.2
      if hs.length ≠ S.length then none
      else
        let top := topStop hs
        if top ≠ 0 then
          if hs.all fun t => t.isStop && t.level == top then
            some (mcStop f b top (rides hs) (w.popAll S)).out
          else
            let (e0, w1) := w.err eMISMATCH
            let e := { e0 with deps := w.portDeps f }
            let w2 := (w1.queueItem ⟨some e, some e, none, false, none, none, []⟩).countMis f.stats
            some { w2 with op := { w2.op with resolving := some (top, Ride.none) } }
        else
          let errs := f.ports.filter fun p => (S ++ H).contains p && (w.errAt p).isSome
          match errs.filterMap w.errAt, w.predBit f.pin f.psense with
          | _, none => none
          | e :: es, some _ =>
            let w1 := ((errs.filter fun q => !S.contains q).foldl Work.dropErr (w.popAll S)).takePred f.pin
            some (if b.writes then w1.absorbErrs (e :: es) else b.err w1 { e with deps := (e.deps ++ w1.deps).eraseDups })
          | [], some bit =>
            if (w.unfilled f).all fun p => match w.head p.1 p.2 with | some t => t.isData | none => false then
              some (if bit then (b.data w).out else b.off w)
            else none

/-- What an ERR writes in place of a response (R190). -/
def errBoth (w : Work) (e : Token) : Work := w.queueItem ⟨some e, some e, none, false, none, none, []⟩

/-- One attempt of an op: a firing in progress goes on, and no other starts before the last token of one that writes several is written (R189).
A stage register with an uncorrectable error becomes ERR POISON (R389). -/
def mcFire (f : MCFrame) (b : McBehave) (w : Work) : Option Work :=
  if w.op.bad then
    let (e, w1) := ({ w with op := { w.op with bad := false } }).err ePOISON
    some (if b.writes then w1.absorb e else b.err w1 e)
  else if b.mid w.op && w.op.resolving.isNone then some (b.data w).out
  else if w.op.mcq.any fun x => x.more then none
  else mcBegin f b { w with op := { w.op with part := 0 } }

/-- The turn of a memory-cell op: nothing while a request is held or it presents nothing further. -/
def mcTurn (fire : Work → Option Work) (s : State) : Out :=
  match s.workAt s.focus with
  | none => .next s
  | some w =>
    if w.op.heldReq.isSome || w.op.parked w.run then .next w.s0
    else match fire w with
      | none => .next w.s0
      | some w1 => .next w1.store
/-- Nothing before a STOP. -/
def noStop (_ : BitVec 3) (w : Work) : McR := .ok w

/-! ### Reading tiles: TRD, TRDC (R204, R206) -/

/-- Whether the op may make a pass: one trigger, one pass; without a trigger, one pass a configuration (R199). -/
def Work.mayPass (f : MCFrame) (w : Work) : Bool := !f.source || w.op.passes == 0

/-- A pass that makes no access: one STOP of its highest entry, or nothing (R203). -/
def Work.emptyPass (f : MCFrame) (g : AGFrame) (w : Work) : McR :=
  let top := topEntry g.used
  if top = 0 then .ok (w.endPass f) else (w.ownStop f top).map fun x => x.endPass f

/-- After an access of a pass: its STOP, and the end of the pass (R200, R202). -/
def Work.passOn (f : MCFrame) (g : AGFrame) (idx : List Nat) (w : Work) : McR :=
  let args := w.run.recd.args
  let (nxt, stop) := g.next args idx
  let w1 := { w with op := { w.op with agIdx := nxt, agPos := g.advance args w.op.agPos } }
  let r : McR := if stop = 0 then .ok w1 else w1.ownStop f stop
  r.map fun x => if nxt.isNone then x.endPass f else x

/-- After an access of row mode: a STOP after each row, and the end of the pass after the last (R204). -/
def Work.rowOn (f : MCFrame) (t : Tile) (flush : Work → Work) (w : Work) : McR :=
  if w.op.col + 1 < t.k then .ok { w with op := { w.op with agIdx := some [], col := w.op.col + 1 } }
  else
    let w1 := flush w
    if w.op.row + 1 < t.rows then
      ({ w1 with op := { w1.op with agIdx := some [], row := w.op.row + 1, col := 0 } }).ownStop f (f.level - 1)
    else (w1.ownStop f f.level).map fun x => x.endPass f

/-- The response of a token access at an address: zero with lane mask 0 and one OOB out of range or in a row not valid (R204). -/
def Work.trdAccess (f : MCFrame) (w : Work) (t : Tile) (a : Int) : Work :=
  if t.state = .poison then w.respond f (w.err ePOISON).1
  else if tokenIn t a && rowValid t a.toNat then
    let (x, w1) := w.tileToken t a.toNat
    w1.respond f x
  else (w.countOob f.stats 1).respond f (dataTok 0 0)

/-- TRD's firing: one access of its pass (R204). -/
def trdData (f : MCFrame) (w : Work) : McR :=
  if !w.mayPass f then w.stay
  else match w.gen with
    | some g =>
      if w.op.agIdx.isNone && g.empty w.run.recd.args then w.emptyPass f g
      else (w.readTile f (w.handle f)).bind fun x =>
        let idx := w.op.agIdx.getD g.start
        (x.1.trdAccess f x.2 (g.addr idx w.op.agPos)).passOn f g idx
    | none =>
      (w.readTile f (w.handle f)).bind fun x =>
        (x.1.trdAccess f x.2 ((64 * x.2.k * w.op.row + 64 * w.op.col : Nat) : Int)).rowOn f x.2 id

/-- TRD (R204). -/
def execTrd (f : MCFrame) (s : State) : Out :=
  mcTurn (mcFire f { writes := false, stores := false, mid := OpState.within, data := trdData f, off := id, stop := noStop, mark := id, err := errBoth }) s

/-- Writes the first entries of the buffers as one pair of tokens. -/
def Work.pairOut (f : MCFrame) (n : Nat) (w : Work) : Work :=
  let mask := (List.range n).foldl (fun (m : BitVec 16) l => m ||| BitVec.twoPow 16 l) 0
  let tok := fun (vs : List (BitVec 32)) => w.answer f (dataTok mask (packElems 32 ((vs.take n).map BitVec.toNat)))
  let w1 := w.queueItem ⟨some (tok w.op.vals), some (tok w.op.coords), none, false, none, none, []⟩
  { w1 with op := { w1.op with vals := w.op.vals.drop n, coords := w.op.coords.drop n } }

/-- At a row's end the partial pair goes out (R206). -/
def Work.pairFlush (f : MCFrame) (w : Work) : Work := if w.op.vals.isEmpty then w else w.pairOut f w.op.vals.length

/-- TRDC's firing: one token of its pass (R206). -/
def trdcData (f : MCFrame) (w : Work) : McR :=
  if !w.mayPass f then w.stay
  else (w.readTile f (w.handle f)).bind fun x =>
    let t := x.2
    let i := w.op.row
    let j := w.op.col
    let w1 :=
      if t.state = .poison then x.1.respond f (x.1.err ePOISON).1
      else if !t.valid.getLsbD i then x.1.countOob f.stats 1
      else
        let (tok, w2) := x.1.tileToken t (64 * t.k * i + 64 * j)
        if tok.isErr then w2.respond f tok
        else
          let kept := (List.range 16).filter fun l => lane tok.payload l != 0
          let w3 := { w2 with op := { w2.op with
            vals := w2.op.vals ++ kept.map fun l => BitVec.ofNat 32 (lane tok.payload l)
            coords := w2.op.coords ++ kept.map fun l => BitVec.ofNat 32 (i * 65536 + (16 * j + l)) } }
          if 16 ≤ w3.op.vals.length then w3.pairOut f 16 else w3
    w1.rowOn f t (Work.pairFlush f)

/-- TRDC (R206). -/
def execTrdc (f : MCFrame) (s : State) : Out :=
  mcTurn (mcFire f { writes := false, stores := false, mid := OpState.within, data := trdcData f, off := id, stop := noStop, mark := id, err := errBoth }) s

/-! ### Writing tiles: TWR, TWRC (R205, R207) -/

/-- The handle that a firing writes, remembered where port C gives it. -/
def Work.wrote (f : MCFrame) (h : Nat) (w : Work) : Work := if f.fromC then { w with op := { w.op with curHandle := h } } else w

/-- TWR's firing: the token goes to the next address; one beyond the tile or the pass is discarded (R203, R205). -/
def twrData (f : MCFrame) (w : Work) : McR :=
  let h := w.handle f
  let b := w.tok f .b f.b
  (w.writeTile 2 h 0 0).bind fun t =>
    let (a, w1) := match w.gen with
      | some g => w.writeAddr g
      | none => (if w.op.col < t.k && decide (w.op.row < t.rows) then some ((64 * t.k * w.op.row + 64 * w.op.col : Nat) : Int) else none,
                 { w with op := { w.op with col := w.op.col + 1 } })
    match a with
    | some x =>
      if tokenIn t x then
        (w1.writeTile 2 h x.toNat 64).bind fun _ =>
          .ok (((({ w1 with s := w1.s.writeLanes t x.toNat b }).wrote f h).ack f b).gather f |>.takeMc f)
      else .ok ((((w1.countOob f.stats 1).wrote f h).ack f b).takeMc f)
    | none => .ok ((((w1.countOob f.stats 1).wrote f h).ack f b).takeMc f)

/-- A predicated-off TWR takes its address and writes nothing (R191, R192, R203). -/
def twrOff (f : MCFrame) (w : Work) : Work :=
  let w1 := match w.gen with
    | some g => (w.writeAddr g).2
    | none => { w with op := { w.op with col := w.op.col + 1 } }
  (w1.ack f (w.tok f .b f.b)).takeMc f

/-- A STOP at TWR: the next row below the stop level; at or above it the tile closes (R205). -/
def twrStop (f : MCFrame) (level : BitVec 3) (w : Work) : McR :=
  if f.level ≤ level then w.close f
  else .ok (if w.gen.isSome then w else { w with op := { w.op with row := w.op.row + 1, col := 0 } })

/-- TWR (R205). -/
def execTwr (f : MCFrame) (s : State) : Out :=
  mcTurn (mcFire f { writes := true, stores := true, mid := OpState.never, data := twrData f, off := twrOff f, stop := twrStop f, mark := id, err := fun w _ => w }) s

/-- TWRC's firing: each valid lane's value goes to its element of the row buffer (R207). -/
def twrcData (f : MCFrame) (w : Work) : McR :=
  let h := w.handle f
  let a := w.tok f .a f.a
  let b := w.tok f .b f.b
  (w.writeTile 2 h 0 0).bind fun t =>
    let e := 16 * t.k
    let buf := if w.op.vals.length = e then w.op.vals else List.replicate e 0
    let ls := (List.range 16).filter fun l => a.mask.getLsbD l
    let ok := fun l => decide (lane a.payload l / 65536 = w.op.row) && decide (lane a.payload l % 65536 < e)
    let buf1 := (ls.filter ok).foldl (fun v l => v.set (lane a.payload l % 65536) (BitVec.ofNat 32 (lane b.payload l))) buf
    let w1 := w.countOob f.stats (ls.filter fun l => !ok l).length
    let w2 := { w1 with op := { w1.op with vals := buf1, flag := w1.op.flag || ls.any ok } }
    .ok ((((w2.wrote f h).ack f b).gather f).takeMc f)

/-- Token j of the row buffer goes to the row of the row counter (R207). -/
def Work.rowToken (t : Tile) (j : Nat) (w : Work) : Work :=
  let bs := (List.range 16).flatMap fun i => leBytes 4 ((w.op.vals[16 * j + i]?).getD 0).toNat
  { w with s := (w.s.setTileData t (w.op.row * t.rowBytes + 64 * j) bs).updTile t.uid fun y => { y with valid := y.valid ||| BitVec.twoPow 64 w.op.row } }

/-- Writes the row buffer as the row of the row counter, one token event a turn in ascending order (R207, R294); the STOP waits for the last. -/
def twrcRow (f : MCFrame) (w : Work) : McR :=
  match w.closing f with
  | none => .ok w
  | some h =>
    (w.writeTile 2 h 0 0).bind fun t =>
      let j := w.op.col
      if w.op.row < t.rows then
        (w.writeTile 2 h (w.op.row * t.rowBytes + 64 * j) 64).bind fun _ =>
          if j + 1 < t.k then
            let b := w.back.rowToken t j
            .error { b with op := { b.op with col := j + 1 } }
          else .ok (w.rowToken t j)
      else .ok (w.countOob f.stats 1)

/-- A STOP at TWRC (R207). -/
def twrcStop (f : MCFrame) (level : BitVec 3) (w : Work) : McR :=
  let clear := fun (x : Work) => { x with op := { x.op with vals := [], flag := false, col := 0 } }
  if level < f.level then
    (twrcRow f w).map fun x => let y := clear x; { y with op := { y.op with row := y.op.row + 1 } }
  else (if w.op.flag then twrcRow f w else .ok w).bind fun x => (clear x).close f

/-- TWRC (R207). -/
def execTwrc (f : MCFrame) (s : State) : Out :=
  mcTurn (mcFire f { writes := true, stores := true, mid := OpState.never, data := twrcData f, off := fun w => (w.ack f (w.tok f .b f.b)).takeMc f, stop := twrcStop f, mark := id, err := fun w _ => w }) s

/-! ### Gather and scatter (R208, R209) -/

/-- Writes GATH's buffer, lanes beyond it zero and invalid. -/
def Work.gathFlush (f : MCFrame) (w : Work) : Work :=
  let n := w.op.vals.length
  let mask := (List.range n).foldl (fun (m : BitVec 16) l => if (w.op.valid[l]?).getD false then m ||| BitVec.twoPow 16 l else m) 0
  let t := match w.op.erred with | some e => e | none => dataTok mask (packElems 32 (w.op.vals.map BitVec.toNat))
  let w1 := w.respond f { t with deps := t.deps ++ w.op.deps }
  { w1 with op := { w1.op with vals := [], valid := [], erred := none, deps := [] } }

/-- One element into GATH's buffer; a full buffer goes out. -/
def Work.gathPut (f : MCFrame) (v : Option (BitVec 32)) (w : Work) : Work :=
  let w0 := w.gather f
  let w1 := { w0 with op := { w0.op with vals := w0.op.vals ++ [v.getD 0], valid := w0.op.valid ++ [v.isSome] } }
  if 16 ≤ w1.op.vals.length then w1.gathFlush f else w1

/-- GATH reads one element: an unreadable tile makes the whole token of the buffer ERR POISON (R195, R208). -/
def Work.gathRead (f : MCFrame) (w : Work) (t : Tile) (a : Int) : Work :=
  if t.state = .poison then ({ w with op := { w.op with erred := some (w.err ePOISON).1 } }).gathPut f none
  else if elemIn t a && rowValid t a.toNat then
    if w.s.tileBad t 0 a.toNat 4 then
      ({ w with s := w.s.tileFails t 0 a.toNat 4, op := { w.op with erred := some (w.err ePOISON).1 } }).gathPut f none
    else ({ w with s := w.s.touchTile t 0 a.toNat 4 }).gathPut f (some (BitVec.ofNat 32 (leNat (w.s.tileData t a.toNat 4))))
  else (w.countOob f.stats 1).gathPut f none

/-- GATH's firing: one element a turn; `col` is the lane and `count` the element of its run (R208). DESIGN CHOICE, assumption 75: a buffer that is
empty before the STOP of an index is not written as a token of mask 0; the STOP goes alone. Unsafe. -/
def gathData (f : MCFrame) (w : Work) : McR :=
  let a := w.tok f .a f.a
  let c := w.tok f .c f.c
  let l := w.op.col
  let stop := match w.gen with | some g => g.d0.stop | none => 0
  let nextLane := fun (x : Work) =>
    let y := { x with op := { x.op with col := l + 1, count := 0 } }
    if l + 1 < 16 then y
    else
      let z := y.takeMc f
      let z := if z.op.flag then z.release else z
      { z with op := { z.op with col := 0, flag := false, agIdx := none } }
  if !a.mask.getLsbD l then .ok (nextLane { w with op := { w.op with agIdx := some [] } })
  else
    let x := lane a.payload l
    let n := if f.c.src == .unused then 1 else lane c.payload l
    let j := w.op.count.toNat
    let closeIdx := fun (y : Work) =>
      if stop = 0 then .ok (nextLane y)
      else ((if y.op.vals.isEmpty then y else y.gathFlush f).ownStop f stop).map nextLane
    if n = 0 then closeIdx { w with op := { w.op with agIdx := some [] } }
    else
      (w.readTile f f.handle.toNat).bind fun r =>
        let y := r.1.gathRead f r.2 (elemAddr w.gen 4 x j)
        let y1 := { y with op := { y.op with agIdx := some [], count := BitVec.ofNat 32 (j + 1) } }
        if j + 1 < n then .ok y1 else closeIdx y1

/-- GATH (R208): at every STOP of port A a partial buffer goes out first. DESIGN CHOICE, assumption 76: an ERR at port A is queued at once, ahead of
the elements that the buffer still holds, for the rule names STOPs only. Unsafe. -/
def execGath (f : MCFrame) (s : State) : Out :=
  mcTurn (mcFire f { writes := false, stores := false, mid := OpState.within, data := gathData f, off := id
                     stop := fun _ w => .ok (if w.op.vals.isEmpty then w else w.gathFlush f)
                     mark := fun w => if w.op.vals.isEmpty then w else w.gathFlush f, err := errBoth }) s

/-- The lanes of a token and their element addresses. -/
def Work.laneAddrs (w : Work) (a : Token) (unit : Nat) : List (Nat × Int) :=
  ((List.range 16).filter fun l => a.mask.getLsbD l).map fun l => (l, elemAddr w.gen unit (lane a.payload l) 0)

/-- A STOP at an op whose tile closes at its stop level. -/
def closeStop (f : MCFrame) (level : BitVec 3) (w : Work) : McR := if f.level ≤ level then w.close f else .ok w

/-- A firing that makes one element access for each valid lane, one a turn, in ascending order (R196, R294): `col` is the lane from which it goes
on. `access` makes one, and `done` is what the firing comes to after the last. -/
def Work.byLane (a : Token) (unit : Nat) (access : Nat × Int → Work → Except Work Work) (done : Work → McR) (w : Work) : McR :=
  let last := fun (x : Work) => done { x with op := { x.op with agIdx := none, col := 0 } }
  match (w.laneAddrs a unit).filter fun x => decide (w.op.col ≤ x.1) with
  | [] => last w
  | x :: rest => (access x w).bind fun y =>
      if rest.isEmpty then last y else .ok { y with op := { y.op with agIdx := some [], col := x.1 + 1 } }

/-- The bytes of one element of a tile are written, and its row is valid (R194). -/
def State.setElem (s : State) (t : Tile) (x : Nat) (bs : List Byte) : State :=
  (s.setTileData t x bs).updTile t.uid fun z => { z with valid := touchRows t.rowBytes x bs.length z.valid }

/-- One lane of SCAT (R209). -/
def scatLane (f : MCFrame) (t : Tile) (b : Token) (x : Nat × Int) (w : Work) : Except Work Work :=
  if elemIn t x.2 then
    (w.writeTile 2 f.handle.toNat x.2.toNat 4).bind fun _ => .ok { w with s := w.s.setElem t x.2.toNat (leBytes 4 (lane b.payload x.1)) }
  else .ok (w.countOob f.stats 1)

/-- SCAT's firing (R209). -/
def scatData (f : MCFrame) (w : Work) : McR :=
  let b := w.tok f .b f.b
  (w.writeTile 2 f.handle.toNat 0 0).bind fun t =>
    w.byLane (w.tok f .a f.a) 4 (scatLane f t b) fun x => .ok (((x.ack f b).gather f).takeMc f)

/-- SCAT (R209). -/
def execScat (f : MCFrame) (s : State) : Out :=
  mcTurn (mcFire f { writes := true, stores := true, mid := OpState.within, data := scatData f, off := fun w => (w.ack f (w.tok f .b f.b)).takeMc f, stop := closeStop f, mark := id
                     err := fun w _ => w }) s

/-! ### Updates in place (R210 to R212) -/

/-- The combining functions of R100 on patterns of T: the new value and its events; CAS takes `c` as its compare value. -/
def combine (f : MCFrame) (old b c : Nat) : Nat × Ev :=
  match f.subop.toNat with
  | 0 => if f.ty.isFlt then fAdd f.ty .rne f.sat (f.ty.floatOf old) (f.ty.floatOf b) else finInt f.ty f.sat (f.ty.intOf old + f.ty.intOf b)
  | 1 => if f.ty.isFlt then fMinMax f.ty false old b else (if f.ty.intOf b < f.ty.intOf old then b else old, Ev.zero)
  | 2 => if f.ty.isFlt then fMinMax f.ty true old b else (if f.ty.intOf old < f.ty.intOf b then b else old, Ev.zero)
  | 3 => (old &&& b, Ev.zero)
  | 4 => (old ||| b, Ev.zero)
  | 5 => (old ^^^ b, Ev.zero)
  | 6 => (b, Ev.zero)
  | _ => (if old = c then b else old, Ev.zero)

/-- An element of an update whose storage has failed: the ERR that answers the whole firing, whose other accesses are not performed (R195). -/
def Work.failLane (t : Tile) (x n : Nat) (w : Work) : Token × Work :=
  let (e, w1) := w.err ePOISON
  (e, { w1 with s := w1.s.tileFails t 0 x n, op := { w1.op with agIdx := none, col := 0 } })

/-- One lane of RMWA: the update and its place in the answer, whose values are `vals` and whose mask is `bufMask` (R210). -/
def rmwaLane (f : MCFrame) (t : Tile) (b : Token) (x : Nat × Int) (w : Work) : Work :=
  let put := fun (v : Nat) (m : BitVec 16) (y : Work) => { y with op := { y.op with vals := y.op.vals.set x.1 (BitVec.ofNat 32 v), bufMask := m } }
  if elemIn t x.2 then
    let r := combine f (leNat (w.s.tileData t x.2.toNat 4)) (lane b.payload x.1) 0
    put r.1 w.op.bufMask (({ w with s := w.s.setElem t x.2.toNat (leBytes 4 r.1) }).count f.stats r.2)
  else put 0 (w.op.bufMask &&& ~~~(BitVec.twoPow 16 x.1)) (w.countOob f.stats 1)

/-- RMWA starts a firing: port A's lanes stand for those that no access has answered, and the window of recent keys takes its keys (R210, R211). -/
def rmwaStart (t : Tile) (a : Token) (w : Work) : Work :=
  let xs := w.laneAddrs a 4
  let keys := xs.map fun x => lane a.payload x.1
  let recent := w.op.recent.filter fun r => decide (w.s.clk < r.2 + 8)
  let win := recent ++ ((xs.filter fun x => elemIn t x.2).map fun x => (lane a.payload x.1, w.s.clk)).eraseDups
  { w with op := { w.op with
      vals := (List.range 16).map fun l => BitVec.ofNat 32 (lane a.payload l), bufMask := a.mask, recent := win
      busyTo := w.s.clk + 1 + (keys.length - keys.eraseDups.length) } }

/-- Whether RMWA's next firing waits out the window of recent keys (R211). -/
def Work.keyWaits (a : Token) (w : Work) : Bool :=
  decide (w.s.clk < w.op.busyTo)
  || (w.laneAddrs a 4).any fun x => w.op.recent.any fun r => decide (w.s.clk < r.2 + 8) && r.1 == lane a.payload x.1

/-- RMWA's firing: the lanes in ascending order (R210). -/
def rmwaData (f : MCFrame) (w : Work) : McR :=
  let a := w.tok f .a f.a
  let b := w.tok f .b f.b
  (w.writeTile 3 f.handle.toNat 0 0).bind fun t =>
    if !w.op.within && w.keyWaits a then w.stay
    else
      let w1 := if w.op.within then w else rmwaStart t a w
      match (w.laneAddrs a 4).find? fun x => decide (w.op.col ≤ x.1) && elemIn t x.2 && w.s.tileBad t 0 x.2.toNat 4 with
      | some x => let (e, y) := w1.failLane t x.2.toNat 4; .ok ((y.respond f e).takeMc f)
      | none => w1.byLane a 4 (fun x y => .ok (rmwaLane f t b x y)) fun y =>
          .ok (((y.respond f (dataTok y.op.bufMask (packElems 32 (y.op.vals.map BitVec.toNat)))).gather f).takeMc f)

/-- What a predicated-off firing of a read op writes: port A's token (R192). -/
def offBoth (f : MCFrame) (w : Work) : Work := (w.respond f (w.tok f .a f.a)).takeMc f

/-- RMWA (R210). -/
def execRmwa (f : MCFrame) (s : State) : Out :=
  mcTurn (mcFire f { writes := false, stores := true, mid := OpState.within, data := rmwaData f, off := offBoth f, stop := closeStop f, mark := id, err := errBoth }) s

/-- Whether a bit index lies in a tile (R212). -/
def bitIn (t : Tile) (a : Int) : Bool := decide (0 ≤ a) && decide (a.toNat < 8 * t.dataBytes)

/-- One lane of TAS: port A's mask is `bufMask`, and the old bits are `vals` (R212). -/
def tasLane (f : MCFrame) (t : Tile) (x : Nat × Int) (w : Work) : Work :=
  let drop := w.op.bufMask &&& ~~~(BitVec.twoPow 16 x.1)
  if bitIn t x.2 then
    let at8 := x.2.toNat / 8
    let byte := leNat (w.s.tileData t at8 1)
    let bit := byte.testBit (x.2.toNat % 8)
    { w with s := w.s.setElem t at8 (leBytes 1 (byte ||| 2 ^ (x.2.toNat % 8)))
             op := { w.op with bufMask := if bit then drop else w.op.bufMask, vals := if bit then w.op.vals.set x.1 1 else w.op.vals } }
  else let y := w.countOob f.stats 1; { y with op := { y.op with bufMask := drop } }

/-- Queues TAS's answer: filtered A, old bits, and the bit (R212). -/
def Work.tasOut (f : MCFrame) (w : Work) (a b : Token) (bit : Bool) : Work :=
  w.queueItem ⟨some (w.answer f a), some (w.answer f b), some bit, false, none, none, []⟩

/-- The lanes of a token that TAS answers with an old bit: those in range (R212). -/
def Work.bitLanes (t : Tile) (a : Token) (w : Work) : BitVec 16 :=
  ((w.laneAddrs a 1).filter fun x => bitIn t x.2).foldl (fun m x => m ||| BitVec.twoPow 16 x.1) 0

/-- TAS's firing (R212). -/
def tasData (f : MCFrame) (w : Work) : McR :=
  let a := w.tok f .a f.a
  (w.writeTile 3 f.handle.toNat 0 0).bind fun t =>
    let w1 := if w.op.within then w else { w with op := { w.op with bufMask := a.mask, vals := List.replicate 16 0 } }
    match (w.laneAddrs a 1).find? fun x => decide (w.op.col ≤ x.1) && bitIn t x.2 && w.s.tileBad t 0 (x.2.toNat / 8) 1 with
    | some x => let (e, y) := w1.failLane t (x.2.toNat / 8) 1; .ok ((y.tasOut f e e false).takeMc f)
    | none => w1.byLane a 1 (fun x y => .ok (tasLane f t x y)) fun y =>
        .ok (((y.tasOut f { a with mask := y.op.bufMask } (dataTok (y.bitLanes t a) (packElems 32 (y.op.vals.map BitVec.toNat))) (y.op.bufMask != 0)).gather f).takeMc f)

/-- TAS (R212): an ERR and a predicated-off firing write bit 0. -/
def execTas (f : MCFrame) (s : State) : Out :=
  mcTurn (mcFire f { writes := false, stores := true, mid := OpState.within, data := tasData f, off := fun w => (w.tasOut f (w.tok f .a f.a) (w.tok f .a f.a) false).takeMc f
                     stop := closeStop f, mark := id, err := fun w e => w.queueItem ⟨some e, some e, some false, false, none, none, []⟩ }) s

/-! ### Global memory (R195, R213 to R215) -/

/-- What a global request comes to: an address it may use, an ERR in place of the response, or what the op leaves where it waits. -/
inductive GRes
  | ok (w : Work) (pa : Nat) (e : TlbEntry)
  | err (w : Work) (t : Token)
  | wait (w : Work)

/-- The ERR code of a fault code (R32, R195). -/
def errOf (code : Nat) : Nat :=
  if code = fTAGFAIL then eTAGFAIL else if code = fPOISON then ePOISON else if code = fDIERESET then eDIERESET else ePERM

/-- A failed request's ERR, with a record of class 4, but for POISON, whose event alone is logged (R195). -/
def Work.failed (w : Work) (code access va : Nat) : Token × Work :=
  let (t, w1) := w.err (errOf code)
  if code = fPOISON then (t, w1)
  else (t, { w1 with s := w1.s.runRecord w1.run.serial (w1.record 4 access code va w1.s.timestamp) })

/-- A failed request (R195). -/
def Work.reported (w : Work) (code access va : Nat) : GRes := let (t, w1) := w.failed code access va; .err w1 t

/-- A request that its streamer has taken and that does not go on: it waits there no longer. -/
def State.unpresent (s : State) (who : StreamOf) : State := s.updStream who fun x => { x with waiting := false, promoted := false }

/-- A condition of R195 holds a request of a stream. -/
def Work.holdReq (w : Work) (code access va : Nat) : GRes :=
  let x := (w.hold code access va).out
  .wait { x with s := (x.s.dropWalkFault w.die w.run.asid va).unpresent (.cell w.run.serial w.slot w.o.index) }

/-- One request of a global op (R195, R213, R354): everything its tokens are ordered after has been applied at its die, its streamer serves it, its
address translates, its page has the op's type, its die aims at the present incarnation of the home (R385), and its block does not fail. -/
def Work.request (f : MCFrame) (w : Work) (need : Need) (va : Nat) : GRes :=
  let who := StreamOf.cell w.run.serial w.slot w.o.index
  if !w.s.applied w.die (w.portDeps f) then .wait w.back
  else if !(w.s.streams.any fun x => x.who == who) then .wait { w.back with s := w.s0.openStream w.die who }
  else if !w.s.mayServe who then .wait { w.back with s := w.s0.present who }
  else match w.s.translate w.die w.run.partition w.run.asid va need with
    | .miss p => .wait { w.back with s := (w.s0.queueWalks w.die w.run.asid [p]).unpresent who }
    | .bad c a =>
      if c = fXLATE then w.holdReq c a va
      else ({ w with s := (w.s.dropWalkFault w.die w.run.asid va).served who }).reported c a va
    | .ok pa e =>
      if !fmtValid e.format || fmtTy e.format != some f.ty then w.holdReq fFMT need.code va
      else
        let (i, s1) := if paHbm pa then w.s.aim w.die (w.s.homeOf pa) else (0, w.s)
        if paHbm pa && i != s1.inc (s1.homeOf pa) then ({ w with s := s1.served who }).reported fDIERESET need.code va
        else
          let s2 := (s1.cacheBlock e.shared pa).served who
          match s2.blockFault e.shared pa with
          | some c => ({ w with s := s2.logBlock c w.run.partition pa }).reported c need.code va
          | none => .ok { w with s := s2 } pa e

/-- The end of an access through a translation whose cache class does not keep its block (R320). -/
def Work.leaves (w : Work) (e : TlbEntry) (pa : Nat) : Work := { w with s := w.s.leaveBlock e.cls e.shared pa }

/-- A request to memory outside the package goes out and waits for its own answer (R395, R402). -/
def Work.outside (f : MCFrame) (w : Work) (va pa : Nat) (mask : BitVec 16) (access : Nat) (b : Option Token) (op : OutOp) (len : Nat) : Work :=
  let n := w.s.nextSerial
  let s1 := w.s.askOutside w.die w.run.partition w.run.asid (.cell ⟨w.run.serial, w.slot, w.o⟩) va pa len op
  let ack := b.map fun (t : Token) => w.answer f { t with deps := t.deps ++ w.op.deps }
  ({ w with s := s1 }).queueItem ⟨none, ack, none, false, some ⟨n, va, pa, mask, access, (w.deps ++ w.portDeps f).eraseDups⟩, none, []⟩

/-- The valid lanes of a token, byte by byte: what its access writes (R196). -/
def Token.laneBytes (t : Token) : List (Option Byte) :=
  (List.range 16).flatMap fun l => (leBytes 4 (lane t.payload l)).map fun b => if t.mask.getLsbD l then some b else none

/-- A write outside the package: the valid lanes as one request. -/
def Work.outsideWrite (f : MCFrame) (w : Work) (va pa : Nat) (b : Token) : Work :=
  if b.mask = 0 then w.ack f b else w.outside f va pa 0 2 (some b) (.write b.laneBytes) 64

/-- The virtual address of an offset: imm64 + offset modulo 2^64. -/
def Work.gva (f : MCFrame) (off : Int) : Nat := (((f.imm.toNat : Int) + off) % 2 ^ 64).toNat

/-- Lanes 1:0 as I64. -/
def off64 (t : Token) : Int := (lanes10 t.payload).toInt

/-- One 64-byte read (R213); `k` goes on after its response is queued. -/
def lreqOne (f : MCFrame) (w : Work) (off : Int) (k : Work → McR) : McR :=
  let va := Work.gva f off / 64 * 64
  match w.request f ⟨true, false, false⟩ va with
  | .wait x => .error x
  | .err x t => k (x.respond f t)
  | .ok x pa e =>
    if paHbm pa then k (((x.respond f (dataTok 0xFFFF (payloadOf (x.s.viewBytes x.die pa 64)))).asking ⟨[x.s.homeOf pa], va, 1⟩).leaves e pa)
    else k (x.outside f va pa 0xFFFF 1 none .read 64)

/-- LREQ's firing: one request a turn (R213). -/
def lreqData (f : MCFrame) (w : Work) : McR :=
  let a := w.tok f .a f.a
  match w.gen with
  | none => lreqOne f w (off64 a) fun x => .ok (x.takeMc f)
  | some g =>
    if g.mode = .indir then
      let l := w.op.col
      let nextLane := fun (x : Work) =>
        let y := { x with op := { x.op with col := (l + 1) % 16 } }
        if l + 1 < 16 then y else y.takeMc f
      if a.mask.getLsbD l then lreqOne f w (elemAddr (some g) 1 (lane a.payload l) 0) fun x => .ok (nextLane x)
      else .ok (nextLane w)
    else if !w.mayPass f then w.stay
    else if w.op.agIdx.isNone && g.empty w.run.recd.args then w.emptyPass f g
    else
      let idx := w.op.agIdx.getD g.start
      lreqOne f w (g.addr idx w.op.agPos) fun x => x.passOn f g idx

/-- LREQ (R213). -/
def execLreq (f : MCFrame) (s : State) : Out :=
  mcTurn (mcFire f { writes := false, stores := false, mid := OpState.within, data := lreqData f, off := id, stop := noStop, mark := id, err := errBoth }) s

/-- Writes the valid lanes of a token at an address, as one event (R196, R294). -/
def State.storeLanes (s : State) (die : Nat) (deps : List Nat) (shared : Bool) (pa : Nat) (t : Token) : State :=
  if t.mask = 0 then s else s.storeSome die none noOrd (fun _ => deps) shared pa t.laneBytes

/-- SREQ's firing (R214). -/
def sreqData (f : MCFrame) (w : Work) : McR :=
  let b := w.tok f .b f.b
  let (a, w1) := match w.gen with
    | some g => w.writeAddr g
    | none => (some (off64 (w.tok f .a f.a)), w)
  match a with
  | none => .ok (((w1.countOob f.stats 1).ack f b).takeMc f)
  | some off =>
    let va := Work.gva f off / 64 * 64
    match w1.request f ⟨false, true, false⟩ va with
    | .wait x => .error x
    | .err x t => .ok ((x.ack f t).takeMc f)
    | .ok x pa e =>
      if paHbm pa then
        .ok (((((({ x with s := x.s.storeLanes x.die (x.portDeps f) e.shared pa b }).ack f b).asking ⟨[x.s.homeOf pa], va, 2⟩).gather f).takeMc f).leaves e pa)
      else .ok (((x.outsideWrite f va pa b).gather f).takeMc f)

/-- A predicated-off SREQ takes its address and writes nothing (R191, R192, R203). -/
def sreqOff (f : MCFrame) (w : Work) : Work :=
  let w1 := match w.gen with | some g => (w.writeAddr g).2 | none => w
  (w1.ack f (w.tok f .b f.b)).takeMc f

/-- A STOP at SREQ restarts the generator's pass at its stop level (R203). -/
def sreqStop (f : MCFrame) (level : BitVec 3) (w : Work) : McR :=
  .ok (if f.level ≤ level then { w with op := { w.op with agIdx := none, passes := 0 } } else w)

/-- SREQ (R214). -/
def execSreq (f : MCFrame) (s : State) : Out :=
  mcTurn (mcFire f { writes := true, stores := true, mid := OpState.never, data := sreqData f, off := sreqOff f, stop := sreqStop f, mark := id, err := fun w _ => w }) s

/-- ATOM's firing: one atomic access at the home, ordered as AR at the op's scope (R215). It goes once every earlier read of the cell has bound
its value (R287). -/
def atomData (f : MCFrame) (w : Work) : McR :=
  let n := f.ty.width / 8
  let va := Work.gva f (off64 (w.tok f .a f.a)) / n * n
  let b := elem (w.tok f .b f.b).payload f.ty.width 0
  let c := elem (w.tok f .c f.c).payload f.ty.width 0
  let mask : BitVec 16 := if n = 8 then 3 else 1
  if w.op.mcq.any fun x => x.out.isSome then w.stay
  else match w.request f ⟨true, true, true⟩ va with
  | .wait x => .error x
  | .err x t => .ok ((x.respond f t).takeMc f)
  | .ok x pa e =>
    if !paHbm pa then .ok ((x.outside f va pa mask 3 none (.atom f b c) n).takeMc f)
    else if !x.s.upToDate x.die pa n then w.stay
    else
      let old := leNat (Memory.readBytes x.s.mem pa n)
      let r := combine f old b c
      let deps := fun d => (x.s.relDeps (x.s.modeOf x.run.asid) f.scope.seq x.die d ++ x.portDeps f).eraseDups
      let y := ({ x with s := x.s.store x.die none noOrd deps e.shared pa (leBytes n r.1) }).count f.stats r.2
      .ok (((((y.respond f (dataTok mask (packElems f.ty.width [old]))).asking ⟨[x.s.homeOf pa], va, 3⟩).gather f).takeMc f).leaves e pa)

/-- ATOM (R215). -/
def execAtom (f : MCFrame) (s : State) : Out :=
  mcTurn (mcFire f { writes := false, stores := true, mid := OpState.never, data := atomData f, off := offBoth f, stop := noStop, mark := id, err := errBoth }) s

/-! ### FIFO and LUT (R216, R217) -/

/-- FIFO delivers its oldest token to OA and OB, as its storage holds it: from a word with an uncorrectable error ERR POISON goes in its place, and
the tile stays as it is (R216, R331); a block of an HB tile that fails moves the tile to POISON (R332). -/
def fifoOut (f : MCFrame) (t : Tile) (w : Work) : Work :=
  match w.op.ring with
  | [] => w
  | x :: rest =>
    let at64 := 64 * w.op.rptr
    let (y, w1) :=
      if x.bad || w.s.tileBad t 0 at64 64 then
        let (e, v) := w.err ePOISON
        (e, if t.hb && !x.bad then { v with s := v.s.tileFails t 0 at64 64 } else v)
      else ({ x with payload := payloadOf (w.s.tileData t at64 64) }, { w with s := w.s.touchTile t 0 at64 64 })
    let fs := [f.oa, f.ob]
    let waits := { w with s := w.asks fs [(0, y), (1, y)] w.s }
    if w.outRoom fs (0, y) && w.outRoom fs (1, y) then
      let w2 := Work.outPut fs (Work.outPut fs w1 (0, y)) (1, y)
      let w3 := { w2 with op := { w2.op with ring := rest, rptr := (w.op.rptr + 1) % (t.rows * t.k) } }
      if w3.fitsAll then w3 else waits
    else waits

/-- FIFO accepts a token of port B while fewer than C are held, of every kind, without change. -/
def fifoIn (f : MCFrame) (t : Tile) (w : Work) : Work :=
  let c := t.rows * t.k
  match w.headAt f.b.src (w.reader .b) with
  | none => w
  | some x =>
    if c ≤ w.op.ring.length || w.op.parked w.run then w
    else
      let at64 := 64 * ((w.op.rptr + w.op.ring.length) % c)
      let w1 := w.pop f.b.src (w.reader .b)
      let w2 := if x.isStop then w1.passStop x.level x.ride else if x.isMarker then w1.passMarker x else w1
      { w2 with s := w2.s.setTileData t at64 (leBytes 64 x.payload.toNat), op := { w2.op with ring := w2.op.ring ++ [x] } }

/-- FIFO's pointers with an uncorrectable error: the oldest token becomes ERR POISON (R389, DEDUCED, assumption 112). -/
def Work.readPointers (w : Work) : Work :=
  if w.op.bad then
    let (e, w1) := ({ w with op := { w.op with bad := false } }).err ePOISON
    { w1 with op := { w1.op with ring := match w1.op.ring with | [] => [] | _ :: rest => { e with bad := true } :: rest } }
  else w

/-- FIFO (R216): each turn it may write its oldest token and take one. Its tile must be FILLING (R194). -/
def execFifo (f : MCFrame) (s : State) : Out :=
  match s.workAt s.focus with
  | none => .next s
  | some w0 =>
    let w := w0.readPointers
    if w.op.heldReq.isSome || (w.op.ring.isEmpty && (w.queue f.b.src (w.reader .b)).isEmpty) then .next w.s0
    else match w.writeTile 2 f.handle.toNat 0 0 with
      | .error x => .next x.store
      | .ok t => .next (fifoIn f t (fifoOut f t w)).store

/-- LUT's firing: each valid lane's element of the copy, or imm64 [31:0] beyond it (R217). -/
def lutData (f : MCFrame) (w : Work) : McR :=
  let a := w.tok f .a f.a
  match w.op.bank with
  | none =>
    match w.s.tile w.die w.run.partition f.handle.toNat with
    | some t => if t.state = .poison then .ok ((w.respond f (w.err ePOISON).1).takeMc f) else w.stay
    | none => w.stay
  | some copy =>
    let ls := (List.range 16).filter fun l => a.mask.getLsbD l
    let miss := (ls.filter fun l => decide (copy.length ≤ lane a.payload l)).length
    let ys := (List.range 16).map fun l =>
      if a.mask.getLsbD l then ((copy[lane a.payload l]?).getD (f.imm.setWidth 32)).toNat else lane a.payload l
    .ok ((((w.countOob f.stats miss)).respond f { dataTok a.mask (packElems 32 ys) with deps := w.op.deps }).takeMc f)

/-- LUT (R217): it serves from its copy, which LUT_COPY makes. -/
def execLut (f : MCFrame) (s : State) : Out :=
  mcTurn (mcFire f { writes := false, stores := false, mid := OpState.never, data := lutData f, off := id, stop := noStop, mark := id, err := errBoth }) s

/-- The elements of LUT's copy: rows in order, at most 4,096, a row not valid as zeros (R217). -/
def State.lutCopy (s : State) (t : Tile) : List (BitVec 32) :=
  (List.range (Nat.min 4096 (t.dataBytes / 4))).map fun i =>
    if rowValid t (4 * i) then BitVec.ofNat 32 (leNat (s.tileData t (4 * i) 4)) else 0

/-- LUT_COPY (R217): a LUT copies its tile once after its configuration, as a peek that waits for FULL. -/
def execLutCopy (p : OpPlace) (s : State) : Out :=
  match s.workAt p, s.opInstr p with
  | some w, some (.lut f) =>
    if w.op.heldReq.isSome || w.op.bank.isSome then .next s
    else match w.readTile { f with consume := false } f.handle.toNat with
      | .error x => .next x.store
      | .ok (w1, t) =>
        if t.state = .poison then .next s
        else if w1.s.tileBad t 0 0 (Nat.min 16384 t.dataBytes) then .next (s.tileFails t 0 0 (Nat.min 16384 t.dataBytes))
        else .next ({ w1 with s := w1.s.touchTile t 0 0 (Nat.min 16384 t.dataBytes), op := { w1.op with bank := some (w1.s.lutCopy t), deps := w1.s.onWay t.deps } }).store
  | _, _ => .next s

/-! ### Responses and acknowledgements (R189 to R191) -/

/-- The oldest answer of an op leaves its outputs, once each has room; the consuming reads of a sequence end with its STOP (R193). -/
def mcDeliver (acks : Bool) (p : OpPlace) (s : State) : Out :=
  match s.workAt p, (s.opInstr p).bind fun i => i.mcFrame.map fun f => (i.acks, f) with
  | some w, some (k, f) =>
    match w.op.mcq with
    | [] => .next s
    | x :: rest =>
      let fs := [f.oa, f.ob]
      let toks := (match x.a with | some t => [(0, t)] | none => []) ++ (match x.b with | some t => [(1, t)] | none => [])
      if k != acks || x.out.isSome || !(toks.all (w.outRoom fs)) || (x.bit.isSome && !w.proom f.pout) then .next (w.asks fs toks s)
      else
        let w1 := toks.foldl (Work.outPut fs) w
        let w2 := match x.bit with | some b => (w1.after (toks.flatMap fun (t : Nat × Token) => t.2.deps)).pput f.pout b | none => w1
        let w3 := { w2 with s := x.reads.foldl (fun (y : State) (r : ReadInProg) => y.endRead r.tile r.slot) w2.s
                            op := { w2.op with mcq := rest } }
        if w3.fitsAll then .next w3.store else .next (w.asks fs toks s)
  | _, _ => .next s

/-- The answer of a request that was outstanding at a die that reset, or on a link that failed: ERR DIERESET in its place, with a record (R195,
R385, R387). -/
def Work.loseItem (hit : Asked → Bool) (w : Work) (x : McItem) : McItem × Work :=
  match x.asked with
  | none => (x, w)
  | some a =>
    if !hit a then (x, w)
    else
      let (f, s1) := w.s.drawNat
      if f % 2 = 0 then ({ x with asked := none }, { w with s := s1 })
      else
        let (e, w1) := ({ w with s := s1 }).failed fDIERESET a.access a.va
        ({ x with a := x.a.map fun t => { e with deps := t.deps }, b := x.b.map fun t => { e with deps := t.deps }, asked := none }, w1)

/-- The answers that an op has queued, those hit lost; each of them freely had come before (assumption 3). -/
def Work.loseItems (hit : Asked → Bool) : List McItem → Work → List McItem × Work
  | [], w => ([], w)
  | x :: xs, w =>
    let (y, w1) := w.loseItem hit x
    let (ys, w2) := Work.loseItems hit xs w1
    (y :: ys, w2)

/-- Every memory cell loses the answers that a test on the cell's die picks. -/
def State.loseAnswers (s : State) (hit : Nat → Asked → Bool) : State :=
  let places := s.runs.flatMap fun r => r.stripes.flatMap fun p => (p.2.ops.filter fun o => !o.2.mcq.isEmpty).map fun o => (⟨r.serial, p.1, o.1⟩ : OpPlace)
  places.foldl (fun (y : State) p => match y.workOf p with
    | none => y
    | some w =>
      let (q, w1) := Work.loseItems (hit w.die) w.op.mcq w
      ({ w1 with op := { w1.op with mcq := q } }).store) s

/-- MC_RESPONSE (R189, R190): the oldest response of a reading op leaves it. -/
def execMcResponse (p : OpPlace) (s : State) : Out := mcDeliver false p s
/-- MC_ACKNOWLEDGE (R191): the oldest acknowledgement of a write op leaves it. -/
def execMcAcknowledge (p : OpPlace) (s : State) : Out := mcDeliver true p s

end Sys2Proof.Machine
end

