-- ==== Sys2Proof/Machine/Images.lean ====
section
/-! DEFINITION. Machine/Images: the directory, the acceptance of a stripe image, and the configuration caches (R88 to R93, R106, R107, R268, R349). -/
namespace Sys2Proof.Machine

/-! ### The check of an image (R89 to R92, R106) -/

/-- The frames of an image in stored order. -/
def framesOf : Nat → List Byte → List Frame
  | 0, _ => []
  | n + 1, bs => BitVec.ofNat 256 (leNat (bs.take 32)) :: framesOf n (bs.drop 32)

/-- The CRC field of a first frame: bits 154 to 123, whatever its class (R91). -/
def crcField (w : Frame) : BitVec 32 := w.extractLsb' 123 32

/-- A first frame with its CRC field taken as zero. -/
def crcBlank (w : Frame) : Frame := w &&& ~~~((0xFFFFFFFF#256) <<< 123)

/-- Whether the CRC of an image matches (R91). -/
def crcOk (bs : List Byte) : Bool :=
  let w : Frame := BitVec.ofNat 256 (leNat (bs.take 32))
  crc32c (leBytes 32 (crcBlank w).toNat ++ bs.drop 32) == crcField w

/-- Every frame decoded, or none where one is rejected. -/
def decodeAll : List Frame → Option (List AnyFrame)
  | [] => some []
  | w :: ws => match decodeFrame w with
    | .ok x => (decodeAll ws).map fun xs => x :: xs
    | .error _ => none

/-- The effective depths of SL0 to SL15 and PA0 to PA31: a value of 0, or no DT frame, means 2 (R90, R93). -/
def depthsOf (xs : List AnyFrame) : List Nat :=
  let w : BitVec 240 := match xs.filterMap fun x => match x with | .depths d => some d | _ => none with | d :: _ => d | [] => 0
  (List.range 48).map fun n => if w.extractLsb' (5 * n) 5 = 0 then 2 else (w.extractLsb' (5 * n) 5).toNat

/-- An HD frame's own rules in a run (R92). -/
def hdOk (rec : RunRec) (vs frames : Nat) (h : HDFrame) : Bool :=
  decide (h.vs.toNat = vs) && decide (h.round.toNat = rec.round) && decide (h.safe.toNat = rec.safe) && (h.first == decide (vs = 0))
  && (h.last == decide (vs + 1 = rec.v)) && h.bitmap.extractLsb' 8 8 == 0 && (h.stateful || h.bitmap == 0) && decide (h.length.toNat = frames)

/-- The image of a list of decoded frames, when it keeps R106. -/
def imageOf (rec : RunRec) (vs frames : Nat) (xs : List AnyFrame) : Option Image :=
  let ops := xs.filterMap fun x => match x with | .op a i => some (a, i) | _ => none
  let gens : Tab AGFrame := xs.filterMap fun x => match x with | .gen g => some (g.cell.val, g) | _ => none
  let depths := depthsOf xs
  let ends := (xs.filter fun x => match x with | .last => true | _ => false).length
  match xs with
  | .hd h :: _ =>
    if hdOk rec vs frames h && decide (ends = 1) && xs.getLast? == some .last
        && (gens.all fun g => g.2.mode == .off || ops.any fun o => o.1.cls == .mc && o.1.index == g.1)
        && ops.all (opLegal gens) && decide (depths.foldl (· + ·) 0 ≤ 512) && writersOk ops && borderOk h.first h.last ops && edgesOk ops
        && matrixOk ops then
      some ⟨h, depths, ops, gens⟩
    else none
  | _ => none

/-- The acceptance of an image: the image, or the fault code that rejects it; CFGBAD comes before every ILLCFG (R91, R106). -/
def acceptImage (rec : RunRec) (vs frames : Nat) (bs : List Byte) : Except Nat Image :=
  let ws := framesOf frames bs
  if !crcOk bs then .error fCFGBAD
  else if !allDiff (ws.map fun w => w.extractLsb' 240 16) then .error fILLCFG
  else match (decodeAll ws).bind (imageOf rec vs frames) with
    | some im => .ok im
    | none => .error fILLCFG

/-! ### Reading directories and images (R88, R107) -/

/-- What reading for the scroll controller gives: a value, pages to walk, bytes outside the package to wait for, a part of an image with the rest
still to be read, a condition that holds the configuration, a block that fails, or a rejection. -/
inductive Fetch (α : Type)
  | ok (a : α)
  | miss (pages : List Nat)
  | out (va pa len : Nat)
  | part (va : Nat) (bs : List Byte)
  | hold (code va : Nat)
  | sick (code va : Nat)
  | bad (code : Nat)

/-- Goes on with the value. -/
def Fetch.andThen {α β : Type} (x : Fetch α) (f : α → Fetch β) : Fetch β :=
  match x with
  | .ok a => f a
  | .miss p => .miss p
  | .out v p n => .out v p n
  | .part v bs => .part v bs
  | .hold c v => .hold c v
  | .sick c v => .sick c v
  | .bad c => .bad c

/-- A reading that goes on: pages are walked, bytes outside the package are asked for (R395), or a part of an image has been read. -/
def State.fetchOn {α : Type} (s : State) (r : Run) (die : Nat) (x : Fetch α) : State :=
  match x with
  | .miss pages => s.queueWalks die r.asid pages
  | .out va pa len => s.askOnce die r.partition r.asid (.run r.serial) va pa len .read
  | .part va bs => (s.touchV die r.partition r.asid va bs.length).updRun r.serial fun y => { y with fetch := some (va, bs) }
  | .ok _ | .hold .. | .sick .. | .bad _ => s

/-- The scroll controller's reading of bytes in a run's context, from a die. -/
def State.scrollRead (s : State) (r : Run) (die va n : Nat) : Fetch (List Byte) :=
  match s.readV die r.partition r.asid (.run r.serial) va n with
  | .ok bs => .ok bs
  | .miss p => .miss p
  | .out v p len => .out v p len
  | .bad c _ v => if c = fTAGFAIL || c = fPOISON then .sick c v else .hold c v

/-- A directory entry: the address and the frames of an image (R88). -/
def dirEntryOf (images : Word) (e : Nat) : Fetch (Nat × Nat) :=
  let off := e % 2 ^ 32
  let n := e / 2 ^ 32 % 2 ^ 16
  if e / 2 ^ 48 = 0 ∧ off % 32 = 0 ∧ 3 ≤ n ∧ n ≤ 160 then .ok ((images.toNat + off) % 2 ^ 64, n) else .bad fILLCFG

/-- The directory and the entries already read that a virtual stripe is to be configured from: the run's own, or those of an accepted
swap, once the stripe has taken the new image, or it has passed the stripe before it without a STOP for this one left (R268). -/
def Run.imageSource (r : Run) (vs : Nat) : Word × Tab (Nat × Nat) × Bool :=
  match r.pending with
  | some p =>
    let passed := decide (0 < vs) && (Tab.find r.taken (vs - 1)).isSome && !(r.seams.any fun q => q.vs == vs && q.toks.any fun t => t.swap)
    if p.accepted && ((Tab.find r.taken vs).isSome || passed) then (p.va, p.dir, true) else (r.images, r.dir, false)
  | none => (r.images, r.dir, false)

/-- Keeps a directory entry that was read. -/
def Run.keepDir (r : Run) (fresh : Bool) (vs : Nat) (e : Nat × Nat) : Run :=
  if fresh then { r with pending := r.pending.map fun p => { p with dir := Tab.set p.dir vs e } } else { r with dir := Tab.set r.dir vs e }

/-- The entry of a virtual stripe: as read before, or read and checked now. -/
def State.dirEntry (s : State) (r : Run) (die vs : Nat) (images : Word) (dir : Tab (Nat × Nat)) : Fetch (Nat × Nat) :=
  match Tab.find dir vs with
  | some e => .ok e
  | none => (s.scrollRead r die (images.toNat + 8 * vs) 8).andThen fun bs => dirEntryOf images (leNat bs)

/-- Reads the image of a virtual stripe, freely the next of its 2 KiB blocks or all that is left (R294, R303, assumption 3), and checks it once it
is whole; gives its directory entry with it. -/
def State.fetchImage (s : State) (r : Run) (die vs : Nat) (images : Word) (dir : Tab (Nat × Nat)) : Fetch ((Nat × Nat) × Image) :=
  (s.dirEntry r die vs images dir).andThen fun e =>
    let got := match r.fetch with | some (va, bs) => if va = e.1 ∧ bs.length < 32 * e.2 then bs else [] | none => []
    let left := 32 * e.2 - got.length
    let va := e.1 + got.length
    let n := if Config.freeNat s.freeCtr % 2 = 0 then left else min left (2048 - va % 2048)
    (s.scrollRead r die va n).andThen fun bs =>
      if n < left then .part e.1 (got ++ bs)
      else match acceptImage r.recd vs e.2 (got ++ bs) with
      | .ok im => .ok (e, im)
      | .error c => .bad c

/-! ### The configuration caches (R349) -/

/-- An entry that serves a virtual stripe of a run: same context and address, still good, and with the fields R92 asks of it there. -/
def CacheEntry.serves (r : Run) (vs : Nat) (e : Nat × Nat) (c : CacheEntry) : Bool :=
  c.partition == r.partition && c.asid == r.asid && c.va == e.1 && c.length == e.2 && !c.bad && hdOk r.recd vs e.2 c.image.hd

/-- The cached image of a virtual stripe in a ring's cache. -/
def State.cached (s : State) (ring : Nat) (r : Run) (vs : Nat) (e : Nat × Nat) : Option Image :=
  ((Tab.get s.caches [] ring).find? (CacheEntry.serves r vs e)).map fun c => c.image

/-- A use of an entry makes it the most recent. -/
def State.touch (s : State) (ring : Nat) (r : Run) (vs : Nat) (e : Nat × Nat) : State :=
  let l := Tab.get s.caches [] ring
  { s with caches := Tab.set s.caches ring (l.filter (fun c => !CacheEntry.serves r vs e c) ++ l.filter (CacheEntry.serves r vs e)) }

/-- An accepted image enters a ring's cache of 512 entries; the least recently used one goes. -/
def State.keepImage (s : State) (ring : Nat) (r : Run) (e : Nat × Nat) (im : Image) : State :=
  let same := fun (c : CacheEntry) => c.partition == r.partition && c.asid == r.asid && c.va == e.1
  let l := (Tab.get s.caches [] ring).filter (fun c => !same c) ++ [⟨r.partition, r.asid, e.1, e.2, im, false⟩]
  { s with caches := Tab.set s.caches ring (l.drop (l.length - 512)) }

/-- What was brought for an image is used up or given up. -/
def State.dropFetch (s : State) (r : Run) : State := (s.forget (.run r.serial)).updRun r.serial fun y => { y with fetch := none }

/-- An image of a virtual stripe that has been read from the directory at `images` and checked enters a ring's cache; the blocks it was read from
are cached (R326). -/
def State.keepFetched (s : State) (ring : Nat) (r : Run) (images : Word) (vs : Nat) (x : (Nat × Nat) × Image) : State :=
  let touch := fun (va n : Nat) (y : State) => y.touchV (ringDie ring) r.partition r.asid va n
  ((touch x.1.1 (32 * x.1.2) (touch (images.toNat + 8 * vs) 8 s)).keepImage ring r x.1 x.2).dropFetch r

/-! ### Records of the scroll controller (R107, R351, R383) -/

/-- The word 0 fields of the scroll controller of a slot's ring. -/
def State.slotRecord (s : State) (r : Run) (slot vs cls access code va : Nat) (time : Word) : FRec :=
  let ring := r.slotPhys slot
  ⟨faultWord0 (s.inc (ringDie ring)) r.partition (sourceNo (ringDie ring) (210 + ring % 4)) vs 0 0 cls access code, time,
    BitVec.ofNat 64 va, r.opId⟩

/-- A condition holds the configuration or transfer of a slot, and every later one, with a record of class 3 (R107, R351). -/
def State.holdSlot (s : State) (r : Run) (slot vs access code va : Nat) : State :=
  let s1 := (s.dropWalkFault (ringDie (r.slotPhys slot)) r.asid va).forget (.run r.serial)
  (s1.updRun r.serial fun x => { x with heldCfg := some ⟨code, va⟩ }).runRecord r.serial (s1.slotRecord r slot vs 3 access code va s1.timestamp)

/-- The run ends by a failure of a slot, with a record of class 7 (R107, R351, R389). -/
def State.endSlot (s : State) (r : Run) (slot vs access code va cause : Nat) : State :=
  (s.runRecord r.serial (s.slotRecord r slot vs 7 access code va s.timestamp)).endRunSoon r.serial cause

/-- Whether a run is being stopped at once. -/
def Run.stopped (r : Run) : Bool := match r.stopping with | .now _ => true | _ => false

/-- Whether the scroll controller of a run works: it is running, not stopped, and nothing holds its configurations. -/
def Run.scrolls (r : Run) : Bool := decide (r.phase = .running) && !r.stopped && r.heldCfg.isNone

/-- The ring that slot `i` lies on once a migration is over (R379). -/
def Run.targetPhys (r : Run) (i : Nat) : Nat :=
  match r.marking with | some (.migration targets _) => (targets[i / 32]?).getD 0 | _ => r.slotPhys i

/-- Whether a released slot goes on to its next configuration where it is made again: it had retired, or the STOP it was released at is its round
STOP too (R371, DEDUCED, assumption 74). -/
def Released.gone (r : Run) (x : Released) : Bool := !x.unretired || x.stripe.retires r

/-- The next slot that a migration is to make on its target: the lowest configuration of those released and not made there (R379); none while an
image swap is pending, which takes effect at the resumption (R375). -/
def Run.toMove (r : Run) : Option Released :=
  match r.marking, r.pending with
  | some (.migration ..), none =>
    (r.released.filter fun x => (Tab.find r.moved x.slot).isNone).foldl
      (fun b x => match b with | some y => if x.k < y.k then some x else b | none => some x) none
  | _, _ => none

/-- The configuration that needs a virtual stripe's image: one to be made again, the next one or one of the eight after it (R349), or the next of a
migration. -/
def Run.wants (r : Run) (vs : Nat) : Option Nat :=
  let ahead := if r.marking.isSome then [] else
    ((List.range 9).map fun i => r.nextK + i).filter fun k => decide (r.p < r.recd.v) || decide (k < r.recd.v)
  (r.resumeK ++ ahead ++ r.toMove.toList.map fun x => x.k).find? fun k => k % r.recd.v == vs

/-- STRIPE_IMAGE_ACCEPT (R88, R106, R107, R349): the image of a virtual stripe that a configuration needs is read, checked, and enters the
cache of its slot's ring. A failure counts once the configuration is the next one and its slot is free: XLATE and PERM hold it, TAGFAIL
and POISON end the run with cause 3, a rejection with cause 4. -/
def execStripeImageAccept (run vs : Nat) (s : State) : Out :=
  match s.run run with
  | none => .next s
  | some r =>
    match r.wants vs with
    | none => .next s
    | some k =>
      let slot := k % r.p
      let moving := (r.toMove.map fun x => x.k) == some k
      let ring := if moving then r.targetPhys slot else r.slotPhys slot
      let die := ringDie ring
      if !r.scrolls || !s.applied die r.deps then .next s
      else
        let (images, dir, fresh) := r.imageSource vs
        let due := decide (r.dueConfig = some k) || moving
        match s.fetchImage r die vs images dir with
        | .ok x => .next ((s.keepFetched ring r images vs x).updRun run fun y => y.keepDir fresh vs x.1)
        | .hold c va => .next (if due then s.holdSlot r slot vs 6 c va else (s.dropWalkFault die r.asid va).dropFetch r)
        | .sick c va => .next (if due then (s.noteBlock die r.partition r.asid c va).endSlot r slot vs 6 c va 3 else s.dropFetch r)
        | .bad c => .next (if due then s.endSlot r slot vs 6 c images.toNat 4 else s.dropFetch r)
        | x => .next (s.fetchOn r die x)

end Sys2Proof.Machine
end

