-- ==== Sys2Proof/Machine/Scroll.lean ====
section
/-! DEFINITION. Machine/Scroll: the scroll controller: configuration, retirement, saving and restoring of state, seam FIFOs, the release of slots, and image swaps (R36 to R42, R268, R349 to R353, R371 to R377). -/
namespace Sys2Proof.Machine

/-! ### Channels of a configuration (R16 to R18, R93, R98) -/

/-- The data channel that a source of an op names in its stripe. -/
def srcChanOf (a : OpAddr) (src : Src) : Option ChanId :=
  match src with
  | .pa n => some (.pa n.val)
  | .sl n => some (.sl n.val)
  | .st j => some (.edge a.index j.val a.slot)
  | .imm | .zero | .arg _ | .unused => none

/-- The predicate channel that a source of an op names in its stripe. -/
def psrcChanOf (a : OpAddr) (src : PSrc) : Option PChanId :=
  match src with
  | .pp n => some (.pp n.val)
  | .pl n => some (.pl n.val)
  | .ps j => some (.edge a.index j.val a.slot)
  | .none => none

/-- The data channels that an image reads, each with a reader. -/
def Image.reads (im : Image) : List (ChanId × Reader) :=
  im.ops.flatMap fun o => (instrReads o.1 o.2).filterMap fun x => (srcChanOf o.1 x.1).map fun c => (c, x.2)

/-- The predicate channels that an image reads, each with a reader. -/
def Image.preads (im : Image) : List (PChanId × Reader) :=
  im.ops.flatMap fun o => (instrPreads o.1 o.2).filterMap fun x => (psrcChanOf o.1 x.1).map fun c => (c, x.2)

/-- The predicate channel of its stripe that a destination of a node names. -/
def pdstChanOf (a : OpAddr) : PDst → Option PChanId
  | .pl n => some (.pl n.val)
  | .ps j => some (.edge a.index a.slot j.val)
  | .pp _ | .q _ | .none => none

/-- The predicate channels within a stripe, and the pass predicates it writes, that nodes without an input fill: a PGEN with none (R172), and
the nodes that read from such alone; `given` are its own pass predicates that come so from the stripe before it. -/
def Image.selfFed (im : Image) (given : List Nat) : List PChanId × List Nat :=
  let node := fun (x : List PChanId × List Nat) (o : OpAddr × Instr) =>
    match Instr.pnFrame o.2 with
    | none => x
    | some f =>
      let outs := [f.out0, f.out1, f.out2, f.out3]
      if [f.in0, f.in1, f.in2].all fun i => (psrcChanOf o.1 i).all x.1.contains then
        ((x.1 ++ outs.filterMap (pdstChanOf o.1)).eraseDups,
          (x.2 ++ outs.filterMap fun d => match d with | .pp n => some n.val | _ => none).eraseDups)
      else x
  im.ops.foldl (fun x _ => im.ops.foldl node x) (given.map PChanId.pp, [])

/-- What a run remembers of the pass predicates that a stripe's nodes fill by themselves, at its configuration. -/
def Run.feeds (r : Run) (vs : Nat) (im : Image) : Run :=
  let given := r.selfFed.filterMap fun x => if x.1 = vs then some x.2 else none
  let next := (vs + 1) % r.recd.v
  { r with selfFed := r.selfFed.filter (fun x => x.1 != next) ++ (im.selfFed given).2.map fun n => (next, n) }

/-- The depth of a channel: from the DT frame, or 2 for a stage edge (R16). -/
def Image.depth (im : Image) (c : ChanId) : Nat :=
  match c with
  | .pa n => (im.depths[16 + n]?).getD 2
  | .sl n => (im.depths[n]?).getD 2
  | .edge .. => 2

/-- The shortest of some lists: what stands in a channel behind all that any of its readers has consumed. -/
def shortest {α : Type} : List (List α) → List α
  | [] => []
  | x :: xs => xs.foldl (fun m y => if y.length < m.length then y else m) x

/-- The tokens of a channel behind what its readers have consumed. -/
def Chan.behind (c : Chan) : List Token := shortest (c.readers.map Prod.snd)
/-- The bits of a predicate channel behind what its readers have consumed. -/
def PChan.behind (c : PChan) : List PTok := shortest (c.readers.map Prod.snd)

/-- The data channels of a configuration, with what `held` puts into them. The pass channels of VS0 are the input FIFOs (R38). -/
def Image.chans (im : Image) (vs : Nat) (held : ChanId → List Token) : List Chan :=
  let reads := im.reads.filter fun x => match x.1 with | .pa _ => decide (vs ≠ 0) | _ => true
  ((reads.map Prod.fst).eraseDups).map fun c =>
    ⟨c, im.depth c, (reads.filter fun x => x.1 == c).map fun x => (x.2, held c)⟩

/-- The predicate channels of a configuration, with what `held` puts into them. -/
def Image.pchans (im : Image) (held : PChanId → List PTok) : List PChan :=
  ((im.preads.map Prod.fst).eraseDups).map fun c => ⟨c, (im.preads.filter fun x => x.1 == c).map fun x => (x.2, held c)⟩

/-- A configured stripe with nothing in it (R39): where the run resumes, its sources wait (R374). -/
def Stripe.make (k vs : Nat) (im : Image) (waits restoring swapped : Bool) (held : ChanId → List Token) (pheld : PChanId → List PTok) :
    Stripe :=
  { k := k, vs := vs, image := im
    ops := im.ops.map fun o => (o.1, { OpState.init with cut := waits && Instr.isSource o.2 })
    chans := im.chans vs held, pchans := im.pchans pheld, sns := [], cells := [], restoring := restoring, swapped := swapped, bad := false }

/-- The input FIFOs as VS0's image reads them: each entry stands before every port that reads its FIFO (R38, R429). -/
def Run.readInputs (r : Run) (im : Image) : Run :=
  { r with ins := Vector.ofFn fun n =>
      let i := r.ins[n]
      let toks := i.fifo.behind
      let rs := ((im.reads.filter fun x => x.1 == ChanId.pa n.val).map Prod.snd).eraseDups
      { i with fifo := { i.fifo with readers := if rs.isEmpty then [(.nobody, toks)] else rs.map fun x => (x, toks) } } }

/-- The input FIFOs with no stripe to read them: their entries stay (R429). -/
def Run.freeInputs (r : Run) : Run :=
  { r with ins := r.ins.map fun i => { i with fifo := { i.fifo with readers := [(.nobody, i.fifo.behind)] } } }

/-! ### Resumption (R374, R377) -/

/-- Once every slot is made again and restored, the stub is due, or the sources present input at once (R374). -/
def Run.settle (r : Run) : Run :=
  match r.resuming with
  | .slots stub =>
    if r.resumeK.isEmpty && !(r.stripes.any fun p => p.2.restoring) then
      if stub && r.recd.hasStub then { r with resuming := .stub } else r.restart
    else r
  | _ => r

/-! ### Configuration (R36, R349, R350) -/

/-- Whether a stripe of another run stands at the place of a slot. -/
def State.placeTaken (s : State) (r : Run) (slot : Nat) : Bool :=
  s.runs.any fun x => x.serial != r.serial
    && x.stripes.any fun p => x.slotPhys p.1 == r.slotPhys slot && decide (p.1 % 32 = slot % 32)

/-- A configuration that had retired before a cancelled switch or a migration made its slot again: its ops have consumed their round STOP, and its
sources have made their passes, so that it retires once more and its slot goes on (R377, R379, DEDUCED, assumption 74). -/
def Stripe.spent (p : Stripe) : Stripe := { p with ops := p.ops.map fun o => (o.1, { o.2 with stopSeen := 7, passes := 1 }) }

/-- Puts a configuration into its slot. -/
def Run.configure (r0 : Run) (k : Nat) (im : Image) (fresh : Bool) : Run :=
  let vs := k % r0.recd.v
  let r := r0.feeds vs im
  let st := Stripe.make k vs im (r.resuming != .no) (Tab.find r.saved vs).isSome fresh (fun _ => []) (fun _ => [])
  let r1 := { r with stripes := Tab.set r.stripes (k % r.p) (if r.retiredK.contains k then st.spent else st)
                     nextK := if r.resumeK.isEmpty then r.nextK + 1 else r.nextK
                     resumeK := r.resumeK.drop 1
                     taken := if fresh then Tab.set r.taken vs () else r.taken }
  (if vs = 0 then r1.readInputs im else r1).settle

/-- Once every virtual stripe has taken the new image, it is the run's image (R268). -/
def Run.finishSwap (r : Run) : Run :=
  match r.pending with
  | some p =>
    if p.accepted && (List.range r.recd.v).all fun v => (Tab.find r.taken v).isSome then
      { r with images := p.va, dir := p.dir, pending := none, taken := [] }
    else r
  | none => r

/-- Puts the configuration of a released slot into the slot of the same number of its target (R379): its state is read back there; one that had
retired has nothing to do but retire once more. -/
def Run.move (r : Run) (x : Released) (im : Image) : Run :=
  let st := Stripe.make x.k x.stripe.vs im true (Tab.find r.saved x.stripe.vs).isSome false (fun _ => []) (fun _ => [])
  { r with moved := Tab.set r.moved x.slot (if x.gone r then st.spent else st) }

/-- The next slot of a migration is made on its target, once its image is in the cache of the target's ring. -/
def State.moveNext (s : State) (r : Run) (x : Released) : State :=
  let vs := x.stripe.vs
  let ring := r.targetPhys x.slot
  match (Tab.find r.dir vs).bind fun e => (s.cached ring r vs e).map fun im => (e, im) with
  | none => s
  | some (e, im) => if r.scrolls then (s.touch ring r vs e).updRun r.serial fun y => y.move x im else s

/-- STRIPE_CONFIGURE (R36, R349, R350, R379): the next configuration in sequence, when its slot is free and its image is in the cache of its ring;
under a migration, the next slot on its target. State saved for its virtual stripe is then restored before it fires. -/
def execStripeConfigure (run : Nat) (s : State) : Out :=
  match s.run run with
  | none => .next s
  | some r =>
    match r.dueConfig with
    | none => .next (match r.toMove with | some x => s.moveNext r x | none => s)
    | some k =>
      let slot := k % r.p
      let vs := k % r.recd.v
      let (_, dir, fresh) := r.imageSource vs
      match (Tab.find dir vs).bind fun e => (s.cached (r.slotPhys slot) r vs e).map fun im => (e, im) with
      | none => .next s
      | some (e, im) =>
        if !r.scrolls || s.placeTaken r slot then .next s
        else .next ((s.touch (r.slotPhys slot) r vs e).updRun run fun x => (x.configure k im fresh).finishSwap)

/-! ### Seam FIFOs (R38, R315, R352) -/

/-- One granule more for a seam FIFO: from the run's reserve, granted at once, or as its queued request was granted. -/
def State.seamTake (s : State) (n vs : Nat) (ch : SeamCh) : Option State :=
  match s.run n with
  | none => none
  | some r =>
    let q := (r.seam vs ch).getD ⟨vs, ch, [], [], [], 0, []⟩
    let more := fun (f : Bool) (x : Run) => x.setSeam { q with grans := q.grans ++ [f] }
    match s.seamRequest r vs ch with
    | some x => if x.granted then some ((s.takeRequest r.home r.partition x.id).updRun n (more false)) else none
    | none =>
      if r.reserved && decide (r.used < r.recd.reserve) then some (s.updRun n fun x => more true { x with used := x.used + 1 })
      else if s.grantNow r.home r.partition false false 1 then some ((s.charge r.home r.partition 1).updRun n (more false))
      else none

/-- Takes granules until a seam FIFO holds `need` entries, or queues a request for the next; whether it does. -/
def State.seamFit (n vs : Nat) (ch : SeamCh) (need : Nat) : Nat → State → State × Bool
  | 0, s => (s, false)
  | fuel + 1, s =>
    match s.run n with
    | none => (s, false)
    | some r =>
      let have' := match r.seam vs ch with | some q => q.grans.length | none => 0
      if need ≤ 30 * have' then (s, true)
      else match s.seamTake n vs ch with
        | some s1 => State.seamFit n vs ch need fuel s1
        | none =>
          if (s.seamRequest r vs ch).isSome then (s, false)
          else
            let (id, s1) := s.fresh
            (s1.enqueue r.home r.partition false ⟨id, .seam n vs ch, 1, false, false, s.clk, false⟩, false)

/-- The granules of a seam FIFO whose last token has been read return: to the reserve, or to the pool (R314, R352). -/
def State.seamReturn (s : State) (n : Nat) (grans : List Bool) : State :=
  match s.run n with
  | none => s
  | some r =>
    let own := (grans.filter fun f => !f).length
    let q := s.pool r.home r.partition
    (s.setPool r.home r.partition { q with held := q.held - own }).updRun n fun x => { x with used := x.used - (grans.length - own) }

/-- A seam FIFO after its oldest entry has been read. -/
def State.seamRead (s : State) (n : Nat) (q : Seam) : State :=
  let head := q.head + 1
  let (back, left) := if q.count = 0 then (q.grans, []) else if head = 30 then (q.grans.take 1, q.grans.drop 1) else ([], q.grans)
  (s.seamReturn n back).updRun n fun r => r.setSeam { q with head := if left.length = q.grans.length then head else 0, grans := left }

/-- SEAM_FIFO_DELIVER (R38, R352): the oldest entry of a seam FIFO goes into its channel, once the consuming virtual stripe is configured and
the channel has room; an empty one is freed. -/
def execSeamFifoDeliver (run vs : Nat) (ch : SeamCh) (s : State) : Out :=
  match s.run run with
  | none => .next s
  | some r =>
    match r.seam vs ch, r.stripes.find? fun p => p.2.vs == vs && !p.2.restoring && !r.retiredK.contains p.2.k with
    | some q, some (slot, st) =>
      match ch with
      | .pa n =>
        (match q.toks with
         | [] => .next (s.seamRead run { q with toks := [] })
         | t :: rest =>
           if ((st.chan (.pa n.val)).map Chan.hasRoom).getD true then
             .next ((s.updStripe run slot fun p => p.updChan (.pa n.val) fun c => c.push t).seamRead run { q with toks := rest })
           else .next s)
      | .pp n =>
        (match q.bits with
         | [] => .next (s.updRun run fun x => x.setSeam { q with bits := [] })
         | b :: rest =>
           if ((st.pchan (.pp n.val)).map PChan.hasRoom).getD true then
             .next ((s.updStripe run slot fun p => p.updPchan (.pp n.val) fun c => c.push b).updRun run fun x => x.setSeam { q with bits := rest })
           else .next s)
      | .sn n =>
        (match q.words with
         | [] => .next (s.seamRead run { q with words := [] })
         | t :: rest =>
           if (st.sn n.val).queue.length < 16 then
             .next ((s.updStripe run slot fun p => p.updSn n.val fun x => { x with queue := x.queue ++ [t] }).seamRead run { q with words := rest })
           else .next s)
    | _, _ => .next s

/-! ### State regions (R39 to R42, R351) -/

/-- Held ports of an op: those with a hold count of 2 to 255. -/
def heldPorts (i : Instr) : Nat :=
  match ccParts i, mcParts i, swParts i with
  | some (_, f), _, _ => ([f.a, f.b, f.c].filter fun p => p.kind == .held).length
  | _, some (_, f), _ => ([f.a, f.b, f.c].filter fun p => p.kind == .held).length
  | _, _, some (_, f) => if f.idx.kind == .held then 1 else 0
  | _, _, _ => 0

/-- The bytes of a region (R351) with some tokens in carried channels. -/
def Image.stateBytes (im : Image) (tokens : Nat) : Nat :=
  let bit := fun n => im.hd.bitmap.getLsbD n
  let cells := ((List.range 16).filter fun c => im.hd.ccMask.getLsbD c).length
  64 + (if bit 0 then 64 * im.ops.length else 0)
  + (if bit 1 then 128 * (im.ops.map fun o => heldPorts o.2).foldl (· + ·) 0 else 0)
  + (if bit 2 then 5120 * cells else 0) + (if bit 3 then 5120 * cells else 0)
  + (if bit 4 then 16384 * cells else 0) + (if bit 5 then 16384 * cells else 0)
  + (if bit 2 || bit 3 || bit 4 || bit 5 then 64 * cells else 0)
  + (if bit 6 then 64 * im.gens.length else 0) + (if bit 7 then 64 + 128 * tokens else 0)

/-- What the state bitmap keeps of an op (R41): bit 0 its stage register, bit 1 its held tokens, bit 6 the counters and position of a memory
cell. A source that retires makes its pass again with its next configuration. -/
def keepOp (hd : HDFrame) (again : Bool) (i : Instr) (a : OpAddr) (x : OpState) : OpState :=
  let e := OpState.init
  let b0 := hd.bitmap.getLsbD 0
  let b6 := hd.bitmap.getLsbD 6
  let pos := if a.cls == .mc then b6 else b0
  { e with
    held := if hd.bitmap.getLsbD 1 then x.held else e.held
    tot := if b0 then x.tot else e.tot, nonEmpty := if b0 then x.nonEmpty else e.nonEmpty, erred := if b0 then x.erred else e.erred
    carry := if b0 then x.carry else e.carry, part := if b0 then x.part else e.part, bufMask := if b0 then x.bufMask else e.bufMask
    flag := if b0 then x.flag else e.flag, count := if b0 then x.count else e.count, silt := if b0 then x.silt else e.silt
    seqNo := if b0 then x.seqNo else e.seqNo, vals := if b0 then x.vals else e.vals, coords := if b0 then x.coords else e.coords
    valid := if b0 then x.valid else e.valid, ring := if b0 then x.ring else e.ring, rptr := if b0 then x.rptr else e.rptr
    recent := if b0 then x.recent else e.recent, busyTo := if b0 then x.busyTo else e.busyTo
    curHandle := if b0 then x.curHandle else e.curHandle, reading := if b6 then x.reading else e.reading
    deps := x.deps, agIdx := if b6 then x.agIdx else e.agIdx, agPos := if b6 then x.agPos else e.agPos
    row := if pos then x.row else e.row, col := if pos then x.col else e.col
    passes := if b6 && !(again && Instr.isSource i) then x.passes else e.passes }

/-- The consuming reads in progress that a stripe does not keep across its release: they end with it (R39, R193). -/
def Stripe.lostReads (p : Stripe) : List ReadInProg :=
  if p.image.hd.stateful && p.image.hd.bitmap.getLsbD 6 then [] else p.ops.flatMap fun o => o.2.reading

/-- What the state bitmap keeps of a cell's matrix unit (R41, R42). -/
def keepMatrix (hd : HDFrame) (m : Matrix) : Matrix :=
  let e := Matrix.init
  let b := fun n => hd.bitmap.getLsbD n
  { planeA := if b 2 then m.planeA else e.planeA, planeB := if b 3 then m.planeB else e.planeB
    activeB := if b 2 || b 3 then m.activeB else e.activeB
    fill := if b 2 || b 3 then m.fill else e.fill
    acc0 := if b 4 then m.acc0 else e.acc0, acc1 := if b 5 then m.acc1 else e.acc1 }

/-- Whether bit 7 saves the tokens of a channel: the carried ones of a stateful stripe (R38, R98). -/
def HDFrame.keeps (hd : HDFrame) (n : Nat) : Bool := hd.stateful && hd.bitmap.getLsbD 7 && hd.carried.getLsbD n

/-- The carried channels that bit 7 saves. -/
def Stripe.keptChans (p : Stripe) : List Chan :=
  p.chans.filterMap fun c => match c.id with
    | .pa n => if HDFrame.keeps p.image.hd n then some { c with readers := [(.nobody, c.behind)] } else none
    | _ => none

/-- The carried pass predicates that bit 7 saves. -/
def Stripe.keptPchans (p : Stripe) : List PChan :=
  p.pchans.filterMap fun c => match c.id with
    | .pp n => if HDFrame.keeps p.image.hd n then some { c with readers := [(.nobody, c.behind)] } else none
    | _ => none

/-- What a stripe saves (R39, R41). -/
def Stripe.saved (p : Stripe) (again : Bool) (region length serial : Nat) : SavedStripe :=
  let hd := p.image.hd
  { ops := p.ops.map fun o => (o.1, match p.image.instr o.1 with | some i => keepOp hd again i o.1 o.2 | none => o.2)
    chans := p.keptChans, pchans := p.keptPchans, sns := if hd.bitmap.getLsbD 0 then p.sns else []
    cells := (p.cells.filter fun c => hd.ccMask.getLsbD c.1).map fun c => (c.1, keepMatrix hd c.2)
    region := region, length := length, serial := serial }

/-- What a transfer of state comes to. -/
inductive Transfer
  | done (s : State)
  | later (s : State)

/-- What a transfer leaves. -/
def Transfer.state : Transfer → State
  | .done s | .later s => s

/-- Checks that every page of a range can be written. -/
def State.writeCheck (s : State) (die part asid : Nat) : Nat → Nat → Nat → VRead
  | 0, _, _ => .ok []
  | fuel + 1, va, n =>
    if n = 0 then .ok []
    else
      let len := min n (2048 - va % 2048)
      match s.translate die part asid va ⟨false, true, false⟩ with
      | .miss p => .miss [p]
      | .bad c a => .bad c a va
      | .ok _ _ => State.writeCheck s die part asid fuel (va + len) (n - len)

/-- Writes bytes of a run's state area from a slot; a page that cannot be written holds the transfer (R351). -/
def State.stateWrite (s : State) (r : Run) (slot vs va : Nat) (bs : List Byte) : Transfer :=
  let die := ringDie (r.slotPhys slot)
  match s.writeCheck die r.partition r.asid (bs.length / 2048 + 2) va bs.length with
  | .miss pages => .later (s.queueWalks die r.asid pages)
  | .bad c _ v => .later (s.holdSlot r slot vs 4 c v)
  | .ok _ | .out .. => .done (s.vwrite die r.partition r.asid (.run r.serial) (fun _ => []) (bs.length / 2048 + 2) va bs)

/-- The bytes that a save writes: their arrangement is the implementation's (R351, assumption 9). -/
def regionBytes (serial length : Nat) : List Byte := (List.range length).map fun i => Config.regionByte serial i

/-- Saves a stripe: its region's address comes from entry v of the state area (R351). A stateless stripe saves nothing. An entry that meets TAGFAIL or
POISON ends the run with cause 3, as at a restore (DESIGN CHOICE, assumption 107). -/
def State.saveStripe (s : State) (r : Run) (slot : Nat) (p : Stripe) (again : Bool) : Transfer :=
  if !p.image.hd.stateful then .done s
  else
    let die := ringDie (r.slotPhys slot)
    match s.scrollRead r die (r.recd.stateArea.toNat + 8 * p.vs) 8 with
    | .hold c va => .later (s.holdSlot r slot p.vs 4 c va)
    | .sick c va => .later ((s.noteBlock die r.partition r.asid c va).endSlot r slot p.vs 4 c va 3)
    | .miss pages => .later (s.fetchOn r die (.miss pages : Fetch Unit))
    | .out v a n => .later (s.fetchOn r die (.out v a n : Fetch Unit))
    | .part .. | .bad _ => .later s
    | .ok e =>
      let va := r.recd.stateArea.toNat + leNat e % 2 ^ 40
      let n := p.image.stateBytes ((p.keptChans.map fun c => c.behind.length).foldl (· + ·) 0)
      let (serial, s1) := ((s.touchV die r.partition r.asid (r.recd.stateArea.toNat + 8 * p.vs) 8).forget (.run r.serial)).fresh
      match s1.stateWrite r slot p.vs va (regionBytes serial n) with
      | .later s2 => .later s2
      | .done s2 => .done (s2.updRun r.serial fun x => { x with saved := Tab.set x.saved p.vs (p.saved again va n serial) })

/-! ### Leaving a slot (R37, R38, R371) -/

/-- Whether a stripe has passed the flagged STOP (R371): in a cyclic run, whether it stands at the QUIET that its marking waited for (R381). A run
marked while it is made again releases nothing before its sources present input again. -/
def Stripe.released (r : Run) (p : Stripe) : Bool :=
  p.idle && decide (r.resuming = .no) && (if r.recd.cyclic then r.ins.toList.all (fun i => i.cut) else p.readers.all (fun o => o.2.flagSeen) && !(p.ops.any p.passDue))

/-- Whether the STOP of an image swap has passed a stripe (R268): every op that reads a stream has consumed it, and every source has presented
its own or made its pass. -/
def Stripe.passedSwap (p : Stripe) : Bool :=
  p.readers.all (fun o => o.2.swapSeen) && p.ops.all fun o => o.2.swapSeen || !p.passDue o

/-- The tokens of a channel that leave with its stripe, by fate. -/
structure Leaving where
  seamed  : List (Fin 32 × List Token)
  pseamed : List (Fin 32 × List PTok)
  dropped : List Token

/-- The tokens in a stripe's input channels that its save does not keep (R38, R371): at a retirement those of a channel that is not carried
are discarded; the others go into seam FIFOs. -/
def Stripe.leaving (p : Stripe) (release : Bool) : Leaving :=
  let hd := p.image.hd
  let toks := p.chans.filterMap fun c => match c.id with
    | .pa n => if h : n < 32 then (if HDFrame.keeps hd n || c.behind.isEmpty then none else some ((⟨n, h⟩ : Fin 32), c.behind)) else none
    | _ => none
  let bits := p.pchans.filterMap fun c => match c.id with
    | .pp n => if h : n < 32 then (if HDFrame.keeps hd n || c.behind.isEmpty then none else some ((⟨n, h⟩ : Fin 32), c.behind)) else none
    | _ => none
  let goes := fun (n : Fin 32) => release || hd.carried.getLsbD n.val
  { seamed := toks.filter fun x => goes x.1, pseamed := bits.filter fun x => goes x.1
    dropped := (toks.filter fun x => !goes x.1).flatMap Prod.snd }

/-- Whether a stripe is to be swapped (R268): an accepted swap's STOP has passed it. -/
def Stripe.swapDue (r : Run) (p : Stripe) : Bool :=
  (match r.pending with | some q => q.accepted | none => false) && r.marking.isNone && p.idle && !p.swapped && p.passedSwap

/-- Whether a stripe has a transfer of its state to make: a restore, or the save of one that may leave its slot or is to be swapped. -/
def Stripe.transferDue (r : Run) (p : Stripe) : Bool :=
  p.restoring || (p.image.hd.stateful
    && ((p.retires r && (p.leaving false).seamed.isEmpty) || (r.marking.isSome && p.released r && (p.leaving true).seamed.isEmpty) || p.swapDue r))

/-- Whether the state port of a slot's ring is free for the transfer of a configuration: it serves one at a time, in configuration order
(R350); the port of a migration's target has the restores of the slots made there. -/
def Run.portFree (r : Run) (slot k : Nat) : Bool :=
  if (Tab.find r.moved slot).isSome then !(r.moved.any fun x => r.targetPhys x.1 == r.targetPhys slot && decide (x.2.k < k) && x.2.restoring)
  else !(r.stripes.any fun x => r.slotPhys x.1 == r.slotPhys slot && decide (x.2.k < k) && x.2.transferDue r)

/-- Puts tokens at the head of a seam FIFO, its granules already there. -/
def Run.seamFront (r : Run) (vs : Nat) (x : Fin 32 × List Token) : Run :=
  let q := (r.seam vs (.pa x.1)).getD ⟨vs, .pa x.1, [], [], [], 0, []⟩
  r.setSeam { q with toks := x.2 ++ q.toks, head := 0 }

/-- Puts bits at the head of a seam FIFO. -/
def Run.pseamFront (r : Run) (vs : Nat) (x : Fin 32 × List PTok) : Run :=
  let q := (r.seam vs (.pp x.1)).getD ⟨vs, .pp x.1, [], [], [], 0, []⟩
  r.setSeam { q with bits := x.2 ++ q.bits }

/-- A token is discarded at a retirement: an ERR becomes an EFLOW record, a MARK logs its event (R23, R34, R38). -/
def State.discardToken (r : Run) (slot vs : Nat) (s0 : State) (t0 : Token) : State :=
  let (t, s) := s0.readToken vs t0
  if t.isErr then s.runRecord r.serial (s.slotRecord r slot vs 4 0 fEFLOW (lanes10 t.payload).toNat (t.payload.extractLsb' 64 64))
  else if t.kind = 5 then
    let ring := r.slotPhys slot
    s.logEvent (sourceNo (ringDie ring) (210 + ring % 4)) 9 r.partition (lanes10 t.payload) 0
  else s

/-- The granules for the tokens that move into seam FIFOs; whether all are there. -/
def State.seamFitAll (s : State) (r : Run) (vs : Nat) (l : Leaving) : State × Bool :=
  l.seamed.foldl (fun a x =>
    if !a.2 then a
    else
      let count := match (a.1.run r.serial).bind fun y => y.seam vs (.pa x.1) with | some q => q.toks.length | none => 0
      let need := x.2.length + count
      State.seamFit r.serial vs (.pa x.1) need (need / 30 + 2) a.1) (s, true)

/-- A stripe leaves its slot, by a `release` under a marking or not, to make its sources' passes `again` or not: its tokens' granules are found,
its state is saved, its tokens move, and its request streams end, but for those that a migration leaves bound (R37 to R39, R354, R371, R379). -/
def State.leaveSlot (s : State) (r : Run) (slot : Nat) (p : Stripe) (release again : Bool) : Transfer :=
  let l := p.leaving release
  let moves := match r.marking with | some (.migration ..) => true | _ => false
  match s.seamFitAll r p.vs l with
  | (s1, false) => .later s1
  | (s1, true) =>
    match s1.saveStripe r slot p again with
    | .later s2 => .later s2
    | .done s2 =>
      let s3 := s2.updRun r.serial fun x =>
        let y := l.pseamed.foldl (fun z b => z.pseamFront p.vs b) (l.seamed.foldl (fun z t => z.seamFront p.vs t) x)
        let swap := (match y.pending with | some q => q.accepted | none => false) && p.passedSwap
        let z := ({ y with stripes := Tab.del y.stripes slot, retiredK := y.retiredK.filter fun k => k != p.k
                           taken := if swap then Tab.set y.taken p.vs () else y.taken }).finishSwap
        if p.vs = 0 then z.freeInputs else z
      let s4 := p.lostReads.foldl (fun x rd => x.endRead rd.tile rd.slot)
        { s3 with streams := s3.streams.filter fun x => match x.who with | .cell m k _ => moves || !(m == r.serial && k == slot) | _ => true }
      .done (l.dropped.foldl (State.discardToken r slot p.vs) s4)

/-- The dies of a run that still hold a stripe, as a mask. -/
def Run.dieMask (r : Run) : Nat :=
  ((r.stripes.map fun p => ringDie (r.slotPhys p.1)).eraseDups.map fun d => 2 ^ d).foldl (· + ·) 0

/-! ### The end of a switch (R371 to R379) -/

/-- The context that a suspended run leaves in its state area (R373). -/
def contextBytes (r : Run) (l : List Released) : List Byte :=
  leBytes 8 (r.nextK % 2 ^ 32) ++ List.replicate 56 (0 : Byte) ++ (List.range r.p).flatMap fun i =>
    match l.find? fun x => x.slot == i with
    | some x => leBytes 8 (x.k % 2 ^ 32 + (if x.unretired then 2 ^ 40 else 0) + 2 ^ 41)
    | none => leBytes 8 0

/-- The writes of a run that its end releases at DEV scope (R266), and that its firings on other dies after a suspension come after (R290). -/
def State.runDeps (s : State) (r : Run) : List Nat := (r.phys.flatMap fun g => s.depsOf (ringDie g)).eraseDups

/-- A switched-out run is suspended, its context written (R373). -/
def State.suspend (s : State) (r : Run) (l : List Released) : Transfer :=
  match s.stateWrite r 0 0 (r.recd.stateArea.toNat + 64 * ((r.recd.v + 7) / 8)) (contextBytes r l) with
  | .later s1 => .later s1
  | .done s1 => .done (s1.updRun r.serial fun x =>
      { x with phase := .suspended, marking := none, released := l, resumeK := [], retiredK := [], deps := (x.deps ++ s.runDeps r).eraseDups })

/-- Puts a number into a rising list. -/
def insertNat (n : Nat) : List Nat → List Nat
  | [] => [n]
  | x :: xs => if n ≤ x then n :: x :: xs else x :: insertNat n xs

/-- The configurations of released slots, in sequence order. -/
def remade (l : List Released) : List Nat := (l.map fun x => x.k).foldr insertNat []

/-- A run's slots are made again, and its sources wait: at a resumption, the unretired ones (R374), with its SAFEGAP counters starting again
(R368) and a pending image taking effect (R375); at a cancellation (R377), and on the targets of a migration that a pending image meets (R379),
every one. -/
def Run.remake (r : Run) (resumption all : Bool) : Run :=
  let l := r.released.filter fun x => all || x.unretired
  let r1 := { r with
    resumeK := remade l, retiredK := remade (l.filter fun x => x.gone r), released := [], moved := [], marking := none
    resuming := .slots resumption, gaps := if resumption then [] else r.gaps, quietClk := if resumption then 0 else r.quietClk }
  (if resumption then (match r.pending with
    | some p => { r1 with images := p.va, dir := p.dir, pending := none, taken := [] }
    | none => r1) else r1).settle

/-- The remap table after a migration: each logical ring of the run names its target (R379). -/
def remapTo (t : Tab Nat) (rings targets : List Nat) : Tab Nat :=
  (rings.zip targets).foldl (fun m x => if x.1 = x.2 then Tab.del m x.1 else Tab.set m x.1 x.2) t

/-- Whether every released slot of a migration has been made on its target, its state read back (R379); a pending image takes effect at the
resumption, and the slots are made then (R375). -/
def Run.movedOver (r : Run) : Bool :=
  r.pending.isSome || r.released.all fun x => (Tab.find r.moved x.slot).any fun (p : Stripe) => !p.restoring

/-- A migrated run on its targets: its slots stand there, and the rebuild stub follows (R374, R379). -/
def Run.arrive (r : Run) : Run :=
  let r1 := { r with
    stripes := r.moved, moved := [], released := [], marking := none, resuming := .slots true, gaps := []
    saved := r.saved.filter fun v => !(r.moved.any fun (p : Nat × Stripe) => p.2.vs == v.1), retiredK := remade (r.released.filter fun x => x.gone r) }
  (match r1.stripes.find? fun (p : Nat × Stripe) => p.2.vs == 0 with | some p => r1.readInputs p.2.image | none => r1).settle

/-- A marked run whose last slot has been released: a slice switch suspends it, a migration moves it to its targets once its slots stand there; a
gang switch waits for its commit (R371, R376, R379). -/
def State.allReleased (s : State) (r : Run) : State :=
  match r.marking with
  | some (.slice _) => (s.suspend r r.released).state
  | some (.migration targets _) =>
    if r.movedOver then
      { s with remap := remapTo s.remap r.rings targets }.updRun r.serial fun x =>
        let y := { x with phys := targets }
        if y.pending.isSome then y.remake true true else y.arrive
    else s
  | _ => s

/-- Releases a slot under a marking (R371). -/
def State.releaseSlot (s : State) (r : Run) (slot : Nat) (p : Stripe) (unretired : Bool) : Transfer :=
  match s.leaveSlot r slot p true (!unretired) with
  | .later s1 => .later s1
  | .done s1 => .done (s1.updRun r.serial fun x => { x with released := x.released ++ [⟨slot, p.k, unretired, p⟩] })

/-- Once a marked run holds no slot, its switch goes on. -/
def State.settleMarking (s : State) (run : Nat) : State :=
  match s.run run with
  | none => s
  | some r => if r.marking.isSome && r.stripes.isEmpty && r.resumeK.isEmpty && decide (r.resuming = .no) && r.scrolls then s.allReleased r else s

/-- SLOT_RELEASE (R371, R373, R379): a slot whose stripe has passed the flagged STOP is released, its state saved and its tokens moved into
seam FIFOs; the last one completes the switch. -/
def execSlotRelease (run slot : Nat) (s : State) : Out :=
  match s.run run with
  | none => .next s
  | some r =>
    if r.marking.isNone || !r.scrolls then .next s
    else match r.stripe slot with
      | none => .next (s.settleMarking run)
      | some p => if p.released r && (!p.image.hd.stateful || r.portFree slot p.k) then .next ((s.releaseSlot r slot p true).state.settleMarking run) else .next s

/-- STRIPE_RETIRE (R37 to R39, R350, R371): a stripe whose ops have consumed the round STOP retires; under a marking its slot is released by
it, retired where the round STOP comes ahead of the flagged STOP. -/
def execStripeRetire (run slot : Nat) (s : State) : Out :=
  match s.run run with
  | none => .next s
  | some r =>
    match r.stripe slot with
    | none => .next s
    | some p =>
      if !r.scrolls || !p.retires r || (p.image.hd.stateful && !r.portFree slot p.k) then .next s
      else if r.marking.isSome then
        .next (if r.resuming = .no then (s.releaseSlot r slot p (p.released r)).state.settleMarking run else s)
      else .next (s.leaveSlot r slot p false true).state

/-! ### Restoring (R350, R351) -/

/-- A token of free bits. -/
def freeToken (n : Nat) : Token :=
  let f := fun i => Config.freeNat (n + i)
  ⟨BitVec.ofNat 3 (f 0), BitVec.ofNat 3 (f 1), BitVec.ofNat 16 (f 2), f 3 % 2 = 0, BitVec.ofNat 512 (f 4), [], false, 0, false⟩

/-- An op's state whose saved bytes were altered: its values are free (R351, assumption 3). `dims` is the number of dimensions of its generator. -/
def freeOp (n dims : Nat) (a : OpAddr) (x : OpState) : OpState :=
  let f := fun i => Config.freeNat (n + i)
  let words := fun (m : Nat) => (List.range (if f 16 % 2 = 0 then x.vals.length else f 17 % 17)).map fun i => BitVec.ofNat 32 (f (m + i))
  { x with
    held := x.held.map fun h => (h.1, ⟨dataTok (BitVec.ofNat 16 (f (24 + 3 * h.1))) (BitVec.ofNat 512 (f (25 + 3 * h.1))), h.2.left.map fun _ => f (26 + 3 * h.1) % 255 + 1⟩)
    tot := BitVec.ofNat 512 (f 3), nonEmpty := BitVec.ofNat 128 (f 4), part := f 5 % 16, bufMask := BitVec.ofNat 16 (f 6)
    erred := if f 0 % 2 = 0 then none else some { freeToken (n + 36) with kind := 2 }
    carry := if f 1 % 2 = 0 then none else some (BitVec.ofNat 64 (f 2)), flag := f 18 % 2 = 0
    count := BitVec.ofNat 32 (f 7), seqNo := BitVec.ofNat 16 (f 8), row := f 9 % 65536, col := f 10 % 65536
    silt := ⟨f 11 % 65536, f 12 % 65536, f 13 % 65536, f 14 % 65536, f 15 % 65536⟩
    vals := words 100, coords := words 200, valid := (words 300).map fun v => v.getLsbD 0
    ring := x.ring.zipIdx.map fun t => freeToken (n + 400 + 5 * t.2), rptr := f 19 % 65536
    recent := x.recent.zipIdx.map fun t => (f (41 + 2 * t.2), f (42 + 2 * t.2)), busyTo := f 20, curHandle := f 21 % 2 ^ 20
    agIdx := if a.cls != .mc then x.agIdx else if f 22 % 2 = 0 then none else some ((List.range dims).map fun i => f (80 + i) % 65536)
    agPos := f 23 % 2 ^ 48, passes := f 90 % 2 }

/-- The open sums and totals of a Silt node, free. -/
def freeSn (n : Nat) (x : SnNode) : SnNode :=
  let f := fun i => Config.freeNat (n + i) % 2 ^ 32
  { x with
    sums := x.sums.zipIdx.map fun q => let m := 8 + 8 * q.2
      ⟨BitVec.ofNat 16 (f m), f (m + 1), f (m + 2), f (m + 3), f (m + 4), f (m + 5), f (m + 6)⟩
    oldest := BitVec.ofNat 16 (f 0), tSat := f 1, tNan := f 2, tUnf := f 3, tOob := f 4, tMis := f 5, done := f 6 }

/-- A plane of free values. -/
def freePlane (n : Nat) : Plane :=
  { rows := (List.range 64).map fun i => (i, BitVec.ofNat 512 (Config.freeNat (n + i)))
    recs := (List.range 64).map fun i => (i, BitVec.ofNat 128 (Config.freeNat (n + 64 + i))), bad := [] }

/-- An accumulator plane of free values. -/
def freeAcc (n : Nat) : AccPlane :=
  { rows := (List.range 64).map fun i => (i, BitVec.ofNat 2048 (Config.freeNat (n + i))), high := Config.freeNat (n + 64) % 65, bad := [] }

/-- Saved state whose region software altered: every value that the bitmap selects is free, and nothing but the stripe's own values (R351). -/
def freeSaved (im : Image) (n : Nat) (v : SavedStripe) : SavedStripe :=
  let f := fun i => Config.freeNat (n + i)
  let dims := fun (a : OpAddr) => match Tab.find im.gens a.index with | some g => (AGFrame.start g).length | none => 0
  { v with
    ops := v.ops.zipIdx.map fun o =>
      let x := freeOp (n + 65536 + 2048 * o.2) (dims o.1.1) o.1.1 o.1.2
      (o.1.1, match im.instr o.1.1 with | some i => keepOp im.hd false i o.1.1 x | none => x)
    chans := v.chans.zipIdx.map fun c =>
      { c.1 with readers := c.1.readers.map fun r => (r.1, r.2.zipIdx.map fun t => freeToken (n + 4096 + 512 * c.2 + 5 * t.2)) }
    pchans := v.pchans.zipIdx.map fun c => { c.1 with readers := c.1.readers.map fun r => (r.1, r.2.zipIdx.map fun t => ⟨decide (f (64 * c.2 + t.2) % 2 = 0), t.1.deps⟩) }
    sns := v.sns.zipIdx.map fun x => (x.1.1, freeSn (n + 2560 + 128 * x.2) x.1.2)
    cells := v.cells.zipIdx.map fun c =>
      let m := n + 32768 + 512 * c.2
      (c.1.1, keepMatrix im.hd { planeA := freePlane m, planeB := freePlane (m + 128), activeB := f (3500 + c.2) % 2 = 0, fill := f (3600 + c.2) % 65
                                 acc0 := freeAcc (m + 256), acc1 := freeAcc (m + 321) }) }

/-- A stripe with its saved state: ops, cells and nodes by name, the tokens of carried channels ahead of what has come since. -/
def Stripe.restore (p : Stripe) (v : SavedStripe) : Stripe :=
  let toks := fun (i : ChanId) => match v.chans.find? fun c => c.id == i with | some c => c.behind | none => []
  let bits := fun (i : PChanId) => match v.pchans.find? fun c => c.id == i with | some c => c.behind | none => []
  { p with
    ops := p.ops.map fun o => match v.ops.find? fun x => x.1 == o.1 with
      | some x => (o.1, { x.2 with cut := o.2.cut, stopSeen := o.2.stopSeen, passes := max x.2.passes o.2.passes })
      | none => o
    chans := p.chans.map fun c => { c with readers := c.readers.map fun r => (r.1, toks c.id ++ r.2) }
    pchans := p.pchans.map fun c => { c with readers := c.readers.map fun r => (r.1, bits c.id ++ r.2) }
    sns := v.sns, cells := v.cells, restoring := false }

/-- The stripe that a slot of a run is to restore: that in the slot, or that made for it on a migration's target. -/
def Run.incoming (r : Run) (slot : Nat) : Option Stripe := (r.stripe slot).or (Tab.find r.moved slot)

/-- A stripe has its saved state; what a migration has read back stays saved until it completes (R377, R379). -/
def Run.restored (r : Run) (slot : Nat) (p : Stripe) : Run :=
  if (r.stripe slot).isSome then { r with saved := Tab.del r.saved p.vs, stripes := Tab.set r.stripes slot p }.settle
  else { r with moved := Tab.set r.moved slot p }

/-- STATE_RESTORE (R39, R350, R351, R379): the saved state of the incoming stripe arrives, as its save wrote it, once that is written; a region that
software altered gives free values. XLATE and PERM hold the transfer; TAGFAIL and POISON end the run with cause 3. -/
def execStateRestore (run slot : Nat) (s : State) : Out :=
  match s.run run with
  | none => .next s
  | some r =>
    match r.incoming slot with
    | none => .next s
    | some p =>
      match Tab.find r.saved p.vs with
      | none => .next s
      | some v =>
        if !p.restoring || !r.scrolls || s.saving run || !r.portFree slot p.k then .next s
        else
          let die := ringDie (r.slotPhys slot)
          match ({ s with stale := [] }).scrollRead r die v.region v.length with
          | .miss pages => .next (s.fetchOn r die (.miss pages : Fetch Unit))
          | .out a b c => .next (s.fetchOn r die (.out a b c : Fetch Unit))
          | .hold c va => .next (s.holdSlot r slot p.vs 5 c va)
          | .sick c va => .next ((s.noteBlock die r.partition r.asid c va).endSlot r slot p.vs 5 c va 3)
          | .part .. | .bad _ => .next s
          | .ok bs =>
            let (n, s1) := ((s.touchV die r.partition r.asid v.region v.length).forget (.run run)).drawNat
            let w := if bs = regionBytes v.serial v.length then v else freeSaved p.image n v
            .next ((s1.updRun run fun x => x.restored slot (p.restore w)).settleMarking run)

/-! ### Image swaps (R268) -/

/-- Whether two images agree as R268 asks. -/
def swapMatches (a b : HDFrame) : Bool :=
  a.round == b.round && a.safe == b.safe && a.stateful == b.stateful && a.bitmap == b.bitmap && a.ccMask == b.ccMask && a.carried == b.carried

/-- The image of a resident stripe that a pending swap has read and found to agree, where its ring's cache still has it. -/
def State.swapImage (s : State) (r : Run) (q : PendingImage) (slot : Nat) (p : Stripe) : Option ((Nat × Nat) × Image) :=
  (Tab.find q.dir p.vs).bind fun e => (s.cached (r.slotPhys slot) r p.vs e).map fun im => (e, im)

/-- An accepted swap: it travels with the next STOP of the safe level that each source presents. -/
def Run.startSwap (r : Run) (p : PendingImage) : Run :=
  let r1 := { r with
    pending := some { p with accepted := true }, taken := []
    stripes := r.stripes.map fun (x : Nat × Stripe) => (x.1, { x.2 with
      swapped := false, ops := x.2.ops.map fun (o : OpAddr × OpState) => (o.1, { o.2 with swapSeen := false }) }) }
  { r1 with ins := r1.ins.map fun i => { i with swapped := false }.swapNow r1.cutRule }

/-- RSWAP_PREPARE (R268): the scroll controller reads the new directory and accepts the images of the resident virtual stripes, one after another;
a refused swap sends an ILLCFG record and the run continues unchanged. -/
def execRswapPrepare (run : Nat) (s : State) : Out :=
  match s.run run with
  | none => .next s
  | some r =>
    match r.pending with
    | none => .next s
    | some p =>
      if p.accepted || !r.scrolls || r.stripes.any (fun x => x.2.restoring) then .next s
      else
        let refuse : Out := .next (((s.dropFetch r).updRun run fun x => { x with pending := none }).runRecord run (s.slotRecord r 0 0 4 6 fILLCFG p.va.toNat s.timestamp))
        match r.stripes.find? fun x => (s.swapImage r p x.1 x.2).isNone with
        | none => .next (s.updRun run fun x => x.startSwap p)
        | some (slot, st) =>
          let die := ringDie (r.slotPhys slot)
          match s.fetchImage r die st.vs p.va p.dir with
          | .ok x => if swapMatches st.image.hd x.2.hd then .next ((s.keepFetched (r.slotPhys slot) r p.va st.vs x).updRun run fun y => y.keepDir true st.vs x.1) else refuse
          | .hold c va => .next (s.holdSlot r slot st.vs 6 c va)
          | .sick c va => .next ((s.noteBlock die r.partition r.asid c va).endSlot r slot st.vs 6 c va 3)
          | .bad _ => refuse
          | x => .next (s.fetchOn r die x)

/-- The tokens that stand in a stripe's input channels stay where they are when its image is swapped, but for those its save keeps. -/
def Stripe.carryOver (p : Stripe) (i : ChanId) : List Token :=
  match i, p.chan i with
  | .pa n, some c => if HDFrame.keeps p.image.hd n then [] else c.behind
  | _, _ => []

/-- The bits that stand in its input predicate channels. -/
def Stripe.pcarryOver (p : Stripe) (i : PChanId) : List PTok :=
  match i, p.pchan i with
  | .pp n, some c => if HDFrame.keeps p.image.hd n then [] else c.behind
  | _, _ => []

/-- IMAGE_SWAP (R268): the STOP that the swap travels with has passed a resident stripe: the stripe saves its selected state, is configured with
the same virtual stripe of the new image, and restores the state. -/
def execImageSwap (run slot : Nat) (s : State) : Out :=
  match s.run run with
  | none => .next s
  | some r =>
    match r.stripe slot, r.pending with
    | some p, some q =>
      if !r.scrolls || !p.swapDue r || (p.image.hd.stateful && !r.portFree slot p.k) then .next s
      else match s.swapImage r q slot p with
        | none =>
          (match s.fetchImage r (ringDie (r.slotPhys slot)) p.vs q.va q.dir with
           | .ok x => .next ((s.keepFetched (r.slotPhys slot) r q.va p.vs x).updRun run fun y => y.keepDir true p.vs x.1)
           | .hold c va => .next (s.holdSlot r slot p.vs 6 c va)
           | .sick c va => .next ((s.noteBlock r.die r.partition r.asid c va).endSlot r slot p.vs 6 c va 3)
           | .bad c => .next (s.endSlot r slot p.vs 6 c q.va.toNat 4)
           | x => .next (s.fetchOn r (ringDie (r.slotPhys slot)) x))
        | some (_, im) =>
          match s.saveStripe r slot p false with
          | .later s1 => .next s1
          | .done s1 =>
            let st := Stripe.make p.k p.vs im false p.image.hd.stateful true p.carryOver p.pcarryOver
            .next (s1.updRun run fun x =>
              let y := { x.feeds p.vs im with stripes := Tab.set x.stripes slot st, taken := Tab.set x.taken p.vs () }
              (if p.vs = 0 then y.readInputs im else y).finishSwap)
    | _, _ => .next s

/-! ### Placing a frame -/

/-- A run record of one virtual stripe on one ring with nothing bound. -/
def RunRec.bare : RunRec :=
  { image := 0, v := 1, pmax := 0, ringCount := 1, cyclic := false, cross := false, safe := 0, round := 0, safegap := 0, reserve := 0
    faultEp := 0, quietEp := 0, doneEp := 0, ifb := Vector.replicate 8 0, ofb := Vector.replicate 8 0, slots := 0, stub := 1, stateArea := 0
    asid := 0, priority := 0, args := Vector.replicate 4 0 }

/-- An image that holds one op. -/
def Image.single (a : OpAddr) (i : Instr) : Image :=
  { hd := { vs := 0, round := 0, safe := 0, first := true, last := true, stateful := false, bitmap := 0, ccMask := 0, carried := 0, crc := 0, length := 0 }
    depths := List.replicate 48 2, ops := [(a, i)], gens := [] }

/-- Places a frame as a host would by launching a run: a run on ring 0 whose one stripe, in slot 0, is configured with the frame's op, and that
op's turn next. -/
def State.placeFrame (s : State) (w : Frame) : State :=
  match decodeFrame w with
  | .ok (.op a i) =>
    let n := s.nextSerial
    let r := Run.init n (opIdent 0 0 0 0 n) 0 (.task 0 0) .ended RunRec.bare 0 0 []
    let st := Stripe.make 0 0 (Image.single a i) false false false (fun _ => []) (fun _ => [])
    { s with
      off := false, nextSerial := n + 1, runs := s.runs ++ [{ r with phase := .running, rings := [0], phys := [0], nextK := 1, stripes := [(0, st)] }]
      agenda := ⟨0, 0, .op ⟨n, 0, a⟩⟩ :: s.agenda }
  | _ => s

end Sys2Proof.Machine
end

