-- ==== Sys2Proof/Machine/SeqSys.lean ====
section
/-! DEFINITION. Machine/SeqSys: runs and graphs, waits, fences, sync groups, safe points, traps, firmware calls, control registers, cache invalidation and code loading of a ring sequencer (R252, R265 to R280), and the slot's own steps (R48, R225, R275). -/
namespace Sys2Proof.Machine

/-! ### Identifiers (R252) -/

/-- What an identifier names. -/
inductive Named
  | bad
  | other
  | run (r : Run)
  | engine (e : EngOp)
  | nothing

/-- The operation an identifier names, for the running task (R252). -/
def State.named (s : State) (w : Word) : Named :=
  if w.getLsbD 63 || w.extractLsb' 44 18 != 0 || w.extractLsb' 32 4 != 0 then .bad
  else if w.getLsbD 62 then
    match s.engines.find? fun e => e.opId == w with
    | some e => if e.part = s.myPart then .engine e else .other
    | none => .nothing
  else
    match s.runs.find? fun r => r.opId == w && s.runLives r.serial with
    | some r => if r.partition = s.myPart then .run r else .other
    | none => .nothing

/-- Acts on the operation an identifier names: ILLOP for a malformed one, PERM for another partition's, nothing for one that has ended. -/
def onNamed (w : Word) (s : State) (onRun : Run → SeqRes) (onEngine : EngOp → SeqRes) : SeqRes :=
  match s.named w with
  | .bad => .fault (s.report fILLOP 0 0) s
  | .other => .fault (s.report fPERM 0 0) s
  | .nothing => .done s
  | .run r => onRun r
  | .engine e => onEngine e

/-! ### Runs and graphs -/

/-- RUN (R265): the record is read and checked; a refused one is a precise ILLCFG; otherwise the run is launched, a release at DEV scope of
the task's earlier accesses. -/
def execRun (g : Guard) (d a : Reg) (s : State) : Out :=
  seqExec g .release [a] [d] (fun s =>
    let va := (s.r a).toNat
    if va % 64 ≠ 0 then .fault (s.report fILLCFG 6 0) s
    else withBytes va 256 s fun bs s =>
      if !s.runRecOk s.myPart false bs then .fault (s.report fILLCFG 6 (fieldAt bs 0 8)) s
      else await (.room 0 0 0 0 0 1) s fun s =>
        let (id, s1) := s.newIdent 0 0
        let (_, s2) := s1.launch id s.myPart (.task s.cur s.me.activation) (s.ownerOf s.cur) (runRecOf bs) 0 s.myAsid (s.depsOf s.myDie)
        .done ((s2.raiseCnt s2.cur .rn 1).setR d id)) s

/-- Whether a run has a stripe configured yet (R267). -/
def Run.started (r : Run) : Bool := !r.stripes.isEmpty || decide (r.nextK ≠ 0)

/-- RSTOP.SAFE on a run (R267): one that has configured nothing ends at once with cause 1; a stop that is under way stays as it is. -/
def State.stopSafe (s : State) (r : Run) : State :=
  match r.stopping with
    | .no =>
      if !r.started then s.stopNow r.serial 1
      else s.updRun r.serial fun x =>
        let y := { x with stopping := .safe }
        { y with ins := y.ins.map (InBind.cutNow y.cutRule) }
    | _ => s

/-- RSTOP.NOW on a run (R267): it stops a SAFE that is under way too; a second stop has no further effect. -/
def State.stopAtOnce (s : State) (r : Run) : State :=
  match r.stopping with
  | .now _ => s
  | _ => s.stopNow r.serial 2

/-- Abandons an operation that holds a request; one that holds none is left alone (R252). -/
def State.abandonHeld (s : State) (e : EngOp) : State := if e.held.isSome then s.abandon e else s

/-- RSTOP.SAFE (R267). -/
def execRstopSafe (g : Guard) (a : Reg) (s : State) : Out :=
  seqExec g .system [a] [] (fun s => onNamed (s.r a) s (fun r => .done (s.stopSafe r)) fun e => .done (s.abandonHeld e)) s
/-- RSTOP.NOW (R267). -/
def execRstopNow (g : Guard) (a : Reg) (s : State) : Out :=
  seqExec g .system [a] [] (fun s => onNamed (s.r a) s (fun r => .done (s.stopAtOnce r)) fun e => .done (s.abandonHeld e)) s

/-- RSWAP (R268): the pending image; a directory address that is not a multiple of 32 is a precise ILLCFG (R88, R382). -/
def execRswap (g : Guard) (a b : Reg) (s : State) : Out :=
  seqExec g .system [a, b] [] (fun s =>
    if (s.r a).getLsbD 62 then .fault (s.report fILLOP 0 0) s
    else onNamed (s.r a) s
      (fun r =>
        if (s.r b).toNat % 32 ≠ 0 then .fault (s.report fILLCFG 0 (s.r b).toNat) s
        else .done (s.updRun r.serial fun x => { x with pending := some ⟨s.r b, false, []⟩ }))
      fun _ => .done s) s

/-- Replays every request a run holds (R269, R195): each is translated and checked again at its next step. -/
def Run.replay (r : Run) : Run :=
  { r with
    heldCfg := none
    stripes := r.stripes.map fun p => (p.1, { p.2 with
      ops := p.2.ops.map fun o => (o.1, { o.2 with heldReq := none })
      sns := p.2.sns.map fun n => (n.1, { n.2 with stalled := false, resumed := n.2.stalled || n.2.resumed }) })
    ins := r.ins.map fun i => { i with held := none }
    outs := r.outs.map fun o => { o with held := none } }

/-- RESUME (R269). -/
def execResume (g : Guard) (a : Reg) (s : State) : Out :=
  seqExec g .system [a] [] (fun s =>
    onNamed (s.r a) s (fun r => .done (s.updRun r.serial Run.replay)) fun e => .done (s.replay e)) s

/-- GLAUNCH (R270, R334): a release at DEV scope; it waits while the partition interface's FIFO is full. -/
def execGlaunch (g : Guard) (a : Reg) (s : State) : Out :=
  seqExec g .release [a] [] (fun s =>
    let va := s.r a
    if va.toNat % 128 ≠ 0 then .fault (s.report fILLOP 0 0) s
    else if (s.part s.myPart).state = .created then .fault (s.report fPERM 0 0) s
    else await .launchRoom s fun s =>
      let f := Tab.get s.pifaces Iface.reset s.myPart
      .done { s with pifaces := Tab.set s.pifaces s.myPart { f with
        part := s.myPart, fifo := f.fifo ++ [⟨va, s.myAsid, s.depsOf s.myDie⟩] } }) s

/-! ### Waits and fences -/

/-- WAIT (R271): its completion acquires what the counted completions released. -/
def execWait (g : Guard) (w : WaitFields) (s : State) : Out :=
  seqExec g .free [] [] (fun s => await (.counters w) s fun s => .done s) s

/-- WAITT (R272): the tile is the one the register names at issue. -/
def execWaitt (g : Guard) (a : Reg) (st : TileStateCode) (s : State) : Out :=
  seqExec g .free [a] [] (fun s =>
    match s.me.waitFor with
    | some (.tileAt die h u c met) =>
      let s := s.readEntry die s.myPart h
      await (.tileAt die h u c met) s fun s => .done s
    | _ =>
      let h := handleOf (s.r a)
      let s := s.readEntry s.myDie s.myPart h
      await (.tileAt s.myDie h ((s.tile s.myDie s.myPart h).map fun t => t.uid) st false) s fun s => .done s) s

/-- The loads and atomics of a task that are still out. -/
def State.loadsOf (s : State) (t : Nat) : List Nat := ((s.accessesOf t).filter fun x => x.dest.isSome).map fun x => x.serial

/-- A fence of a scope waits for more accesses; where there are none it holds what the die has seen. -/
def FenceHold.take (f : FenceHold) (live seen : List Nat) : FenceHold :=
  if live.isEmpty && f.hold.isEmpty then { f with deps := seen } else { f with hold := (f.hold ++ live).eraseDups }

/-- A FENCE.REL of the running task (R273, R288): later writes come after every earlier access, and carry what the die has seen by then to
the dies of its scope; a fence at SYS scope is one at DEV scope too. -/
def State.fenceRel (s : State) (sc : SScope) : State :=
  let live := (s.accessesOf s.cur).map fun x => x.serial
  let seen := s.depsOf s.myDie
  s.updMe fun x => { x with
    relHold := (x.relHold ++ live).eraseDups
    fenceDev := if sc = .die then x.fenceDev else x.fenceDev.take live seen
    fenceSys := if sc = .sys then x.fenceSys.take live seen else x.fenceSys }

/-- FENCE.ACQ (R273): every earlier LDG and ATOMG has completed. -/
def execFenceAcq (g : Guard) (_sc : SScope) (s : State) : Out :=
  seqExec g .free [] [] (fun s => await (.accesses (s.loadsOf s.cur)) s fun s => .done s) s
/-- FENCE.REL (R273). -/
def execFenceRel (g : Guard) (sc : SScope) (s : State) : Out := seqExec g .free [] [] (fun s => .done (s.fenceRel sc)) s
/-- FENCE.AR (R273). -/
def execFenceAr (g : Guard) (sc : SScope) (s : State) : Out :=
  seqExec g .free [] [] (fun s => await (.accesses (s.loadsOf s.cur)) s fun s => .done (s.fenceRel sc)) s
/-- FENCE.ORD (R273, R293, R298): every earlier access is performed and every earlier write applied in the scope, and the fence's place in
the partition's order has come. -/
def execFenceOrd (g : Guard) (sc : SScope) (s : State) : Out :=
  seqExec g .free [] [] (fun s => await (.fence sc) s fun s => .done (s.fenceRel sc)) s

/-! ### Sync groups (R51 to R53, R274) -/

/-- The key of a group register. -/
def keyOf (w : Word) : BitVec 32 := w.extractLsb' 0 32

/-- Whether the running activation is a member of a group. -/
def State.inGroup (s : State) (x : Group) : Bool := x.members.contains s.me.activation

/-- GJOIN (R274). -/
def execGjoin (g : Guard) (a : Reg) (s : State) : Out :=
  seqExec g .system [a] [] (fun s =>
    let key := keyOf (s.r a)
    await (.groupRoom key) s fun s =>
      match s.group s.myDie s.myPart key with
      | some x =>
        if s.inGroup x then .done s
        else .done { s with groups := s.groups.map fun y => if y = x then { x with members := x.members ++ [s.me.activation] } else y }
      | none => .done { s with groups := s.groups ++ [⟨s.myDie, s.myPart, key, [s.me.activation], [], 0⟩] }) s

/-- GLEAVE (R274). -/
def execGleave (g : Guard) (a : Reg) (s : State) : Out :=
  seqExec g .system [a] [] (fun s =>
    let key := keyOf (s.r a)
    .done (s.leaveGroups s.me.activation fun x => x.die == s.myDie && x.part == s.myPart && x.key == key)) s

/-- GARR (R274): the phase the arrival belongs to. It is a release at DIE scope, so it comes after the task's earlier accesses (R53, R249); it
waits for nothing else (DEDUCED, assumption 67). -/
def execGarr (g : Guard) (d a : Reg) (s : State) : Out :=
  seqExec g .release [a] [d] (fun s =>
    match s.group s.myDie s.myPart (keyOf (s.r a)) with
    | none => .fault (s.report fILLOP 0 0) s
    | some x =>
      if !s.inGroup x then .fault (s.report fILLOP 0 0) s
      else
        let act := s.me.activation
        let y := Group.settle { x with arrivals := if x.arrivals.contains act then x.arrivals else x.arrivals ++ [act] }
        .done ({ s with groups := s.groups.map fun z => if z = x then y else z }.setR d (x.phase.setWidth 64))) s

/-- GWAIT (R274). -/
def execGwait (g : Guard) (a b : Reg) (s : State) : Out :=
  seqExec g .system [a, b] [] (fun s =>
    match s.group s.myDie s.myPart (keyOf (s.r a)) with
    | none => .fault (s.report fILLOP 0 0) s
    | some x => if !s.inGroup x then .fault (s.report fILLOP 0 0) s
                else await (.phase (keyOf (s.r a)) (keyOf (s.r b))) s fun s => .done s) s

/-! ### Safe points, traps and returns (R275, R276) -/

/-- The registers a SAFEPT saves: those named live, the others 0. -/
def liveRegs (m : BitVec 31) (r : Vector Word 32) : Vector Word 32 :=
  Vector.ofFn fun i => if i.val ≠ 0 ∧ m.getLsbD (i.val - 1) then r[i] else 0

/-- A switched-out task's context is saved and its slot released (R275). -/
def State.switchOut (s : State) (regs : BitVec 31) (preds : BitVec 7) (stub : Option (BitVec 13)) : State :=
  let x := s.me
  let saved : SavedTask := {
    task := s.cur, pc := x.pc + 8, entry := x.entry, hvec := x.hvec, regs := liveRegs regs x.regs, preds := x.preds &&& preds
    queue := s.queue s.cur, stub := stub.map fun a => BitVec.ofNat 16 (8 * a.toNat), activation := x.activation, ownerAct := x.ownerAct
    node := x.node, context := x.context }
  ({ (s.dropDeferred s.cur) with switchedOut := s.switchedOut ++ [saved] }.setQueue s.cur []).updMe fun y =>
    { y with status := .idle, inHandler := false, node := none, ownerAct := 0, switchReq := none }

/-- SAFEPT (R275): the safe-point counter starts again; with a switch pending, the task first waits until every counter is 0, and its context
is saved. -/
def execSafept (g : Guard) (regs : BitVec 31) (preds : BitVec 7) (stub : Option (BitVec 13)) (s : State) : Out :=
  seqExec g .free [] [] (fun s =>
    if s.me.switchReq = some .switchOut then
      await .switch s fun s => .leave (s.switchOut regs preds stub)
    else .done (s.updMe fun x => { x with spcount := 0 - 1 })) s

/-- TRAP (R276): handler entry with the code in the record; EPC is the next address. -/
def execTrap (g : Guard) (code : BitVec 32) (s : State) : Out :=
  seqExec g .free [] [] (fun s => .take s.nextPc (s.report fTRAP 0 code.toNat) s) s

/-- The context that a slot of no dispatch has: its partition's default context (R46, R346). -/
def State.startCtx (s : State) (t : Nat) : BitVec 16 :=
  if (s.task t).dispatched then (s.task t).context else BitVec.ofNat 16 (s.part (s.partOf t)).defaultCtx

/-- A slot enters a rebuild stub (R374): EPC and ESTAT as its status says. One that is in its handler, BLOCKED there or not, enters it after its
ERET. In an IDLE slot that no node waits for, the stub is an activation of its own, `act`. -/
def Task.enterStub (x : Task) (addr : BitVec 16) (run act : Nat) (ctx : BitVec 16) : Task :=
  if x.inHandler then { x with stubDue := some (addr, run) }
  else match x.status with
  | .idle => { x with status := .handler, inHandler := true, estat := .idle, pc := addr, stubRun := some run, spcount := 0, context := ctx
                      activation := if x.node.isSome then x.activation else act }
  | _ => { x with status := .handler, inHandler := true, estat := .runnable, epc := x.pc, pc := addr, waitFor := none
                  stubRun := some run, spcount := 0 }

/-- A slot of the machine enters a rebuild stub; what it waited for is forgotten, for its instruction issues again (R374). -/
def State.enterStub (s : State) (t : Nat) (addr : BitVec 16) (run : Nat) : State :=
  let (act, s1) := s.fresh
  let s2 := if (s.task t).inHandler then s1 else s1.cancelWait t
  s2.updTask t fun x => x.enterStub addr run act (s.startCtx t)

/-- The stub a slot is to enter once it has left its handler (R374). -/
def State.dueStub (s : State) (t : Nat) : State :=
  match (s.task t).stubDue with
  | some (addr, run) => (s.updTask t fun x => { x with stubDue := none }).enterStub t addr run
  | none => s

/-- ERET (R276): in HANDLER, returns to the status of ESTAT; after a rebuild stub the run's sources present input again (R374). R52 names only TEND and
stops as leaving a group: a stub that an IDLE slot entered and that joined one stays its member after its ERET, by its own activation's number
(DESIGN CHOICE, assumption 97). -/
def execEret (g : Guard) (s : State) : Out :=
  seqExec g .free [] [] (fun s =>
    if !s.me.inHandler then .fault (s.report fILLOP 0 0) s
    else
      let s1 := match s.me.stubRun with
        | some r => s.updRun r Run.restart
        | none => s
      .leave ((s1.updMe fun x => { x with stubRun := none, spcount := x.spcount + 1, waitFor := none }.eret).dueStub s1.cur)) s

/-! ### Firmware, timestamp and control registers (R277, R278) -/

/-- FWCALL (R277): a release at DEV scope, then the reply. -/
def execFwcall (g : Guard) (d a : Reg) (svc : BitVec 16) (s : State) : Out :=
  seqExec g .release [a] [d] (fun s =>
    match s.me.fwReply with
    | some v => .done ((s.updMe fun x => { x with fwCall := none, fwReply := none }).setR d v)
    | none => .wait .firmware (s.updMe fun x => { x with fwCall := some (svc, s.r a) })) s

/-- RDTS (R278). -/
def execRdts (g : Guard) (d : Reg) (s : State) : Out := seqExec g .free [] [d] (fun s => .done (s.setR d s.timestamp)) s

/-- The counters word (R114). -/
def Counters.word (c : Counters) : Word :=
  BitVec.ofNat 64 (c.ld.toNat * 2 ^ 40 + c.st.toNat * 2 ^ 32 + c.dr.toNat * 2 ^ 24 + c.sr.toNat * 2 ^ 16 + c.sv.toNat * 2 ^ 8 + c.rn.toNat)

/-- A control register of the running task (R114). -/
def State.controlReg (s : State) (c : CReg) : Word :=
  let x := s.me
  match c with
  | .entry => x.entry.setWidth 64
  | .hvec => x.hvec.setWidth 64
  | .epc => x.epc.setWidth 64
  | .safegap => x.safegap.setWidth 64
  | .frec0 => x.frec.w0
  | .frec1 => x.frec.w1
  | .frec2 => x.frec.w2
  | .frec3 => x.frec.w3
  | .taskid => BitVec.ofNat 64 s.cur
  | .partition => BitVec.ofNat 64 s.myPart
  | .counters => x.cnt.word
  | .spcount => x.spcount.setWidth 64

/-- CRD (R278). -/
def execCrd (g : Guard) (d : Reg) (cr : CReg) (s : State) : Out := seqExec g .free [] [d] (fun s => .done (s.setR d (s.controlReg cr))) s

/-- An instruction-store address from a register: bits 15 to 3 (R278). -/
def codeAddr (w : Word) : BitVec 16 := w.extractLsb' 0 16 &&& 0xFFF8

/-- CWR (R278). -/
def execCwr (g : Guard) (cr : CWReg) (a : Reg) (s : State) : Out :=
  seqExec g .free [a] [] (fun s =>
    let v := s.r a
    .done (s.updMe fun x => match cr with
      | .entry => { x with entry := codeAddr v }
      | .hvec => { x with hvec := codeAddr v }
      | .epc => { x with epc := codeAddr v }
      | .safegap => { x with safegap := v.extractLsb' 0 32 })) s

/-! ### Caches and code (R279, R280, R303) -/

/-- Whether n bytes at an address meet the range of a CINV; bytes at or above 2^48 are ignored. -/
def cinvMeets (a b va n : Nat) : Bool := decide (0 < b) && decide (va < min (a + b) (2 ^ 48)) && decide (a < va + n)

/-- CINV.CFG (R279, R302). -/
def execCinvCfg (g : Guard) (a b : Reg) (s : State) : Out :=
  seqExec g .store [a, b] [] (fun s =>
    .done { s with caches := s.caches.map fun c => (c.1, c.2.filter fun e =>
      !(e.partition == s.myPart && cinvMeets (s.r a).toNat (s.r b).toNat e.va (32 * e.length))) }) s

/-- CINV.CODE (R279, R302). -/
def execCinvCode (g : Guard) (a b : Reg) (s : State) : Out :=
  seqExec g .store [a, b] [] (fun s =>
    .done { s with codeCopies := s.codeCopies.filter fun e =>
      !(e.part == s.myPart && cinvMeets (s.r a).toNat (s.r b).toNat e.va e.bytes.length) }) s

/-- The bytes at an address that a load of the code image at `base` uses: each 2 KiB block freely the copy still held or memory (R303,
assumption 3). -/
def mixBytes (f base va : Nat) (old new : List Byte) : List Byte :=
  (List.range new.length).map fun j =>
    let block := (va + j) / 2048 - base / 2048
    if (f / 2 ^ block) % 2 = 1 && decide (j < old.length) then old[j]?.getD 0 else new[j]?.getD 0

/-- The part of a code image that is read before a turn reads on: what earlier turns have read, or the header (R115). -/
def withHead (va f : Nat) (old got : List Byte) (s : State) (k : List Byte → State → SeqRes) : SeqRes :=
  if got.isEmpty then readBytes va 16 s fun bs s => k (mixBytes f va va old bs) s else k got s

/-- The 8-byte words of a body, each with the address it goes to. -/
def eightsAt : Nat → Nat → List Byte → List (Nat × List Byte)
  | 0, _, _ => []
  | fuel + 1, x, bs => if bs.isEmpty then [] else (x, bs.take 8) :: eightsAt fuel (x + 8) (bs.drop 8)

/-- An ILOAD writes one of the words it has still to write, freely which, as one event, and completes with the last (R280, assumption 3). -/
def loadWord (l : List (Nat × List Byte)) (s : State) : SeqRes :=
  let (f, s1) := s.drawNat
  match l[f % l.length]? with
  | none => .done s1
  | some w =>
    let q := s1.sequencer (taskRing s1.cur)
    let s2 := s1.setSequencer (taskRing s1.cur) { q with istore := Memory.writeBytes q.istore w.1 w.2, ibad := q.ibad.filter fun x => x != w.1 / 8 }
    let rest := l.eraseIdx (f % l.length)
    if rest.isEmpty then .done s2 else .more (.words rest) s2

/-- ILOAD (R280, R115): header and CRC are checked, and the body goes to the store word by word. The body is read freely one 2 KiB block a turn or all
that is left of it (R294, R303, assumption 3). -/
def execIload (g : Guard) (a : Reg) (dst : BitVec 13) (s : State) : Out :=
  seqExec g .store [a] [] (fun s =>
    match s.me.waitFor with
    | some (.words l) => loadWord l s
    | _ =>
    let va := (s.r a).toNat
    let at0 := dst.toNat * 8
    let bad := fun s : State => SeqRes.fault (s.report fILLCODE 6 va) (s.forget (.task s.cur))
    let mine := fun c : CodeCopy => c.part == s.myPart && c.asid == s.myAsid && c.va == va
    let old := match s.codeCopies.find? mine with | some c => c.bytes | none => []
    let (f, s0) := s.drawNat
    withHead va f old s.movedBytes s0 fun got s =>
      let len := fieldAt got 0 4
      let from' := va + got.length
      let left := 16 + len - got.length
      let n := if Config.freeNat s0.freeCtr % 2 = 0 then left else min left (2048 - from' % 2048)
      if len = 0 || len % 8 ≠ 0 || fieldAt got 8 8 ≠ 0 || decide (65536 < at0 + len) then bad s
      else readBytes from' n s fun b0 s =>
        let bs := got ++ mixBytes f va from' (old.drop got.length) b0
        if n < left then .more (.parts bs) s
        else
        let body := bs.drop 16
        let s1 := { (s.forget (.task s.cur)) with codeCopies := s.codeCopies.filter (fun c => !mine c) ++ [⟨s.myPart, s.myAsid, va, bs⟩] }
        if crc32c body != BitVec.ofNat 32 (fieldAt bs 4 4) then bad s1
        else loadWord (eightsAt (len / 8) at0 body) s1) s

/-! ### The slot's own steps (R48, R225, R275) -/

/-- TASK_ACTIVATE (R48): an IDLE slot with an entry starts from ENTRY. An activation that no dispatch starts runs in the context of the slot's
last dispatch, or in the partition's default context (R346). One that a dispatch starts follows the writes of its node's predecessors (R301). -/
def execTaskActivate (task : Nat) (s : State) : Out :=
  let x := s.task task
  if x.status ≠ .idle ∨ x.parked ∨ (s.queue task).isEmpty ∨ 192 ≤ task ∨ !s.applied (taskDie task) (s.nodeDeps x.node) then .next s
  else
    let (n, s1) := s.fresh
    let (m, s2) := s1.fresh
    .next (s2.updTask task fun y => { y with
      status := .runnable, pc := y.entry, spcount := 0, waitFor := none
      activation := if y.node.isSome then y.activation else n
      ownerAct := if y.ownerAct = 0 then m else y.ownerAct
      context := s.startCtx task })

/-- TASK_UNBLOCK (R48): a blocked slot whose condition holds becomes HANDLER or RUNNABLE, and its instruction issues again. For a FWCALL
`reply` is the firmware's reply, which is its condition (R277). -/
def execTaskUnblock (task : Nat) (reply : Word) (s : State) : Out :=
  let x := s.task task
  match x.status, x.waitFor with
  | .blocked, some w =>
    let s1 := if w = .firmware ∧ x.fwCall.isSome then s.updTask task fun y => { y with fwReply := some reply } else s
    if s1.waitOver task w then
      .next (s1.updTask task fun y => { y with status := if y.inHandler then .handler else .runnable })
    else .next s
  | _, _ => .next s

/-- DEFERRED_FAULT (R225): a deferred fault of a runnable or blocked task outside its handler is entered at its boundary. -/
def execDeferredFault (task : Nat) (s : State) : Out :=
  let x := s.task task
  match x.inHandler || x.midway || decide (x.status = .idle), x.deferred with
  | false, d :: rest =>
    .next ((s.updTask task fun y => { y with deferred := rest }).takeFault task d.cls x.pc ⟨d.code, d.access, d.va.toNat, d.w3.toNat⟩)
  | _, _ => .next s

/-- TASK_SPGAP (R275): the instruction that would exceed the task's SAFEGAP takes SPGAP. -/
def execTaskSpgap (task : Nat) (s : State) : Out :=
  let x := s.task task
  if (x.status = .runnable ∨ x.status = .handler) ∧ x.safegap ≠ 0 ∧ x.safegap.toNat ≤ x.spcount.toNat then
    .next (s.takeFault task 0 x.pc ⟨fSPGAP, 0, x.spcount.toNat, x.pc.toNat⟩)
  else .next s

/-- TASK_SWITCH_REQUEST (R275): firmware asks for a switch at the task's next SAFEPT, or cancels one. -/
def execTaskSwitchRequest (task : Nat) (request : TaskRequest) (s : State) : Out :=
  .next (s.updTask task fun x => { x with switchReq := match request with | .switchOut => some .switchOut | .cancel => none })

/-- TASK_SWITCH_RESUME (R275): a switched-out context returns to its IDLE slot; what was not named live reads 0. With a stub the slot enters
HANDLER there, otherwise it continues after the SAFEPT. -/
def execTaskSwitchResume (task : Nat) (s : State) : Out :=
  match s.switchedOut.find? fun c => c.task == task with
  | none => .next s
  | some c =>
    if (s.task task).status ≠ .idle then .next s
    else
      let s1 := { s with switchedOut := s.switchedOut.erase c }.setQueue task (c.queue ++ s.queue task)
      .next (s1.updTask task fun x =>
        let y := { x with
          regs := c.regs, preds := c.preds, entry := c.entry, hvec := c.hvec, pc := c.pc, status := .runnable, inHandler := false, spcount := 0
          activation := c.activation, ownerAct := c.ownerAct, node := c.node, context := c.context, waitFor := none, softErr := [] }
        match c.stub with
        | some a => { y with status := .handler, inHandler := true, estat := .runnable, epc := c.pc, pc := a }
        | none => y)

end Sys2Proof.Machine
end

