-- ==== Sys2Proof/Machine/RunCtl.lean ====
section
/-! DEFINITION. Machine/RunCtl: a run from its placement to its end: admission, bindings, safe points, QUIET, slice and gang switches, migration and resumption, and the delivery of its fault records (R117, R265, R266, R347, R348, R368 to R381, R384). -/
namespace Sys2Proof.Machine

/-! ### Placement and admission (R347, R348) -/

/-- The package's rings in chain order (R348). -/
def chainOrder : List Nat := [0, 1, 2, 5, 4, 3].flatMap fun d => [4 * d, 4 * d + 1, 4 * d + 2, 4 * d + 3]

/-- Whether rings are consecutive in chain order, ring 3 of CD3 being followed by ring 0 of CD0. -/
def consecutive (rs : List Nat) : Bool :=
  (List.range 24).any fun i => rs == (List.range rs.length).map fun j => (chainOrder[(i + j) % 24]?).getD 24

/-- Whether hardware takes a placement (R347). -/
def State.placeOk (s : State) (r : Run) (rings : List Nat) : Bool :=
  decide (rings.length = r.recd.ringCount) && rings.all (fun g => (s.part r.partition).rings.contains g) && consecutive rings
  && (r.recd.cross || decide ((rings.map ringDie).eraseDups.length ≤ 1))

/-- The rings a run holds: those it lies on, and the targets reserved for its migration (R379). -/
def Run.holds (r : Run) : List Nat :=
  if r.placed then r.phys ++ (match r.marking with | some (.migration t _) => t | _ => []) else []

/-- Whether no other run is resident on these rings. -/
def State.ringsFree (s : State) (run : Nat) (rings : List Nat) : Bool :=
  !(s.runs.any fun x => x.serial != run && x.holds.any fun g => rings.contains g)

/-- A run begins to configure (R347, R368). -/
def Run.begin (r : Run) : Run := { r with phase := .running, reserved := true, gaps := [], quietClk := 0, quietDone := false }

/-- A run takes its rings, and asks for its reserve as one request; a reserve of 0 asks for nothing (R315, R347). -/
def State.place (s : State) (run : Nat) (r : Run) (rings : List Nat) : State :=
  let home := match rings with | g :: _ => ringDie g | [] => 0
  let s1 := s.updRun run fun x => { x with phase := .placed, rings := rings, phys := rings, home := home }
  if r.recd.reserve = 0 then s1
  else if s1.grantNow home r.partition false false r.recd.reserve then
    (s1.charge home r.partition r.recd.reserve).updRun run fun x => { x with reserved := true }
  else
    let (id, s2) := s1.fresh
    s2.enqueue home r.partition false ⟨id, .reserve run, r.recd.reserve, false, false, s.clk, false⟩

/-- The queued request for a run's reserve. -/
def State.reserveRequest (s : State) (r : Run) : Option PoolReq := (s.pool r.home r.partition).queue.find? fun q => q.who == .reserve r.serial

/-- Whether a gang switch that a run is the successor of has not committed yet (R376). -/
def State.awaitsGang (s : State) (run : Nat) : Bool :=
  s.runs.any fun x => match x.marking with | some (.gang (some n) _) => n == run | _ => false

/-- A placed run begins once its reserve is granted (R347) and what its launch released has been applied at its dies (R265, R288), and not before
the commit of the gang switch that makes room for it. -/
def State.beginRun (s : State) (r : Run) : State :=
  if s.awaitsGang r.serial || !(r.phys.all fun g => s.applied (ringDie g) r.deps) then s
  else if r.reserved || decide (r.recd.reserve = 0) then s.updRun r.serial Run.begin
  else match s.reserveRequest r with
    | some q => if q.granted then (s.takeRequest r.home r.partition q.id).updRun r.serial Run.begin else s
    | none => s

/-- RUN_ADMIT (R265, R347): firmware names a run's rings. A placement that hardware refuses ends the run with cause 4; otherwise the run waits
for its rings, then for its reserve, and begins. -/
def execRunAdmit (run : Nat) (rings : List Nat) (s : State) : Out :=
  match s.run run with
  | none => .next s
  | some r =>
    if r.stopped then .next s
    else match r.phase with
      | .launched =>
        if !s.placeOk r rings then .next (s.endRunSoon run 4)
        else if !s.ringsFree run rings then
          .next (s.updRun run fun x => { x with rings := rings })
        else
          let s1 := s.place run r rings
          (match s1.run run with
           | some x => .next (s1.beginRun x)
           | none => .next s1)
      | .placed => .next (s.beginRun r)
      | _ => .next s

/-! ### The end of a run (R266, R310, R311, R315) -/

/-- Whether a source of a run has stopped at a safe point (R267, R370). -/
def Run.anyCut (r : Run) : Bool := r.ins.toList.any (fun i => i.cut) || r.stripes.any fun p => p.2.ops.any fun o => o.2.cut

/-- Whether the outputs of a suspended run have absorbed every token ahead of its flagged STOP (R375). -/
def Run.drained (r : Run) : Bool :=
  (r.seams.all fun q => q.toks.isEmpty && q.bits.isEmpty && q.words.isEmpty) && r.outs.toList.all fun o => o.fifo.isEmpty

/-- Whether a request that a run made outside the package is still outstanding (R267). -/
def State.asksOutside (s : State) (run : Nat) : Bool :=
  s.outReqs.any fun o => match o.who with | .cell p => p.run == run | .run n => n == run | _ => false

/-- The cause that a run ends with now, if it ends (R266, R267, R375); RSTOP.SAFE ends it once every input has closed or stopped at its safe point
and what stands ahead has been absorbed. -/
def Run.endCause (r : Run) : Option Nat :=
  let complete : Option Nat :=
    if !r.recd.cyclic && decide (r.phase = .running) && r.ins.toList.all (fun i => i.closed) && decide (r.flight = 0) && decide (r.resuming = .no) then
      some 0
    else none
  match r.phase, r.stopping with
  | .ended _, _ => none
  | _, .now c => some c
  | .suspended, .safe => if r.drained then some 1 else none
  | _, .safe => if decide (r.phase = .running) && !r.recd.cyclic && decide (r.ahead = 0)
      && r.ins.toList.all (fun i => i.closed || i.cut) && r.anyCut then some 1 else complete
  | _, _ => complete

/-- The reserve of a run returns: what it does not hold leaves the pool's holdings, and what it holds becomes the partition's ordinary holding; a
request still queued is withdrawn (R267, R315). -/
def State.dropReserve (s : State) (r : Run) : State :=
  let q := s.pool r.home r.partition
  let back := if r.reserved then r.recd.reserve - r.used
    else match s.reserveRequest r with | some x => if x.granted then x.n else 0 | none => 0
  let s1 := s.setPool r.home r.partition { q with held := q.held - back, queue := q.queue.filter fun x => x.who != .reserve r.serial }
  let plain := fun (f : Option Nat) => if f = some r.serial then none else f
  { s1 with tiles := s1.tiles.map fun t => { t with funded := plain t.funded } }

/-- Tiles of a DRAWS that were drawn for a run and not delivered pass to the drawing task's owner (R261, R311). -/
def State.passDrawn (s : State) (run : Nat) : State :=
  s.engines.foldl (fun x e => match e.kind with
    | .draws d =>
      if d.run = some run then
        d.tiles.foldl (fun (y : State) t => y.updTile t.1 fun z => { z with owner := e.owner }) x
      else x
    | _ => x) s

/-- The launcher learns of the end: rn falls, or the node's agent has ended, with a failure when the cause is not 0 (R266, R342). -/
def State.tellLauncher (s : State) (r : Run) (cause : Nat) (deps : List Nat) : State :=
  match r.launcher with
  | .task t _ => (s.lowerCnt t .rn).updTask t fun x => { x with acq := (x.acq ++ deps).eraseDups }
  | .node g n =>
    let s1 := s.updNode g n fun x => { x with ended := true, deps := (x.deps ++ deps).eraseDups }
    if cause = 0 then s1 else s1.failNode g n 1 cause
  | .gone _ => s

/-- The entry of a run's end: its serial and the cause (R266). -/
def endEntry (r : Run) (cause : Nat) (deps : List Nat) : QEntry :=
  ⟨0, 0, false, BitVec.ofNat 64 (r.opId.toNat % 2 ^ 32 * 2 ^ 32 + cause), deps⟩

/-- A run ends (R266): rn falls, and its done entry is due at its endpoint. -/
def State.endRun (s : State) (r : Run) (cause : Nat) : State :=
  let deps := s.runDeps r
  let s1 := s.unconfigure r.serial
  let s2 := match s1.run r.serial with | some x => s1.dropReserve x | none => s1
  let s3 := s2.passDrawn r.serial
  let s4 := (s3.readerEnd (.run r.serial)).ownerEnd (.run r.serial)
  let s5 := (s4.tellLauncher r cause deps).logEvent r.source 2 r.partition r.opId (BitVec.ofNat 64 cause)
  let due := fun (x : Task) => match x.stubDue with | some (_, n) => if n = r.serial then { x with stubDue := none } else x | none => x
  let tasks := s5.tasks.map fun (p : Nat × Task) => (p.1, due p.2)
  let remap := s5.remap.filter fun (x : Nat × Nat) => !(r.rings.zip r.phys).contains x
  let s6 := { s5 with tasks := tasks, remap := remap }
  s6.updRun r.serial fun x =>
      { x with phase := .ended cause, used := 0, reserved := false, due := some (endEntry r cause deps), ins := x.ins.map fun i => { i with closed := true } }

/-- The done entry of an ended run goes to its endpoint once that has room (R266). -/
def State.sendDone (s : State) (run : Nat) : State :=
  match s.run run with
  | none => s
  | some r =>
    match r.due with
    | none => s
    | some e =>
      match s.deliver r.partition r.recd.doneEp e with
      | .full => s
      | .done s1 => s1.updRun run fun x => { x with due := none }
      | _ => s.updRun run fun x => { x with due := none }

/-- RUN_END (R266): a run that completes, or whose stop has come, ends once no request of it is outstanding (R267); its done entry follows, when its
endpoint has room. -/
def execRunEnd (run : Nat) (s : State) : Out :=
  match s.run run with
  | none => .next s
  | some r =>
    match r.endCause with
    | none => .next (s.sendDone run)
    | some c => .next (if s.asksOutside run then s else (s.endRun r c).sendDone run)

/-! ### SPGAP and QUIET (R368, R381) -/

/-- RUN_SPGAP (R368): a SAFEGAP counter of a run has passed SAFEGAP; the run takes SPGAP and ends with cause 3. -/
def execRunSpgap (run : Nat) (s : State) : Out :=
  match s.run run with
  | none => .next s
  | some r =>
    let over' := r.gaps.find? fun g => decide (r.recd.safegap < g.2)
    match over' with
    | some g =>
      if r.recd.safegap ≠ 0 ∧ r.phase = .running ∧ !r.stopped then .next ((s.runFault run 7 0 fSPGAP g.2).endRunSoon run 3) else .next s
    | none => .next s

/-- What QUIET does to a run: it is counted, the SAFEGAP counters start again, and a cyclic run is at its safe point, where a stop ends it and a
marking takes effect. -/
def Run.atQuiet (r : Run) : Run :=
  let r1 := { r with quiets := r.quiets + 1, quietDone := true, gaps := [] }
  if !r.recd.cyclic then r1
  else match r.stopping, r.marking with
    | .safe, _ => { r1 with stopping := .now 1 }
    | _, some _ => { r1 with ins := r1.ins.map fun i => { i with cut := true } }
    | _, none => r1

/-- The entry of a QUIET. -/
def quietEntry (r : Run) : QEntry := ⟨0, 0, false, BitVec.ofNat 64 (r.opId.toNat % 2 ^ 32 * 2 ^ 32 + (r.quiets + 1).toNat), []⟩

/-- QUIET (R381): after two clean windows it is reported once, to the quiet endpoint and the log. -/
def execQuiet (run : Nat) (s : State) : Out :=
  match s.run run with
  | none => .next s
  | some r =>
    if r.phase ≠ .running ∨ r.flight ≠ 0 ∨ s.saving run ∨ r.quietDone ∨ r.quietClk < 2 * r.window ∨ r.stopped then .next s
    else
      let s1 := (s.updRun run Run.atQuiet).logEvent r.source 8 r.partition r.opId ((r.quiets + 1).setWidth 64)
      match s1.deliver r.partition r.recd.quietEp (quietEntry r) with
      | .full => .next s
      | .done s2 => .next s2
      | _ => .next s1

/-! ### Markings (R369 to R379) -/

/-- Whether a run takes a marking now (R369, R375): it runs, no marking is pending, nothing stops it, and it has safe points that carry a switch. -/
def Run.marks (r : Run) : Bool :=
  decide (r.phase = .running) && r.marking.isNone && !r.stopped && (decide (r.recd.safe ≠ 0) || r.recd.cyclic)

/-- A successor is a run already dispatched to the same rings (R371). -/
def State.successorOk (s : State) (r : Run) : Option Nat → Bool
  | none => true
  | some n => match s.run n with
    | some x => decide (x.phase = .launched) && !x.stopped && x.partition == r.partition && x.rings == r.phys && x.serial != r.serial
        && s.placeOk x x.rings
    | none => false

/-- Marks a run: its sources stop at the next safe point (R370), and what its ops remember of flagged STOPs starts again. -/
def State.mark (s : State) (r : Run) (m : Marking) : State :=
  { s with busy := false }.updRun r.serial fun x =>
    let y := { x with
      marking := some m, markClk := s.clk, markNo := x.markNo + 1, released := []
      stripes := x.stripes.map fun (p : Nat × Stripe) =>
        (p.1, { p.2 with ops := p.2.ops.map fun (o : OpAddr × OpState) => (o.1, { o.2 with flagSeen := false }) }) }
    { y with ins := y.ins.map (InBind.cutNow y.cutRule) }

/-- A marking or a migration is refused; while one is pending, the firmware request returns busy (R375). -/
def State.refuseMark (s : State) (r : Run) : State := { s with busy := r.marking.isSome }

/-- The successor's reserve is requested at the marking (R371). -/
def State.callSuccessor (s : State) : Option Nat → State
  | none => s
  | some n => match s.run n with
    | some x => s.place n x x.rings
    | none => s

/-- SLICE_MARK (R370): firmware marks a run that lies on one die to leave its rings; a request it must not make is refused. -/
def execSliceMark (run : Nat) (successor : Option Nat) (s : State) : Out :=
  match s.run run with
  | none => .next s
  | some r =>
    if !r.marks || decide (1 < r.dies.length) || !s.successorOk r successor then .next (s.refuseMark r)
    else .next ((s.mark r (.slice successor)).callSuccessor successor)

/-- GANG_MARK (R376): a run whose chain crosses dies is marked, with a deadline of at least 1 clk. -/
def execGangMark (run : Nat) (successor : Option Nat) (deadline : BitVec 32) (s : State) : Out :=
  match s.run run with
  | none => .next s
  | some r =>
    if !r.marks || decide (r.dies.length ≤ 1) || deadline == 0 || !s.successorOk r successor then .next (s.refuseMark r)
    else .next ((s.mark r (.gang successor deadline.toNat)).callSuccessor successor)

/-- GANG_COMMIT (R376): once every die has released every slot, the switch commits: the run is suspended and its successor may begin. -/
def execGangCommit (run : Nat) (s : State) : Out :=
  match s.run run with
  | none => .next s
  | some r =>
    match r.marking with
    | some (.gang _ d) =>
      if r.stripes.isEmpty && r.scrolls && decide (s.clk ≤ r.markClk + d) then .next (s.suspend r r.released).state else .next s
    | _ => .next s

/-- A switch is cancelled (R377, R379): SWITCHMISS is logged with the dies that had not finished, every slot released at the flagged STOP is made
again, and the sources present input again; a successor waits for its rings again. -/
def State.cancelSwitch (s : State) (r : Run) (successor : Option Nat) : State :=
  let s1 := s.logEvent r.source 7 r.partition r.opId (BitVec.ofNat 64 r.dieMask)
  let s2 := match successor.bind s1.run with
    | some x => (s1.dropReserve x).updRun x.serial fun y => { y with phase := .launched, reserved := false, used := 0 }
    | none => s1
  s2.updRun r.serial fun x => if x.resuming = .no then x.remake false true else { x with marking := none }

/-- GANG_DEADLINE_EXPIRY (R377). -/
def execGangDeadlineExpiry (run : Nat) (s : State) : Out :=
  match s.run run with
  | none => .next s
  | some r =>
    match r.marking with
    | some (.gang n d) => if r.markClk + d < s.clk && !r.stopped then .next (s.cancelSwitch r n) else .next s
    | _ => .next s

/-! ### Thermal migration (R378, R379) -/

/-- Whether hardware takes the targets of a migration (R378): as many rings of the same die, consecutive, free and in the run's partition. -/
def State.targetsOk (s : State) (r : Run) (targets : List Nat) : Bool :=
  decide (targets.length = r.phys.length) && decide (((r.phys ++ targets).map ringDie).eraseDups.length = 1) && consecutive targets
  && targets.all (fun g => (s.part r.partition).rings.contains g) && s.ringsFree r.serial targets && !(targets.any fun g => r.phys.contains g)

/-- MIGRATION (R378, R379): the run is marked as a slice switch marks it, its targets reserved. -/
def execMigration (run : Nat) (targets : List Nat) (deadline : BitVec 32) (s : State) : Out :=
  match s.run run with
  | none => .next s
  | some r =>
    if !r.marks || deadline == 0 || !s.targetsOk r targets then .next (s.refuseMark r) else .next (s.mark r (.migration targets deadline.toNat))

/-- MIGRATION_CANCEL (R379): a migration that its deadline finds unfinished is cancelled as a gang switch is. -/
def execMigrationCancel (run : Nat) (s : State) : Out :=
  match s.run run with
  | none => .next s
  | some r =>
    match r.marking with
    | some (.migration _ d) => if r.markClk + d < s.clk && !r.stopped then .next (s.cancelSwitch r none) else .next s
    | _ => .next s

/-! ### Resumption (R374) -/

/-- A suspended run takes rings. A run that has migrated keeps its logical rings, and its entries of the remap table name the new ones; the logical
rings of any other are those it is placed on (R113, R379, DEDUCED, assumption 77). -/
def State.replace (s : State) (r : Run) (rings : List Nat) : State :=
  let moved := r.rings != r.phys
  let s1 := if moved then { s with remap := remapTo s.remap r.rings rings } else s
  s1.updRun r.serial fun x => { x with phase := .running, rings := if moved then x.rings else rings, phys := rings }

/-- SUSPENDED_RUN_RESUME (R347, R374): firmware names rings for a suspended run; a refused placement ends it with cause 4, and it waits for its
rings, and for what it had seen to be applied at their dies (R290). Its unretired configurations are then made again. -/
def execSuspendedRunResume (run : Nat) (rings : List Nat) (s : State) : Out :=
  match s.run run with
  | none => .next s
  | some r =>
    if r.phase ≠ .suspended ∨ r.stopped then .next s
    else if !s.placeOk r rings then .next (s.endRunSoon run 4)
    else if !s.ringsFree run rings || !(rings.all fun g => s.applied (ringDie g) r.deps) then .next s
    else .next ((s.replace r rings).updRun run fun x => x.remake true false)

/-- The task whose slot runs a run's rebuild stub (R116, R374). -/
def Run.stubTask (r : Run) : Option Nat :=
  if r.recd.stub.getLsbD 19 then (r.rings.head?).map fun g => 8 * g + (r.recd.stub.extractLsb' 16 3).toNat
  else match r.launcher with | .task t _ | .gone t => some t | .node .. => none

/-- REBUILD_STUB_ENTRY (R374): after the last restore the slot that the record names enters HANDLER at the stub; a slot already in its handler enters
it after its ERET, and one that leaves its handler by TEND or a stop enters it here (DEDUCED, assumption 78). -/
def execRebuildStubEntry (run : Nat) (s : State) : Out :=
  match s.run run with
  | none => .next s
  | some r =>
    if r.resuming ≠ .stub ∨ r.stopped ∨ s.tasks.any (fun t => t.2.stubRun == some run) then .next s
    else match r.stubTask with
      | none => .next (s.updRun run Run.restart)
      | some t =>
        if (s.task t).inHandler && (s.task t).stubDue.isSome then .next s
        else .next ((s.updTask t fun x => { x with stubDue := none }).enterStub t r.recd.stubAddr run)

/-! ### Input and output bindings (R117, R429) -/

/-- The slot as which a TILE binding reads: the one it names, where the run is bound to it, or the lowest the run has (R116). -/
def State.bindSlot (s : State) (run : Nat) (b : Word) (t : Tile) : Option Nat :=
  if t.mode ≠ .declared then none
  else if b.getLsbD 24 then
    let k := (b.extractLsb' 21 3).toNat
    if s.bindings.any fun x => x.owner == t.owner && x.slot == k && x.reader == .run run && !x.ended then some k else none
  else s.runSlot run t

/-- A condition holds a TILE input binding, with a record of class 3. -/
def State.holdInput (s : State) (r : Run) (n : Fin 8) (code access va : Nat) : State :=
  (s.updRun r.serial fun x => { x with ins := x.ins.set n { x.ins[n] with held := some ⟨code, va⟩ } }).runFault r.serial 3 access code va

/-- The token that a TILE binding streams at its position (R117, R204): a row that is not valid gives a zero token without lanes. -/
def State.bindToken (s : State) (t : Tile) (row col : Nat) : Token × State :=
  let x := row * t.rowBytes + 64 * col
  let bad := fun (s : State) =>
    let (f, s1) := s.drawNat
    (errTok s1.timestamp 0 (f % 32) (f / 32 % 8) ePOISON, s1)
  if col = t.k then (stopTok (if row + 1 = t.rows then 2 else 1) Ride.none, s)
  else if t.state = .poison then bad s
  else if !t.valid.getLsbD row then (dataTok 0 0, s)
  else if s.tileBad t 0 x 64 then bad (s.tileFails t 0 x 64)
  else (dataTok 0xFFFF (payloadOf (s.tileData t x 64)), s.touchTile t 0 x 64)

/-- The next token of a TILE binding enters its FIFO; with the last STOP the binding closes and its consuming read ends. -/
def State.bindStep (s : State) (r : Run) (n : Fin 8) (t : Tile) : State :=
  let i := r.ins[n]
  let (tok, s1) := s.bindToken t i.row i.col
  let over' := decide (i.col = t.k) && decide (i.row + 1 = t.rows)
  let s2 := s1.updRun r.serial fun x =>
    let j := x.ins[n].accept x.cutRule { tok with deps := t.deps }
    { x with ins := x.ins.set n { j with
        row := if i.col = t.k then i.row + 1 else i.row, col := if i.col = t.k then 0 else i.col + 1
        closed := over', begun := if over' then none else j.begun } }
  match over', i.begun with
  | true, some rd => s2.endRead rd.tile rd.slot
  | _, _ => s2

/-- TILE_BINDING_STREAM (R117, R429): the next token of a TILE binding's tile. It waits for the tile to be FULL and for room; the first token of a
consuming binding begins its read. -/
def execTileBindingStream (run : Nat) (fifo : Fin 8) (s : State) : Out :=
  match s.run run with
  | none => .next s
  | some r =>
    let i := r.ins[fifo]
    let b := r.recd.ifb[fifo]
    let s0 := s
    let s := s0.readEntry r.die r.partition (b.extractLsb' 0 20).toNat
    if r.phase ≠ .running ∨ r.stopped ∨ bindKind b ≠ 1 ∨ i.closed ∨ i.held.isSome ∨ !i.room ∨ i.cut ∨ r.resuming ≠ .no then .next s0
    else
      let h := (b.extractLsb' 0 20).toNat
      match (match i.begun with | some rd => s.tileU rd.tile | none => s.tile r.die r.partition h) with
      | none => .next (s.holdInput r fifo fTOVER 1 (tileVa r.die h))
      | some t =>
        if t.state = .filling ∨ !s.applied r.die t.deps then .next s
        else if i.begun.isSome || !b.getLsbD 20 then .next (s.bindStep r fifo t)
        else
          let slot := s.bindSlot run b t
          if !t.mayRead slot then .next (s.holdInput r fifo fTOVER 1 (tileVa r.die h))
          else
            let s1 := (s.beginRead t.uid slot).updRun run fun x => { x with ins := x.ins.set fifo { x.ins[fifo] with begun := some ⟨t.uid, slot⟩ } }
            match s1.run run, s1.tileU t.uid with
            | some x, some u => .next (s1.bindStep x fifo u)
            | _, _ => .next s1

/-- Takes the token at the head of an output FIFO. -/
def Run.popOut (r : Run) (n : Fin 8) : Run := { r with outs := r.outs.set n { r.outs[n] with fifo := r.outs[n].fifo.drop 1 } }

/-- Whether an output binding of a run works: while the run does, and where it has ended by the rejection of an image, which leaves what was written
to its outputs (R107, DEDUCED, assumption 79). -/
def Run.sends (r : Run) : Bool :=
  (match r.phase with | .running | .suspended => !r.stopped | _ => false) || r.keepsOuts

/-- A token that an output binding absorbs: an ERR becomes an EFLOW record, a MARK logs its event (R23, R34, R238). -/
def State.absorbOut (s : State) (r : Run) (t : Token) : State :=
  if t.isErr then
    s.runRecord r.serial (s.slotRecord r 0 (r.recd.v - 1) 4 0 fEFLOW (lanes10 t.payload).toNat (t.payload.extractLsb' 64 64))
  else if t.kind = 5 then s.logEvent r.source 9 r.partition (lanes10 t.payload) 0
  else s

/-- OF_QUEUE_SEND (R117, R238): a QUEUE binding sends its oldest token to its endpoint, when the channel has room; ERR and PLANE become no entry. -/
def execOfQueueSend (run : Nat) (fifo : Fin 8) (s : State) : Out :=
  match s.run run with
  | none => .next s
  | some r =>
    let b := r.recd.ofb[fifo]
    match r.outs[fifo].fifo with
    | [] => .next s
    | t0 :: _ =>
      if bindKind b ≠ 2 ∨ !r.sends then .next s
      else
      let (t, s) := s.readToken (r.recd.v - 1) t0
      match tokenEntry t t.deps with
        | none => .next ((s.absorbOut r t).updRun run fun x => x.popOut fifo)
        | some e =>
          match s.deliver r.partition (b.extractLsb' 0 16) e with
          | .full => .next s
          | .done s1 => .next ((s1.absorbOut r t).updRun run fun x => x.popOut fifo)
          | _ => .next ((s.absorbOut r t).updRun run fun x => x.popOut fifo)

/-- A TSTATE holds an output binding (R117). -/
def State.holdOutput (s : State) (r : Run) (n : Fin 8) (va : Nat) : State :=
  (s.updRun r.serial fun x => { x with outs := x.outs.set n { x.outs[n] with held := some ⟨fTSTATE, va⟩ } }).runFault r.serial 3 2 fTSTATE va

/-- OF_TILE_WRITE (R117, R205): a TILE binding writes its oldest token at its position, row by row; STOP 1 goes to the next row, and STOP 2 seals
the tile. A tile that is not FILLING holds the output. -/
def execOfTileWrite (run : Nat) (fifo : Fin 8) (s : State) : Out :=
  match s.run run with
  | none => .next s
  | some r =>
    let o := r.outs[fifo]
    let b := r.recd.ofb[fifo]
    match o.fifo with
    | [] => .next s
    | t0 :: _ =>
      if bindKind b ≠ 1 ∨ !r.sends ∨ o.held.isSome then .next s
      else
        let (t, s1) := s.readToken (r.recd.v - 1) t0
        let s := s1.readEntry r.die r.partition (b.extractLsb' 0 20).toNat
        let h := (b.extractLsb' 0 20).toNat
        let move := fun (s : State) (row col : Nat) =>
          s.updRun run fun x => let y := x.popOut fifo; { y with outs := y.outs.set fifo { y.outs[fifo] with row := row, col := col } }
        if t.isStop && decide (t.level < 2) then .next (move s (o.row + 1) 0)
        else if !(t.isStop || t.isData) then .next ((s.absorbOut r t).updRun run fun x => x.popOut fifo)
        else match s.tile r.die r.partition h with
          | none => .next (s.holdOutput r fifo (tileVa r.die h))
          | some u =>
            if u.state ≠ .filling then .next (s.holdOutput r fifo (tileVa r.die h))
            else if t.isStop then .next (move (s.sealTile u.uid (u.deps ++ t.deps ++ s.depsOf r.die).eraseDups) 0 0)
            else
              let x := o.row * u.rowBytes + 64 * o.col
              if u.rows ≤ o.row ∨ u.k ≤ o.col then .next (move s o.row (o.col + 1))
              else if s.hbBad u 0 x 64 then .next (s.tileFails u 0 x 64)
              else .next (move ((s.writeLanes u x t).updTile u.uid fun y => { y with deps := s.onWay (y.deps ++ t.deps) }) o.row (o.col + 1))

/-! ### Fault records (R384) -/

/-- Word i of a record. -/
def FRec.word (f : FRec) (i : Nat) : Word := match i with | 0 => f.w0 | 1 => f.w1 | 2 => f.w2 | _ => f.w3

/-- FAULT_RECORD_DELIVER (R384): the next word of a run's oldest undelivered record goes to its fault endpoint as a DATA entry, when that has
room. -/
def execFaultRecordDeliver (run : Nat) (s : State) : Out :=
  match s.run run with
  | none => .next s
  | some r =>
    match r.records with
    | [] => .next s
    | (f, i) :: rest =>
      match s.deliver r.partition r.recd.faultEp ⟨0, 0, false, FRec.word f i, []⟩ with
      | .full => .next s
      | .done s1 => .next (s1.updRun run fun x => { x with records := if i < 3 then (f, i + 1) :: rest else rest })
      | _ => .next (s.updRun run fun x => { x with records := rest })

end Sys2Proof.Machine
end

