-- ==== Sys2Proof/Machine/Sealing.lean ====
section
/-! DEFINITION. Machine/Sealing: translation walks and invalidations, contexts, and Kiln: writebacks of sealed blocks, generations, keys and the counter tree (R284, R318 to R330, R393, R407). -/
namespace Sys2Proof.Machine

/-! ### Walks and invalidations (R321, R323) -/

/-- Whether two walks found the same range or leaf. -/
def TlbEntry.sameMapping (a b : TlbEntry) : Bool := a.fault.isNone && b.fault.isNone && a.base == b.base && a.size == b.size && a.pa == b.pa

/-- TRANSLATION_WALK_COMPLETE (R321): a queued walk of a die finishes, and with it those of its context that miss to the same range or page;
the translation, or the failure to be reported, is there for the requests that wait. A table in host memory is asked for first (R395). -/
def execTranslationWalkComplete (die asid page : Nat) (s : State) : Out :=
  if !s.walks.contains (die, asid, page) then .next s
  else
    match s.walk die asid page with
    | .out pa n => .next (s.askOnce die (match Tab.find s.contexts asid with | some c => c.partition | none => 0) asid (.walker die asid page) (4096 * page) pa n .read)
    | .entry e =>
      let more := (s.walks.filter fun w => w.1 == die && w.2.1 == asid && w.2.2 != page).filterMap fun w =>
        match s.walk die asid w.2.2 with
        | .entry x => if e.sameMapping x then some x else none
        | .out .. => none
      let new := e :: more
      let done := fun (d a p : Nat) => d == die && a == asid && new.any fun x => x.page == p
      .next ({ (s.touchWalk die asid page) with
        tlb := (s.tlb.filter fun (x : TlbEntry) => !done x.die x.asid x.page) ++ new
        walks := s.walks.filter fun (w : Nat × Nat × Nat) => !done w.1 w.2.1 w.2.2 }.forget (.walker die asid page))

/-- TRANSLATION_INVALIDATE (R323): every translation cache of the package drops the ASID's entries. It completes only when no access of the
ASID that an older translation serves is still to be performed. -/
def execTranslationInvalidate (asid : Nat) (s : State) : Out :=
  if s.accesses.any fun a => a.asid == asid && !a.parts.isEmpty then .next s
  else .next { s with tlb := s.tlb.filter fun e => e.asid != asid }

/-- CONTEXT_CREATE (R284): a context comes to be in a partition, with its mode, range table, page-table root and side-plane table. A
context that exists, or that another partition has, is refused (assumption 14). -/
def execContextCreate (asid : Nat) (ctx : CtxRecord) (s : State) : Out :=
  let p := s.part ctx.partition
  let taken := (Tab.find s.contexts asid).isSome || s.partitions.any fun x => x.1 != ctx.partition && x.2.contexts.contains asid
  if asid < 65536 ∧ ctx.partition < 16 ∧ (p.state = .created ∨ p.state = .active) ∧ !taken then
    .next (({ s with contexts := Tab.set s.contexts asid ctx }).setPart ctx.partition
      { p with contexts := if p.contexts.contains asid then p.contexts else p.contexts ++ [asid] })
  else .next s

/-! ### What a sealed block is sealed with (R324, R325, R327) -/

/-- The initialisation vector of a block: its index, 16 zero bits and its version (R325). -/
def sealIv (block : Nat) (version : BitVec 32) : BitVec 96 := BitVec.ofNat 48 block ++ (0 : BitVec 16) ++ version

/-- The additional data of a block (R325). -/
def sealAad (part : Nat) (gen : BitVec 16) (pa : Nat) : List Byte :=
  [BitVec.ofNat 8 part, 0] ++ leBytes 2 gen.toNat ++ leBytes 8 pa ++ List.replicate 4 0

/-- The key of a live generation. -/
def Kiln.keyOf (k : Kiln) (g : BitVec 16) : Option (BitVec 256) := (k.live.find? fun x => x.1 == g).map Prod.snd

/-- The tag that a block's metadata holds once it is written back (R324, R325). -/
def State.blockTag (s : State) (block part : Nat) : Option (BitVec 128) :=
  let b := Tab.get s.blocks Block.reset block
  ((s.kiln (s.homeOf (2048 * block)) part).keyOf b.gen).map fun key =>
    Config.gcmTag key (sealIv block b.version) (sealAad part b.gen (2048 * block)) (Memory.readBytes s.mem (2048 * block) 2048)

/-- The bytes that HBM holds of a block once it is written back (R325). -/
def State.blockCipher (s : State) (block part : Nat) : Option (List Byte) :=
  let b := Tab.get s.blocks Block.reset block
  ((s.kiln (s.homeOf (2048 * block)) part).keyOf b.gen).map fun key =>
    gcmCrypt key (sealIv block b.version) (Memory.readBytes s.mem (2048 * block) 2048)

/-- The versions of the eight blocks of a leaf node, child 0 lowest, then their generations (R324). -/
def State.leafNode (s : State) (leaf : Nat) : BitVec 384 :=
  (List.range 8).foldl (fun (w : BitVec 384) c =>
    let b := Tab.get s.blocks Block.reset (8 * leaf + c)
    w ||| (b.version.setWidth 384 <<< (32 * c)) ||| (b.gen.setWidth 384 <<< (256 + 16 * c))) 0

/-- A key that Kiln generated: a free value by its number (R327, R393, assumption 3). -/
def treeKeyOf (n : Nat) : BitVec 256 := Config.freeWord n ++ Config.freeWord (n + 1) ++ Config.freeWord (n + 2) ++ Config.freeWord (n + 3)

/-- Bits [383:0] of a node of a counter tree: for a leaf those of its blocks, and for an interior node its children's write counts, the high bits
of each in the generation field and the low 32 in the version field (R324, R327). -/
def State.nodeBits (s : State) (level index : Nat) : BitVec 384 :=
  if level ≤ 1 then s.leafNode index
  else (List.range 8).foldl (fun (w : BitVec 384) c =>
    let n := Tab.get s.treeCounts 0 (nodeKey (level - 1) (8 * index + c))
    w ||| (BitVec.ofNat 384 (n % 2 ^ 32) <<< (32 * c)) ||| (BitVec.ofNat 384 (n / 2 ^ 32 % 65536) <<< (256 + 16 * c))) 0

/-- The MAC of a node: the tag over no plaintext under the stack's tree key, with the node's index and its parent's version entry for it, and the
node's other bits as additional data (R327). -/
def State.nodeMac (s : State) (level index : Nat) : BitVec 128 :=
  Config.gcmTag (treeKeyOf (Tab.get s.treeKey 0 (paStack (2048 * (index * 8 ^ level)))))
    (sealIv index (BitVec.ofNat 32 (Tab.get s.treeCounts 0 (nodeKey level index)))) (leBytes 48 (s.nodeBits level index).toNat) []

/-- The 64 bytes of a node: its MAC in bits [511:384] above the rest (R324). -/
def State.nodeBytes (s : State) (level index : Nat) : List Byte := leBytes 64 (s.nodeMac level index ++ s.nodeBits level index).toNat

/-- The 192 bytes of a metadata group: the tags of its eight blocks, then their leaf node (R324). -/
def State.groupBytes (s : State) (leaf part : Nat) : List Byte :=
  ((List.range 8).flatMap fun c => leBytes 16 ((s.blockTag (8 * leaf + c) part).getD 0).toNat) ++ s.nodeBytes 1 leaf

/-- The address of a group in the metadata area of its stack: the groups in the order of their blocks from the area's base on (R324, DEDUCED,
assumption 94). -/
def groupAddr (leaf : Nat) : Nat := leaf / 2 ^ 22 * 2 ^ 36 + (2 ^ 36 - 768 * 2 ^ 20) + 192 * (leaf % 2 ^ 22)

/-! ### Writebacks (R326, R330) -/

/-- SEALED_WRITEBACK (R326): the sealed-block cache writes one modified block back. -/
def execSealedWriteback (block : Nat) (s : State) : Out := .next (s.writeBack block)

/-! ### Generations (R329, R330) -/

/-- The key of a generation of a partition in an epoch (R329). -/
def genKey (key : BitVec 256) (part : Nat) (g : BitVec 16) (epoch : BitVec 32) : BitVec 256 :=
  Config.hkdf key ([BitVec.ofNat 8 part] ++ leBytes 2 g.toNat ++ leBytes 4 epoch.toNat)

/-- Replaces the Kiln of a partition on a die. -/
def State.setKiln (s : State) (die part : Nat) (k : Kiln) : State := { s with kilns := Tab.set s.kilns (poolKey die part) k }

/-- A rotate, unless it is refused (R329). -/
def Kiln.rotated (k : Kiln) (part : Nat) : Option Kiln :=
  match k.key with
  | none => none
  | some key =>
    let g := k.current + 1
    if decide (4 ≤ k.live.length) || k.isLive g || (k.current == 0xFFFF && k.epoch == 0xFFFFFFFF) then none
    else
      let ep := if k.current = 0xFFFF then k.epoch + 1 else k.epoch
      some { k with current := g, epoch := ep, live := k.live ++ [(g, genKey key part g ep)] }

/-- The stalled blocks that a test picks go on (R330). -/
def State.releaseStalled (s : State) (which : Nat → Bool) : State :=
  ((s.blocks.filter fun b => b.2.stalled && which b.1).map Prod.fst).foldl State.writeBack s

/-- Whether a block is a partition's, homed on a die. -/
def State.blockOf (s : State) (die part block : Nat) : Bool :=
  s.homeOf (2048 * block) == die && s.unitOwner (2048 * block) == some part

/-- KILN_ROTATE (R329, R330): the next generation becomes current with a new key, and the partition's stalled writebacks go on under it. -/
def execKilnRotate (die partition : Nat) (s : State) : Out :=
  match (s.kiln die partition).rotated partition with
  | none => .next s
  | some k => .next ((s.setKiln die partition k).releaseStalled (s.blockOf die partition))

/-- The sealed blocks of a partition homed on a die, in address order of its units. -/
def State.sealedBlocks (s : State) (die part : Nat) : List Nat :=
  (((s.part part).units.filter fun u => !u.2).flatMap fun u => (List.range 1024).map fun i => 1024 * u.1 + i).filter fun b => s.homeOf (2048 * b) == die

/-- The re-sealing of one block by a sweep: a block that fails stays as it is and is logged (R328, R329). -/
def State.sweepBlock (s : State) (part : Nat) (g : BitVec 16) (block : Nat) : State :=
  let b := Tab.get s.blocks Block.reset block
  if b.gen ≠ g then s
  else match s.blockFault false (2048 * block) with
    | some c => s.logBlock c part (2048 * block)
    | none => s.sealBlock block part

/-- KILN_SWEEP (R329): every block of a generation is written back under the current one with version 0. A sweep of the current generation
has nothing to do: its blocks are under it. -/
def execKilnSweep (die partition generation : Nat) (s : State) : Out :=
  let g := BitVec.ofNat 16 generation
  if (s.kiln die partition).live.isEmpty || (s.kiln die partition).current == g then .next s
  else .next ((s.sealedBlocks die partition).foldl (fun x b => x.sweepBlock partition g b) s)

/-- KILN_RETIRE (R329): a generation stops being live, unless a block of the partition carries it or it is the current one. -/
def execKilnRetire (die partition generation : Nat) (s : State) : Out :=
  let k := s.kiln die partition
  let g := BitVec.ofNat 16 generation
  if k.current = g ∨ (s.sealedBlocks die partition).any (fun b => (Tab.get s.blocks Block.reset b).gen == g) then .next s
  else .next (s.setKiln die partition { k with live := k.live.filter fun x => x.1 != g })

/-- Writes blocks as zeros at version 0 under a generation (R329). -/
def State.zeroBlocks (s : State) (g : BitVec 16) (first n : Nat) : State :=
  { s with
    mem := Memory.zero s.mem (2048 * first) (2048 * n)
    stale := s.stale.filter fun x => !(decide (2048 * first ≤ x.pa) && decide (x.pa < 2048 * (first + n)))
    blocks := (List.range n).foldl (fun t i => Tab.set t (first + i) { Block.reset with gen := g, since := s.freeCtr }) s.blocks }

/-- KILN_INITIALISE_RANGE (R329): a rotate, then every block of the range as zeros at version 0 under the new generation. It is refused
while a rotate would be, and for a range that is not of whole sealed blocks of the partition homed on the die. -/
def execKilnInitialiseRange (die partition base length : Nat) (s : State) : Out :=
  let n := length / 2048
  let mine := (List.range n).all fun i => s.blockOf die partition (base / 2048 + i) && !s.unitShared (base + 2048 * i)
  if base % 2048 ≠ 0 ∨ length % 2048 ≠ 0 ∨ !mine then .next s
  else match (s.kiln die partition).rotated partition with
    | none => .next s
    | some k => .next (((s.setKiln die partition k).zeroBlocks k.current (base / 2048) n).releaseStalled (s.blockOf die partition))

/-- TREE_KEY_ROTATION (R330): every node of a stack's counter tree is rewritten under a new tree key, and the writebacks that a write count
stalled go on. -/
def execTreeKeyRotation (stack : Nat) (s : State) : Out :=
  .next (({ s with
    freeCtr := s.freeCtr + 4
    treeKey := Tab.set s.treeKey stack s.freeCtr
    treeCounts := s.treeCounts.filter fun c => c.1 / 2 ^ 32 != stack }).releaseStalled
    fun b => paStack (2048 * b) == stack)

/-! ### Keys (R329, R393, R407) -/

/-- Installs a partition's key in the Kiln of every die: generation 0 of epoch 0 is live, every sealed unit is zeros at version 0 under it, and
then the partition is ACTIVE. Only a CREATED partition takes a key. -/
def State.installKey (s : State) (part : Nat) (key : BitVec 256) : State :=
  let p := s.part part
  if p.state ≠ .created then s
  else
    let s1 := (List.range 6).foldl (fun (x : State) d => x.setKiln d part ⟨some key, 0, [(0, genKey key part 0 0)], 0⟩) s
    let s2 := (p.units.filter fun u => !u.2).foldl (fun (x : State) u => x.zeroBlocks 0 (1024 * u.1) 1024) s1
    s2.setPart part { p with state := .active }

/-- KILN_GENERATED_KEY (R393): the same with a key that Kiln makes, which nobody sees (assumption 3). -/
def execKilnGeneratedKey (partition : Nat) (s : State) : Out :=
  .next ({ s with freeCtr := s.freeCtr + 4 }.installKey partition (treeKeyOf s.freeCtr))

end Sys2Proof.Machine
end

