-- ==== Sys2Proof/Machine/Graphs.lean ====
section
/-! DEFINITION. Machine/Graphs: notify pages, acceptance of graphs, node states, dispatch and completion (R301, R333 to R346). -/
namespace Sys2Proof.Machine

/-! ### Interfaces (R333, R334) -/

/-- An interface: an assignable one below 8192, then the sixteen partition interfaces. -/
def State.iface (s : State) (n : Nat) : Iface :=
  if n < 8192 then Tab.get s.ifaces Iface.reset n else Tab.get s.pifaces Iface.reset (n - 8192)

/-- Replaces an interface. -/
def State.setIface (s : State) (n : Nat) (f : Iface) : State :=
  if n < 8192 then { s with ifaces := Tab.set s.ifaces n f } else { s with pifaces := Tab.set s.pifaces (n - 8192) f }

/-- Whether a page is live: an assignable interface whose binding is valid, through a port that has trained (R397, R404). -/
def State.pageLive (s : State) (n : Nat) : Bool := s.trained && decide (n < 8192) && (s.iface n).binding.getLsbD 63

/-- The word that STATUS reads as (R333). -/
def Iface.status (f : Iface) : Word :=
  BitVec.ofNat 64 (f.accepted.toNat + f.completed.toNat * 2 ^ 16 + f.dropped.toNat * 2 ^ 32 + f.fifo.length % 32 * 2 ^ 48)

/-- One launch is dropped and counted. -/
def Iface.drop (f : Iface) : Iface := { f with dropped := f.dropped + 1 }

/-- The host's writes that are still on their way to some die: those that PCIe ordering places before a write to a notify page (R299). -/
def State.hostWrites (s : State) : List Nat := ((s.inFlight.filter fun r => r.src == 6).map fun r => r.serial).eraseDups

/-- LAUNCH (R299, R333, R334, R393): a write to a live page queues a graph with the host writes before it, or is dropped and counted when its
FIFO is full or its partition takes no graphs. A page that is not bound ignores it (R396). -/
def execLaunch (iface : Nat) (va : Word) (s : State) : Out :=
  if !s.pageLive iface then .next s
  else
    let f := s.iface iface
    if (s.part f.part).state = .active ∧ f.fifo.length < 16 then .next (s.setIface iface { f with fifo := f.fifo ++ [⟨va, f.asid, s.hostWrites⟩] })
    else .next (s.setIface iface f.drop)

/-- Cancels a graph: no further node is dispatched or evaluated (R342). -/
def Graph.cancel (g : Graph) : Graph :=
  if g.failStatus = 0 then { g with cancelled := true, failStatus := 1 } else { g with cancelled := true }

/-- CANCEL (R333, R334, R342): a live graph of the interface at that address is cancelled; one that names none is ignored. -/
def execCancel (iface : Nat) (va : Word) (s : State) : Out :=
  match s.graphs.find? fun g => g.iface == some iface && g.va == va && !g.cancelled with
  | some g => if s.pageLive iface then .next (s.updGraph g.id Graph.cancel) else .next s
  | none => .next s

/-- NOTIFY_RESERVED_WRITE (R333): a write of another size counts as dropped; every other write is ignored. -/
def execNotifyReservedWrite (iface _offset size : Nat) (s : State) : Out :=
  if s.pageLive iface && size != 8 then .next (s.setIface iface (s.iface iface).drop) else .next s

/-! ### Reading a graph (R335 to R339) -/

/-- Each byte of a list that is not zero, by its offset from the list's start. -/
def nonZero (bs : List Byte) : List Nat := (bs.zipIdx.filter fun b => b.1 != 0).map Prod.snd

/-- The bytes of a node body that its kind uses, as offset and size from 0x38 (R338). -/
def bodyUsed : Nat → List (Nat × Nat)
  | 1 => [(0, 8)]
  | 2 => [(0, 2), (8, 8)]
  | 3 => [(0, 26)]
  | 4 => [(0, 26)]
  | 5 => [(0, 25), (26, 6)]
  | 6 => [(0, 18)]
  | _ => []

/-- A field of a node's body by its offset in the record. -/
def Node.field (n : Node) (off size : Nat) : Nat := fieldAt n.body (off - 0x38) size

/-- The endpoint of a TASK node. -/
def Node.endpoint (n : Node) : BitVec 16 := BitVec.ofNat 16 (n.field 0x38 2)

/-- The node that a record describes, before any state (R336). -/
def nodeOf (r : List Byte) : Node :=
  { kind := fieldAt r 0 1, preds := fieldAt r 2 2, succ := (List.range (fieldAt r 4 1)).map fun j => fieldAt r (8 + 2 * j) 2 % 4096
    operands := (List.range (fieldAt r 5 1)).map fun j => BitVec.ofNat 64 (fieldAt r (0x18 + 8 * j) 8), body := (r.drop 0x38).take 72
    count := fieldAt r 2 2, active := decide (fieldAt r 2 2 = 0), status := .waiting, readyAt := 0, readySeq := 0, promoted := false
    parked := false, iters := 0, ended := false, bad := false, deps := [] }

/-- Whether a TASK endpoint is one a graph of a partition may name (R338, R339). -/
def State.taskEpOk (s : State) (part : Nat) (e : BitVec 16) : Bool :=
  match endpointOf e with
  | some x => x.on && decide (x.chan < 8) && s.ringPart x.ring == some part
  | none => false

/-- The fields of one record that R339 refuses, as offsets in the record; `es` are the successor lists of all nodes. -/
def State.badFields (s : State) (part : Nat) (es : List (List Nat)) (ends : List Nat) (i : Nat) (r : List Byte) : List Nat :=
  let n := nodeOf r
  let ns := fieldAt r 4 1
  let no := fieldAt r 5 1
  if n.kind = 0 ∨ 7 < n.kind then [0]
  else
    let into := (es.map fun e => if e.contains i then 1 else 0).foldl (· + ·) 0
    let first := n.field 0x52 2
    let last := n.field 0x54 2
    let inside := fun j => decide (first ≤ j) && decide (j ≤ last)
    let check := fun (b : Bool) (off : Nat) => if b then [off] else []
    check (fieldAt r 1 1 != 0) 1 ++ check (n.preds != into) 2 ++ check (decide (8 < ns) || (n.kind == 7 && decide (0 < ns))) 4
    ++ check (decide (4 < no)) 5 ++ check (fieldAt r 6 2 != 0) 6
    ++ ((List.range 8).flatMap fun j =>
        let v := fieldAt r (8 + 2 * j) 2
        check (if j < ns then decide (es.length ≤ v) || (n.succ.take j).contains v else v != 0) (8 + 2 * j))
    ++ ((List.range 4).flatMap fun j =>
        let v := fieldAt r (0x18 + 8 * j) 8
        check (if j < no then decide (2 ^ 35 ≤ v) || decide (5 < v / 2 ^ 32 % 8) else v != 0) (0x18 + 8 * j))
    ++ check (n.kind == 2 && !s.taskEpOk part n.endpoint) 0x38
    ++ check ((n.kind == 4 || n.kind == 5 || n.kind == 6) && n.field 0x38 8 % 8 != 0) 0x38
    ++ check (n.kind == 6 && decide (63 < n.field 0x48 1)) 0x48
    ++ check (n.kind == 6 && n.field 0x49 1 != 0xFF && decide (ns ≤ n.field 0x49 1)) 0x49
    ++ check ((n.kind == 4 || n.kind == 5) && decide (9 < n.field 0x50 1)) 0x50
    ++ check (n.kind == 3 && (decide (n.field 0x50 1 = 0) || decide (3 < n.field 0x50 1))) 0x50
    ++ check (n.kind == 3 && decide (7 < n.field 0x51 1)) 0x51
    ++ check (n.kind == 4 && decide (ns < n.field 0x51 1)) 0x51
    ++ check (n.kind == 5 && (decide (last < first) || decide (es.length ≤ last) || inside i || ends.any inside
        || (List.range es.length).any fun j => (inside j && ((es[j]?).getD []).any fun k => !inside k && k != i)
            || (!inside j && ((es[j]?).getD []).contains i))) 0x52
    ++ ((nonZero n.body).filterMap fun o => if (bodyUsed n.kind).any fun u => decide (u.1 ≤ o) && decide (o < u.1 + u.2) then none else some (0x38 + o))

/-- Repeats a step. -/
def iter {α : Type} (f : α → α) : Nat → α → α
  | 0, a => a
  | n + 1, a => iter f n (f a)

/-- Whether the edges have no cycle: taking away the nodes whose predecessors have gone takes them all. -/
def acyclic (es : List (List Nat)) : Bool :=
  let n := es.length
  let next := fun (gone : List Nat) => (List.range n).filter fun i =>
    (List.range n).all fun j => gone.contains j || !(((es[j]?).getD []).contains i)
  (iter next n []).length == n

/-- Whether every node reaches a node. -/
def allReach (es : List (List Nat)) (goal : Nat) : Bool :=
  let n := es.length
  let next := fun (r : List Nat) => (List.range n).filter fun i => r.contains i || ((es[i]?).getD []).any fun j => r.contains j
  (iter next n [goal]).length == n

/-- What a refusal reports: the node, or 0xFFFF, and the byte offset (R343). -/
structure Refused where
  node   : Nat
  detail : Nat
deriving DecidableEq, Repr

/-- The fields of a header that R335 and R339 refuse. -/
def badHeader (h : List Byte) : List Nat :=
  let n := fieldAt h 0 2
  let check := fun (b : Bool) (off : Nat) => if b then [off] else []
  check (decide (n = 0) || decide (4096 < n)) 0 ++ check (decide (7 < fieldAt h 2 1)) 2 ++ check (decide (1 < fieldAt h 3 1)) 3
  ++ check (fieldAt h 4 4 != 0) 4 ++ check (fieldAt h 8 8 % 16 != 0) 8 ++ check (!(nonZero (h.drop 0x18)).isEmpty) 0x18

/-- The nodes of a graph whose records pass R339, or its refusal, with the first refused field of the first refused record (R343): a successor
list that is itself refused gives no edges. -/
def State.checkGraph (s : State) (part : Nat) (recs : List (List Byte)) : Except Refused (List Node) :=
  let nodes := recs.map nodeOf
  let es := nodes.map fun n => if 8 < n.succ.length ∨ n.kind = 7 then [] else n.succ
  let ends := (nodes.zipIdx.filter fun n => n.1.kind == 7).map Prod.snd
  match recs.zipIdx.findSome? fun r => match s.badFields part es ends r.2 r.1 with
    | [] => none
    | o :: l => some (⟨r.2, 128 * (r.2 + 1) + l.foldl min o⟩ : Refused) with
  | some e => .error e
  | none =>
    match ends with
    | [e] => if acyclic es && allReach es e then .ok nodes else .error ⟨0xFFFF, 0⟩
    | _ => .error ⟨0xFFFF, 0⟩

/-! ### Node states (R340) -/

/-- An edge to be followed: the successor, whether it was taken, and the writes the finished node releases. -/
structure Edge where
  node  : Nat
  taken : Bool
  deps  : List Nat
deriving DecidableEq, Repr

/-- Makes a node ready (R340, R344). -/
def Node.ready (n : Node) (now seq : Nat) : Node := { n with status := .ready, readyAt := now, readySeq := seq, promoted := false, parked := false }

/-- Follows edges in order, a skipped node's own edges before the rest (R340). `fuel` bounds the edges, `seq` orders what becomes ready. -/
def followEdges (now : Nat) : Nat → Nat → List Edge → List Node → List Node × Nat
  | 0, seq, _, ns => (ns, seq)
  | _, seq, [], ns => (ns, seq)
  | fuel + 1, seq, e :: rest, ns =>
    match ns[e.node]? with
    | none => followEdges now fuel seq rest ns
    | some n =>
      let n1 := { n with count := n.count - 1, active := n.active || e.taken, deps := (n.deps ++ e.deps).eraseDups }
      if n1.count ≠ 0 then followEdges now fuel seq rest (ns.set e.node n1)
      else if n1.active || n1.kind == 7 then followEdges now fuel (seq + 1) rest (ns.set e.node (n1.ready now seq))
      else followEdges now fuel seq (n1.succ.map (fun j => ⟨j, false, n1.deps⟩) ++ rest) (ns.set e.node { n1 with status := .skipped })

/-- The edges of a node that finishes done, with the indexes of its list that are taken. -/
def Node.edges (n : Node) (taken : Nat → Bool) : List Edge := n.succ.zipIdx.map fun j => ⟨j.1, taken j.2, n.deps⟩

/-- The time as a number of ticks. -/
def State.now (s : State) : Nat := s.timestamp.toNat

/-- The scheduler reads the state of a node: where it has an uncorrectable error the graph is cancelled with reason fault (R389). -/
def State.readNode (s : State) (g i : Nat) : State :=
  match (s.graph g).bind fun x => x.nodes[i]? with
  | none => s
  | some n =>
    if !n.bad then s
    else (s.updNode g i fun x => { x with bad := false }).updGraph g fun x =>
      if x.failStatus = 0 then { x with cancelled := true, failStatus := 3, failReason := 3, failNode := i, failDetail := fPOISON }
      else { x with cancelled := true }

/-- A node finishes done: its status, and what follows (R340). A cancelled graph readies nothing more (R342), and one with an error in the state
of a successor is cancelled (R389). -/
def State.finishNode (s0 : State) (g : Graph) (i : Nat) (taken : Nat → Bool) : State :=
  match g.nodes[i]? with
  | none => s0
  | some n =>
    let ns := g.nodes.set i { n with status := .complete }
    let s := n.succ.foldl (fun (x : State) j => x.readNode g.id j) s0
    if (match s.graph g.id with | some x => x.cancelled | none => g.cancelled) then s.updGraph g.id fun x => { x with nodes := ns }
    else
      let (out, seq) := followEdges s.now (9 * g.nodes.length + 9) s.nextSerial (n.edges taken) ns
      { (s.updGraph g.id fun x => { x with nodes := out }) with nextSerial := seq }

/-- Makes ready every node of a list that a test picks, in index order. -/
def readyAll (now : Nat) (which : Node → Bool) : Nat → List Node → List Node
  | _, [] => []
  | seq, n :: ns => if which n then n.ready now seq :: readyAll now which (seq + 1) ns else n :: readyAll now which seq ns

/-! ### The end of a graph (R342, R343) -/

/-- What a completion record says (R343). -/
structure GraphEnd where
  status : Nat
  reason : Nat
  node   : Nat
  detail : Nat
deriving DecidableEq, Repr

/-- Bytes 0x08 to 0x0F of a completion record. -/
def GraphEnd.bytes (e : GraphEnd) : List Byte := leBytes 1 e.status ++ leBytes 1 e.reason ++ leBytes 2 e.node ++ leBytes 4 e.detail

/-- Writes a completion record as the scheduler: bytes 0x08 to 0x0F, then the value as a release at SYS scope; a record in host memory goes out
as two requests in that order (R395). A write that fails translation is dropped and logged, as a GRAPH event whose payload names the graph and the
record (DESIGN CHOICE, assumption 104); it comes later while its page is walked. -/
def State.writeCompletion (s : State) (part asid : Nat) (who : OutWho) (graph completion value : Word) (e : GraphEnd) : Transfer :=
  if completion = 0 then .done s
  else
    let va := completion.toNat
    let drop := s.logEvent (sourceNo 6 256) 0xF part graph completion
    if va % 16 ≠ 0 then .done drop
    else match s.translate 6 part asid va ⟨false, true, false⟩ with
      | .miss p => .later (s.queueWalks 6 asid [p])
      | .bad _ _ => .done (drop.dropWalkFault 6 asid va)
      | .ok pa x =>
        match s.blockFault x.shared pa with
        | some c => .done (s.logBlock c part pa)
        | none =>
          if !paHbm pa then
            let s1 := s.askOutside 6 part asid who (va + 8) (pa + 8) 8 (.write (e.bytes.map some))
            .done (s1.askOutside 6 part asid who va pa 8 (.write ((wordBytes 8 value).map some)))
          else
            let s1 := (s.cacheBlock x.shared pa).store 6 none noOrd (fun _ => []) x.shared (pa + 8) e.bytes
            .done ((s1.store 6 none noOrd (fun _ => s1.depsOf 6) x.shared pa (wordBytes 8 value)).leaveBlock x.cls x.shared pa)

/-- Counts a completed graph of an interface and signals its interrupt when asked to: its function and vector (R343, R397). -/
def State.countCompleted (s : State) (iface : Nat) (irq : Bool) : State :=
  let f := s.iface iface
  let s1 := s.setIface iface { f with completed := f.completed + 1 }
  if irq && decide (iface < 8192) then
    { s1 with interrupts := s1.interrupts ++ [((f.binding.extractLsb' 54 9).toNat, (f.binding.extractLsb' 4 10).toNat)] }
  else s1

/-- The number of the interface of a graph. -/
def Graph.ifaceNo (g : Graph) : Nat := match g.iface with | some n => n | none => 8192 + g.part

/-- The reader of a graph's header and records, as an interface. -/
def ifaceWho (n : Nat) : OutWho := if n < 8192 then .iface n else .piface (n - 8192)

/-- The writer of a graph's completion record. -/
def recordWho (graph : Nat) : OutWho := .graph graph 0xFFFF

/-- Forgets what a graph's nodes have read outside the package. -/
def State.forgetGraph (s : State) (graph : Nat) : State :=
  { s with answers := s.answers.filter fun a => match a.who with | .graph n _ => n != graph | _ => true }

/-- A graph ends (R342, R343): the end of its tiles' owner, its completion record, its count and its interrupt; a function reset discards the
record and the interrupt (R398). -/
def State.endGraph (s : State) (g : Graph) (e : GraphEnd) : State :=
  let s1 := (s.ownerEnd (.graph g.id)).forgetGraph g.id
  match (if g.discard then Transfer.done s1 else s1.writeCompletion g.part g.asid (recordWho g.id) g.va g.completion g.value e) with
  | .later _ => match s.writeCompletion g.part g.asid (recordWho g.id) g.va g.completion g.value e with
    | .later x => x
    | .done _ => s
  | .done s2 => { s2 with graphs := s2.graphs.filter fun x => x.id != g.id }.countCompleted g.ifaceNo (g.irq && !g.discard)

/-! ### Acceptance (R334, R339) -/

/-- The head of an interface's FIFO goes. -/
def State.popLaunch (s : State) (iface : Nat) (f : Iface) : State :=
  (s.setIface iface { f with fifo := f.fifo.drop 1 }).forget (ifaceWho iface)

/-- A graph is refused (R342, R343): its completion record is written, and it counts as completed. -/
def State.refuseGraph (s : State) (iface : Nat) (f : Iface) (p : Pending) (h : List Byte) (e : Refused) : State :=
  match s.writeCompletion f.part p.asid (ifaceWho iface) p.va (BitVec.ofNat 64 (fieldAt h 8 8)) (BitVec.ofNat 64 (fieldAt h 0x10 8)) ⟨2, 6, e.node, e.detail⟩ with
  | .later x => x
  | .done x => (x.popLaunch iface f).countCompleted iface ((fieldAt h 3 1).testBit 0)

/-- A graph becomes live and its roots are made ready (R334, R340). -/
def State.acceptGraph (s : State) (iface : Nat) (f : Iface) (p : Pending) (h : List Byte) (nodes : List Node) : State :=
  let (id, s1) := s.fresh
  let seeded := nodes.map fun n => if n.preds = 0 then { n with deps := p.deps } else n
  let g : Graph :=
    { id := id, iface := if iface < 8192 then some iface else none, part := f.part, asid := p.asid, va := p.va, cls := fieldAt h 2 1
      irq := (fieldAt h 3 1).testBit 0, completion := BitVec.ofNat 64 (fieldAt h 8 8), value := BitVec.ofNat 64 (fieldAt h 0x10 8)
      nodes := readyAll s.now (fun n => n.preds == 0) s1.nextSerial seeded, cancelled := false, failStatus := 0, failReason := 0
      failNode := 0, failDetail := 0, discard := false }
  let s2 := { s1 with graphs := s1.graphs ++ [g], nextSerial := s1.nextSerial + nodes.length }
  (s2.setIface iface { f with fifo := f.fifo.drop 1, accepted := f.accepted + 1 }).forget (ifaceWho iface)

/-- The head of an interface cannot be read: it goes, and counts as dropped (R343). -/
def State.dropLaunch (s : State) (iface : Nat) (f : Iface) : State :=
  (s.setIface iface { f.drop with fifo := f.fifo.drop 1 }).forget (ifaceWho iface)

/-- GRAPH_ACCEPT (R334): the scheduler takes the head of an interface's FIFO when its partition has room, reads the header and every record in
the interface's context, and makes the graph live or refuses it. Partition interface p has number 8192 + p. -/
def execGraphAccept (iface : Nat) (s : State) : Out :=
  let f := s.iface iface
  let live := s.graphs.filter fun g => g.part == f.part
  let held := (live.map fun g => g.nodes.length).foldl (· + ·) 0
  match f.fifo with
  | [] => .next s
  | p :: _ =>
    if (s.part f.part).state ≠ .active ∨ 64 ≤ live.length ∨ 32768 ≤ held then .next s
    else if p.va.toNat % 128 ≠ 0 then .next (s.dropLaunch iface f)
    else match s.readV 6 f.part p.asid (ifaceWho iface) p.va.toNat 128 with
      | .miss pages => .next (s.queueWalks 6 p.asid pages)
      | .out va pa n => .next (s.askOnce 6 f.part p.asid (ifaceWho iface) va pa n .read)
      | .bad c _ v => .next (((s.noteBlock 6 f.part p.asid c v).dropWalkFault 6 p.asid v).dropLaunch iface f)
      | .ok h =>
        let s := s.touchV 6 f.part p.asid p.va.toNat 128
        let n := fieldAt h 0 2
        match badHeader h with
        | o :: _ => .next (s.refuseGraph iface f p h ⟨0xFFFF, o⟩)
        | [] =>
          if 32768 < held + n then .next s
          else match s.readV 6 f.part p.asid (ifaceWho iface) (p.va.toNat + 128) (128 * n) with
            | .miss pages => .next (s.queueWalks 6 p.asid pages)
            | .out va pa k => .next (s.askOnce 6 f.part p.asid (ifaceWho iface) va pa k .read)
            | .bad c _ v =>
              .next (((s.noteBlock 6 f.part p.asid c v).dropWalkFault 6 p.asid v).refuseGraph iface f p h
                ⟨(v - p.va.toNat) / 128 - 1, v - p.va.toNat⟩)
            | .ok bs =>
              let s := s.touchV 6 f.part p.asid (p.va.toNat + 128) (128 * n)
              match s.checkGraph f.part ((List.range n).map fun i => (bs.drop (128 * i)).take 128) with
              | .error e => .next (s.refuseGraph iface f p h e)
              | .ok nodes => .next (s.acceptGraph iface f p h nodes)

/-! ### Dispatch (R337, R342, R344 to R346) -/

/-- A ready node of a live graph. -/
structure ReadyNode where
  graph : Graph
  index : Nat
  node  : Node

/-- Whether one ready node comes before another: promoted ones first, then by class, then in the order they became ready (R344). -/
def ReadyNode.before (a b : ReadyNode) : Bool :=
  if a.node.promoted != b.node.promoted then a.node.promoted
  else if !a.node.promoted && a.graph.cls != b.graph.cls then decide (b.graph.cls < a.graph.cls)
  else decide (a.node.readySeq < b.node.readySeq)

/-- The task slot that a TASK node names. -/
def Node.task (n : Node) : Nat := match endpointOf n.endpoint with | some x => 8 * x.ring + x.chan | none => 0

/-- Whether a node's agent can take it (R344). The copy engine's queue of 16 holds the scheduler's copies; a task's COPYM, which the sequencer
issues, has no place in it (DESIGN CHOICE, assumption 105). -/
def State.canTake (s : State) (x : ReadyNode) : Bool :=
  match x.node.kind with
  | 1 => (s.part x.graph.part).rings.any fun r => !(s.runs.any fun y => y.placed && y.phys.contains r)
  | 2 =>
    let t := s.task x.node.task
    decide (t.status = .idle) && (s.queue x.node.task).isEmpty && t.node.isNone
  | 3 =>
    let e := x.node.field 0x51 1
    decide ((s.engines.filter fun y => y.node.isSome && y.die == e).length < 16)
  | _ => true

/-- The nodes of a partition that a dispatch may take: those that an agent can take, but for one that became ready after a parked node among
them (R344). -/
def State.dispatchable (s : State) (part : Nat) : List ReadyNode :=
  let able := ((s.graphs.filter fun g => g.part == part && !g.cancelled).flatMap fun g =>
    (g.nodes.zipIdx.filter fun n => n.1.status == .ready && n.1.kind != 7).map fun n => (⟨g, n.2, n.1⟩ : ReadyNode)).filter s.canTake
  able.filter fun x => !able.any fun y => y.node.parked && decide (y.node.readySeq < x.node.readySeq)

/-- The ready nodes of a partition whose agent cannot take them are parked (R344). -/
def State.park (s : State) (part : Nat) : State :=
  { s with graphs := s.graphs.map fun g =>
    if g.part = part ∧ !g.cancelled then
      { g with nodes := g.nodes.zipIdx.map fun n =>
          if n.1.status = .ready ∧ n.1.kind ≠ 7 ∧ !s.canTake ⟨g, n.2, n.1⟩ then { n.1 with parked := true } else n.1 }
    else g }

/-- The first of them. -/
def firstReady : List ReadyNode → Option ReadyNode
  | [] => none
  | x :: xs => match firstReady xs with
    | none => some x
    | some y => if y.before x then some y else some x

/-- Whether a partition is the one that the weighted round robin serves now: the one whose turn lasts, else the next that has a dispatchable node
(R345). -/
def State.turnOf (s : State) (part : Nat) : Bool :=
  let able := fun p => !(s.dispatchable p).isEmpty
  if decide (0 < (s.part s.lastServed).turnLeft) && able s.lastServed then part == s.lastServed
  else ((List.range 16).map fun i => (s.lastServed + 1 + i) % 16).find? able == some part

/-- A dispatch is counted in its partition's turn (R345). -/
def State.countTurn (s : State) (part : Nat) : State :=
  let p := s.part part
  let left := if part = s.lastServed ∧ 0 < p.turnLeft then p.turnLeft else p.weight
  { (s.setPart part { p with turnLeft := left - 1 }) with lastServed := part }

/-- Whether a tile operand passes (R337). -/
def State.operandOk (s : State) (part : Nat) (v : Word) : Bool :=
  match s.tile (v.extractLsb' 32 3).toNat part (v.extractLsb' 0 20).toNat with
  | none => false
  | some t =>
    let k := (v.extractLsb' 20 3).toNat
    (!v.getLsbD 23 || (decide (t.mode = .declared) && t.rmask.getLsbD k && !t.done.getLsbD k))
    && (decide ((v.extractLsb' 24 8).toNat = 0) || decide ((v.extractLsb' 24 8).toNat ≤ t.reads))

/-- The reader slots that a node's operands name. -/
def Node.slots (n : Node) : List Nat := (n.operands.filter fun v => v.getLsbD 23).map fun v => (v.extractLsb' 20 3).toNat

/-- Those slots as a mask. -/
def Node.slotMask (n : Node) : BitVec 8 := n.slots.foldl (fun m k => m ||| BitVec.twoPow 8 k) 0

/-- A node is with its agent. -/
def State.markDispatched (s : State) (g i : Nat) : State := s.updNode g i fun n => { n with status := .dispatched, ended := false }

/-- A node fails with a reason that R343 gives no detail for: the detail is free (assumption 3). -/
def State.failFree (s : State) (g i reason : Nat) : State :=
  let (f, s1) := s.drawNat
  s1.failNode g i reason (f % 2 ^ 32)

/-- The next identifier of an operation of the scheduler, of die 6 (R252, R346). -/
def State.schedIdent (s : State) (kind : Nat) : Word × State :=
  (opIdent kind 6 0 0 s.schedSerial.toNat, { s with schedSerial := s.schedSerial + 1 })

/-- Starts the run of a RUN node (R346); it waits while its record's page is walked. -/
def State.startRun (s : State) (x : ReadyNode) : Transfer :=
  let va := x.node.field 0x38 8
  if va % 64 ≠ 0 then .done (s.failNode x.graph.id x.index 3 fILLCFG)
  else match s.readV 6 x.graph.part x.graph.asid (.graph x.graph.id x.index) va 256 with
    | .miss pages => .later (s.queueWalks 6 x.graph.asid pages)
    | .out a pa n => .later (s.askOnce 6 x.graph.part x.graph.asid (.graph x.graph.id x.index) a pa n .read)
    | .bad c _ v =>
      .done (((s.noteBlock 6 x.graph.part x.graph.asid c v).dropWalkFault 6 x.graph.asid v).failNode x.graph.id x.index 3 c)
    | .ok bs =>
      let s := s.touchV 6 x.graph.part x.graph.asid va 256
      if !s.runRecOk x.graph.part true bs then .done (s.failNode x.graph.id x.index 3 fILLCFG)
      else
        let (id, s1) := s.schedIdent 0
        let (_, s2) := s1.launch id x.graph.part (.node x.graph.id x.index) (.graph x.graph.id) (runRecOf bs) x.node.slotMask x.graph.asid
          x.node.deps
        .done ((s2.forget (.graph x.graph.id x.index)).markDispatched x.graph.id x.index)

/-- Starts the activation of a TASK node (R346): its context, its reader slots and its entry. -/
def State.startTask (s : State) (x : ReadyNode) : State :=
  let t := x.node.task
  if s.ringPart (taskRing t) ≠ some x.graph.part then s.failNode x.graph.id x.index 3 fPERM
  else
    let (act, s1) := s.fresh
    let s2 := s1.updTask t fun y => { y with node := some (x.graph.id, x.index), activation := act, dispatched := true
                                             context := BitVec.ofNat 16 x.graph.asid }
    let s3 := x.node.slots.foldl (fun (y : State) k => y.bind (.graph x.graph.id) k (.activation act)) s2
    (s3.pushQ t ⟨0, 0, false, BitVec.ofNat 64 (x.node.field 0x40 8), x.node.deps⟩).markDispatched x.graph.id x.index

/-- The scope of a scope code (R283). -/
def scopeOfCode : Nat → SScope
  | 1 => .die
  | 2 => .dev
  | _ => .sys

/-- Starts the copy of a COPY node on its engine (R346); a byte count past 2^40 − 1 is one that COPYM refuses (R263). -/
def State.startCopy (s : State) (x : ReadyNode) : State :=
  let n := x.node.field 0x48 8
  if 2 ^ 40 ≤ n then s.failNode x.graph.id x.index 3 fILLOP
  else
    let (id, s1) := s.schedIdent 1
    let (m, s2) := s1.fresh
    let die := x.node.field 0x51 1
    let e : EngOp := { serial := m, opId := id, task := none, act := 0, node := some (x.graph.id, x.index), part := x.graph.part
                       asid := x.graph.asid, die := die, owner := .graph x.graph.id
                       kind := .copym (x.node.field 0x38 8) (x.node.field 0x40 8) n (scopeOfCode (x.node.field 0x50 1)), held := none
                       reading := none, readDone := false, request := none, funded := none, format := 0, writes := [], sides := []
                       answers := [], left := [] }
    ({ s2 with engines := s2.engines ++ [e] }.openStream die (.engine m)).markDispatched x.graph.id x.index

/-- NODE_DISPATCH (R337, R344 to R346): the first node of a partition's order whose agent can take it, in the partition's turn, is checked and
started; those that no agent can take are parked. -/
def execNodeDispatch (partition : Nat) (s0 : State) : Out :=
  let s := s0.park partition
  if !s.turnOf partition then .next s
  else match firstReady (s.dispatchable partition) with
    | none => .next s
    | some x =>
      let s1 := s.countTurn partition
      if x.node.bad then .next (s1.readNode x.graph.id x.index)
      else if !x.node.operands.all (s.operandOk partition) then .next (s1.failFree x.graph.id x.index 4)
      else match x.node.kind with
        | 1 => match s1.startRun x with
          | .later _ => match s.startRun x with | .later y => .next y | .done _ => .next s
          | .done y => .next y
        | 2 => .next (s1.startTask x)
        | 3 => .next (s1.startCopy x)
        | _ => .next (s1.markDispatched x.graph.id x.index)

/-- NODE_PROMOTE (R344): the nodes of a partition that have been ready for its age, in microseconds of a 1 GHz timestamp, are promoted. -/
def execNodePromote (partition : Nat) (s : State) : Out :=
  let age := 1000 * (s.part partition).nodeAge
  .next { s with graphs := s.graphs.map fun g =>
    if g.part = partition then
      { g with nodes := g.nodes.map fun n => if n.status = .ready ∧ n.readyAt + age ≤ s.now then { n with promoted := true } else n }
    else g }

/-! ### Evaluation and completion (R301, R340 to R343) -/

/-- Whether the condition of a COND or LOOP node holds of its masked word (R341). -/
def Node.holds (n : Node) (w : Word) : Bool :=
  match condOfCode (BitVec.ofNat 5 (n.field 0x50 1)) with
  | some c => Cond.holds c w (BitVec.ofNat 64 (n.field 0x48 8))
  | none => false

/-- The successors that a COND or SWITCH takes, by index (R341). -/
def Node.takes (n : Node) (w : Word) (j : Nat) : Bool :=
  if n.kind = 4 then decide (j < n.field 0x51 1) == n.holds w
  else
    let i := w.toNat / 2 ^ n.field 0x48 1
    if i < n.succ.length then j == i else j == n.field 0x49 1

/-- A LOOP iterates (R341). Iterations are counted from the graph's acceptance on: a LOOP in the range of another keeps the count it has (DESIGN
CHOICE, assumption 103). -/
def Graph.iterate (g : Graph) (i : Nat) (n : Node) (now seq : Nat) : Graph :=
  let inside := fun j => decide (n.field 0x52 2 ≤ j) && decide (j ≤ n.field 0x54 2)
  let into := fun j => ((g.nodes.zipIdx.filter fun m => inside m.2 && m.1.succ.contains j)).length
  let reset := g.nodes.zipIdx.map fun m =>
    if inside m.2 then
      { m.1 with count := into m.2, active := decide (into m.2 = 0), status := .waiting, ended := false, promoted := false, parked := false
                 deps := n.deps }
    else if m.2 = i then
      { n with count := n.preds, status := .waiting, iters := n.iters + 1, ended := false, promoted := false, parked := false }
    else m.1
  let go := readyAll now (fun m => m.status == .waiting && m.active && m.count == 0)
  { g with nodes := reset.take (n.field 0x52 2) ++ go seq ((reset.drop (n.field 0x52 2)).take (n.field 0x54 2 + 1 - n.field 0x52 2))
                    ++ reset.drop (n.field 0x54 2 + 1) }

/-- The graph in which a node has read its word as an acquire: what was written before is ordered before what follows (R288, R301). -/
def Graph.acquire (g : Graph) (i : Nat) (deps : List Nat) : Graph :=
  { g with nodes := g.nodes.modify i fun n => { n with deps := (n.deps ++ deps).eraseDups } }

/-- NODE_EVALUATE (R301, R341): the read of a dispatched COND, LOOP or SWITCH node's word, an acquire, is bound, and its successors are chosen or
its body iterated. A cancelled graph's node is not evaluated: it is over (R342). -/
def execNodeEvaluate (graph node : Nat) (s0 : State) : Out :=
  let s := s0.readNode graph node
  match s.graph graph with
  | none => .next s
  | some g0 =>
    let g := g0.acquire node (s.depsOf 6)
    match g.nodes[node]? with
    | none => .next s
    | some n =>
      if n.status ≠ .dispatched ∨ n.kind < 4 ∨ 6 < n.kind then .next s
      else if g.cancelled then .next (s.updNode graph node fun x => { x with status := .complete })
      else match s.readV 6 g.part g.asid (.graph graph node) (n.field 0x38 8) 8 with
        | .miss pages => .next (s.queueWalks 6 g.asid pages)
        | .out va pa k => .next (s.askOnce 6 g.part g.asid (.graph graph node) va pa k .read)
        | .bad c _ v => .next (((s.noteBlock 6 g.part g.asid c v).dropWalkFault 6 g.asid v).failNode graph node 3 c)
        | .ok bs =>
          let s := (s.touchV 6 g.part g.asid (n.field 0x38 8) 8).forget (.graph graph node)
          let w := BitVec.ofNat 64 (leNat bs) &&& BitVec.ofNat 64 (n.field 0x40 8)
          if n.kind ≠ 5 then .next (s.finishNode g node (n.takes w))
          else if !n.holds w then .next (s.finishNode g node fun _ => true)
          else if n.field 0x56 2 ≠ 0 ∧ n.field 0x56 2 ≤ n.iters then .next (s.failFree graph node 5)
          else
            let s1 := s.updGraph graph fun x => x.iterate node n s.now s.nextSerial
            .next { s1 with nextSerial := s1.nextSerial + g.nodes.length }

/-- Whether the agent of a dispatched RUN, TASK or COPY node is over: a task's six counters are 0 too (R301). -/
def State.agentOver (s : State) (n : Node) : Bool :=
  n.ended && decide (n.kind ≤ 3)
  && (n.kind != 2 ||
      (let c := (s.task n.task).cnt
       c.ld == 0 && c.st == 0 && c.dr == 0 && c.sr == 0 && c.sv == 0 && c.rn == 0))

/-- The writes that a node's completion releases: those its agent's die has seen (R301). -/
def State.completionDeps (s : State) (n : Node) : List Nat :=
  match n.kind with
  | 2 => s.depsOf (taskDie n.task)
  | 3 => s.depsOf (n.field 0x51 1)
  | _ => []

/-- The end of a cancelled or failed graph as its record reports it; what R343 leaves open is free (assumption 3). -/
def Graph.ending (g : Graph) (free : Nat) : GraphEnd :=
  if g.failStatus = 3 then ⟨3, g.failReason, g.failNode, g.failDetail⟩ else ⟨g.failStatus, 0, free % 2 ^ 16, free / 2 ^ 16 % 2 ^ 32⟩

/-- NODE_COMPLETE (R301, R340, R342, R343): a node whose agent is over finishes done; END, once ready, ends its graph; and a cancelled graph with
no node left at an agent ends. -/
def execNodeComplete (graph node : Nat) (s0 : State) : Out :=
  let s := s0.readNode graph node
  match s.graph graph with
  | none => .next s
  | some g =>
    match g.nodes[node]? with
    | none => .next s
    | some n =>
      let (f, s1) := s.drawNat
      if n.status = .dispatched ∧ s.agentOver n then
        let n1 := { n with deps := (n.deps ++ s.completionDeps n).eraseDups }
        .next (s.finishNode { g with nodes := g.nodes.set node n1 } node fun _ => true)
      else if g.cancelled then
        if g.nodes.any fun x => x.status == .dispatched then .next s else .next (s1.endGraph g (g.ending f))
      else if n.kind = 7 ∧ n.status = .ready then .next (s1.endGraph g (g.ending f))
      else .next s

end Sys2Proof.Machine
end

