-- ==== Sys2Proof/Machine/Package.lean ====
section
/-! DEFINITION. Machine/Package: the event log, package and die resets, incarnations, links, and the thermal and power steps (R357 to R360, R385 to R391, R404, R405, R408, R409). -/
namespace Sys2Proof.Machine

/-! ### The event log (R360) -/

/-- Whether an event stands before another in the log's order: by time, then by source. -/
def Event.before (a b : Event) : Bool :=
  if a.time = b.time then decide (a.source < b.source) else decide (a.time.toNat < b.time.toNat)

/-- Whether every source has reported a time beyond an event's: its time has passed, and no source still holds an earlier event. -/
def State.passed (s : State) (e : Event) : Bool :=
  decide (e.time.toNat < s.timestamp.toNat) && s.sources.all fun x => x.2.buffer.all fun y => !y.before e

/-- A source that has room again logs its drops as one OVERFLOW. -/
def EventSource.afterTake (x : EventSource) (source : Nat) (now : Word) (inc : BitVec 8) : EventSource :=
  if x.dropped = 0 then x
  else { buffer := x.buffer ++ [⟨now, source, 0x10, 0, inc, BitVec.ofNat 64 x.dropped, 0, false⟩], dropped := 0 }

/-- EVENT_LOG_APPEND (R360): the management processor appends a source's oldest event once every source has passed its time. An event in
storage with an uncorrectable error is lost and counted (R389). -/
def execEventLogAppend (source : Nat) (s : State) : Out :=
  let x := Tab.get s.sources ⟨[], 0⟩ source
  match x.buffer with
  | [] => .next s
  | e :: rest =>
    if !s.passed e then .next s
    else
      let y : EventSource := { x with buffer := rest, dropped := if e.bad then x.dropped + 1 else x.dropped }
      .next { s with
        log := if e.bad then s.log else s.log ++ [e], sources := Tab.set s.sources source (y.afterTake source s.timestamp (s.inc (source / 512))) }

/-! ### Firmware images and package reset (R385, R404, R405) -/

/-- Whether the boot ROM accepts an image as a kind (R404). -/
def FwImage.accepted (kind : Nat) (x : FwImage) : Bool :=
  let k := fieldAt x.header 6 1
  decide (x.header.length = 128) && decide (fieldAt x.header 0 4 = 0x4F445846) && decide (fieldAt x.header 4 2 = kind)
  && decide (fieldAt x.header 7 1 = 0) && decide (fieldAt x.header 0xC 4 = 0) && (nonZero ((x.header.drop 0x18).take 40)).isEmpty
  && (if h : k < 4 then !Config.fusedRevoked ⟨k, h⟩ && Config.fusedKeyDigest ⟨k, h⟩ == Config.sha512 (leBytes 32 x.key.toNat) else false)
  && decide (Config.fusedVersion.val ≤ fieldAt x.header 8 4)
  && decide (fieldAt x.header 0x10 8 = x.body.length)
  && Config.ed25519Verify x.key (BitVec.ofNat 512 (leNat ((x.header.drop 0x40).take 64)))
      (leBytes 64 (Config.sha512 (x.header.take 64 ++ x.body)).toNat)

/-- The digest of an image. -/
def FwImage.digest (x : FwImage) : BitVec 512 := Config.sha512 (x.header ++ x.body)

/-- The image that runs: the first copy of its kind that passes (R404). -/
def bootImage (kind : Nat) (xs : List FwImage) : Option FwImage := xs.find? (FwImage.accepted kind)

/-- The package after a reset, before any firmware runs: incarnations 0, new tree keys (R327), and the same rings, agenda and counters of
the model's own. -/
def State.rebooted (s : State) : State :=
  { State.reset with
    agenda := s.agenda, freeCtr := s.freeCtr + 48, nextSerial := s.nextSerial, clk := s.clk, enabled := s.enabled, package := s.package
    treeKey := (List.range 12).map fun i => (i, s.freeCtr + 4 * i), booted := false, trained := false, cxl := Vector.replicate 2 false
    aliasKey := 0, measures := [] }

/-- The ports train: each of them freely as CXL or as PCIe alone (R394, R399, assumption 3). -/
def State.train (s : State) : State := { s with trained := true, cxl := Vector.ofFn fun i => Config.freeNat s.freeCtr / 2 ^ i.val % 2 = 0 }

/-- PACKAGE_RESET (R385, R404, R405): the copies of each kind, the recovery copy last; when one of each passes, the firmware runs, the alias key
is derived and the ports train. -/
def execPackageReset (crucible management scheduler : List FwImage) (s : State) : Out :=
  let s1 := s.rebooted
  match bootImage 1 crucible, bootImage 2 management, bootImage 3 scheduler with
  | some c, some m, some x =>
    .next { s1.train with
      booted := true
      aliasKey := aliasOf (FwImage.digest c) (FwImage.digest m)
      measures := [FwImage.digest c, FwImage.digest m, FwImage.digest x] }
  | _, _, _ => .next s1

/-! ### Answers to requests outside the package (R395, R402) -/

/-- An answer reaches a memory cell: its response or acknowledgement takes its value, ordered after what its firing was and, at its scope, after
the access (R295), or an ERR with a record of class 4, but for POISON, whose event alone is logged (R195). ATOM's events count now (R84, R215). -/
def State.answerCell (s : State) (o : OutAcc) (p : OpPlace) (code : Nat) (bs : List Byte) : State :=
  match s.workAt p, (s.opInstr p).bind Instr.mcFrame with
  | some w, some f =>
    let mine := fun (x : McItem) => match x.out with | some q => q.serial == o.serial | none => false
    match w.op.mcq.find? mine with
    | none => s
    | some x =>
      let access := match x.out with | some q => q.access | none => 0
      let mask : BitVec 16 := match x.out with | some q => q.mask | none => 0
      let deps := match x.out with | some q => q.deps | none => []
      let counted := match o.op with
        | .atom g b c => if code = 0 then w.count f.stats (combine g (leNat (bs.take (g.ty.width / 8))) b c).2 else w
        | _ => w
      let (t, w1) : Token × Work :=
        if code = 0 then (dataTok mask (payloadOf bs), counted)
        else
          let (e, y) := w.failed code access o.va
          (e, if code = fPOISON then { y with s := y.s.logBlock fPOISON y.run.partition o.pa } else y)
      let out := some { t with deps := (deps ++ w1.scopeDeps f).eraseDups }
      let done : McItem := if access ≠ 2 then { x with a := out, b := out, out := none } else if code = 0 then { x with out := none } else { x with b := out, out := none }
      ({ w1 with op := { w1.op with mcq := w1.op.mcq.map fun y => if mine y then done else y } }).store
  | _, _ => s

/-- An answer reaches a global access: its part is performed, or it fails (R225, R247). -/
def State.answerAccess (s : State) (o : OutAcc) (a : GAccess) (code : Nat) (bs : List Byte) : State :=
  if code ≠ 0 then s.failAccess a code
  else match a.parts with
    | [] => s
    | _ :: rest =>
      match o.op with
      | .write d => s.partDone { a with parts := rest, got := a.got ++ d.filterMap id } 0
      | .atomg .. => s.partDone { a with parts := rest, got := bs.take o.len } 0
      | _ => s.partDone { a with parts := rest, got := a.got ++ bs.take o.len } 0

/-- An answer reaches an engine operation: a refusal holds its request, and anything else is what the request brought (R253). -/
def State.answerEngine (s : State) (o : OutAcc) (e : EngOp) (code : Nat) (bs : List Byte) : State :=
  let w : Bool := match o.op with | .write _ => true | _ => false
  if code = fPERM then s.engHold e fPERM (if w then 2 else 1) o.va
  else s.updEngine e.serial fun x => { x with answers := x.answers ++ [⟨o.va, o.len, w, code, bs⟩] }

/-- The new value that an atomic whose old value has come from a peer writes back, if any. -/
def OutOp.update (op : OutOp) (bs : List Byte) : Option (List Byte) :=
  match op with
  | .atomg code n b c => (atomNew code n (leNat (bs.take n)) b c).map (leBytes n)
  | .atom f b c => some (leBytes (f.ty.width / 8) (combine f (leNat (bs.take (f.ty.width / 8))) b c).1)
  | _ => none

/-- Whether the reader of an answer is still there. -/
def State.awaits (s : State) (who : OutWho) : Bool :=
  match who with
  | .run n => (s.run n).isSome
  | .walker die asid page => s.walks.contains (die, asid, page)
  | .graph g _ => (s.graph g).isSome
  | .task t => match (s.task t).waitFor with | some .outside => true | _ => false
  | .access _ | .engine _ | .cell _ | .iface _ | .piface _ => true

/-- An answer reaches a reader of records, images, code or tables; for a write there is nothing to keep, and POISON is logged (R395). -/
def State.answerReader (s : State) (o : OutAcc) (code : Nat) (bs : List Byte) : State :=
  match o.op with
  | .write _ => s.logBlock code o.part o.pa
  | _ => if s.awaits o.who then { s with answers := s.answers ++ [⟨o.who, o.pa, code, bs⟩] } else s

/-- A request outside the package is answered: `code` is 0 or the fault it completes with. -/
def State.finishOut (s : State) (o : OutAcc) (code : Nat) (bs : List Byte) : State :=
  let s1 := { s with outReqs := s.outReqs.filter fun x => x.serial != o.serial }
  let s2 := match (if code = 0 then o.op.update bs else none) with
    | some d => s1.sendWrite o.part o.pa (d.map some) none
    | none => s1
  match o.who with
  | .access n => match s2.accesses.find? fun a => a.serial == n with | some a => s2.answerAccess o a code bs | none => s2
  | .engine n => match s2.engine n with | some e => s2.answerEngine o e code bs | none => s2
  | .cell p => s2.answerCell o p code bs
  | .task _ | .run _ | .walker .. | .graph .. | .iface _ | .piface _ => s2.answerReader o code bs

/-! ### Die resets (R264, R300, R310, R385, R386) -/

/-- Whether a task has an access outstanding at a die: one of its parts is homed there. -/
def State.accessAt (s : State) (a : GAccess) (die : Nat) : Bool := a.parts.any fun p => paHbm p.1 && s.homeOf p.1 == die

/-- An access whose home resets: its write, where the order rules let it be (R287), may or may not have been performed, freely (R300, assumption
3), and it completes with DIERESET. -/
def State.resetAccess (s : State) (a : GAccess) : State :=
  let (f, s1) := s.drawNat
  let done := decide (f % 2 ≠ 0) && s.mayPerform a
  let s2 := match a.op, a.parts with
    | .load .., _ => s1
    | _, [] => s1
    | .store sz _ v, (pa, n, sh) :: _ =>
      if !done then s1 else s1.store (taskDie a.task) (some a.task) noOrd (s1.accessDeps a) sh pa (((wordBytes sz.bytes v).drop a.got.length).take n)
    | .atom code sz b c _, (pa, n, sh) :: _ =>
      if !done then s1
      else match atomNew code sz.bytes (leNat (Memory.readBytes s1.mem pa n)) (b.toNat % 2 ^ (8 * sz.bytes)) (c.toNat % 2 ^ (8 * sz.bytes)) with
        | some v => s1.store (taskDie a.task) (some a.task) noOrd (s1.accessDeps a) sh pa (leBytes n v)
        | none => s1
  s2.failAccess a fDIERESET

/-- The blocks of a die that its cache holds modified. -/
def State.dirtyBlocks (s : State) (die : Nat) : List Nat :=
  (s.blocks.filter fun b => s.homeOf (2048 * b.1) == die && b.2.cached && b.2.dirty).map Prod.fst

/-- Blocks whose modified copy is lost read as TAGFAIL (R386). -/
def State.loseDirty (s : State) (die : Nat) : State :=
  { s with blocks := s.blocks.map fun b =>
      if s.homeOf (2048 * b.1) = die then (b.1, { b.2 with badTag := b.2.badTag || (b.2.cached && b.2.dirty), cached := false, dirty := false, lineBad := false, stalled := false })
      else b }

/-- The runs that a die's reset ends: those with a stripe on it, or whose seams lie in its pool (R266, R386). -/
def Run.onDie (r : Run) (die : Nat) : Bool :=
  (match r.phase with | .ended _ | .launched => false | .suspended => false | _ => r.phys.any fun g => ringDie g == die)
  || (match r.phase with | .suspended => r.home == die | _ => false)

/-- The tiles of a die are freed without events (R386). -/
def State.dropTiles (s : State) (die : Nat) : State :=
  (s.tiles.filter fun t => t.die == die).foldl (fun (x : State) t => x.freeTile t.uid) s

/-- A task of a resetting die stops with a class-2 record of its instruction address (R383, R386), and its tiles elsewhere lose their owner (R311). -/
def State.resetTask (s : State) (t : Nat) : State :=
  let x := s.task t
  let s1 := if x.status = .idle then s else s.stopTask t ⟨fDIERESET, 0, 0, x.pc.toNat⟩
  (if x.node.isSome || x.ownerAct == 0 then s1 else s1.ownerEnd (.activation x.ownerAct)).setTask t Task.reset

/-- A TXFER fails with DIERESET: its read ends, and its destination becomes POISON where that tile is still there (R258). -/
def State.loseTxfer (s : State) (e : EngOp) (tile va : Nat) : State :=
  (match e.reading with | some rd => s.endRead rd.tile rd.slot | none => s).txferFails e tile (some fDIERESET) va

/-- An operation of a die that resets is lost; a graph's copy fails with DIERESET (R342). -/
def State.loseEngine (s : State) (e : EngOp) : State :=
  let s1 := match e.node with
    | some (g, n) => s.failNode g n 3 fDIERESET
    | none => s
  match s1.engine e.serial with
  | some x => match (s1.abandon x).engine e.serial with
    | some y => (s1.abandon x).engEnd y
    | none => s1.abandon x
  | none => s1

/-- Whether an operation is a TXFER from or to one of these tiles. -/
def EngOp.moves (e : EngOp) (tiles : List Nat) : Bool :=
  match e.kind with
  | .txfer src tile _ _ => tiles.contains src || tiles.contains tile
  | .draw .. | .draws _ | .send .. | .copym .. => false

/-- The engine operations that a die's reset ends: those it issues, and TXFERs from or to one of the tiles that lay on it (R258); of those of other
dies the requests that were outstanding at it, where it answers none (R385). -/
def State.resetEngine (die : Nat) (lose : Bool) (tiles : List Nat) (s : State) (e : EngOp) : State :=
  if e.die = die then s.loseEngine e
  else if e.moves tiles then
    match e.kind with
    | .txfer _ tile _ va => s.loseTxfer e tile va
    | _ => s
  else if lose then s.engLose e fun r => s.homeOf r.x.pa == die else s

/-- Whether a task is blocked in the allocation of a TXFER to a die, or from one of these tiles. -/
def Task.transfers (x : Task) (die : Nat) (tiles : List Nat) : Bool :=
  match x.waitFor with
  | some (.grant d _ _ (some (.txfer _ _ _ src))) => d == die || tiles.contains src
  | _ => false

/-- The address of the source of the TXFER whose allocation a task waits for. -/
def State.transferVa (s : State) (x : Task) : Nat :=
  match x.waitFor with
  | some (.grant _ _ _ (some (.txfer _ _ _ src))) => (match s.tileU src with | some t => tileVa t.die t.handle | none => 0)
  | _ => 0

/-- Tasks elsewhere blocked in the allocation of a TXFER from or to a resetting die take a deferred DIERESET (R258); the operation it would name has
not begun, and word 3 of the record is free (assumption 3). `before` is the state before the die's tiles went. -/
def State.failTransfers (s before : State) (die : Nat) (tiles : List Nat) : State :=
  (s.tasks.filter fun p => taskDie p.1 != die && p.2.transfers die tiles).foldl (fun (x : State) p =>
    x.deferFault p.1 p.2.activation ⟨fDIERESET, 1, 6, BitVec.ofNat 64 (before.transferVa p.2), Config.freeWord x.freeCtr⟩) s

/-- Tasks elsewhere that wait to deliver an entry to a resetting die take DIERESET at their SENDQ (R240). -/
def State.failDeliveries (s : State) (die : Nat) : State :=
  (s.tasks.filter fun p => taskDie p.1 != die && (match p.2.waitFor with
      | some (.deliver ep _) => (match endpointOf ep with | some x => ringDie x.ring == die | none => false)
      | _ => false)).foldl (fun (x : State) p => x.takeFault p.1 0 (x.task p.1).pc ⟨fDIERESET, 0, 0, (x.task p.1).pc.toNat⟩) s

/-- A run after the reset of a die: its launcher there is gone, and a reserve in that die's pool is lost with the pool (R386). -/
def Run.afterReset (die : Nat) (r : Run) : Run :=
  { r with
    launcher := match r.launcher with | .task t a => if taskDie t = die then .gone t else .task t a | x => x
    reserved := r.reserved && decide (r.home ≠ die), used := if r.home = die then 0 else r.used }

/-- What the die itself holds is gone: stores, channels, pool, tables, caches, streams and requests; its incarnation rises (R385, R386). -/
def State.clearDie (s : State) (die : Nat) : State :=
  let mine := fun (r : Nat) => ringDie r == die
  let late := (s.accesses.filter fun a => taskDie a.task == die).map fun a => (die, a.serial, s.inc die)
  let lateOut := (s.outReqs.filter fun o => o.die == die).map fun o => (die, o.serial, s.inc die)
  { s with
    seqs := s.seqs.filter fun x => !mine x.1
    runs := s.runs.map (Run.afterReset die)
    freed := s.freed.filter fun x => x.1 / 2 ^ 24 != die
    queues := s.queues.filter fun x => taskDie x.1 != die
    accesses := s.accesses.filter fun a => taskDie a.task != die
    outReqs := s.outReqs.filter fun o => o.die != die
    answers := s.answers.filter fun a => match a.who with | .task t => taskDie t != die | .walker d _ _ => d != die | _ => true
    lateResp := s.lateResp ++ late ++ lateOut
    groups := s.groups.filter fun g => g.die != die
    streams := s.streams.filter fun x => x.die != die
    caches := s.caches.filter fun x => !mine x.1
    tlb := s.tlb.filter fun e => e.die != die
    walks := s.walks.filter fun w => w.1 != die
    stale := s.stale.filter fun x => x.die != die
    inFlight := s.inFlight.filter fun r => r.dst != die
    sram := Memory.zero s.sram (die * 262144 * 2048) (262144 * 2048)
    sramOwner := s.sramOwner.filter fun x => x.1 / 262144 != die
    sramBad := s.sramBad.filter fun x => x / (64 * 262144) != die
    pools := s.pools.map fun q => if q.1 / 16 = die then (q.1, { q.2 with held := 0, queue := [], hbQueue := [] }) else q
    incs := if h : die < 8 then s.incs.set die (s.incs[die] + 1) else s.incs }

/-- What both resets of a compute die do after their own first step: its tiles are freed without events, its runs end, and its engine operations
and tasks are lost; what other dies have outstanding there completes with DIERESET, with `lose` for requests that it has not answered. -/
def State.resetDie (s : State) (die : Nat) (lose : Bool) : State :=
  let tiles := (s.tiles.filter fun t => t.die == die).map fun t => t.uid
  let s1 := s.dropTiles die
  let s2 := (s1.runs.filter fun r => r.onDie die).foldl (fun (x : State) r => x.stopNow r.serial 5) s1
  let s3 := s2.engines.foldl (State.resetEngine die lose tiles) s2
  let s4 := ((s3.accesses.filter fun a => s3.accessAt a die && taskDie a.task != die)).foldl (fun (x : State) a => x.resetAccess a) s3
  let s5 := if lose then s4.loseAnswers fun d a => d != die && a.homes.contains die else s4
  let s6 := (List.range 32).foldl (fun (x : State) k => x.resetTask (32 * die + k)) s5
  ((s6.failTransfers s die tiles).failDeliveries die).clearDie die

/-- DIE_RESET_WARM (R386): the die's modified blocks are written back and the requests of other dies are answered before it begins. -/
def execDieResetWarm (die : Nat) (s : State) : Out :=
  if 6 ≤ die then .next s
  else
    let s1 := (s.dirtyBlocks die).foldl State.writeBack s
    if !(s1.dirtyBlocks die).isEmpty || s1.accesses.any (fun a => s1.accessAt a die && taskDie a.task != die) then .next s1
    else .next ((s1.loseDirty die).resetDie die false)

/-- DIE_RESET_FATAL (R386): nothing comes before it; blocks not written back are lost. -/
def execDieResetFatal (die : Nat) (s : State) : Out := if 6 ≤ die then .next s else .next ((s.loseDirty die).resetDie die true)

/-- STALE_RESPONSE_DROP (R385): a response to a request of an earlier incarnation of a die is dropped and counted. -/
def execStaleResponseDrop (die serial : Nat) (s : State) : Out :=
  match s.lateResp.find? fun x => x.1 == die && x.2.1 == serial with
  | none => .next s
  | some x => if x.2.2 = s.inc die then .next s else .next { s with lateResp := s.lateResp.erase x, staleDrops := s.staleDrops + 1 }

/-! ### Links (R387, R390) -/

/-- The dies by ring position (R390). -/
def dieRing : List Nat := [0, 1, 2, 5, 4, 3]

/-- The ring position of a compute die. -/
def ringPos (die : Nat) : Nat := dieRing.idxOf die

/-- Link i joins ring positions i and i + 1. The links of the route from one compute die to another with every link up: the direction with fewer
hops, the rising one at a tie (R390). -/
def upRoute (a b : Nat) : List Nat :=
  let f := (ringPos b + 6 - ringPos a) % 6
  if f ≤ 3 then (List.range f).map fun i => (ringPos a + i) % 6 else (List.range (6 - f)).map fun i => (ringPos b + i) % 6

/-- The route while links are down: the other direction when the fixed one is broken (R387); `none` where the ring is separated. -/
def State.route (s : State) (a b : Nat) : Option (List Nat) :=
  let r := upRoute a b
  let other := (List.range 6).filter fun i => !r.contains i
  let whole := fun (l : List Nat) => l.all fun i => !s.linksDown.contains i
  if whole r then some r else if a != b && whole other then some other else none

/-- The ring links that traffic of two dies takes: between compute dies those of their route, and from or to an I/O die that is not the compute
die's own those to the compute die through which it is reached (R390). -/
def State.linksOn (s : State) (a b : Nat) : List Nat :=
  let way := fun (c io : Nat) => if 6 + c / 3 = io then [] else (s.route c (3 * (io - 6) + (Config.gateway c).val)).getD []
  if a < 6 ∧ b < 6 then (s.route a b).getD [] else if a < 6 then way a b else if b < 6 then way b a else []

/-- Whether an operation of an engine's die with a die takes a link. -/
def State.takes (s : State) (link a b : Nat) : Bool := (s.linksOn a b).contains link

/-- The source unit of a link at one end: 264 toward the next ring position, 265 toward the previous one, and 266 for the link to the I/O die
(R391). -/
inductive LinkEnd
  | next | previous | io
deriving DecidableEq, Repr

/-- That unit's number. -/
def LinkEnd.unit : LinkEnd → Nat
  | .next => 264
  | .previous => 265
  | .io => 266

/-- The pairs of dies that pass channels of a run cross between, in chain order (R348). -/
def crossings : List Nat → List (Nat × Nat)
  | a :: b :: rest => (if ringDie a = ringDie b then [] else [(ringDie a, ringDie b)]) ++ crossings (b :: rest)
  | _ => []

/-- Whether a run's tokens cross a link. -/
def Run.crosses (r : Run) (link : Nat) : Bool :=
  r.placed && (crossings r.phys).any fun p => p.2 == (dieRing[(ringPos p.1 + 1) % 6]?).getD 0 && ringPos p.1 == link

/-- Whether some dies of a list can no longer reach one another. -/
def State.separated (s : State) (dies : List Nat) : Bool := dies.any fun a => dies.any fun b => (s.route a b).isNone

/-- The compute dies at which a graph's nodes have agents. -/
def State.graphDies (s : State) (g : Graph) : List Nat :=
  let runs := (s.runs.filter fun r => r.placed && (match r.launcher with | .node n _ => n == g.id | _ => false)).flatMap fun r => r.dies
  let tasks := (s.tasks.filter fun p => match p.2.node with | some (n, _) => n == g.id | none => false).map fun p => taskDie p.1
  let copies := (s.engines.filter fun e => e.die < 6 && (match e.node with | some (n, _) => n == g.id | none => false)).map fun e => e.die
  (runs ++ tasks ++ copies).eraseDups

/-- The access code LINKDOWN of R382. -/
def fLINKDOWN : Nat := 20

/-- Does something for each item that the model freely picks (assumption 3). -/
def State.freely {α : Type} (f : State → α → State) (l : List α) (s : State) : State :=
  l.foldl (fun (x : State) a =>
    let (n, y) := x.drawNat
    if n % 2 = 0 then y else f y a) s

/-- The I/O die whose port a request outside the package takes: IOD0 for host memory (R400), and for a peer's window that of its own die. -/
def OutAcc.port (o : OutAcc) : Nat := if paSpace o.pa = 3 ∧ o.die < 6 then 6 + o.die / 3 else 6

/-- Whether a TXFER reads or writes over a link. -/
def State.txferOn (s : State) (link : Nat) (e : EngOp) : Bool :=
  match e.kind with
  | .txfer src tile _ _ => [src, tile].any fun u => match s.tileU u with | some t => s.takes link e.die t.die | none => false
  | .draw .. | .draws _ | .send .. | .copym .. => false

/-- Whether a task's SENDQ delivers over a link. -/
def State.sendsOn (s : State) (link : Nat) (p : Nat × Task) : Bool :=
  match p.2.waitFor with
  | some (.deliver ep _) => (match endpointOf ep with | some x => s.takes link (taskDie p.1) (ringDie x.ring) | none => false)
  | _ => false

/-- What is in flight on a link that fails completes with DIERESET: of sequencer accesses, engine operations, memory cells' requests, requests
outside the package and deliveries that take the link, freely which were on it just then (R387, assumption 3). -/
def State.dropFlight (s : State) (link : Nat) : State :=
  let on := s.takes link
  let s1 := State.freely State.resetAccess (s.accesses.filter fun a => a.parts.any fun p => paHbm p.1 && on (taskDie a.task) (s.homeOf p.1)) s
  let s2 := State.freely (fun (x : State) e => match e.kind with | .txfer _ tile _ va => x.loseTxfer e tile va | _ => x)
    (s1.engines.filter (s.txferOn link)) s1
  let s3 := s2.engines.foldl (fun (x : State) e => x.engLose e fun r => on e.die (s.homeOf r.x.pa)) s2
  let s4 := s3.loseAnswers fun d a => a.homes.any (on d)
  let s5 := State.freely (fun (x : State) o => x.finishOut o fDIERESET []) (s4.outReqs.filter fun o => on o.die o.port) s4
  State.freely (fun (x : State) p => x.takeFault p.1 0 (x.task p.1).pc ⟨fDIERESET, 0, 0, (x.task p.1).pc.toNat⟩) (s5.tasks.filter (s5.sendsOn link)) s5

/-- LINK_FAILURE (R387, R391): link i, between ring positions i and i + 1, fails, with a LINK and a LINKDOWN event of one of its two ends, freely
which (assumption 3). What is in flight on it completes with DIERESET; runs whose tokens cross it end with cause 3. When the ring is
separated, runs and graphs that span the break end in the same way. -/
def execLinkFailure (link : Nat) (s : State) : Out :=
  if 6 ≤ link ∨ s.linksDown.contains link then .next s
  else
    let first := Config.freeNat s.freeCtr % 2 = 0
    let die := (dieRing[if first then link else (link + 1) % 6]?).getD 0
    let unit := sourceNo die (if first then LinkEnd.next else LinkEnd.previous).unit
    let s1 := (s.logEvent unit 0xD 0 (BitVec.ofNat 64 link) 0).logFault unit 0
      ⟨faultWord0 (s.inc die) 0 unit 0 0 0 0 0 fLINKDOWN, s.timestamp, BitVec.ofNat 64 link, 0⟩
    let s2 := { s1.dropFlight link with linksDown := s1.linksDown ++ [link] }
    let s3 := (s2.runs.filter fun r => r.crosses link || (r.placed && s2.separated r.dies)).foldl
      (fun (x : State) r => x.stopNow r.serial 3) s2
    .next ((s3.graphs.filter fun g => s2.separated (s2.graphDies g)).foldl (fun (x : State) g =>
      let (f, y) := x.drawNat
      y.updGraph g.id fun z => if z.failStatus = 0 then
        { z with cancelled := true, failStatus := 3, failReason := 3, failNode := f % 2 ^ 16, failDetail := fLINKDOWN }
      else { z with cancelled := true }) s3)

/-! ### The management interface (R409) -/

/-- What the management interface reads (R1, R360, R408, R409): the last temperature of every sensor and power of every die, the enabled rings, the
thresholds, the counts of dropped events, launches, responses and frames, of out-of-bounds draws and of corrected errors, and the event log. -/
structure Management where
  temps       : Tab Nat
  powers      : List Nat
  rings       : List Nat
  powerCapMW  : Nat
  migrateC    : Nat
  dropped     : Nat
  launches    : Nat
  responses   : Nat
  frames      : Nat
  outOfBounds : Nat
  corrected   : Nat
  log         : List Event
deriving DecidableEq, Repr

/-- The sum of a list. -/
def sumOf (l : List Nat) : Nat := l.foldl (· + ·) 0

/-- The readings of the management interface. -/
def State.management (s : State) : Management :=
  { temps := s.temps, powers := s.powers, rings := s.enabled, powerCapMW := s.figures.powerCapMW, migrateC := s.figures.migrateC
    dropped := sumOf (s.sources.map fun x => x.2.dropped), launches := sumOf ((s.ifaces ++ s.pifaces).map fun f => f.2.dropped.toNat)
    responses := s.staleDrops, frames := s.badFrames, outOfBounds := sumOf (s.partitions.map fun p => p.2.oobDraws)
    corrected := s.corrected, log := s.log }

/-! ### Heat and power (R388, R408, R409) -/

/-- The source number of a ring's thermal sensor (R358). -/
def sensorSource (ring sensor : Nat) : Nat := sourceNo (ringDie ring) (214 + ring % 4 * 4 + sensor)
/-- The key of a sensor. -/
def sensorKey (ring sensor : Nat) : Nat := 4 * ring + sensor

/-- A sensor gives a reading, in tenths of a degree (R409). -/
def State.read (s : State) (ring sensor reading : Nat) : State := { s with temps := Tab.set s.temps (sensorKey ring sensor) reading }

/-- The dies whose clock is stretched: those with a sensor at or above 105 °C (R388). -/
def State.stretched (s : State) : List Nat := (s.throttled.map fun k => ringDie (k / 4)).eraseDups

/-- MIGRATE (R378): a sensor's reading, in tenths of a degree, has risen to the threshold: one event, with the run resident on the ring. The form of
the reading in the event is not stated (DESIGN CHOICE, assumption 113). -/
def execMigrate (ring sensor reading : Nat) (s0 : State) : Out :=
  if 24 ≤ ring ∨ 4 ≤ sensor then .next s0
  else
    let s := s0.read ring sensor reading
    if reading < 10 * s.figures.migrateC ∨ s.sensorsHot.contains (sensorKey ring sensor) then .next s
    else
      let on' := (s.runs.find? fun x => x.placed && x.phys.contains ring).map fun x => x.opId
      .next (({ s with sensorsHot := s.sensorsHot ++ [sensorKey ring sensor] }).logEvent (sensorSource ring sensor) 6
        ((s.ringPart ring).getD 0) (on'.getD 0) (BitVec.ofNat 64 reading))

/-- MIGRATE_REARM (R378): the reading has fallen below the threshold. -/
def execMigrateRearm (ring sensor reading : Nat) (s0 : State) : Out :=
  if 24 ≤ ring ∨ 4 ≤ sensor then .next s0
  else
    let s := s0.read ring sensor reading
    .next (if reading < 10 * s.figures.migrateC then { s with sensorsHot := s.sensorsHot.filter fun k => k != sensorKey ring sensor } else s)

/-- THERMAL_THROTTLE (R388): a junction sensor reaches 105 °C: its die's clock is stretched until its reading falls below that, and it logs THERMAL. -/
def execThermalThrottle (sensor : SensorId) (reading : Nat) (s : State) : Out :=
  if 24 ≤ sensor.ring ∨ 4 ≤ sensor.sensor then .next s
  else
    let s1 := s.read sensor.ring sensor.sensor reading
    if reading < 1050 ∨ s.throttled.contains (sensorKey sensor.ring sensor.sensor) then .next s1
    else .next ({ s1 with throttled := s1.throttled ++ [sensorKey sensor.ring sensor.sensor] }.logEvent (sensorSource sensor.ring sensor.sensor) 0xE 0 (BitVec.ofNat 64 reading) 0)

/-- THROTTLE_RELEASE (R388): a sensor's reading has fallen below 105 °C; the clock of its die is stretched no longer for it. -/
def execThrottleRelease (sensor : SensorId) (reading : Nat) (s : State) : Out :=
  if 24 ≤ sensor.ring ∨ 4 ≤ sensor.sensor then .next s
  else
    let s1 := s.read sensor.ring sensor.sensor reading
    .next (if 1050 ≤ reading then s1 else { s1 with throttled := s1.throttled.filter fun k => k != sensorKey sensor.ring sensor.sensor })

/-- THERMAL_SHUTDOWN (R388): a junction at 115 °C or more shuts the package down without any flush; its next start is a package reset. -/
def execThermalShutdown (die reading : Nat) (s : State) : Out :=
  if reading < 1150 ∨ 8 ≤ die then .next s else .next { s with off := true }

/-- POWER_CAP_ENFORCE (R408, R409): the module's power averaged over 1 ms, with that of each die, against the cap: above it every compute die's
clock is stretched alike, with a THERMAL event when that begins; at or below it the stretch ends. -/
def execPowerCapEnforce (power : PowerReading) (s0 : State) : Out :=
  let s := { s0 with powers := power.dies }
  if power.milliwatts ≤ s.figures.powerCapMW then .next { s with powerThrottle := false }
  else if s.powerThrottle then .next s
  else .next ({ s with powerThrottle := true }.logEvent (sourceNo 6 257) 0xE 0 (BitVec.ofNat 64 power.milliwatts) 0)

/-- Whether firmware may give a partition this share of each die's sealed-block cache of 8,192 blocks: with the others' it fits, and the partition
holds no more than it there now (R326, R356, DESIGN CHOICE, assumption 110). -/
def State.shareOk (s : State) (part blocks : Nat) : Bool :=
  decide (part < 16) && decide (1 ≤ blocks)
  && decide (sumOf ((List.range 16).map fun p => if p = part then blocks else (s.part p).cacheShare) ≤ 8192)
  && (List.range 6).all fun d => decide (((s.cachedBlocks d).filter fun b => s.unitOwner (2048 * b) == some part).length ≤ blocks)

/-- THRESHOLD_SET (R408, R409): the power cap, 2.0 to 5.5 kW, or the migration threshold, 70 to 104 °C; a value outside is refused. The other figures
that firmware sets take their ranges from R354, R402, R316 and R356 (DESIGN CHOICE, assumption 110). -/
def execThresholdSet (value : Threshold) (s : State) : Out :=
  match value with
  | .powerCapMW v => if 2000000 ≤ v ∧ v ≤ 5500000 then .next { s with figures := { s.figures with powerCapMW := v } } else .next s
  | .migrateC v => if 70 ≤ v ∧ v ≤ 104 then .next { s with figures := { s.figures with migrateC := v } } else .next s
  | .promoteClk v => if 1 ≤ v ∧ v ≤ 4095 then .next { s with figures := { s.figures with promoteClk := v } } else .next s
  | .retries v => .next { s with figures := { s.figures with maxRetries := v } }
  | .astallClk v => if v ≤ 2 ^ 32 then .next { s with figures := { s.figures with astallClk := v } } else .next s
  | .cacheShare p b => .next (if s.shareOk p b then s.setPart p { s.part p with cacheShare := b } else s)

end Sys2Proof.Machine
end

