-- ==== Sys2Proof/Machine/Partitions.lean ====
section
/-! DEFINITION. Machine/Partitions: partitions, ring sets, functions and interface bindings (R243, R332, R392 to R398). -/
namespace Sys2Proof.Machine

/-- Whether a list repeats nothing. -/
def distinct {α : Type} [DecidableEq α] : List α → Bool
  | [] => true
  | x :: xs => !xs.contains x && distinct xs

/-- Whether a 2 MiB unit may be assigned: in a stack's usable capacity, and in no partition (R324, R392). -/
def State.unitFree (s : State) (u : Nat) : Bool :=
  decide (paStack (u * 2 ^ 21) < 12) && !paMeta (u * 2 ^ 21) && !(s.partitions.any fun p => p.2.units.any fun v => v.1 == u)

/-- Whether a range of package memory, in whole 2 MiB units, is made of sealed units of a grant. -/
def PartGrant.sealedRange (g : PartGrant) (base size : Nat) : Bool :=
  decide (base % 2 ^ 21 = 0) && decide (size % 2 ^ 21 = 0)
  && (List.range (size / 2 ^ 21)).all fun i => g.units.contains (base / 2 ^ 21 + i, false)

/-- Whether an HB area is one that firmware sets: of the grant's sealed units, within the die's stacks, at most 2^18 blocks (R332). -/
def PartGrant.hbOk (g : PartGrant) (a : Nat × Nat × Nat) : Bool :=
  decide (a.1 < 6) && PartGrant.sealedRange g a.2.1 a.2.2 && decide (a.2.2 ≤ 2 ^ 29) && decide (paDie a.2.1 = a.1)
  && decide (paDie (a.2.1 + a.2.2 - 1) = a.1)

/-- Whether the reserves on every die stay within its 262,144 granules (R312). -/
def State.reservesOk (s : State) (g : PartGrant) : Bool :=
  (List.range 6).all fun d =>
    decide (((List.range 16).map fun p => (s.pool d p).res).foldl (· + ·) 0
      + ((g.pools.filter fun x => x.1 == d).map fun x => x.2.1).foldl (· + ·) 0 ≤ 262144)

/-- Whether firmware may grant these resources (R392): rings that no partition has, since a ring, its configuration cache and its sequencer belong
to one partition at a time (R356), units that no partition has, and reserves within the pool. -/
def State.grantOk (s : State) (g : PartGrant) : Bool :=
  distinct g.rings && g.rings.all (fun r => s.enabled.contains r && (s.ringPart r).isNone)
  && distinct (g.units.map Prod.fst) && g.units.all (fun u => s.unitFree u.1)
  && g.pools.all (fun x => decide (x.1 < 6) && decide (x.2.1 ≤ x.2.2)) && s.reservesOk g && g.quota.all (fun x => decide (x.1 < 6))
  && g.hbAreas.all (PartGrant.hbOk g) && decide (1 ≤ g.weight) && decide (g.weight ≤ 16) && decide (1 ≤ g.nodeAge) && decide (g.nodeAge ≤ 65536)
  && distinct g.contexts && g.contexts.all (fun a => decide (a < 65536) && !(s.partitions.any fun p => p.2.contexts.contains a))
  && (g.contexts.isEmpty || g.contexts.contains g.defaultCtx)
  && g.functions.all (fun f => decide (f < 258) && !(s.partitions.any fun p => p.2.functions.contains f))
  && (match g.window with | some w => PartGrant.sealedRange g w.1 w.2 | none => true) && g.peers.all fun p => decide (p < 4096)

/-- The pool figures, quotas and HB areas of a grant take effect. -/
def State.grantPools (s : State) (part : Nat) (g : PartGrant) : State :=
  let s1 := g.pools.foldl (fun (x : State) f => x.setPool f.1 part { x.pool f.1 part with res := f.2.1, lim := f.2.2 }) s
  let s2 := g.quota.foldl (fun (x : State) f => x.setPool f.1 part { x.pool f.1 part with quota := f.2 }) s1
  g.hbAreas.foldl (fun (x : State) a => x.setPool a.1 part { x.pool a.1 part with hbBase := a.2.1, hbSize := a.2.2 / 2048 }) s2

/-- A stream for each peer that a pair key has been agreed with; the key is free (R402, assumption 3). -/
def State.openPeers (s : State) (part : Nat) (peers : List Nat) : State :=
  peers.foldl (fun (x : State) p => { x with
    freeCtr := x.freeCtr + 4
    peers := Tab.set x.peers (streamKey part p) { key := treeKeyOf x.freeCtr, nextSeq := 0, rxSeq := 0, unacked := [], retries := 0, sent := [] } }) s

/-- PARTITION_CREATE (R392, R393, R401): firmware creates a FREE partition with its resources, in CREATED, and a traffic class that no rule states
(assumption 3); a grant that R392 does not allow is refused. -/
def execPartitionCreate (partition : Nat) (grant : PartGrant) (s : State) : Out :=
  if !s.booted ∨ 16 ≤ partition ∨ (s.part partition).state ≠ .free ∨ !s.grantOk grant then .next s
  else
    let p : Partition := { Partition.reset with
      state := .created, rings := grant.rings, units := grant.units, weight := grant.weight, nodeAge := grant.nodeAge
      contexts := grant.contexts, defaultCtx := grant.defaultCtx, window := grant.window, functions := grant.functions
      traffic := BitVec.ofNat 3 (Config.freeNat s.freeCtr) }
    .next (((s.setPart partition p).grantPools partition grant).openPeers partition grant.peers)

/-- The acceptance FIFO of an interface is emptied, and each entry counted as dropped. -/
def Iface.flush (f : Iface) : Iface := { f with dropped := f.dropped + BitVec.ofNat 16 f.fifo.length, fifo := [] }

/-- A task is stopped by firmware: the code of its class-2 record is not stated, and free (R393, R398, assumption 3). An IDLE slot that a node has
been dispatched to has an activation to stop; any other does not start from the entries it has (R48). -/
def State.haltTask (s : State) (t : Nat) : State :=
  if (s.task t).status = .idle ∧ (s.task t).node = none then s.updTask t fun x => { x with parked := true }
  else
    let (f, s1) := s.drawNat
    s1.stopTask t ⟨f % 256, 0, 0, (s.task t).pc.toNat⟩

/-- A task that is switched out is stopped by firmware in the same way: a class-2 record, its node fails, and it leaves its groups and its
bindings (R52, R275, R393, R398). -/
def State.haltSaved (s : State) (x : SavedTask) : State :=
  let (f, s1) := s.drawNat
  let s2 := s1.toFirmware (taskSource x.task) (s1.partOf x.task) (s1.taskRecord x.task 2 ⟨f % 256, 0, 0, x.pc.toNat⟩)
  let s3 := match x.node with
    | some (g, n) => s2.failNode g n 2 (f % 256)
    | none => s2
  { (s3.leaveGroups x.activation fun _ => true).readerEnd (.activation x.activation) with switchedOut := s3.switchedOut.erase x }

/-- Forgets what the interfaces that a test picks have read of a graph outside the package, and what they have asked for. -/
def State.forgetIfaces (s : State) (which : Nat → Bool) : State :=
  let mine := fun (w : OutWho) => match w with | .iface n => which n | .piface p => which (8192 + p) | _ => false
  { s with answers := s.answers.filter fun a => !mine a.who, outReqs := s.outReqs.filter fun o => !(mine o.who && o.op == .read) }

/-- The FIFOs and graphs of a partition that ends (R393). -/
def State.endGraphs (s : State) (part : Nat) : State :=
  { s.forgetIfaces (fun n => (s.iface n).part == part || n == 8192 + part) with
    ifaces := s.ifaces.map fun (f : Nat × Iface) => if f.2.part = part then (f.1, f.2.flush) else f
    pifaces := s.pifaces.map fun (f : Nat × Iface) => if f.1 = part then (f.1, f.2.flush) else f
    graphs := s.graphs.map fun (g : Graph) => if g.part = part then g.cancel else g }

/-- Every run of a partition is stopped at once. -/
def State.stopRuns (s : State) (part : Nat) : State :=
  (s.runs.filter fun r => r.partition == part).foldl (fun (x : State) r => x.stopAtOnce r) s

/-- PARTITION_DESTROY (R393): every acceptance FIFO is emptied and counted, every graph cancelled, every run stopped at once and every task,
one switched out included, stopped with a class-2 record. -/
def execPartitionDestroy (partition : Nat) (s : State) : Out :=
  let p := s.part partition
  if p.state = .free ∨ p.state = .ending then .next s
  else
    let s1 := ((s.setPart partition { p with state := .ending }).endGraphs partition).stopRuns partition
    let s2 := (s1.switchedOut.filter fun x => p.rings.contains (taskRing x.task)).foldl State.haltSaved s1
    .next ((p.rings.flatMap fun r => (List.range 8).map fun k => 8 * r + k).foldl State.haltTask s2)

/-- The tasks of a set of rings. -/
def inRings (rings : List Nat) (t : Nat) : Bool := rings.contains (taskRing t)

/-- Whether nothing of a partition remains (R393). -/
def State.drained (s : State) (part : Nat) : Bool :=
  let rings := (s.part part).rings
  !(s.runs.any fun r => r.partition == part && (match r.phase with | .ended _ => false | _ => true))
  && !(s.tasks.any fun t => inRings rings t.1 && t.2.status != .idle) && !(s.graphs.any fun g => g.part == part)
  && !(s.engines.any fun e => e.part == part) && !(s.accesses.any fun a => a.part == part)

/-- A ring's sequencer, task state and channels are as after reset, and its configuration cache is empty (R243, R356); a task that was switched
out there is over, and leaves its groups (R52). -/
def State.zeroRings (s0 : State) (rings : List Nat) : State :=
  let s := (s0.switchedOut.filter fun t => inRings rings t.task).foldl (fun (x : State) t => x.leaveGroups t.activation fun _ => true) s0
  { s with
    seqs := s.seqs.filter fun x => !rings.contains x.1
    tasks := s.tasks.filter fun t => !inRings rings t.1
    queues := s.queues.filter fun t => !inRings rings t.1
    switchedOut := s.switchedOut.filter fun t => !inRings rings t.task
    caches := s.caches.filter fun x => !rings.contains x.1
    remap := s.remap.filter fun x => !rings.contains x.1 }

/-- An interface without its binding. -/
def Iface.unbound (f : Iface) : Iface := { f with binding := 0 }

/-- The granules that were a partition's are no partition's: an allocation of any partition takes them zeroed (R306). -/
def State.disownGranules (s : State) (part : Nat) : State := { s with sramOwner := s.sramOwner.filter fun x => x.2 != part }

/-- A sealed unit whose partition's keys are erased: no block of it is in the cache, and what HBM holds of it is ciphertext that nobody can
decrypt, free bytes (R326, R392, R393, assumption 3). -/
def State.forgetUnit (s : State) (unit : Nat) : State :=
  let mine := fun (pa : Nat) => pa / 2 ^ 21 == unit
  { s with
    mem := Memory.writeBytes s.mem (unit * 2 ^ 21) ((List.range (2 ^ 21)).map fun i => Config.residue s.freeCtr (unit * 2 ^ 21 + i))
    stale := s.stale.filter fun x => !mine x.pa
    blocks := s.blocks.map fun b => (b.1, if mine (2048 * b.1) then { b.2 with cached := false, dirty := false, lineBad := false, stalled := false } else b.2) }

/-- PARTITION_FREE (R393): an ENDING partition with nothing left becomes FREE: Kiln erases its keys, its rings are zeroed, its granules are zeroed
before they are used again, and it holds nothing. What its shared units hold stays as it is: no rule says that they are zeroed (DESIGN CHOICE, assumption 81). -/
def execPartitionFree (partition : Nat) (s : State) : Out :=
  let p := s.part partition
  if p.state ≠ .ending ∨ !s.drained partition then .next s
  else
    let s1 := (s.tiles.filter fun t => t.partition == partition).foldl (fun (x : State) t => x.freeTile t.uid) s
    let s2 := ((p.units.filter fun u => !u.2).map Prod.fst).foldl State.forgetUnit ((s1.zeroRings p.rings).disownGranules partition)
    .next (({ s2 with
      kilns := s2.kilns.filter fun k => k.1 % 16 != partition
      pools := s2.pools.filter fun q => q.1 % 16 != partition
      contexts := s2.contexts.filter fun c => !p.contexts.contains c.1
      tlb := s2.tlb.filter fun e => !p.contexts.contains e.asid
      walks := s2.walks.filter fun w => !p.contexts.contains w.2.1
      ifaces := s2.ifaces.map fun (f : Nat × Iface) => if f.2.part = partition then (f.1, f.2.unbound) else f
      peers := s2.peers.filter fun q => q.1 / 4096 != partition
      hdm := s2.hdm.filter fun d => d.part != partition
      codeCopies := s2.codeCopies.filter fun c => c.part != partition }).setPart partition Partition.reset)

/-- Whether a task of a ring still has an access, an engine operation, a run that it launched or a request outside the package outstanding. -/
def State.ringOut (s : State) (ring : Nat) : Bool :=
  s.runs.any (fun r => (match r.launcher, r.phase with
    | _, .ended _ => false
    | .task t _, _ => taskRing t == ring
    | _, _ => false))
  || s.accesses.any (fun a => taskRing a.task == ring) || s.engines.any (fun e => match e.task with | some t => taskRing t == ring | none => false)
  || s.outReqs.any fun o => match o.who with | .task t => taskRing t == ring | _ => false

/-- RING_SET_CHANGE (R243, R356, R392): firmware moves an enabled ring to a partition; its data store, instruction store and task state are zeroed.
It waits until no run lies on the ring, its slots are IDLE and nothing that they issued is outstanding (R4, assumption 15). -/
def execRingSetChange (ring : Nat) (target : Nat) (s : State) : Out :=
  let p := s.part target
  let busy := s.runs.any (fun r => r.holds.contains ring) || s.tasks.any (fun t => taskRing t.1 == ring && t.2.status != .idle) || s.ringOut ring
  if !s.enabled.contains ring ∨ 16 ≤ target ∨ (p.state ≠ .created ∧ p.state ≠ .active) ∨ s.ringPart ring = some target ∨ busy then .next s
  else
    let s1 := match s.ringPart ring with
      | some q => s.setPart q { s.part q with rings := (s.part q).rings.filter fun r => r != ring }
      | none => s
    .next ((s1.zeroRings [ring]).setPart target { p with rings := p.rings ++ [ring] })

/-! ### Functions and bindings (R394, R397, R398) -/

/-- The function of a binding (R397). -/
def bindFunction (b : Word) : Nat := (b.extractLsb' 54 9).toNat

/-- FUNCTION_LEVEL_RESET (R398): the FIFOs of the function's interfaces are emptied and counted, and the live graphs launched through them are
cancelled, with their runs stopped at once, their task activations, those switched out included, stopped, and their records and interrupts
discarded. -/
def execFunctionLevelReset (function : Nat) (s : State) : Out :=
  let mine := fun (f : Nat × Iface) => f.2.binding.getLsbD 63 && bindFunction f.2.binding == function
  let ids := (s.ifaces.filter mine).map Prod.fst
  let hit := fun (g : Graph) => match g.iface with | some i => ids.contains i | none => false
  let s1 := { s.forgetIfaces ids.contains with
    ifaces := s.ifaces.map fun f => if mine f then (f.1, f.2.flush) else f
    graphs := s.graphs.map fun g => if hit g then { g.cancel with discard := true } else g }
  let gs := (s.graphs.filter hit).map fun g => g.id
  let s2 := (s1.runs.filter fun r => match r.owner with | .graph n => gs.contains n | _ => false).foldl (fun (x : State) r => x.stopAtOnce r) s1
  let of := fun (n : Option (Nat × Nat)) => match n with | some (g, _) => gs.contains g | none => false
  let s3 := (s2.switchedOut.filter fun x => of x.node).foldl State.haltSaved s2
  .next ((s3.tasks.filter fun t => of t.2.node).foldl (fun (x : State) t => x.haltTask t.1) s3)

/-- Whether an interface still has a live graph. -/
def State.ifaceLive (s : State) (iface : Nat) : Bool := s.graphs.any fun g => g.iface == some iface

/-- The index of an interface in its function's BAR0 (R396, DESIGN CHOICE, assumption 82). -/
def ifaceIndex (iface : Nat) : Nat := iface % 1024

/-- The notify queues of a context: one for each device that its mode presents (R284). -/
def notifyQueues (m : DevMode) : Nat := match m with | .one => 1 | .two => 2 | .six => 6

/-- Whether a binding leaves the function's page free for the interface (R396), and the context no more interfaces than it has notify queues (R284,
DEDUCED, assumption 83). -/
def State.bindingFits (s : State) (iface : Nat) (b : Word) : Bool :=
  let others := s.ifaces.filter fun f => f.1 != iface && f.2.binding.getLsbD 63
  let asid := (b.extractLsb' 14 16).toNat
  !(others.any fun f => bindFunction f.2.binding == bindFunction b && ifaceIndex f.1 == ifaceIndex iface)
  && decide ((others.filter fun f => (f.2.binding.extractLsb' 14 16).toNat == asid).length < notifyQueues (s.modeOf asid))

/-- Whether a binding word is one firmware writes: valid, with zero bits, a function that is a PF or a VF of its partition, and a context of that
partition (R397). -/
def State.bindingOk (s : State) (b : Word) : Bool :=
  let part := (b.extractLsb' 30 4).toNat
  let f := bindFunction b
  b.getLsbD 63 && b.extractLsb' 0 4 == 0 && decide (f < 258) && (decide (f < 2) || (s.part part).functions.contains f)
  && (s.part part).contexts.contains (b.extractLsb' 14 16).toNat

/-- INTERFACE_BIND (R397): a binding or rebinding; refused while the interface has a live graph. Launches still queued are dropped and counted
(assumption 16). -/
def execInterfaceBind (iface : Nat) (binding : Word) (s : State) : Out :=
  if 8192 ≤ iface ∨ s.ifaceLive iface ∨ !s.bindingOk binding ∨ !s.bindingFits iface binding then .next s
  else .next ((s.forgetIfaces fun n => n == iface).setIface iface { (s.iface iface).flush with
    binding := binding, part := (binding.extractLsb' 30 4).toNat, asid := (binding.extractLsb' 14 16).toNat })

/-- INTERFACE_UNBIND (R397). -/
def execInterfaceUnbind (iface : Nat) (s : State) : Out :=
  if 8192 ≤ iface ∨ s.ifaceLive iface then .next s
  else .next ((s.forgetIfaces fun n => n == iface).setIface iface { (s.iface iface).flush with binding := 0 })

/-! ### BAR0 (R333, R396) -/

/-- What an offset of a function's BAR0 holds: the notify page of an interface, with the offset in it, the mailbox page, or nothing. -/
inductive Bar0
  | notify (iface off : Nat)
  | mailbox (off : Nat)
  | nothing
deriving DecidableEq, Repr

/-- The page at an offset of the 8 MiB of a function: interface i at 4,096 × i, where one is bound there and the port has trained, and the mailbox
page at 0x40_0000 (R396, R404). -/
def State.bar0 (s : State) (function off : Nat) : Bar0 :=
  if off < 0x400000 then
    match s.ifaces.find? fun f => s.pageLive f.1 && bindFunction f.2.binding == function && ifaceIndex f.1 == off / 4096 with
    | some f => .notify f.1 (off % 4096)
    | none => .nothing
  else if off < 0x401000 && s.trained then .mailbox (off - 0x400000)
  else .nothing

/-- What a host's read of BAR0 brings: STATUS at offset 8 of a notify page, and 0 for LAUNCH, CANCEL, reserved offsets, accesses that are not aligned
8-byte ones, and pages that are not bound (R333, R396). What the firmware answers at the mailbox page is not stated. -/
def State.bar0Read (s : State) (function off size : Nat) : Option Word :=
  match s.bar0 function off with
  | .notify n o => if o = 8 ∧ size = 8 then some (s.iface n).status else some 0
  | .mailbox _ => none
  | .nothing => some 0

/-- What a host's write of a word to BAR0 does: LAUNCH, CANCEL, or any other write of a notify page; a page that is not bound ignores it (R333,
R396), and what the firmware does with a write of the mailbox page is not stated. -/
def State.bar0Write (s : State) (function off size : Nat) (v : Word) : Out :=
  match s.bar0 function off with
  | .notify n o =>
    if size = 8 ∧ o = 0 then execLaunch n v s
    else if size = 8 ∧ o = 0x10 then execCancel n v s
    else execNotifyReservedWrite n o size s
  | .mailbox _ => .next s
  | .nothing => .next s

/-- NUMVFS_WRITE (R394): refused when it would bring the two PFs above 256 together. -/
def execNumvfsWrite (pf : Fin 2) (count : Nat) (s : State) : Out :=
  let other := s.numVfs[1 - pf.val]
  if 256 < count + other then .next s else .next { s with numVfs := s.numVfs.set pf count }

end Sys2Proof.Machine
end

