-- ==== Sys2Proof/Machine/HostLink.lean ====
section
/-! DEFINITION. Machine/HostLink: answers from host memory, the host's CXL.mem accesses, and the scale-out transport (R299, R328, R395, R399 to R402). -/
namespace Sys2Proof.Machine

/-! ### Completions of the host (R395, R399) -/

/-- The function whose device request this was: that of the interface with its PASID in its partition, else PF0 (R394, R397). -/
def State.functionOf (s : State) (o : OutAcc) : Nat :=
  match s.ifaces.find? fun f => f.2.binding.getLsbD 63 && f.2.part == o.part && f.2.binding.extractLsb' 34 20 == o.pasid with
  | some f => bindFunction f.2.binding
  | none => 0

/-- A function logs an error in its AER registers, with one of its four vectors for the mailbox and errors, which no rule names: they are counted here
from 1,024 on, and which of them it is is free (R394, PRESUMED, assumption 84). -/
def State.reportAer (s : State) (function code : Nat) : State :=
  { s with aer := s.aer ++ [(function, code)], interrupts := s.interrupts ++ [(function, 1024 + Config.freeNat s.freeCtr % 4)] }

/-- The host lines that a read has brought whole are held by IOD0 where its port has trained as CXL (R399); a line that it has brought in part is held no
longer, since the host may have changed it meanwhile. -/
def State.keepLines (s : State) (o : OutAcc) (bs : List Byte) : State :=
  if o.op != .read || !s.cxl[0] || paSpace o.pa != 2 then s
  else
    let first := (o.pa + 63) / 64
    let got := (List.range (bs.length / 64 + 1)).filterMap fun i =>
      if 64 * (first + i) + 64 ≤ o.pa + bs.length then some (first + i, (bs.drop (64 * (first + i) - o.pa)).take 64) else none
    { s with hostLines := (s.hostLines.filter fun x => decide (64 * x.1 + 64 ≤ o.pa) || decide (o.pa + bs.length ≤ 64 * x.1)) ++ got }

/-- HOST_COMPLETION (R395, R399): an access to host memory completes; an Unsupported Request or Completer Abort with PERM, a poisoned completion with
POISON, which the requesting function's AER logs (R394, PRESUMED, assumption 84). A read's completion brings all its bytes, and one of a line that IOD0
holds brings those. -/
def execHostCompletion (serial : Nat) (status : CplStatus) (s : State) : Out :=
  match s.outReqs.find? fun o => o.serial == serial && paSpace o.pa == 2 with
  | none => .next s
  | some o =>
    match status with
    | .success data =>
      let w : Bool := match o.op with | .write _ => true | _ => false
      match o.line with
      | some bs => .next (s.finishOut o 0 bs)
      | none =>
        if !w && decide (data.length < o.len) then .next s
        else .next ((s.keepLines o (data.take o.len)).finishOut o 0 (data.take o.len))
    | .unsupported => .next (s.finishOut o fPERM [])
    | .abort => .next (s.finishOut o fPERM [])
    | .poisoned => .next ((s.finishOut o fPOISON []).reportAer (s.functionOf o) 12)

/-! ### Physical accesses by an I/O die -/

/-- Writes bytes at a physical address as IOD0, in pieces of one block, each after everything written before it; a block that fails stays
unwritten and is logged (R246, R328). -/
def State.writePhys (s : State) (part : Nat) (shared : Bool) : Nat → Nat → List Byte → State
  | 0, _, _ => s
  | fuel + 1, pa, bs =>
    if bs.isEmpty then s
    else
      let n := min bs.length (2048 - pa % 2048)
      let s1 := match s.blockFault shared pa with
        | some c => s.logBlock c part pa
        | none => s.store 6 none noOrd (fun _ => s.depsOf 6) shared pa (bs.take n)
      State.writePhys s1 part shared fuel (pa + n) (bs.drop n)

/-- Whether every block of a physical range can be read. -/
def State.physOk (s : State) (shared : Bool) (pa n : Nat) : Bool :=
  (List.range (n / 2048 + 2)).all fun i =>
    let p := if i = 0 then pa else (pa / 2048 + i) * 2048
    decide (pa + n ≤ p) || (s.blockFault shared p).isNone

/-- Whether a decoder maps a unit of a partition. -/
def HdmDecoder.maps (d : HdmDecoder) (part unit : Nat) : Bool := d.part == part && decide (d.unit ≤ unit) && decide (unit < d.unit + d.count)

/-- The shared units of a partition from one on that lie together. -/
def State.sharedRun (s : State) (part : Nat) : Nat → Nat → Nat
  | 0, _ => 0
  | fuel + 1, unit => if (s.part part).units.contains (unit, true) then 1 + State.sharedRun s part fuel (unit + 1) else 0

/-- The HDM decoders with one that maps a shared unit: the one there is, or one that the host programs for the partition's shared units from there
on, on a port that has trained as CXL and has fewer than eight; `none` where no port has room (R399, DESIGN CHOICE, assumption 85). -/
def State.decoded (s : State) (part unit : Nat) : Option (List HdmDecoder) :=
  if s.hdm.any fun d => d.maps part unit && s.cxl.toList[d.port]? == some true then some s.hdm
  else ([0, 1].find? fun p => s.cxl.toList[p]? == some true && decide ((s.hdm.filter fun d => d.port == p).length < 8)).map fun p =>
    s.hdm ++ [⟨p, part, unit, s.sharedRun part (s.part part).units.length unit⟩]

/-- HOST_CXL_MEM_ACCESS (R299, R328, R399): a host access reaches a shared unit at its home through a decoder of a port that has trained as CXL; one
that reaches a sealed unit or no unit, or a block with an uncorrectable error, returns poison and writes nothing. A read sees what the host does
of the package's writes. Where no port has trained as
CXL, or no decoder maps the unit, the access does not reach the device. -/
def execHostCxlMemAccess (pa : Nat) (access : HostAccess) (s : State) : Out :=
  let n := match access with | .read len => len | .write d => d.length
  let mine := paHbm pa && decide (pa / 2 ^ 21 = (pa + n - 1) / 2 ^ 21) && s.unitShared pa
  if !s.trained || !s.cxl.toList.contains true then .next s
  else if !mine then .next { s with hostReply := .poison }
  else match s.decoded ((s.unitOwner pa).getD 0) (pa / 2 ^ 21) with
  | none => .next s
  | some ds =>
  let s := { s with hdm := ds }
  if !s.physOk true pa n then .next { s with hostReply := .poison }
  else match access with
    | .read len => .next { s with hostReply := .data (s.viewBytes hostAgent pa len) }
    | .write d => .next { (s.writePhys ((s.unitOwner pa).getD 0) true (n / 2048 + 2) pa d) with hostReply := .done }

/-! ### Scale-out (R402) -/

/-- Whether a sequence number is covered by an acknowledgement, both counting modulo 2^32. -/
def covered (acked seqNo : BitVec 32) : Bool := decide ((acked - seqNo).toNat < 2 ^ 31)

/-- Acknowledged frames leave the stream, and the writes among them complete. -/
def State.takeAck (s : State) (key : Nat) (acked : BitVec 32) : State :=
  match Tab.find s.peers key with
  | none => s
  | some q =>
    let gone := q.unacked.filter fun x => covered acked x.frame.seqNo
    if gone.isEmpty then s
    else
      let left := q.unacked.filter fun x => !covered acked x.frame.seqNo
      let s1 := { s with peers := Tab.set s.peers key { q with unacked := left, retries := 0 } }
      (gone.filter fun x => x.kind == 1).foldl (fun (y : State) x =>
        match x.serial.bind fun n => y.outReqs.find? fun o => o.serial == n with
        | some o => y.finishOut o 0 []
        | none => y) s1

/-- Sends an ack or a nak: it names the highest sequence received in order, and takes no sequence of its own. -/
def State.sendControl (s : State) (key kind : Nat) : State :=
  match Tab.find s.peers key with
  | none => s
  | some q =>
    let f := soProtect (s.frameTo q (key / 4096) (key % 4096) 0 []) q.key kind 0
    { s with peers := Tab.set s.peers key { q with sent := q.sent ++ [⟨kind, f, 0, none, (s.part (key / 4096)).traffic⟩] } }

/-- The next frame of a stream has been received in order. -/
def State.received (s : State) (key : Nat) : State := { s with peers := Tab.upd s.peers key fun q => { q with rxSeq := q.rxSeq + 1 } }

/-- A frame is discarded and counted. -/
def State.badFrame (s : State) : State := { s with badFrames := s.badFrames + 1 }

/-- Whether a partition's memory can be reached: it has a key and has not been freed (R393). -/
def State.partLive (s : State) (part : Nat) : Bool := match (s.part part).state with | .active | .ending => true | .free | .created => false

/-- A frame that may be taken, with its payload in the clear, and its partition's window: it is for this package, its stream exists, its tag
verifies under the pair's key, and its partition has a peer window (R393, R402). -/
def State.openFrame (s : State) (f : SoFrame) (kind length : Nat) : Option (SoFrame × (Nat × Nat)) :=
  match Tab.find s.peers (streamKey f.partition f.source), (s.part f.partition).window with
  | some q, some w =>
    if f.dest = s.package ∧ s.partLive f.partition then (soVerify f q.key kind length).map fun g => (g, w) else none
  | _, _ => none

/-- Takes a frame that carries a sequence number: one that is not the next is acknowledged again when it is old, and refused with a nak when
frames before it are missing (assumption 17). -/
def State.inOrder (s : State) (f : SoFrame) (kind length : Nat) (k : State → SoFrame → Nat × Nat → State) : State :=
  let key := streamKey f.partition f.source
  match s.openFrame f kind length, Tab.find s.peers key with
  | some (g, w), some q =>
    let s1 := s.takeAck key f.acked
    if f.seqNo = q.rxSeq then k s1 g w else if covered (q.rxSeq - 1) f.seqNo then s1.sendControl key 4 else s1.sendControl key 5
  | _, _ => s.badFrame

/-- SCALEOUT_WRITE (R402): the payload is written into the peer window and acknowledged; one that passes the window's end is discarded. -/
def execScaleoutWrite (frame : SoFrame) (s : State) : Out :=
  .next (s.inOrder frame 1 frame.payload.length fun s f w =>
    let key := streamKey f.partition f.source
    if w.2 < f.offset.toNat + f.payload.length ∨ 8192 < f.payload.length then s.badFrame
    else ((s.writePhys f.partition false (f.payload.length / 2048 + 2) (w.1 + f.offset.toNat) f.payload).received key).sendControl key 4)

/-- SCALEOUT_READ_REQUEST (R402): the bytes of the peer window go back as a read response; a range outside the window, or with a block that
fails, is discarded. -/
def execScaleoutReadRequest (frame : SoFrame) (length : Nat) (s : State) : Out :=
  .next (s.inOrder frame 2 length fun s f w =>
    let key := streamKey f.partition f.source
    let pa := w.1 + f.offset.toNat
    if w.2 < f.offset.toNat + length ∨ 8192 < length ∨ !s.physOk false pa length then s.badFrame
    else (s.received key).sendFrame f.partition f.source 3 length f.offset (s.viewBytes 6 pa length) none)

/-- The oldest request of a stream whose answer a read response brings. -/
def State.askedFor (s : State) (f : SoFrame) : Option OutAcc :=
  s.outReqs.find? fun o =>
    paSpace o.pa == 3 && o.part == f.partition && o.pa / 2 ^ 38 % 4096 == f.source && o.pa % 2 ^ 38 == f.offset.toNat
    && o.len == f.payload.length && (match o.op with | .write _ => false | _ => true)

/-- SCALEOUT_READ_RESPONSE (R402): the outstanding read completes with the payload. -/
def execScaleoutReadResponse (frame : SoFrame) (s : State) : Out :=
  .next (s.inOrder frame 3 frame.payload.length fun s f _ =>
    let key := streamKey f.partition f.source
    let s1 := (s.received key).sendControl key 4
    match s1.askedFor f with
    | some o => s1.finishOut o 0 f.payload
    | none => s1)

/-- SCALEOUT_ACK (R402): the acknowledged writes of the stream complete. -/
def execScaleoutAck (frame : SoFrame) (s : State) : Out :=
  match s.openFrame frame 4 0 with
  | some _ => .next (s.takeAck (streamKey frame.partition frame.source) frame.acked)
  | none => .next s.badFrame

/-- Sends every unacknowledged frame again, in order from the oldest; once the retry count is exhausted a LINK event is logged instead, by a port
that is not stated (assumption 3), and every outstanding access of the stream completes with DIERESET (R402). -/
def State.retransmit (s : State) (key : Nat) : State :=
  match Tab.find s.peers key with
  | none => s
  | some q =>
    if q.unacked.isEmpty then s
    else if q.retries < s.figures.maxRetries then
      { s with peers := Tab.set s.peers key { q with retries := q.retries + 1, sent := q.sent ++ q.unacked } }
    else
      let (f, s1) := s.drawNat
      let port := f % 16
      let s2 := { s1 with peers := Tab.set s1.peers key { q with unacked := [], retries := 0 } }.logEvent
        (sourceNo (if port < 8 then 6 else 7) (264 + port)) 0xD (key / 4096) (BitVec.ofNat 64 (key % 4096)) 0
      (s2.outReqs.filter fun o => paSpace o.pa == 3 && streamKey o.part (o.pa / 2 ^ 38 % 4096) == key).foldl
        (fun (x : State) o => x.finishOut o fDIERESET []) s2

/-- SCALEOUT_NAK (R402): what it acknowledges is done, and the rest is sent again. -/
def execScaleoutNak (frame : SoFrame) (s : State) : Out :=
  let key := streamKey frame.partition frame.source
  match s.openFrame frame 5 0 with
  | some _ => .next ((s.takeAck key frame.acked).retransmit key)
  | none => .next s.badFrame

/-- RETRANSMIT_TIMEOUT (R402): the timeout of a stream with unacknowledged frames. -/
def execRetransmitTimeout (partition peer : Nat) (s : State) : Out := .next (s.retransmit (streamKey partition peer))

end Sys2Proof.Machine
end

