-- ==== Sys2Proof/Machine/Attest.lean ====
section
/-! DEFINITION. Machine/Attest: the SPDM responder on the functions' mailboxes, and the delivery of tenant keys (R405 to R407). -/
namespace Sys2Proof.Machine

/-- The seed of the identity key (R405). -/
def identitySeed : BitVec 256 :=
  Config.hkdf Config.deviceSecret [0x46, 0x4C, 0x36, 0x20, 0x69, 0x64, 0x65, 0x6E, 0x74, 0x69, 0x74, 0x79]

/-- The certificate that the identity key makes over the alias key (R405). -/
def State.aliasCertificate (s : State) : List Byte :=
  let pub := leBytes 32 (Config.ed25519Public s.aliasKey).toNat
  pub ++ leBytes 64 (Config.ed25519Sign identitySeed pub).toNat

/-- The certificate chain: the manufacturer's over the identity key, then the identity key's over the alias key (R405). -/
def State.certChain (s : State) : List Byte := Config.identityCertificate ++ s.aliasCertificate

/-- A response of a function's mailbox, signed with the alias key over what it answers (R406, assumption 6). -/
def State.sign (s : State) (bs : List Byte) : BitVec 512 := Config.ed25519Sign s.aliasKey (leBytes 64 (Config.sha512 bs).toNat)

/-- The responder of a function. -/
def State.spdmOf (s : State) (function : Nat) : Spdm := Tab.get s.spdm Spdm.reset function

/-- The kind of a response and what it carries. -/
def SpdmReply.content : SpdmReply → Nat × List Byte
  | .version v => (0, leBytes 2 v)
  | .capabilities => (1, [])
  | .algorithms => (2, [])
  | .digests d => (3, leBytes 64 d.toNat)
  | .certificate c => (4, c)
  | .challengeAuth => (5, [])
  | .measurements bs => (6, bs.flatMap fun b => leBytes 64 b.toNat)
  | .keyExchange share => (7, share)
  | .finish => (8, [])
  | .endSession => (9, [])
  | .vendorDefined => (10, [])
  | .error => (11, [])

/-- The bytes of a response (assumption 6). -/
def SpdmReply.bytes (r : SpdmReply) : List Byte := Config.spdmMessage r.content.1 r.content.2

/-- A responder after a response of the state before it: signed with the alias key over what was asked and what is answered and, in a session
whose handshake is over, sealed under the session's secret as a secured message (R406, assumption 6). -/
def Spdm.send (s : State) (before x : Spdm) (asked : List Byte) (r : SpdmReply) : Spdm :=
  let sig := s.sign (asked ++ r.bytes)
  let bs := r.bytes ++ leBytes 64 sig.toNat
  let key := if before.finished then before.session else none
  { x with
    said := if key.isSome then x.said + 1 else x.said
    response := some ⟨r, sig, key.map fun k => let iv := Config.spdmIv k true before.said; (gcmCrypt k iv bs, Config.gcmTag k iv [] bs)⟩ }

/-- Answers a request on a function's mailbox, with one of its four vectors for the mailbox and errors (R394, PRESUMED, assumption 84); `asked` is what
the request brought. Nothing answers while the ports have not trained (R404), or on a function that is none. -/
def State.answer (s : State) (function : Nat) (asked : List Byte) (f : Spdm → Spdm × SpdmReply) : Out :=
  if !s.trained ∨ 258 ≤ function then .next s
  else
    let x := s.spdmOf function
    .next { s with
      spdm := Tab.set s.spdm function (Spdm.send s x (f x).1 asked (f x).2)
      interrupts := s.interrupts ++ [(function, 1024 + Config.freeNat s.freeCtr % 4)] }

/-- Answers a request that needs the algorithms to be negotiated. -/
def State.answerLater (s : State) (function : Nat) (asked : List Byte) (f : Spdm → Spdm × SpdmReply) : Out :=
  s.answer function asked fun x => if x.negotiated then f x else (x, .error)

/-- GET_VERSION (R406): SPDM 1.3; an exchange begins again. -/
def execGetVersion (function : Nat) (s : State) : Out := s.answer function [] fun _ => (Spdm.reset, .version 0x13)

/-- GET_CAPABILITIES (R406). -/
def execGetCapabilities (function : Nat) (s : State) : Out := s.answer function [] fun x => (x, .capabilities)

/-- NEGOTIATE_ALGORITHMS (R406): Ed25519, SHA-512, P-384 and AES-256-GCM, the one choice there is. -/
def execNegotiateAlgorithms (function : Nat) (s : State) : Out := s.answer function [] fun x => ({ x with negotiated := true }, .algorithms)

/-- GET_DIGESTS (R406). -/
def execGetDigests (function : Nat) (s : State) : Out := s.answerLater function [] fun x => (x, .digests (Config.sha512 s.certChain))

/-- GET_CERTIFICATE (R406). -/
def execGetCertificate (function : Nat) (s : State) : Out := s.answerLater function [] fun x => (x, .certificate s.certChain)

/-- CHALLENGE (R406): the signature is over the nonce and the certificate chain too. -/
def execChallenge (function : Nat) (nonce : List Byte) (s : State) : Out :=
  s.answerLater function (nonce ++ s.certChain) fun x => (x, .challengeAuth)

/-- The partition of a function. -/
def State.functionPart (s : State) (function : Nat) : Option Nat :=
  (s.partitions.find? fun p => p.2.functions.contains function).map Prod.fst

/-- The measurement blocks 1 to 3, and 4 for a function of a partition (R406). -/
def State.blocksFor (s : State) (function : Nat) : List (BitVec 512) :=
  s.measures ++ (match s.functionPart function with
    | some p => [Config.sha512 (Config.partitionRecord p (s.part p).rings (s.part p).contexts)]
    | none => [])

/-- GET_MEASUREMENTS (R406). -/
def execGetMeasurements (function : Nat) (nonce : List Byte) (s : State) : Out :=
  s.answerLater function nonce fun x => (x, .measurements (s.blocksFor function))

/-- KEY_EXCHANGE (R406): a secured session opens with a secret of this exchange. -/
def execKeyExchange (function : Nat) (share : List Byte) (s : State) : Out :=
  let (n, s1) := s.fresh
  s1.answerLater function share fun x =>
    ({ x with session := some (Config.ecdhP384 share n), finished := false, heard := 0, said := 0 }, .keyExchange (Config.p384Share n))

/-- FINISH (R406): the session's handshake is complete. -/
def execFinish (function : Nat) (s : State) : Out :=
  s.answerLater function [] fun x => if x.session.isSome then ({ x with finished := true }, .finish) else (x, .error)

/-- END_SESSION (R406). -/
def execEndSession (function : Nat) (s : State) : Out :=
  s.answerLater function [] fun x => if x.session.isSome then ({ x with session := none, finished := false }, .endSession) else (x, .error)

/-- Whether a secured message is heard: a session's handshake is over, and the message's tag verifies over its payload (R406, assumption 6). -/
def Spdm.hears (x : Spdm) (payload : List Byte) (tag : BitVec 128) : Bool :=
  x.finished && (match x.session with
    | some k => tag == Config.gcmTag k (Config.spdmIv k false x.heard) [] payload
    | none => false)

/-- The partition whose tenant key a vendor-defined request delivers, where Crucible accepts it: in a secured session of a VF, under Odvex's
registry ID, with 32 key bytes, while the VF's partition is CREATED (R407). -/
def State.keyTarget (s : State) (function registry : Nat) (payload : List Byte) (tag : BitVec 128) : Option Nat :=
  if s.trained && (s.spdmOf function).hears payload tag && decide (2 ≤ function) && registry == Config.odvexRegistry && payload.length == 32 then
    (s.functionPart function).filter fun p => (s.part p).state == .created
  else none

/-- VENDOR_DEFINED_REQUEST (R407): the tenant key is installed in every Kiln, and the partition becomes ACTIVE; any other request is refused and
the key held stays as it is. -/
def execVendorDefinedRequest (function : Nat) (registry : Nat) (payload : SecuredPayload) (s : State) : Out :=
  match s.keyTarget function registry payload.bytes payload.tag with
  | some p => (s.installKey p (BitVec.ofNat 256 (leNat payload.bytes))).answer function payload.bytes fun x => ({ x with heard := x.heard + 1 }, .vendorDefined)
  | none => s.answer function payload.bytes fun x => (if x.hears payload.bytes payload.tag then { x with heard := x.heard + 1 } else x, .error)

end Sys2Proof.Machine
end

