-- ==== Sys2Proof/Machine/Matrix.lean ====
section
/-! DEFINITION. Machine/Matrix: the matrix unit of a compute cell and its ops (R77 to R80, R178 to R187, R389, R420). -/
namespace Sys2Proof.Machine

/-! ### The unit -/

/-- The op's matrix unit as it now stands. -/
def Work.unit (w : Work) : Matrix := w.cur.matrix w.o.index

/-- Changes the op's matrix unit. -/
def Work.updUnit (w : Work) (f : Matrix → Matrix) : Work :=
  { w with s := w.s.updStripe w.run.serial w.slot fun p => { p with cells := Tab.set p.cells w.o.index (f (p.matrix w.o.index)) } }

/-- The active plane. -/
def Matrix.active (m : Matrix) : Plane := if m.activeB then m.planeB else m.planeA
/-- The shadow plane. -/
def Matrix.shadow (m : Matrix) : Plane := if m.activeB then m.planeA else m.planeB
/-- Replaces the shadow plane. -/
def Matrix.setShadow (m : Matrix) (p : Plane) : Matrix := if m.activeB then { m with planeA := p } else { m with planeB := p }
/-- The planes change places, and the new shadow is empty (R182). -/
def Matrix.swapPlanes (m : Matrix) : Matrix := { m with activeB := !m.activeB, fill := 0 }
/-- Whether the shadow plane is complete (R180). -/
def Matrix.complete (m : Matrix) : Bool := decide (64 ≤ m.fill)
/-- An accumulator plane. -/
def Matrix.acc (m : Matrix) (one : Bool) : AccPlane := if one then m.acc1 else m.acc0
/-- Replaces an accumulator plane. -/
def Matrix.setAcc (m : Matrix) (one : Bool) (p : AccPlane) : Matrix := if one then { m with acc1 := p } else { m with acc0 := p }

/-- A weight row of a plane. -/
def Plane.row (p : Plane) (n : Nat) : Payload := Tab.get p.rows 0 n
/-- A group record of a row. -/
def Plane.record (p : Plane) (n g : Nat) : Nat := ((Tab.get p.recs 0 n).extractLsb' (32 * g) 32).toNat
/-- A row of an accumulator plane. -/
def AccPlane.row (p : AccPlane) (m : Nat) : BitVec 2048 := Tab.get p.rows 0 m
/-- An element of an accumulator row. -/
def accElem (r : BitVec 2048) (n : Nat) : Nat := (r.extractLsb' (32 * n) 32).toNat
/-- The accumulator row of 64 elements. -/
def accRow (vs : List Nat) : BitVec 2048 := BitVec.ofNat 2048 (packFrom 32 0 vs)

/-- The accumulator plane an op names: op flags [0]. -/
def accOf (f : CCFrame) : Bool := f.flags.getLsbD 0
/-- A PLANE token (R20). -/
def planeTok : Token := ⟨3, 0, 0xFFFF, false, 0, [], false, 0, false⟩

/-- A payload with zero in its invalid lanes (R180). -/
def maskLanes (m : BitVec 16) (p : Payload) : Payload :=
  packElems 32 ((List.range 16).map fun l => if m.getLsbD l then lane p l else 0)
/-- A payload with one element replaced. -/
def setElem (p : Payload) (w e v : Nat) : Payload :=
  packElems w ((List.range (512 / w)).map fun i => if i = e then v else elem p w i)

/-! ### Loading (R180, R420) -/

/-- The group size that the extension's group code names. -/
def groupSize (f : CCFrame) : Nat := match (f.ext.extractLsb' 4 2).toNat with | 1 => 32 | 2 => 64 | _ => 128

/-- One row or column more in the shadow plane; with op flags [0], a PLANE token when it completes (R420). -/
def filled (f : CCFrame) (w : Work) (g : Matrix → Plane) : Work :=
  let w1 := w.updUnit fun m => { m.setShadow (g m) with fill := m.fill + 1 }
  if w1.unit.complete && f.flags.getLsbD 0 then w1.emit2 planeTok else w1

/-- A STOP completes a partly filled plane with zeros (R180). -/
def completePlane (f : CCFrame) (rest : Nat → Plane → Plane) (w : Work) : Work :=
  let m := w.unit
  if m.fill = 0 || m.complete then w
  else
    let w1 := w.updUnit fun m => { m.setShadow (rest m.fill m.shadow) with fill := 64 }
    if f.flags.getLsbD 0 then w1.emit2 planeTok else w1

/-- The rows of a plane from one on are zero. -/
def Plane.zeroFrom (j : Nat) (p : Plane) : Plane :=
  { rows := p.rows.filter fun r => decide (r.1 < j), recs := p.recs.filter fun r => decide (r.1 < j), bad := p.bad.filter fun n => decide (n < j) }

/-- The weights of every row from one on are zero. -/
def Plane.zeroColumns (j : Nat) (p : Plane) : Plane :=
  { p with rows := p.rows.map fun r => (r.1, packElems 8 ((List.range 64).map fun e => if e < j then elem r.2 8 e else 0)) }

/-- A loader's firing: the next DATA token waits while the shadow plane is complete (R180). -/
def loaderFire (f : CCFrame) (b : Behave) (w : Work) : Option Work :=
  let marker := match w.head .b f.b with | some t => t.isMarker && f.b.kind == .stream | none => false
  match w.head .a f.a with
  | some t => if t.isData && w.op.resolving.isNone && w.unit.complete && !marker then none else ccFire f b w
  | none => ccFire f b w

/-- LDS: row j of the shadow plane with its group records (R180). -/
def ldsBehave (f : CCFrame) : Behave :=
  { data := fun w a b _ =>
      let n := if f.ty = .q8 || f.ty = .q4 then 512 / f.ty.width / groupSize f else 0
      filled f w fun m =>
        let p := m.shadow
        { rows := Tab.set p.rows m.fill (maskLanes a.mask a.payload)
          recs := if n = 0 then p.recs else Tab.set p.recs m.fill (BitVec.ofNat 128 (b.payload.toNat % 2 ^ (32 * n)))
          bad := p.bad.filter fun r => r != m.fill }
    off := fun w _ => w
    err := fun w e => w.emit2 e
    fin := completePlane f Plane.zeroFrom }

/-- LDS's firing. -/
def ldsFire (f : CCFrame) : Work → Option Work := loaderFire f (ldsBehave f)

/-- MTRN: token j is weight j of every row (R180). -/
def mtrnBehave (f : CCFrame) : Behave :=
  { data := fun w a _ _ =>
      filled f w fun m =>
        let p := m.shadow
        let x := maskLanes a.mask a.payload
        { p with rows := (List.range 64).foldl (fun t n => Tab.set t n (setElem (p.row n) 8 m.fill (elem x 8 n))) p.rows }
    off := fun w _ => w
    err := fun w e => w.emit2 e
    fin := completePlane f Plane.zeroColumns }

/-- MTRN's firing. -/
def mtrnFire (f : CCFrame) : Work → Option Work := loaderFire f (mtrnBehave f)

/-! ### Multiplying (R77 to R80, R181 to R183) -/

/-- The value of an operand element. -/
def operandVal (t : Ty) (v : Nat) : FV :=
  if t.isFloat then t.floatOf v else .fin (decide (t.intOf v < 0)) (t.intOf v).natAbs 0

/-- The weight type of the extension. -/
def weightTy (f : CCFrame) : Ty := (tyOfCode (f.ext.extractLsb' 0 4)).getD .i8

/-- The activation elements of a firing with their positions k, in valid lanes only: port A, then port B (R183). -/
def activations (t : Ty) (toks : List Token) : List (Nat × Nat) :=
  (toks.zip (List.range toks.length)).flatMap fun x =>
    (List.range (512 / t.width)).filterMap fun e =>
      if validE x.1.mask t.width e then some (x.2 * (512 / t.width) + e, elem x.1.payload t.width e) else none

/-- Whether a chunk's products break a rule of R67, or an operand signals: the chunk then counts one NAN event (R66, R84). -/
def chunkInvalid (ops : List FV) (ps : List (Option FV)) : Bool :=
  let vs := ps.filterMap id
  ops.any (fun v => v.sig == 1) || ps.any (fun p => p.isNone)
  || (!vs.any FV.isNan && vs.any (fun v => decide (v = .inf true)) && vs.any fun v => decide (v = .inf false))

/-- The products of one chunk of MMA for weight row n. -/
def mmaProducts (f : CCFrame) (u : Ty) (row : Payload) (xs : List (Nat × Nat)) : List FV × List (Option FV) :=
  let pairs := xs.map fun x => (operandVal f.ty x.2, operandVal u (elem row u.width x.1))
  (pairs.flatMap fun p => [p.1, p.2], pairs.map fun p => if p.1.isNan || p.2.isNan then some (.nan false) else FV.mul p.1 p.2)

/-- s × (D − z × X) of R79 for the elements of one group, with whether an operation inside it is invalid (R67). R77's zero rule is for the whole
chunk; the sign of an exact zero D − z × X is not stated: it is −0 when D is −0 and z × X is +0, and else +0 (DESIGN CHOICE, assumption 66). -/
def groupTerm (f : CCFrame) (u : Ty) (row : Payload) (record : Nat) (xs : List (Nat × Nat)) : List FV × Option FV × Bool :=
  let vals := xs.map fun x => operandVal f.ty x.2
  let prods := xs.map fun x => FV.mul (operandVal f.ty x.2) (operandVal u (elem row u.width x.1))
  let d := chunkValue false prods
  let x := chunkValue false (vals.map some)
  let zx := FV.mul (.fin false (recZero record) 0) x
  let inner := chunkValue false [some d, zx.map FV.negate]
  let s := recScale record
  let bad := chunkInvalid [] prods || chunkInvalid [] (vals.map some) || chunkInvalid [] [some d, zx.map FV.negate]
  (s :: vals, FV.mul s inner, bad)

/-- The chunk value of MMAQ: one term a group (R79); a term with an invalid operation inside it is the NaN of one (R67). -/
def mmaqChunk (f : CCFrame) (u : Ty) (p : Plane) (n : Nat) (xs : List (Nat × Nat)) : List FV × List (Option FV) :=
  let g := groupSize f
  let terms := ((xs.map fun x => x.1 / g).eraseDups).map fun i =>
    groupTerm f u (p.row n) (p.record n i) (xs.filter fun x => x.1 / g == i)
  (terms.flatMap Prod.fst, terms.map fun t => if t.2.2 then none else t.2.1)

/-- One chunk added into one accumulator element, with its events (R77, R78). -/
def addChunk (f : CCFrame) (u : Ty) (p : Plane) (grouped : Bool) (n : Nat) (a : Nat) (xs : List (Nat × Nat)) : Nat × Ev :=
  if f.ty.isFloat || grouped then
    let (ops, ps) := if grouped then mmaqChunk f u p n xs else mmaProducts f u (p.row n) xs
    let c := chunkValue (f.ty = .f16 || f.ty = .bf16) ps
    let r := accumulate f.sat a c
    if chunkInvalid ops ps then (r.1, { r.2 with nan := 1 }) else r
  else
    let c := (xs.map fun x => f.ty.intOf x.2 * u.intOf (elem (p.row n) u.width x.1)).foldl (· + ·) 0
    if xs.isEmpty then (a, Ev.zero) else finInt .i32 f.sat (Ty.i32.intOf a + c)

/-- Every chunk of a firing added in ascending k into an accumulator element. -/
def addChunks (f : CCFrame) (u : Ty) (p : Plane) (grouped : Bool) (k : Nat) (xs : List (Nat × Nat)) (n a : Nat) : Nat × Ev :=
  let depth := if f.ty.width = 16 then 32 else 64
  (List.range (k / depth)).foldl (fun (r : Nat × Ev) c =>
    let y := addChunk f u p grouped n r.1 (xs.filter fun x => x.1 / depth == c)
    (y.1, r.2.add y.2)) (a, Ev.zero)

/-- One activation row into row m of the accumulator plane (R183); a bad weight row marks the element it updates (R389). -/
def fireRow (f : CCFrame) (grouped : Bool) (toks : List Token) (w : Work) : Work :=
  let u := weightTy f
  let m := w.unit
  let plane := m.active
  let acc := m.acc (accOf f)
  let row := w.op.row
  let xs := activations f.ty toks
  let k := toks.length * (512 / f.ty.width)
  let rs := (List.range 64).map fun n => addChunks f u plane grouped k xs n (accElem (acc.row row) n)
  let marks := (plane.bad.map fun n => 64 * row + n).filter fun i => !acc.bad.contains i
  let acc1 : AccPlane := { rows := Tab.set acc.rows row (accRow (rs.map Prod.fst)), high := max acc.high (row + 1), bad := acc.bad ++ marks }
  let w1 := w.updUnit fun x => x.setAcc (accOf f) acc1
  ({ w1 with op := { w1.op with row := (row + 1) % 64 } }).count f.stats ((rs.map Prod.snd).foldl Ev.add Ev.zero)

/-- MMA and MMAQ: `two` when port B brings k = 64 to 127 (R183). -/
def mulBehave (f : CCFrame) (grouped two : Bool) : Behave :=
  { data := fun w a b _ => ((fireRow f grouped (if two then [a, b] else [a]) w).emit 0 a).emit 1 (if two then b else a)
    off := fun w a => w.emit2 a
    err := fun w e => w.emit2 e
    fin := fun w => { w with op := { w.op with row := 0 } } }

/-- The stages of a cell that hold ops a test picks, lowest first. -/
def Stripe.stages (p : Stripe) (cell : Nat) (which : Instr → Bool) : List Nat :=
  (p.image.ops.filter fun o => o.1.cls == .cc && o.1.index == cell && which o.2).map fun o => o.1.slot

/-- MMA and MMAQ. -/
def Instr.isMul : Instr → Bool
  | .mma _ | .mmaq _ => true
  | _ => false
/-- LDS and MTRN. -/
def Instr.isLoader : Instr → Bool
  | .lds _ | .mtrn _ => true
  | _ => false

/-- Whether the op is the stage that swaps: the lowest MMA or MMAQ of its cell (R182). -/
def Work.swaps (w : Work) : Bool := (w.st.stages w.o.index Instr.isMul).all fun j => decide (w.o.slot ≤ j)

/-- The firing of MMA and MMAQ: a PLANE token at port A of the lowest such stage swaps the planes, once the shadow plane is complete where
the cell has a loader (R182). -/
def mulFire (f : CCFrame) (b : Behave) (w : Work) : Option Work :=
  let plane := match w.head .a f.a with | some t => t.kind == 3 | none => false
  if plane && w.swaps && w.op.resolving.isNone then
    if !(w.st.stages w.o.index Instr.isLoader).isEmpty && !w.unit.complete then none
    else (ccFire f b w).map fun w1 => w1.updUnit Matrix.swapPlanes
  else ccFire f b w

/-- MMA's firing. -/
def mmaFire (f : CCFrame) : Work → Option Work := mulFire f (mulBehave f false false)
/-- MMAQ's firing. -/
def mmaqFire (f : CCFrame) : Work → Option Work := mulFire f (mulBehave f true (weightTy f = .q4))

/-! ### The accumulator planes (R184 to R186) -/

/-- The accumulator plane that an MMA or MMAQ uses. -/
def Instr.mulAcc : Instr → Option Bool
  | .mma f | .mmaq f => some (accOf f)
  | _ => none

/-- ACCZ: the plane and its mark are zero, and so is m in every MMA and MMAQ that uses it (R184, R389). -/
def acczFire (f : CCFrame) : Work → Option Work :=
  ccFire f (Behave.plain fun w a _ _ =>
    let w1 := w.updUnit fun m => m.setAcc (accOf f) ⟨[], 0, []⟩
    let users := (w.st.image.ops.filter fun o => o.1.cls == .cc && o.1.index == w.o.index && Instr.mulAcc o.2 == some (accOf f)).map Prod.fst
    let zero := fun (p : Stripe) => { p with ops := p.ops.map fun x => if users.contains x.1 then (x.1, { x.2 with row := 0 }) else x }
    { w1 with s := w1.s.updStripe w1.run.serial w1.slot zero }.emit2 a)

/-- ACCIN: `row` and `col` are its position, in rows and tokens (R185). -/
def accinFire (f : CCFrame) : Work → Option Work :=
  ccFire f
    { data := fun w a _ _ =>
        let r := w.op.row
        let j := w.op.col
        let x := maskLanes a.mask a.payload
        let w1 := w.updUnit fun m =>
          let p := m.acc (accOf f)
          let vs := (List.range 64).map fun n => if n / 16 = j then lane x (n % 16) else accElem (p.row r) n
          m.setAcc (accOf f) { p with rows := Tab.set p.rows r (accRow vs), high := max p.high (r + 1) }
        { w1 with op := { w1.op with row := if j = 3 then (r + 1) % 64 else r, col := (j + 1) % 4 } }
      off := fun w _ => w
      err := fun w e => w.absorb e
      fin := fun w =>
        let r := w.op.row
        let j := w.op.col
        let w1 := if j = 0 then w else w.updUnit fun m =>
          let p := m.acc (accOf f)
          m.setAcc (accOf f) { p with rows := Tab.set p.rows r (accRow ((List.range 64).map fun n => if n / 16 < j then accElem (p.row r) n else 0)) }
        { w1 with op := { w1.op with row := 0, col := 0 } } }

/-- One element of a dump converted to U (R186). -/
def dumpElem (f : CCFrame) (u : Ty) (v : Nat) : Nat × Ev :=
  if u = f.ty then (v, Ev.zero)
  else if f.ty = .f32 then floatToFloat u f.rm f.sat (Ty.f32.floatOf v)
  else finInt u f.sat (Ty.i32.intOf v)

/-- The tokens of one row of a dump: ERR POISON in place of one that holds a marked element (R389). -/
def dumpRow (f : CCFrame) (u : Ty) (p : AccPlane) (r : Nat) (w : Work) : Work :=
  let per := 512 / u.width
  let rs := (List.range 64).map fun n => dumpElem f u (accElem (p.row r) n)
  let w1 := w.count f.stats ((rs.map Prod.snd).foldl Ev.add Ev.zero)
  (List.range (64 / per)).foldl (fun x i =>
    if p.bad.any fun b => decide (64 * r + i * per ≤ b) && decide (b < 64 * r + (i + 1) * per) then x.emit2 (x.err ePOISON).1
    else x.emit2 (dataTok 0xFFFF (packElems u.width ((rs.drop (i * per)).take per |>.map Prod.fst)))) w1

/-- A dump of rows (R186): a STOP of the op level after each but the last, then one of the level above. -/
def dump (f : CCFrame) (w : Work) : Work :=
  let u := weightTy f
  let p := w.unit.acc (accOf f)
  let rows := (f.ext.extractLsb' 4 7).toNat
  let nr := if rows = 0 then p.high else rows
  let w1 := (List.range nr).foldl (fun x r =>
    let y := dumpRow f u p r x
    if r + 1 < nr then y.emit2 (stopTok f.level Ride.none) else y) w
  let w2 := w1.emit2 (stopTok (f.level + 1) Ride.none)
  if f.flags.getLsbD 1 then
    w2.updUnit fun m => m.setAcc (accOf f) { p with rows := p.rows.filter fun r => decide (nr ≤ r.1), high := 0 }
  else w2

/-- ACCOUT's firing. -/
def accoutFire (f : CCFrame) : Work → Option Work := ccFire f (Behave.plain fun w _ _ _ => dump f w)

/-! ### Turns (R178) -/

/-- The firing of a matrix op. -/
def matFire : Instr → Option (CCFrame × (Work → Option Work))
  | .lds f => some (f, ldsFire f)
  | .mtrn f => some (f, mtrnFire f)
  | .mma f => some (f, mmaFire f)
  | .mmaq f => some (f, mmaqFire f)
  | .accz f => some (f, acczFire f)
  | .accin f => some (f, accinFire f)
  | .accout f => some (f, accoutFire f)
  | _ => none

/-- ACCOUT. -/
def Instr.isAccout : Instr → Bool
  | .accout _ => true
  | _ => false

/-- Whether another matrix op of the cell goes first: an ACCOUT whose dump is not over (R186), or a lower stage that can fire (R178). -/
def Work.yields (w : Work) : Bool :=
  w.st.image.ops.any fun o =>
    o.1.cls == .cc && o.1.index == w.o.index && o.1 != w.o
    && (match matFire o.2, w.s0.workAt ⟨w.run.serial, w.slot, o.1⟩ with
        | some (f, fire), some x =>
          if x.op.outq.isEmpty then
            decide (o.1.slot < w.o.slot) && !x.op.parked x.run
            && (match fire x with | some y => y.canCommit [f.oa, f.ob] f.silt | none => false)
          else Instr.isAccout o.2
        | _, _ => false)

/-- The turn of a matrix op. -/
def matTurn (f : CCFrame) (fire : Work → Option Work) (s : State) : Out :=
  ccTurn f (fun w => if w.yields then none else fire w) s

/-- LDS (R180). -/
def execLds (f : CCFrame) (s : State) : Out := matTurn f (ldsFire f) s
/-- MTRN (R180). -/
def execMtrn (f : CCFrame) (s : State) : Out := matTurn f (mtrnFire f) s
/-- MMA (R181 to R183). -/
def execMma (f : CCFrame) (s : State) : Out := matTurn f (mmaFire f) s
/-- MMAQ (R183). -/
def execMmaq (f : CCFrame) (s : State) : Out := matTurn f (mmaqFire f) s
/-- ACCZ (R184). -/
def execAccz (f : CCFrame) (s : State) : Out := matTurn f (acczFire f) s
/-- ACCIN (R185). -/
def execAccin (f : CCFrame) (s : State) : Out := matTurn f (accinFire f) s
/-- ACCOUT (R186). -/
def execAccout (f : CCFrame) (s : State) : Out := matTurn f (accoutFire f) s

end Sys2Proof.Machine
end

