-- ==== Sys2Proof/Machine/SeqAlu.lean ====
section
/-! DEFINITION. Machine/SeqAlu: the register, constant, predicate and control-flow instructions of a ring sequencer (R228 to R237). -/
namespace Sys2Proof.Machine

/-- ADD (R228). -/
def aluAdd (a y : Word) : Word := a + y
/-- SUB (R228). -/
def aluSub (a y : Word) : Word := a - y
/-- MUL (R228). -/
def aluMul (a y : Word) : Word := a * y
/-- MULH (R228). -/
def aluMulh (a y : Word) : Word := BitVec.ofInt 64 (Int.fdiv (a.toInt * y.toInt) (2 ^ 64))
/-- MULHN (R228). -/
def aluMulhn (a y : Word) : Word := BitVec.ofNat 64 (a.toNat * y.toNat / 2 ^ 64)
/-- DIV (R228). -/
def aluDiv (a y : Word) : Word := BitVec.ofNat 64 (divPair 64 true a.toNat y.toNat).1
/-- DIVN (R228). -/
def aluDivn (a y : Word) : Word := BitVec.ofNat 64 (divPair 64 false a.toNat y.toNat).1
/-- REM (R228). -/
def aluRem (a y : Word) : Word := BitVec.ofNat 64 (divPair 64 true a.toNat y.toNat).2
/-- REMN (R228). -/
def aluRemn (a y : Word) : Word := BitVec.ofNat 64 (divPair 64 false a.toNat y.toNat).2
/-- AND (R228). -/
def aluAnd (a y : Word) : Word := a &&& y
/-- OR (R228). -/
def aluOr (a y : Word) : Word := a ||| y
/-- XOR (R228). -/
def aluXor (a y : Word) : Word := a ^^^ y
/-- ANDN (R228). -/
def aluAndn (a y : Word) : Word := a &&& ~~~y
/-- SHL (R228). -/
def aluShl (a y : Word) : Word := a <<< (y.extractLsb' 0 6).toNat
/-- SHR (R228). -/
def aluShr (a y : Word) : Word := a >>> (y.extractLsb' 0 6).toNat
/-- SAR (R228). -/
def aluSar (a y : Word) : Word := a.sshiftRight (y.extractLsb' 0 6).toNat
/-- MIN (R228). -/
def aluMin (a y : Word) : Word := if a.sle y then a else y
/-- MINN (R228). -/
def aluMinn (a y : Word) : Word := if a.ule y then a else y
/-- MAX (R228). -/
def aluMax (a y : Word) : Word := if a.sle y then y else a
/-- MAXN (R228). -/
def aluMaxn (a y : Word) : Word := if a.ule y then y else a
/-- Leading zero bits of a value of width `n`, bit `n − 1` first. -/
def clzFrom (v : Nat) : Nat → Nat
  | 0 => 0
  | n + 1 => if v.testBit n then 0 else 1 + clzFrom v n
/-- One bits of the low `n` bits of a value. -/
def popFrom (v : Nat) : Nat → Nat
  | 0 => 0
  | n + 1 => (if v.testBit n then 1 else 0) + popFrom v n
/-- CLZ (R228). -/
def aluClz (a : Word) : Word := BitVec.ofNat 64 (clzFrom a.toNat 64)
/-- POPC (R228). -/
def aluPopc (a : Word) : Word := BitVec.ofNat 64 (popFrom a.toNat 64)
/-- The width of SEXT and ZEXT: y[5:0], 0 standing for 64 (R228). -/
def extWidth (y : Word) : Nat := if (y.extractLsb' 0 6).toNat = 0 then 64 else (y.extractLsb' 0 6).toNat
/-- ZEXT (R228). -/
def aluZext (a y : Word) : Word := BitVec.ofNat 64 (a.toNat % 2 ^ extWidth y)
/-- SEXT (R228). -/
def aluSext (a y : Word) : Word :=
  if a.toNat.testBit (extWidth y - 1) then BitVec.ofNat 64 (a.toNat % 2 ^ extWidth y + (2 ^ 64 - 2 ^ extWidth y)) else aluZext a y

/-- The register form of an ALU op (R228). -/
def aluReg (f : Word → Word → Word) (g : Guard) (d a b : Reg) (s : State) : Out :=
  seqExec g .free [a, b] [d] (fun s => .done (s.setR d (f (s.r a) (s.r b)))) s
/-- A register whose result is not available before `n` clk of the sequencer, of which two pass in each fabric clk (R1), have passed (R226, R227):
the value is written, and until then no instruction that reads or writes the register issues. -/
def State.setLate (s : State) (n : Nat) (d : Reg) (v : Word) : State :=
  (s.setR d v).updMe fun x =>
    { x with late := x.late.filter (fun y => decide (s.clk < y.2)) ++ (if d = 0 then [] else [(d.val, s.clk + n / 2)]) }

/-- The register form of an op that takes `n` clk of the sequencer (R226 to R228). -/
def lateReg (n : Nat) (f : Word → Word → Word) (g : Guard) (d a b : Reg) (s : State) : Out :=
  seqExec g .free [a, b] [d] (fun s => .done (s.setLate n d (f (s.r a) (s.r b)))) s
/-- The immediate form of an op that takes `n` clk of the sequencer (R226 to R228, R230). -/
def lateImm (n : Nat) (f : Word → Word → Word) (g : Guard) (d a : Reg) (imm : BitVec 32) (s : State) : Out :=
  seqExec g .free [a] [d] (fun s => .done (s.setLate n d (f (s.r a) (imm.signExtend 64)))) s

/-- The immediate form: the immediate is sign-extended (R228, R230). -/
def aluImm (f : Word → Word → Word) (g : Guard) (d a : Reg) (imm : BitVec 32) (s : State) : Out :=
  seqExec g .free [a] [d] (fun s => .done (s.setR d (f (s.r a) (imm.signExtend 64)))) s

/-- ADD, register form (R228). -/
def execAdd (g : Guard) (d a b : Reg) (s : State) : Out := aluReg aluAdd g d a b s
/-- ADD, immediate form (R228). -/
def execAddImm (g : Guard) (d a : Reg) (imm : BitVec 32) (s : State) : Out := aluImm aluAdd g d a imm s
/-- SUB, register form (R228). -/
def execSub (g : Guard) (d a b : Reg) (s : State) : Out := aluReg aluSub g d a b s
/-- SUB, immediate form (R228). -/
def execSubImm (g : Guard) (d a : Reg) (imm : BitVec 32) (s : State) : Out := aluImm aluSub g d a imm s
/-- MUL, register form (R228). -/
def execMul (g : Guard) (d a b : Reg) (s : State) : Out := lateReg 4 aluMul g d a b s
/-- MUL, immediate form (R228). -/
def execMulImm (g : Guard) (d a : Reg) (imm : BitVec 32) (s : State) : Out := lateImm 4 aluMul g d a imm s
/-- MULH, register form (R228). -/
def execMulh (g : Guard) (d a b : Reg) (s : State) : Out := lateReg 4 aluMulh g d a b s
/-- MULH, immediate form (R228). -/
def execMulhImm (g : Guard) (d a : Reg) (imm : BitVec 32) (s : State) : Out := lateImm 4 aluMulh g d a imm s
/-- MULHN, register form (R228). -/
def execMulhn (g : Guard) (d a b : Reg) (s : State) : Out := lateReg 4 aluMulhn g d a b s
/-- MULHN, immediate form (R228). -/
def execMulhnImm (g : Guard) (d a : Reg) (imm : BitVec 32) (s : State) : Out := lateImm 4 aluMulhn g d a imm s
/-- DIV, register form (R228). -/
def execDiv (g : Guard) (d a b : Reg) (s : State) : Out := lateReg 24 aluDiv g d a b s
/-- DIV, immediate form (R228). -/
def execDivImm (g : Guard) (d a : Reg) (imm : BitVec 32) (s : State) : Out := lateImm 24 aluDiv g d a imm s
/-- DIVN, register form (R228). -/
def execDivn (g : Guard) (d a b : Reg) (s : State) : Out := lateReg 24 aluDivn g d a b s
/-- DIVN, immediate form (R228). -/
def execDivnImm (g : Guard) (d a : Reg) (imm : BitVec 32) (s : State) : Out := lateImm 24 aluDivn g d a imm s
/-- REM, register form (R228). -/
def execRem (g : Guard) (d a b : Reg) (s : State) : Out := lateReg 24 aluRem g d a b s
/-- REM, immediate form (R228). -/
def execRemImm (g : Guard) (d a : Reg) (imm : BitVec 32) (s : State) : Out := lateImm 24 aluRem g d a imm s
/-- REMN, register form (R228). -/
def execRemn (g : Guard) (d a b : Reg) (s : State) : Out := lateReg 24 aluRemn g d a b s
/-- REMN, immediate form (R228). -/
def execRemnImm (g : Guard) (d a : Reg) (imm : BitVec 32) (s : State) : Out := lateImm 24 aluRemn g d a imm s
/-- AND, register form (R228). -/
def execAnd (g : Guard) (d a b : Reg) (s : State) : Out := aluReg aluAnd g d a b s
/-- AND, immediate form (R228). -/
def execAndImm (g : Guard) (d a : Reg) (imm : BitVec 32) (s : State) : Out := aluImm aluAnd g d a imm s
/-- OR, register form (R228). -/
def execOr (g : Guard) (d a b : Reg) (s : State) : Out := aluReg aluOr g d a b s
/-- OR, immediate form (R228). -/
def execOrImm (g : Guard) (d a : Reg) (imm : BitVec 32) (s : State) : Out := aluImm aluOr g d a imm s
/-- XOR, register form (R228). -/
def execXor (g : Guard) (d a b : Reg) (s : State) : Out := aluReg aluXor g d a b s
/-- XOR, immediate form (R228). -/
def execXorImm (g : Guard) (d a : Reg) (imm : BitVec 32) (s : State) : Out := aluImm aluXor g d a imm s
/-- ANDN, register form (R228). -/
def execAndn (g : Guard) (d a b : Reg) (s : State) : Out := aluReg aluAndn g d a b s
/-- ANDN, immediate form (R228). -/
def execAndnImm (g : Guard) (d a : Reg) (imm : BitVec 32) (s : State) : Out := aluImm aluAndn g d a imm s
/-- SHL, register form (R228). -/
def execShl (g : Guard) (d a b : Reg) (s : State) : Out := aluReg aluShl g d a b s
/-- SHL, immediate form (R228). -/
def execShlImm (g : Guard) (d a : Reg) (imm : BitVec 32) (s : State) : Out := aluImm aluShl g d a imm s
/-- SHR, register form (R228). -/
def execShr (g : Guard) (d a b : Reg) (s : State) : Out := aluReg aluShr g d a b s
/-- SHR, immediate form (R228). -/
def execShrImm (g : Guard) (d a : Reg) (imm : BitVec 32) (s : State) : Out := aluImm aluShr g d a imm s
/-- SAR, register form (R228). -/
def execSar (g : Guard) (d a b : Reg) (s : State) : Out := aluReg aluSar g d a b s
/-- SAR, immediate form (R228). -/
def execSarImm (g : Guard) (d a : Reg) (imm : BitVec 32) (s : State) : Out := aluImm aluSar g d a imm s
/-- MIN, register form (R228). -/
def execMin (g : Guard) (d a b : Reg) (s : State) : Out := aluReg aluMin g d a b s
/-- MIN, immediate form (R228). -/
def execMinImm (g : Guard) (d a : Reg) (imm : BitVec 32) (s : State) : Out := aluImm aluMin g d a imm s
/-- MINN, register form (R228). -/
def execMinn (g : Guard) (d a b : Reg) (s : State) : Out := aluReg aluMinn g d a b s
/-- MINN, immediate form (R228). -/
def execMinnImm (g : Guard) (d a : Reg) (imm : BitVec 32) (s : State) : Out := aluImm aluMinn g d a imm s
/-- MAX, register form (R228). -/
def execMax (g : Guard) (d a b : Reg) (s : State) : Out := aluReg aluMax g d a b s
/-- MAX, immediate form (R228). -/
def execMaxImm (g : Guard) (d a : Reg) (imm : BitVec 32) (s : State) : Out := aluImm aluMax g d a imm s
/-- MAXN, register form (R228). -/
def execMaxn (g : Guard) (d a b : Reg) (s : State) : Out := aluReg aluMaxn g d a b s
/-- MAXN, immediate form (R228). -/
def execMaxnImm (g : Guard) (d a : Reg) (imm : BitVec 32) (s : State) : Out := aluImm aluMaxn g d a imm s
/-- SEXT, register form (R228). -/
def execSext (g : Guard) (d a b : Reg) (s : State) : Out := aluReg aluSext g d a b s
/-- SEXT, immediate form (R228). -/
def execSextImm (g : Guard) (d a : Reg) (imm : BitVec 32) (s : State) : Out := aluImm aluSext g d a imm s
/-- ZEXT, register form (R228). -/
def execZext (g : Guard) (d a b : Reg) (s : State) : Out := aluReg aluZext g d a b s
/-- ZEXT, immediate form (R228). -/
def execZextImm (g : Guard) (d a : Reg) (imm : BitVec 32) (s : State) : Out := aluImm aluZext g d a imm s
/-- CLZ, register form: reads a only (R229). -/
def execClz (g : Guard) (d a : Reg) (s : State) : Out :=
  seqExec g .free [a] [d] (fun s => .done (s.setR d (aluClz (s.r a)))) s
/-- CLZ, immediate form: the same result (R229). -/
def execClzImm (g : Guard) (d a : Reg) (s : State) : Out :=
  seqExec g .free [a] [d] (fun s => .done (s.setR d (aluClz (s.r a)))) s
/-- POPC, register form: reads a only (R229). -/
def execPopc (g : Guard) (d a : Reg) (s : State) : Out :=
  seqExec g .free [a] [d] (fun s => .done (s.setR d (aluPopc (s.r a)))) s
/-- POPC, immediate form: the same result (R229). -/
def execPopcImm (g : Guard) (d a : Reg) (s : State) : Out :=
  seqExec g .free [a] [d] (fun s => .done (s.setR d (aluPopc (s.r a)))) s
/-- LI (R231). -/
def execLi (g : Guard) (d : Reg) (imm : BitVec 32) (s : State) : Out :=
  seqExec g .free [] [d] (fun s => .done (s.setR d (imm.signExtend 64))) s
/-- LUI: (imm32 × 2^32) OR a[31:0] (R231). -/
def execLui (g : Guard) (d a : Reg) (imm : BitVec 32) (s : State) : Out :=
  seqExec g .free [a] [d] (fun s => .done (s.setR d (imm ++ (s.r a).extractLsb' 0 32))) s
/-- SEL (R231). -/
def execSel (g : Guard) (d a b : Reg) (p : Pred) (s : State) : Out :=
  seqExec g .free [a, b] [d] (fun s => .done (s.setR d (if s.me.pred p then s.r a else s.r b))) s

/-- SETP (R232). -/
def execSetp (g : Guard) (cc : Cond) (p : Pred) (a b : Reg) (s : State) : Out :=
  seqExec g .free [a, b] [] (fun s => .done (s.updMe fun x => x.setPred p (Cond.holds cc (x.reg a) (x.reg b)))) s
/-- SETPI: the immediate is sign-extended (R232). -/
def execSetpi (g : Guard) (cc : Cond) (p : Pred) (a : Reg) (imm : BitVec 32) (s : State) : Out :=
  seqExec g .free [a] [] (fun s => .done (s.updMe fun x => x.setPred p (Cond.holds cc (x.reg a) (imm.signExtend 64)))) s
/-- PLOG (R233). -/
def execPlog (g : Guard) (p pa pb : Pred) (table : BitVec 4) (s : State) : Out :=
  seqExec g .free [] [] (fun s => .done (s.updMe fun x => x.setPred p (plogBit table (x.pred pa) (x.pred pb)))) s

/-- A branch target: the offset is taken modulo 2^16 from the instruction's own address (R234). -/
def branchTo (pc : BitVec 16) (off : BitVec 32) : BitVec 16 := pc + off.extractLsb' 0 16

/-- BR (R234). -/
def execBr (g : Guard) (off : BitVec 32) (s : State) : Out :=
  seqExec g .free [] [] (fun s => .goto (branchTo s.me.pc off) s) s
/-- BRX: ILLOP for a target that is not a multiple of 8 (R234). -/
def execBrx (g : Guard) (a : Reg) (s : State) : Out :=
  seqExec g .free [a] [] (fun s =>
    if (s.r a).extractLsb' 0 3 = 0 then .goto ((s.r a).extractLsb' 0 16) s else .fault (s.report fILLOP 0 0) s) s
/-- CALL: the link goes to S31 (R234). -/
def execCall (g : Guard) (off : BitVec 32) (s : State) : Out :=
  seqExec g .free [] [31] (fun s => .goto (branchTo s.me.pc off) (s.setR 31 (s.nextPc.setWidth 64))) s
/-- RET (R234). -/
def execRet (g : Guard) (s : State) : Out :=
  seqExec g .free [31] [] (fun s =>
    if (s.r 31).extractLsb' 0 3 = 0 then .goto ((s.r 31).extractLsb' 0 16) s else .fault (s.report fILLOP 0 0) s) s
/-- LOOP: d ← d − 1, and a branch while it is not 0 (R234). -/
def execLoop (g : Guard) (d : Reg) (off : BitVec 32) (s : State) : Out :=
  seqExec g .free [d] [d] (fun s =>
    let v := s.r d - 1
    if v = 0 then .done (s.setR d v) else .goto (branchTo s.me.pc off) (s.setR d v)) s

/-- TEND: the activation ends, the task leaves its groups, ends as a reader and, for tiles its activations own, as an owner; a graph's
node is done once its counters reach 0 (R236, R254, R301, R310, R311). -/
def execTend (g : Guard) (s : State) : Out :=
  seqExec g .free [] [] (fun s =>
    let t := s.cur
    let x := s.me
    let s1 := ((s.dropDeferred t).leaveGroups x.activation fun _ => true).readerEnd (.activation x.activation)
    let s2 := if x.node.isSome then s1 else s1.ownerEnd (.activation x.ownerAct)
    let s3 := match x.node with
      | some (gr, n) => s2.updNode gr n fun y => { y with ended := true, deps := y.deps ++ s2.depsOf (taskDie t) }
      | none => s2
    .done (s3.updMe fun y => { y with status := .idle, inHandler := false, node := none
                                      ownerAct := if y.node.isSome then y.ownerAct else 0
                                      relHold := [], fenceDev := ⟨[], []⟩, fenceSys := ⟨[], []⟩ })) s
/-- YIELD: the slot that issues goes to the end of the round-robin order with each issue, so YIELD only completes (R237, R49). -/
def execYield (g : Guard) (s : State) : Out := seqExec g .free [] [] (fun s => .done (s.rotate (taskRing s.cur) (taskSlot s.cur))) s
/-- NOP (R237). -/
def execNop (g : Guard) (s : State) : Out := seqExec g .free [] [] (fun s => .done s) s

end Sys2Proof.Machine
end

