-- ==== Sys2Proof/Machine/Switch.lean ====
section
/-! DEFINITION. Machine/Switch: the switch ops, and the STOPs discarded at held ports and index ports (R29, R218 to R222). -/
namespace Sys2Proof

/-- The inputs a switch uses, lowest first. -/
def SWFrame.used (f : SWFrame) : List (Nat × Src) := ((List.range 8).zip f.ins.toList).filter fun x => x.2 != .unused
/-- The outputs a switch uses, lowest first. -/
def SWFrame.outUsed (f : SWFrame) : List Nat := (((List.range 8).zip f.outs.toList).filter fun x => x.2.dst != .none).map Prod.fst

end Sys2Proof

namespace Sys2Proof.Machine

/-! ### Parts of a firing (R218) -/

/-- The reader of input i. -/
def Work.inReader (w : Work) (i : Nat) : Reader := .input w.o i
/-- The head of an input. -/
def Work.inHead (w : Work) (x : Nat × Src) : Option Token := w.headAt x.2 (w.inReader x.1)
/-- Consumes the head of an input. -/
def Work.inPop (w : Work) (x : Nat × Src) : Work := w.pop x.2 (w.inReader x.1)
/-- Writes a token to every used output. -/
def Work.emitAll (f : SWFrame) (w : Work) (t : Token) : Work := f.outUsed.foldl (fun y i => y.emit i t) w
/-- Writes a token to the lowest used output. -/
def Work.emitLow (f : SWFrame) (w : Work) (t : Token) : Work := match f.outUsed with | [] => w | i :: _ => w.emit i t

/-- The index token that a firing would use: constant, resident, or the head of the index stream where it is DATA or ERR, broadcast as the port
says (R95). -/
def Work.idxTok (f : SWFrame) (w : Work) : Option Token :=
  Option.map (fun t => if t.isData then broadcast f.ty f.idx t else t) <| match f.idx.kind with
  | .unused => none
  | .const => some (match f.idx.src with | .arg i => constTok .b32 w.run.recd.args[i] | _ => constTok .b32 0)
  | .stream => (w.headAt f.idx.src (.index w.o)).filter fun t => t.isData || t.isErr
  | .held => match Tab.find w.op.held 0 with
    | some h => some (if h.tok.bad then { (w.err ePOISON).1 with deps := h.tok.deps } else h.tok)
    | none => (w.headAt f.idx.src (.index w.o)).filter fun t => t.isData || t.isErr

/-- A firing takes the index: a held one becomes resident and counts down (R29). -/
def Work.takeIdx (f : SWFrame) (w : Work) : Work :=
  match f.idx.kind with
  | .unused | .const => w
  | .stream => w.pop f.idx.src (.index w.o)
  | .held =>
    match Tab.find w.op.held 0 with
    | some h => if h.tok.bad then { w with op := { w.op with held := [] } } else match h.left with
      | none => w
      | some k => { w with op := { w.op with held := if k ≤ 1 then [] else [(0, { h with left := some (k - 1) })] } }
    | none => match w.headAt f.idx.src (.index w.o) with
      | none => w
      | some t =>
        let w1 := w.pop f.idx.src (.index w.o)
        if t.isData then { w1 with op := { w1.op with held := [(0, ⟨t, if f.idx.hold = 255 then none else some (f.idx.hold.toNat - 1)⟩)] } }
        else w1

/-- A STOP that the firing has consumed goes to every used output; at the op level it ends the sequence and releases a held index (R29). It takes
no index, resident or not (R219, R220). -/
def swStop (f : SWFrame) (level : BitVec 3) (r : Ride) (w : Work) : Work :=
  let w1 := w.passStop level r
  (if f.level ≤ level then w1.release else w1).emitAll f (stopTok level r)

/-- A marker at an input goes to every used output at once, lowest input first (R218). -/
def swMarker (f : SWFrame) (w : Work) : Option Work :=
  (f.used.findSome? fun x => match w.inHead x with | some t => if t.isMarker then some (x, t) else none | none => none).map fun y =>
    ((w.inPop y.1).passMarker y.2).emitAll f y.2

/-- Every used input is parked (R219): equal levels go as one STOP, else the lowest level alone. -/
def allParked (f : SWFrame) (ts : List ((Nat × Src) × Token)) (w : Work) : Work :=
  let low := ts.foldl (fun (m : BitVec 3) x => if x.2.level < m then x.2.level else m) 7
  let these := ts.filter fun x => x.2.level == low
  swStop f low (rides (these.map Prod.snd)) (these.foldl (fun y x => y.inPop x.1) w)

/-- The turn of a switch op. A resolution in progress discards markers as it does all else (R30). -/
def swTurn (f : SWFrame) (fire : Work → Option Work) (s : State) : Out :=
  match s.workAt s.focus with
  | none => .next s
  | some w => w.turn f.outs.toList 0 (fun x => match if x.op.resolving.isNone then swMarker f x else none with | some y => some y | none => fire x)

/-- A token taken from an input. -/
def swTake (f : SWFrame) (x : (Nat × Src) × Token) (w : Work) : Work :=
  let w1 := w.inPop x.1
  if x.2.isStop then swStop f x.2.level x.2.ride w1 else w1.emitAll f x.2

/-! ### The ops (R219 to R222) -/

/-- SELX's firing (R219). -/
def selxFire (f : SWFrame) (w : Work) : Option Work :=
  let hs := f.used.filterMap fun x => (w.inHead x).map fun t => (x, t)
  let parked := hs.filter fun x => x.2.isStop
  if parked.length = f.used.length then some (allParked f parked w)
  else match w.idxTok f with
    | none => none
    | some i =>
      let n := lane i.payload 0
      if i.isErr then some ((w.takeIdx f).emitAll f i)
      else if !(f.used.any fun x => x.1 == n) then
        let (e, w1) := (w.takeIdx f).err eIDXRANGE
        some (w1.emitAll f e)
      else match hs.find? fun x => x.1.1 == n with
        | none => none
        | some x =>
          if !x.2.isStop then some (swTake f x (w.takeIdx f))
          else if hs.any fun y => !y.2.isStop then
            let (e, w1) := (w.takeIdx f).err eMISMATCH
            some (w1.emitAll f e)
          else none

/-- SELX (R219). -/
def execSelx (f : SWFrame) (s : State) : Out := swTurn f (selxFire f) s

/-- DIST's firing (R220). -/
def distFire (f : SWFrame) (w : Work) : Option Work :=
  let x := (0, f.ins[0])
  match w.inHead x with
  | none => none
  | some t =>
    if t.isStop then some (swTake f (x, t) w)
    else match w.idxTok f with
      | none => none
      | some i =>
        let w1 := (w.takeIdx f).inPop x
        let n := lane i.payload 0
        if i.isErr then some (w1.emitLow f i)
        else if f.outUsed.contains n then some (w1.emit n t)
        else
          let (e, w2) := w1.err eIDXRANGE
          some (w2.emitLow f e)

/-- DIST (R220). -/
def execDist (f : SWFrame) (s : State) : Out := swTurn f (distFire f) s

/-- ARB's firing: the first takeable input after the one last taken; `part` is where the search starts (R221). -/
def arbFire (f : SWFrame) (w : Work) : Option Work :=
  let pass := f.flags.getLsbD 0
  let hs := f.used.filterMap fun x => (w.inHead x).map fun t => (x, t)
  let parked := hs.filter fun x => x.2.isStop && !pass
  if parked.length = f.used.length then some (allParked f parked w)
  else
    let can := hs.filter fun x => !x.2.isStop || pass
    match (List.range 8).findSome? fun k => can.find? fun x => x.1.1 == (w.op.part + k) % 8 with
    | none => none
    | some x => some (swTake f x { w with op := { w.op with part := (x.1.1 + 1) % 8 } })

/-- ARB (R221). -/
def execArb (f : SWFrame) (s : State) : Out := swTurn f (Work.throughRegister f.outs.toList (arbFire f)) s

/-- JOIN's firing (R222). -/
def joinFire (f : SWFrame) (w : Work) : Option Work :=
  let srcs := f.used.map fun x => (x.2, w.inReader x.1)
  match w.op.resolving with
  | some (lev, sl) => w.resolveStep srcs lev sl fun l r x => some (swStop f l r x)
  | none =>
    let hs := f.used.filterMap fun x => (w.inHead x).map fun t => (x, t)
    if hs.length ≠ f.used.length then none
    else
      let ts := hs.map Prod.snd
      let top := topStop ts
      let all := fun (y : Work) => f.used.foldl (fun z x => z.inPop x) y
      if top ≠ 0 then
        if ts.all fun t => t.isStop && t.level == top then some (swStop f top (rides ts) (all w))
        else
          let (e, w1) := w.err eMISMATCH
          let w2 := w1.emitAll f { e with deps := (ts.flatMap fun t => t.deps).eraseDups }
          some { w2 with op := { w2.op with resolving := some (top, Ride.none) } }
      else match ts.find? Token.isErr, ts with
        | some e, _ => some ((all w).emitAll f e)
        | none, t :: _ => some ((all w).emitAll f t)
        | none, [] => none

/-- JOIN (R222). -/
def execJoin (f : SWFrame) (s : State) : Out := swTurn f (joinFire f) s

/-! ### STOPs that fire nothing (R29, R218) -/

/-- A port of a cell op. -/
def Instr.portOf (i : Instr) (n : PortName) : Option Port :=
  let pick := fun (a b c : Port) => match n with | .a => a | .b => b | .c => c
  match ccParts i with
  | some (_, f) => some (pick f.a f.b f.c)
  | none => i.mcFrame.map fun f => pick f.a f.b f.c

/-- The frame of a switch op. -/
def Instr.swFrame (i : Instr) : Option SWFrame := (swParts i).map Prod.snd

/-- HELD_STOP_DISCARD (R29): a STOP at the head of a port with hold count 2 or more goes at once, without a firing. -/
def execHeldStopDiscard (p : OpPlace) (port : PortName) (s : State) : Out :=
  match s.workAt p, (s.opInstr p).bind fun i => Instr.portOf i port with
  | some w, some q =>
    match w.head port q with
    | some t => if q.kind == .held && t.isStop then .next (w.pop q.src (w.reader port)).s else .next s
    | none => .next s
  | _, _ => .next s

/-- INDEX_STOP_DISCARD (R218): a STOP, SAFE, PLANE or MARK at a switch's index port goes on arrival; a MARK logs its event. -/
def execIndexStopDiscard (p : OpPlace) (s : State) : Out :=
  match s.workAt p, (s.opInstr p).bind Instr.swFrame with
  | some w, some f =>
    match w.headAt f.idx.src (.index w.o) with
    | some t => if t.isStop || t.isMarker then .next ((w.absorb t).pop f.idx.src (.index w.o)).s else .next s
    | none => .next s
  | _, _ => .next s

end Sys2Proof.Machine
end

