-- ==== Sys2Proof/Machine/Dispatch.lean ====
section
/-! DEFINITION. Machine/Dispatch: one arm for each instruction. -/
namespace Sys2Proof.Machine

/-- The meaning of an instruction. -/
def exec (i : Instr) (s : State) : Host.Outcome State Fault Refusal :=
  match i with
  | .pass f => Sys2Proof.Machine.execPass f s
  | .ccAdd f => Sys2Proof.Machine.execCcAdd f s
  | .ccSub f => Sys2Proof.Machine.execCcSub f s
  | .ccMul f => Sys2Proof.Machine.execCcMul f s
  | .ccMulh f => Sys2Proof.Machine.execCcMulh f s
  | .mad f => Sys2Proof.Machine.execMad f s
  | .ccMin f => Sys2Proof.Machine.execCcMin f s
  | .ccMax f => Sys2Proof.Machine.execCcMax f s
  | .absd f => Sys2Proof.Machine.execAbsd f s
  | .ccAnd f => Sys2Proof.Machine.execCcAnd f s
  | .ccOr f => Sys2Proof.Machine.execCcOr f s
  | .ccXor f => Sys2Proof.Machine.execCcXor f s
  | .ccAndn f => Sys2Proof.Machine.execCcAndn f s
  | .ccShl f => Sys2Proof.Machine.execCcShl f s
  | .ccShr f => Sys2Proof.Machine.execCcShr f s
  | .ccSar f => Sys2Proof.Machine.execCcSar f s
  | .rol f => Sys2Proof.Machine.execRol f s
  | .ccClz f => Sys2Proof.Machine.execCcClz f s
  | .ccPopc f => Sys2Proof.Machine.execCcPopc f s
  | .cmpv f => Sys2Proof.Machine.execCmpv f s
  | .selv f => Sys2Proof.Machine.execSelv f s
  | .cmpp f => Sys2Proof.Machine.execCmpp f s
  | .divi f => Sys2Proof.Machine.execDivi f s
  | .fadd f => Sys2Proof.Machine.execFadd f s
  | .fsub f => Sys2Proof.Machine.execFsub f s
  | .fmul f => Sys2Proof.Machine.execFmul f s
  | .fma f => Sys2Proof.Machine.execFma f s
  | .fmin f => Sys2Proof.Machine.execFmin f s
  | .fmax f => Sys2Proof.Machine.execFmax f s
  | .fdiv f => Sys2Proof.Machine.execFdiv f s
  | .fsqrt f => Sys2Proof.Machine.execFsqrt f s
  | .frcp f => Sys2Proof.Machine.execFrcp f s
  | .frsq f => Sys2Proof.Machine.execFrsq f s
  | .fexp2 f => Sys2Proof.Machine.execFexp2 f s
  | .flog2 f => Sys2Proof.Machine.execFlog2 f s
  | .ftanh f => Sys2Proof.Machine.execFtanh f s
  | .fcmpv f => Sys2Proof.Machine.execFcmpv f s
  | .fcmpp f => Sys2Proof.Machine.execFcmpp f s
  | .fclass f => Sys2Proof.Machine.execFclass f s
  | .cvt f => Sys2Proof.Machine.execCvt f s
  | .cvti f => Sys2Proof.Machine.execCvti f s
  | .cvtf f => Sys2Proof.Machine.execCvtf f s
  | .qnt f => Sys2Proof.Machine.execQnt f s
  | .dqnt f => Sys2Proof.Machine.execDqnt f s
  | .pack f => Sys2Proof.Machine.execPack f s
  | .unpk f => Sys2Proof.Machine.execUnpk f s
  | .shuf f => Sys2Proof.Machine.execShuf f s
  | .lrot f => Sys2Proof.Machine.execLrot f s
  | .bcst f => Sys2Proof.Machine.execBcst f s
  | .scan f => Sys2Proof.Machine.execScan f s
  | .red f => Sys2Proof.Machine.execRed f s
  | .lidx f => Sys2Proof.Machine.execLidx f s
  | .steer f => Sys2Proof.Machine.execSteer f s
  | .filt f => Sys2Proof.Machine.execFilt f s
  | .merge f => Sys2Proof.Machine.execMerge f s
  | .cmerge f => Sys2Proof.Machine.execCmerge f s
  | .acc f => Sys2Proof.Machine.execAcc f s
  | .count f => Sys2Proof.Machine.execCount f s
  | .gen f => Sys2Proof.Machine.execGen f s
  | .repl f => Sys2Proof.Machine.execRepl f s
  | .levup f => Sys2Proof.Machine.execLevup f s
  | .levdn f => Sys2Proof.Machine.execLevdn f s
  | .stopat f => Sys2Proof.Machine.execStopat f s
  | .sink f => Sys2Proof.Machine.execSink f s
  | .tokp f => Sys2Proof.Machine.execTokp f s
  | .ptok f => Sys2Proof.Machine.execPtok f s
  | .plogic f => Sys2Proof.Machine.execPlogic f s
  | .pdup f => Sys2Proof.Machine.execPdup f s
  | .pgen f => Sys2Proof.Machine.execPgen f s
  | .snadd f => Sys2Proof.Machine.execSnadd f s
  | .snsink f => Sys2Proof.Machine.execSnsink f s
  | .lds f => Sys2Proof.Machine.execLds f s
  | .mma f => Sys2Proof.Machine.execMma f s
  | .mmaq f => Sys2Proof.Machine.execMmaq f s
  | .accz f => Sys2Proof.Machine.execAccz f s
  | .accout f => Sys2Proof.Machine.execAccout f s
  | .accin f => Sys2Proof.Machine.execAccin f s
  | .mtrn f => Sys2Proof.Machine.execMtrn f s
  | .trd f => Sys2Proof.Machine.execTrd f s
  | .twr f => Sys2Proof.Machine.execTwr f s
  | .trdc f => Sys2Proof.Machine.execTrdc f s
  | .twrc f => Sys2Proof.Machine.execTwrc f s
  | .gath f => Sys2Proof.Machine.execGath f s
  | .scat f => Sys2Proof.Machine.execScat f s
  | .rmwa f => Sys2Proof.Machine.execRmwa f s
  | .tas f => Sys2Proof.Machine.execTas f s
  | .atom f => Sys2Proof.Machine.execAtom f s
  | .lreq f => Sys2Proof.Machine.execLreq f s
  | .sreq f => Sys2Proof.Machine.execSreq f s
  | .fifo f => Sys2Proof.Machine.execFifo f s
  | .lut f => Sys2Proof.Machine.execLut f s
  | .selx f => Sys2Proof.Machine.execSelx f s
  | .dist f => Sys2Proof.Machine.execDist f s
  | .arb f => Sys2Proof.Machine.execArb f s
  | .join f => Sys2Proof.Machine.execJoin f s
  | .add g d a b => Sys2Proof.Machine.execAdd g d a b s
  | .addImm g d a imm => Sys2Proof.Machine.execAddImm g d a imm s
  | .sub g d a b => Sys2Proof.Machine.execSub g d a b s
  | .subImm g d a imm => Sys2Proof.Machine.execSubImm g d a imm s
  | .mul g d a b => Sys2Proof.Machine.execMul g d a b s
  | .mulImm g d a imm => Sys2Proof.Machine.execMulImm g d a imm s
  | .mulh g d a b => Sys2Proof.Machine.execMulh g d a b s
  | .mulhImm g d a imm => Sys2Proof.Machine.execMulhImm g d a imm s
  | .mulhn g d a b => Sys2Proof.Machine.execMulhn g d a b s
  | .mulhnImm g d a imm => Sys2Proof.Machine.execMulhnImm g d a imm s
  | .div g d a b => Sys2Proof.Machine.execDiv g d a b s
  | .divImm g d a imm => Sys2Proof.Machine.execDivImm g d a imm s
  | .divn g d a b => Sys2Proof.Machine.execDivn g d a b s
  | .divnImm g d a imm => Sys2Proof.Machine.execDivnImm g d a imm s
  | .rem g d a b => Sys2Proof.Machine.execRem g d a b s
  | .remImm g d a imm => Sys2Proof.Machine.execRemImm g d a imm s
  | .remn g d a b => Sys2Proof.Machine.execRemn g d a b s
  | .remnImm g d a imm => Sys2Proof.Machine.execRemnImm g d a imm s
  | .and g d a b => Sys2Proof.Machine.execAnd g d a b s
  | .andImm g d a imm => Sys2Proof.Machine.execAndImm g d a imm s
  | .or g d a b => Sys2Proof.Machine.execOr g d a b s
  | .orImm g d a imm => Sys2Proof.Machine.execOrImm g d a imm s
  | .xor g d a b => Sys2Proof.Machine.execXor g d a b s
  | .xorImm g d a imm => Sys2Proof.Machine.execXorImm g d a imm s
  | .andn g d a b => Sys2Proof.Machine.execAndn g d a b s
  | .andnImm g d a imm => Sys2Proof.Machine.execAndnImm g d a imm s
  | .shl g d a b => Sys2Proof.Machine.execShl g d a b s
  | .shlImm g d a imm => Sys2Proof.Machine.execShlImm g d a imm s
  | .shr g d a b => Sys2Proof.Machine.execShr g d a b s
  | .shrImm g d a imm => Sys2Proof.Machine.execShrImm g d a imm s
  | .sar g d a b => Sys2Proof.Machine.execSar g d a b s
  | .sarImm g d a imm => Sys2Proof.Machine.execSarImm g d a imm s
  | .min g d a b => Sys2Proof.Machine.execMin g d a b s
  | .minImm g d a imm => Sys2Proof.Machine.execMinImm g d a imm s
  | .minn g d a b => Sys2Proof.Machine.execMinn g d a b s
  | .minnImm g d a imm => Sys2Proof.Machine.execMinnImm g d a imm s
  | .max g d a b => Sys2Proof.Machine.execMax g d a b s
  | .maxImm g d a imm => Sys2Proof.Machine.execMaxImm g d a imm s
  | .maxn g d a b => Sys2Proof.Machine.execMaxn g d a b s
  | .maxnImm g d a imm => Sys2Proof.Machine.execMaxnImm g d a imm s
  | .clz g d a => Sys2Proof.Machine.execClz g d a s
  | .clzImm g d a => Sys2Proof.Machine.execClzImm g d a s
  | .popc g d a => Sys2Proof.Machine.execPopc g d a s
  | .popcImm g d a => Sys2Proof.Machine.execPopcImm g d a s
  | .sext g d a b => Sys2Proof.Machine.execSext g d a b s
  | .sextImm g d a imm => Sys2Proof.Machine.execSextImm g d a imm s
  | .zext g d a b => Sys2Proof.Machine.execZext g d a b s
  | .zextImm g d a imm => Sys2Proof.Machine.execZextImm g d a imm s
  | .li g d imm => Sys2Proof.Machine.execLi g d imm s
  | .lui g d a imm => Sys2Proof.Machine.execLui g d a imm s
  | .sel g d a b p => Sys2Proof.Machine.execSel g d a b p s
  | .setp g cc p a b => Sys2Proof.Machine.execSetp g cc p a b s
  | .setpi g cc p a imm => Sys2Proof.Machine.execSetpi g cc p a imm s
  | .plog g p pa pb table => Sys2Proof.Machine.execPlog g p pa pb table s
  | .br g off => Sys2Proof.Machine.execBr g off s
  | .brx g a => Sys2Proof.Machine.execBrx g a s
  | .call g off => Sys2Proof.Machine.execCall g off s
  | .ret g => Sys2Proof.Machine.execRet g s
  | .loop g d off => Sys2Proof.Machine.execLoop g d off s
  | .tend g => Sys2Proof.Machine.execTend g s
  | .yield g => Sys2Proof.Machine.execYield g s
  | .nop g => Sys2Proof.Machine.execNop g s
  | .waitch g => Sys2Proof.Machine.execWaitch g s
  | .recv g d e => Sys2Proof.Machine.execRecv g d e s
  | .sendq g k a ep => Sys2Proof.Machine.execSendq g k a ep s
  | .sendqReg g k a b => Sys2Proof.Machine.execSendqReg g k a b s
  | .ld g sz d a imm => Sys2Proof.Machine.execLd g sz d a imm s
  | .st g sz d a imm => Sys2Proof.Machine.execSt g sz d a imm s
  | .ldg g sz o sc d a imm => Sys2Proof.Machine.execLdg g sz o sc d a imm s
  | .stg g sz o sc d a imm => Sys2Proof.Machine.execStg g sz o sc d a imm s
  | .atomgAdd g sz o sc d a b => Sys2Proof.Machine.execAtomgAdd g sz o sc d a b s
  | .atomgMin g sz o sc d a b => Sys2Proof.Machine.execAtomgMin g sz o sc d a b s
  | .atomgMax g sz o sc d a b => Sys2Proof.Machine.execAtomgMax g sz o sc d a b s
  | .atomgMinn g sz o sc d a b => Sys2Proof.Machine.execAtomgMinn g sz o sc d a b s
  | .atomgMaxn g sz o sc d a b => Sys2Proof.Machine.execAtomgMaxn g sz o sc d a b s
  | .atomgAnd g sz o sc d a b => Sys2Proof.Machine.execAtomgAnd g sz o sc d a b s
  | .atomgOr g sz o sc d a b => Sys2Proof.Machine.execAtomgOr g sz o sc d a b s
  | .atomgXor g sz o sc d a b => Sys2Proof.Machine.execAtomgXor g sz o sc d a b s
  | .atomgXchg g sz o sc d a b => Sys2Proof.Machine.execAtomgXchg g sz o sc d a b s
  | .atomgCas g sz o sc d a b c => Sys2Proof.Machine.execAtomgCas g sz o sc d a b c s
  | .talloc g d desc => Sys2Proof.Machine.execTalloc g d desc s
  | .tallocReg g d a => Sys2Proof.Machine.execTallocReg g d a s
  | .tseal g a => Sys2Proof.Machine.execTseal g a s
  | .tstat g d a => Sys2Proof.Machine.execTstat g d a s
  | .tload g sz d a b imm => Sys2Proof.Machine.execTload g sz d a b imm s
  | .tstore g sz d a b imm => Sys2Proof.Machine.execTstore g sz d a b imm s
  | .txfer g d a x => Sys2Proof.Machine.execTxfer g d a x s
  | .draw g d a b desc => Sys2Proof.Machine.execDraw g d a b desc s
  | .draws g a b c dim desc => Sys2Proof.Machine.execDraws g a b c dim desc s
  | .send g a b c slot valid sc => Sys2Proof.Machine.execSend g a b c slot valid sc s
  | .copym g a b c sc => Sys2Proof.Machine.execCopym g a b c sc s
  | .run g d a => Sys2Proof.Machine.execRun g d a s
  | .rstopSafe g a => Sys2Proof.Machine.execRstopSafe g a s
  | .rstopNow g a => Sys2Proof.Machine.execRstopNow g a s
  | .rswap g a b => Sys2Proof.Machine.execRswap g a b s
  | .resume g a => Sys2Proof.Machine.execResume g a s
  | .glaunch g a => Sys2Proof.Machine.execGlaunch g a s
  | .wait g w => Sys2Proof.Machine.execWait g w s
  | .waitt g a st => Sys2Proof.Machine.execWaitt g a st s
  | .fenceAcq g sc => Sys2Proof.Machine.execFenceAcq g sc s
  | .fenceRel g sc => Sys2Proof.Machine.execFenceRel g sc s
  | .fenceAr g sc => Sys2Proof.Machine.execFenceAr g sc s
  | .fenceOrd g sc => Sys2Proof.Machine.execFenceOrd g sc s
  | .gjoin g a => Sys2Proof.Machine.execGjoin g a s
  | .gleave g a => Sys2Proof.Machine.execGleave g a s
  | .garr g d a => Sys2Proof.Machine.execGarr g d a s
  | .gwait g a b => Sys2Proof.Machine.execGwait g a b s
  | .safept g regs preds stub => Sys2Proof.Machine.execSafept g regs preds stub s
  | .trap g code => Sys2Proof.Machine.execTrap g code s
  | .eret g => Sys2Proof.Machine.execEret g s
  | .fwcall g d a svc => Sys2Proof.Machine.execFwcall g d a svc s
  | .rdts g d => Sys2Proof.Machine.execRdts g d s
  | .crd g d cr => Sys2Proof.Machine.execCrd g d cr s
  | .cwr g cr a => Sys2Proof.Machine.execCwr g cr a s
  | .cinvCfg g a b => Sys2Proof.Machine.execCinvCfg g a b s
  | .cinvCode g a b => Sys2Proof.Machine.execCinvCode g a b s
  | .iload g a dst => Sys2Proof.Machine.execIload g a dst s
  | .heldStopDiscard p port => Sys2Proof.Machine.execHeldStopDiscard p port s
  | .indexStopDiscard p => Sys2Proof.Machine.execIndexStopDiscard p s
  | .mcResponse p => Sys2Proof.Machine.execMcResponse p s
  | .mcAcknowledge p => Sys2Proof.Machine.execMcAcknowledge p s
  | .lutCopy p => Sys2Proof.Machine.execLutCopy p s
  | .seamFifoDeliver run vs ch => Sys2Proof.Machine.execSeamFifoDeliver run vs ch s
  | .tileBindingStream run fifo => Sys2Proof.Machine.execTileBindingStream run fifo s
  | .ofQueueSend run fifo => Sys2Proof.Machine.execOfQueueSend run fifo s
  | .ofTileWrite run fifo => Sys2Proof.Machine.execOfTileWrite run fifo s
  | .stripeImageAccept run vs => Sys2Proof.Machine.execStripeImageAccept run vs s
  | .stripeConfigure run => Sys2Proof.Machine.execStripeConfigure run s
  | .stripeRetire run slot => Sys2Proof.Machine.execStripeRetire run slot s
  | .stateRestore run slot => Sys2Proof.Machine.execStateRestore run slot s
  | .runAdmit run rings => Sys2Proof.Machine.execRunAdmit run rings s
  | .poolGrant die partition hb => Sys2Proof.Machine.execPoolGrant die partition hb s
  | .poolFiguresSet die partition res lim quota => Sys2Proof.Machine.execPoolFiguresSet die partition res lim quota s
  | .astall die partition request => Sys2Proof.Machine.execAstall die partition request s
  | .runEnd run => Sys2Proof.Machine.execRunEnd run s
  | .runSpgap run => Sys2Proof.Machine.execRunSpgap run s
  | .quiet run => Sys2Proof.Machine.execQuiet run s
  | .sliceMark run successor => Sys2Proof.Machine.execSliceMark run successor s
  | .slotRelease run slot => Sys2Proof.Machine.execSlotRelease run slot s
  | .gangMark run successor deadline => Sys2Proof.Machine.execGangMark run successor deadline s
  | .gangCommit run => Sys2Proof.Machine.execGangCommit run s
  | .gangDeadlineExpiry run => Sys2Proof.Machine.execGangDeadlineExpiry run s
  | .migrate ring sensor reading => Sys2Proof.Machine.execMigrate ring sensor reading s
  | .migration run targets deadline => Sys2Proof.Machine.execMigration run targets deadline s
  | .migrationCancel run => Sys2Proof.Machine.execMigrationCancel run s
  | .suspendedRunResume run rings => Sys2Proof.Machine.execSuspendedRunResume run rings s
  | .rebuildStubEntry run => Sys2Proof.Machine.execRebuildStubEntry run s
  | .rswapPrepare run => Sys2Proof.Machine.execRswapPrepare run s
  | .imageSwap run slot => Sys2Proof.Machine.execImageSwap run slot s
  | .taskActivate task => Sys2Proof.Machine.execTaskActivate task s
  | .taskUnblock task reply => Sys2Proof.Machine.execTaskUnblock task reply s
  | .deferredFault task => Sys2Proof.Machine.execDeferredFault task s
  | .globalAccessComplete serial => Sys2Proof.Machine.execGlobalAccessComplete serial s
  | .drawComplete serial => Sys2Proof.Machine.execDrawComplete serial s
  | .drawsTileComplete serial => Sys2Proof.Machine.execDrawsTileComplete serial s
  | .txferComplete serial => Sys2Proof.Machine.execTxferComplete serial s
  | .sendReadDone serial => Sys2Proof.Machine.execSendReadDone serial s
  | .sendWritesVisible serial => Sys2Proof.Machine.execSendWritesVisible serial s
  | .copymComplete serial => Sys2Proof.Machine.execCopymComplete serial s
  | .taskSpgap task => Sys2Proof.Machine.execTaskSpgap task s
  | .taskSwitchResume task => Sys2Proof.Machine.execTaskSwitchResume task s
  | .streamerBind die => Sys2Proof.Machine.execStreamerBind die s
  | .streamerPromote die stream => Sys2Proof.Machine.execStreamerPromote die stream s
  | .translationWalkComplete die asid page => Sys2Proof.Machine.execTranslationWalkComplete die asid page s
  | .translationInvalidate asid => Sys2Proof.Machine.execTranslationInvalidate asid s
  | .remoteWriteApply die serial => Sys2Proof.Machine.execRemoteWriteApply die serial s
  | .sealedWriteback block => Sys2Proof.Machine.execSealedWriteback block s
  | .kilnRotate die partition => Sys2Proof.Machine.execKilnRotate die partition s
  | .kilnSweep die partition generation => Sys2Proof.Machine.execKilnSweep die partition generation s
  | .kilnRetire die partition generation => Sys2Proof.Machine.execKilnRetire die partition generation s
  | .kilnInitialiseRange die partition base length => Sys2Proof.Machine.execKilnInitialiseRange die partition base length s
  | .treeKeyRotation stack => Sys2Proof.Machine.execTreeKeyRotation stack s
  | .launch iface va => Sys2Proof.Machine.execLaunch iface va s
  | .cancel iface va => Sys2Proof.Machine.execCancel iface va s
  | .notifyReservedWrite iface offset size => Sys2Proof.Machine.execNotifyReservedWrite iface offset size s
  | .graphAccept iface => Sys2Proof.Machine.execGraphAccept iface s
  | .nodeDispatch partition => Sys2Proof.Machine.execNodeDispatch partition s
  | .nodePromote partition => Sys2Proof.Machine.execNodePromote partition s
  | .nodeEvaluate graph node => Sys2Proof.Machine.execNodeEvaluate graph node s
  | .nodeComplete graph node => Sys2Proof.Machine.execNodeComplete graph node s
  | .faultRecordDeliver run => Sys2Proof.Machine.execFaultRecordDeliver run s
  | .eventLogAppend source => Sys2Proof.Machine.execEventLogAppend source s
  | .packageReset crucible management scheduler => Sys2Proof.Machine.execPackageReset crucible management scheduler s
  | .dieResetWarm die => Sys2Proof.Machine.execDieResetWarm die s
  | .dieResetFatal die => Sys2Proof.Machine.execDieResetFatal die s
  | .staleResponseDrop die serial => Sys2Proof.Machine.execStaleResponseDrop die serial s
  | .linkFailure link => Sys2Proof.Machine.execLinkFailure link s
  | .thermalThrottle sensor reading => Sys2Proof.Machine.execThermalThrottle sensor reading s
  | .thermalShutdown die reading => Sys2Proof.Machine.execThermalShutdown die reading s
  | .powerCapEnforce power => Sys2Proof.Machine.execPowerCapEnforce power s
  | .partitionCreate partition grant => Sys2Proof.Machine.execPartitionCreate partition grant s
  | .partitionDestroy partition => Sys2Proof.Machine.execPartitionDestroy partition s
  | .partitionFree partition => Sys2Proof.Machine.execPartitionFree partition s
  | .functionLevelReset function => Sys2Proof.Machine.execFunctionLevelReset function s
  | .interfaceBind iface binding => Sys2Proof.Machine.execInterfaceBind iface binding s
  | .interfaceUnbind iface => Sys2Proof.Machine.execInterfaceUnbind iface s
  | .numvfsWrite pf count => Sys2Proof.Machine.execNumvfsWrite pf count s
  | .hostCompletion serial status => Sys2Proof.Machine.execHostCompletion serial status s
  | .hostCxlMemAccess pa access => Sys2Proof.Machine.execHostCxlMemAccess pa access s
  | .scaleoutWrite frame => Sys2Proof.Machine.execScaleoutWrite frame s
  | .scaleoutReadRequest frame length => Sys2Proof.Machine.execScaleoutReadRequest frame length s
  | .scaleoutReadResponse frame => Sys2Proof.Machine.execScaleoutReadResponse frame s
  | .scaleoutAck frame => Sys2Proof.Machine.execScaleoutAck frame s
  | .scaleoutNak frame => Sys2Proof.Machine.execScaleoutNak frame s
  | .retransmitTimeout partition peer => Sys2Proof.Machine.execRetransmitTimeout partition peer s
  | .getVersion function => Sys2Proof.Machine.execGetVersion function s
  | .getCapabilities function => Sys2Proof.Machine.execGetCapabilities function s
  | .negotiateAlgorithms function => Sys2Proof.Machine.execNegotiateAlgorithms function s
  | .getDigests function => Sys2Proof.Machine.execGetDigests function s
  | .getCertificate function => Sys2Proof.Machine.execGetCertificate function s
  | .challenge function nonce => Sys2Proof.Machine.execChallenge function nonce s
  | .getMeasurements function nonce => Sys2Proof.Machine.execGetMeasurements function nonce s
  | .keyExchange function share => Sys2Proof.Machine.execKeyExchange function share s
  | .finish function => Sys2Proof.Machine.execFinish function s
  | .endSession function => Sys2Proof.Machine.execEndSession function s
  | .vendorDefinedRequest function registry payload => Sys2Proof.Machine.execVendorDefinedRequest function registry payload s
  | .contextCreate asid ctx => Sys2Proof.Machine.execContextCreate asid ctx s
  | .kilnGeneratedKey partition => Sys2Proof.Machine.execKilnGeneratedKey partition s
  | .ringSetChange ring target => Sys2Proof.Machine.execRingSetChange ring target s
  | .taskSwitchRequest task request => Sys2Proof.Machine.execTaskSwitchRequest task request s
  | .throttleRelease sensor reading => Sys2Proof.Machine.execThrottleRelease sensor reading s
  | .migrateRearm ring sensor reading => Sys2Proof.Machine.execMigrateRearm ring sensor reading s
  | .thresholdSet value => Sys2Proof.Machine.execThresholdSet value s
  | .heldRequestFirmwareRelease serial resume => Sys2Proof.Machine.execHeldRequestFirmwareRelease serial resume s

end Sys2Proof.Machine
end

