-- ==== Sys2Proof/Machine/Step.lean ====
section
/-! DEFINITION. Machine/Step: one step of the machine, and the placing of an instruction where the next step runs it. -/
namespace Sys2Proof.Machine

/-- One step: the next turn of the agenda, and the meaning of the instruction it runs, if it runs one. -/
def step (s : State) : Host.Outcome State Fault Refusal :=
  match s.prepare with
  | .run i s1 => Sys2Proof.Machine.exec i s1
  | .answer o => o

/-- The state in which the very next step runs the instruction of these bits: a sequencer word at the pc of slot 0 of ring 0, RUNNABLE; a
frame as the one op of a stripe of a run (see `State.placeWord` and `State.placeFrame`). -/
def State.withFetchWord (s : State) (nbits w : Nat) : State :=
  if nbits ≤ 64 then s.placeWord (BitVec.ofNat 64 w) else s.placeFrame (BitVec.ofNat 256 w)

end Sys2Proof.Machine
end

