-- ==== Sys2Proof/Safety.lean ====
section
/-! DEFINITION. Safety: what counts as a safe step and a safe run, and the terms in which the statements are made: when an instruction issues, and what two states agree on. -/
namespace Sys2Proof

/-- A step is safe when it answers a next state: neither a fault nor a refusal. -/
def Safe (s : Machine.State) : Prop := ∃ t, Machine.step s = .next t

/-- A run of `k` steps is safe when it answers a next state. -/
def SafeRun (k : Nat) (s : Machine.State) : Prop := ∃ t, core.run k s = .next t

/-! ### Rounding, against the exact value (R68 to R70) -/

/-- The exact value of a finite float value. -/
def FV.exact : FV → ℚ
  | .fin neg m e => (if neg then -1 else 1) * (m : ℚ) * 2 ^ e
  | _ => 0

/-- `2 ^ q` is the spacing of the values of a float type around x, its exponent range unbounded above and its subnormal spacing kept (R69). -/
def Ty.spacing (t : Ty) (x : ℚ) (q : ℤ) : Prop :=
  t.qMin ≤ q ∧ |x| < 2 ^ (q + t.fmt.fb + 1) ∧ (q = t.qMin ∨ (2 : ℚ) ^ (q + t.fmt.fb) ≤ |x|)

/-- The value that x is taken to under each rounding mode (R68). -/
def Rounds (t : Ty) (rm : Rm) (x y : ℚ) : Prop :=
  ∃ q m : ℤ, t.spacing x q ∧ y = (m : ℚ) * 2 ^ q ∧ match rm with
    | .rne => 2 * |x - y| ≤ 2 ^ q ∧ (2 * |x - y| = 2 ^ q → m % 2 = 0)
    | .rna => 2 * |x - y| ≤ 2 ^ q ∧ (2 * |x - y| = 2 ^ q → |x| ≤ |y|)
    | .rtz => |x - y| < 2 ^ q ∧ |y| ≤ |x|
    | .rdn => y ≤ x ∧ x - y < 2 ^ q
    | .rup => x ≤ y ∧ y - x < 2 ^ q

/-- `r` is the pattern and the events of an exact value x that is not zero, rounded to a float type (R68 to R70): the rounded value with the sign of x,
one UNF event when it is zero or subnormal; beyond the largest finite value what the table of R69 gives, with one SAT event. -/
def IsRound (t : Ty) (rm : Rm) (sat : Bool) (x : ℚ) (r : Nat × Ev) : Prop :=
  ∃ y, Rounds t rm x y ∧ r.1 < 2 ^ t.width
    ∧ (|y| ≤ (t.floatOf (t.maxBits false)).exact → (∃ m e, t.floatOf r.1 = .fin (decide (x < 0)) m e ∧ (m : ℚ) * 2 ^ e = |y|)
        ∧ r.2 = if |y| < 2 ^ (t.qMin + t.fmt.fb) then ⟨0, 0, 1⟩ else ⟨0, 0, 0⟩)
    ∧ ((t.floatOf (t.maxBits false)).exact < |y| → r.2 = ⟨1, 0, 0⟩
        ∧ r.1 = if sat = true ∨ rm = .rtz ∨ (rm = .rup ∧ x < 0) ∨ (rm = .rdn ∧ 0 < x) then t.maxBits (decide (x < 0)) else t.infBits (decide (x < 0)))

namespace Machine

/-! ### When a sequencer instruction acts -/

/-- A sequencer instruction with this guard, naming these registers, acts (R223, R226, R249, R389): its guard is true, no register it reads
or writes awaits an access or a result, none it reads holds an uncorrectable error, and nothing its order class waits for is outstanding. -/
def Issues (g : Guard) (gate : Gate) (reads writes : List Reg) (s : State) : Prop :=
  Guard.holds g s.me = true ∧ s.pendingOn s.cur (reads ++ writes) = [] ∧ s.me.dueAt (reads ++ writes) ≤ s.clk
  ∧ (∀ r ∈ reads, r.val ∉ s.me.softErr) ∧ s.heldBy s.cur gate = []

/-- The running task completes an instruction and changes nothing else: its pc goes to `npc`, one more instruction counts toward its SAFEGAP,
and it waits for nothing (R224, R275). -/
def State.onTo (s : State) (npc : BitVec 16) : State := s.complete npc

/-- The running task completes an instruction that only writes a register. -/
def State.wrote (s : State) (d : Reg) (v : Word) : State := (s.setR d v).complete (s.me.pc + 8)

/-- The running task completes an instruction that only writes a register, whose result is available to its next instructions after `n` clk of
the sequencer (R226, R227). -/
def State.wroteAfter (s : State) (n : Nat) (d : Reg) (v : Word) : State :=
  if n = 0 then s.wrote d v else (s.setLate n d v).complete (s.me.pc + 8)

/-! ### What two states agree on -/

/-- Every die reads the same byte at every address of global memory, and the stores of every sequencer and the bytes of every tile are the
same. -/
def SameBytes (s t : State) : Prop :=
  (∀ die pa, t.view die pa = s.view die pa) ∧ t.sram = s.sram
  ∧ ∀ r, (t.sequencer r).istore = (s.sequencer r).istore ∧ (t.sequencer r).dstore = (s.sequencer r).dstore

/-- Every die reads the same byte at every address of package memory. (A byte of host memory or of a peer's window is free.) -/
def SameHbm (s t : State) : Prop := ∀ die pa, paHbm pa = true → t.view die pa = s.view die pa

/-- Every register and predicate of every task keeps its value, but register d of task k. -/
def SameRegsBut (s t : State) (k : Nat) (d : Reg) : Prop :=
  (∀ j r, (j ≠ k ∨ r ≠ d ∨ r = 0) → (t.task j).reg r = (s.task j).reg r) ∧ ∀ j p, (t.task j).pred p = (s.task j).pred p

/-- The memories are in canonical form: package memory, tile storage, and the stores of every sequencer. -/
def MemoryForm (s : State) : Prop :=
  s.mem.wf = true ∧ s.sram.wf = true ∧ ∀ q ∈ s.seqs, q.2.istore.wf = true ∧ q.2.dstore.wf = true

/-- Task k keeps its counters and the control registers that no exception writes (R46, R114). -/
def SameControl (s t : State) (k : Nat) : Prop :=
  (t.task k).cnt = (s.task k).cnt ∧ (t.task k).entry = (s.task k).entry
  ∧ (t.task k).hvec = (s.task k).hvec ∧ (t.task k).safegap = (s.task k).safegap ∧ (t.task k).context = (s.task k).context

/-- Task k keeps its exception registers, or it has entered its handler, which it was not in. -/
def SameException (s t : State) (k : Nat) : Prop :=
  ((t.task k).epc = (s.task k).epc ∧ (t.task k).frec = (s.task k).frec)
  ∨ ((s.task k).inHandler = false ∧ (t.task k).inHandler = true ∧ (t.task k).status = .handler)

/-! ### The results of the register instructions, as the manual's table words them (R228) -/

/-- Quotient of R83 at width 64. -/
def quotient (a y : Int) (top : Int) : Int := if y = 0 then 2 ^ 64 - 1 else if a = top ∧ y = -1 then top else Int.tdiv a y

/-- Remainder of R83 at width 64. -/
def remainder (a y : Int) (top : Int) : Int := if y = 0 then a else if a = top ∧ y = -1 then 0 else a - Int.tdiv a y * y

/-- The lowest n bits of a number, read as signed. -/
def signedLow (n : Nat) (a : Nat) : Int := if a % 2 ^ n < 2 ^ (n - 1) then (a % 2 ^ n : Nat) else (a % 2 ^ n : Nat) - (2 ^ n : Nat)

/-- The width that SEXT and ZEXT take from the second operand. -/
def widthOf (y : Word) : Nat := if y.toNat % 64 = 0 then 64 else y.toNat % 64

/-- The two-operand ALU instructions: the register form, the immediate form, the clk of the sequencer that its result takes where it takes more
than the one of its issue, else 0 (R226, R227), and the result (R228). -/
def aluTable : List ((Guard → Reg → Reg → Reg → Instr) × (Guard → Reg → Reg → BitVec 32 → Instr) × Nat × (Word → Word → Word)) :=
  [ (.add, .addImm, 0, fun a y => BitVec.ofInt 64 (a.toInt + y.toInt)),
    (.sub, .subImm, 0, fun a y => BitVec.ofInt 64 (a.toInt - y.toInt)),
    (.mul, .mulImm, 4, fun a y => BitVec.ofInt 64 (a.toInt * y.toInt)),
    (.mulh, .mulhImm, 4, fun a y => BitVec.ofInt 64 (a.toInt * y.toInt / 2 ^ 64)),
    (.mulhn, .mulhnImm, 4, fun a y => BitVec.ofNat 64 (a.toNat * y.toNat / 2 ^ 64)),
    (.div, .divImm, 24, fun a y => BitVec.ofInt 64 (quotient a.toInt y.toInt (-2 ^ 63))),
    (.divn, .divnImm, 24, fun a y => BitVec.ofInt 64 (quotient a.toNat y.toNat (-1))),
    (.rem, .remImm, 24, fun a y => BitVec.ofInt 64 (remainder a.toInt y.toInt (-2 ^ 63))),
    (.remn, .remnImm, 24, fun a y => BitVec.ofInt 64 (remainder a.toNat y.toNat (-1))),
    (.and, .andImm, 0, fun a y => BitVec.ofFnLE fun i => a[i] && y[i]),
    (.or, .orImm, 0, fun a y => BitVec.ofFnLE fun i => a[i] || y[i]),
    (.xor, .xorImm, 0, fun a y => BitVec.ofFnLE fun i => a[i] != y[i]),
    (.andn, .andnImm, 0, fun a y => BitVec.ofFnLE fun i => a[i] && !y[i]),
    (.shl, .shlImm, 0, fun a y => BitVec.ofNat 64 (a.toNat * 2 ^ (y.toNat % 64))),
    (.shr, .shrImm, 0, fun a y => BitVec.ofNat 64 (a.toNat / 2 ^ (y.toNat % 64))),
    (.sar, .sarImm, 0, fun a y => BitVec.ofInt 64 (a.toInt / 2 ^ (y.toNat % 64))),
    (.min, .minImm, 0, fun a y => BitVec.ofInt 64 (Min.min a.toInt y.toInt)),
    (.minn, .minnImm, 0, fun a y => BitVec.ofNat 64 (Min.min a.toNat y.toNat)),
    (.max, .maxImm, 0, fun a y => BitVec.ofInt 64 (Max.max a.toInt y.toInt)),
    (.maxn, .maxnImm, 0, fun a y => BitVec.ofNat 64 (Max.max a.toNat y.toNat)),
    (.sext, .sextImm, 0, fun a y => BitVec.ofInt 64 (signedLow (widthOf y) a.toNat)),
    (.zext, .zextImm, 0, fun a y => BitVec.ofNat 64 (a.toNat % 2 ^ widthOf y)) ]

/-- The conditions of SETP and SETPI (R232). -/
def condTable : List (Cond × (Word → Word → Bool)) :=
  [ (.eq, fun a y => a == y), (.ne, fun a y => a != y), (.lt, fun a y => a.toInt < y.toInt), (.le, fun a y => a.toInt ≤ y.toInt),
    (.gt, fun a y => a.toInt > y.toInt), (.ge, fun a y => a.toInt ≥ y.toInt), (.ltn, fun a y => a.toNat < y.toNat),
    (.len, fun a y => a.toNat ≤ y.toNat), (.gtn, fun a y => a.toNat > y.toNat), (.gen, fun a y => a.toNat ≥ y.toNat) ]

/-- The register and the predicate that an instruction writes which reads or writes registers, predicates, the pc and the data store's bytes
only, and stores nothing: S0 and P7 stand for none. -/
def writesOf : Instr → Option (Reg × Pred)
  | .add _ d _ _ | .sub _ d _ _ | .mul _ d _ _ | .mulh _ d _ _ | .mulhn _ d _ _ | .div _ d _ _ | .divn _ d _ _ | .rem _ d _ _
  | .remn _ d _ _ | .and _ d _ _ | .or _ d _ _ | .xor _ d _ _ | .andn _ d _ _ | .shl _ d _ _ | .shr _ d _ _ | .sar _ d _ _
  | .min _ d _ _ | .minn _ d _ _ | .max _ d _ _ | .maxn _ d _ _ | .sext _ d _ _ | .zext _ d _ _ => some (d, 7)
  | .addImm _ d _ _ | .subImm _ d _ _ | .mulImm _ d _ _ | .mulhImm _ d _ _ | .mulhnImm _ d _ _ | .divImm _ d _ _ | .divnImm _ d _ _
  | .remImm _ d _ _ | .remnImm _ d _ _ | .andImm _ d _ _ | .orImm _ d _ _ | .xorImm _ d _ _ | .andnImm _ d _ _ | .shlImm _ d _ _
  | .shrImm _ d _ _ | .sarImm _ d _ _ | .minImm _ d _ _ | .minnImm _ d _ _ | .maxImm _ d _ _ | .maxnImm _ d _ _ | .sextImm _ d _ _
  | .zextImm _ d _ _ => some (d, 7)
  | .clz _ d _ | .clzImm _ d _ | .popc _ d _ | .popcImm _ d _ | .li _ d _ | .lui _ d _ _ | .sel _ d _ _ _ => some (d, 7)
  | .setp _ _ p _ _ | .setpi _ _ p _ _ | .plog _ p _ _ _ => some (0, p)
  | .br _ _ | .brx _ _ | .ret _ | .yield _ | .nop _ => some (0, 7)
  | .call _ _ => some (31, 7)
  | .loop _ d _ => some (d, 7)
  | .ld _ _ d _ _ => some (d, 7)
  | .rdts _ d | .crd _ d _ => some (d, 7)
  | _ => none

/-- The state after a global access has been issued by the running task: it is recorded with its parts, the cache class of each, its die's incarnation and those that
the die holds of the homes it goes to (R385), and its counter rises (R247). -/
def State.issued (s : State) (op : GOp) (o : Order) (sc : SScope) (va : Word) (ps : List (Nat × Nat × Bool)) (cs : List (BitVec 2)) (k : Cnt) :
    State :=
  let homes := ((ps.filter fun p => paHbm p.1).map fun p => s.homeOf p.1).eraseDups
  let (aims, s1) := State.aimAll s.myDie homes { s with nextSerial := s.nextSerial + 1 }
  let acc : GAccess := ⟨s.nextSerial, s.cur, s.me.activation, s.me.pc, op, o, sc, s.myPart, s.myAsid, va, ps, cs, s.inc s.myDie, aims, [], none⟩
  State.raiseCnt { s1 with accesses := s1.accesses ++ [acc] } s.cur k 1

/-- The atomics of R248 without a compare value, with their codes. -/
def atomTable : List ((Guard → ASize → Order → SScope → Reg → Reg → Reg → Instr) × Nat) :=
  [(.atomgAdd, 0), (.atomgMin, 1), (.atomgMax, 2), (.atomgMinn, 3), (.atomgMaxn, 4), (.atomgAnd, 5), (.atomgOr, 6), (.atomgXor, 7),
    (.atomgXchg, 8)]

/-! ### When an op of the fabric fires -/

/-- The op at the focus has its turn as `w`: its stripe is resident and its run running, nothing of an earlier firing is left to write, it
waits for no retirement, release or swap, and its register holds no uncorrectable error (R36, R37, R153, R389). -/
def Ready (s : State) (w : Work) : Prop :=
  s.workAt s.focus = some w ∧ w.op.outq = [] ∧ w.op.parked w.run = false ∧ w.op.bad = false

/-- The machine after a firing whose outputs all have room: the tokens go out, and the op's state and its inputs are as `w` has them. -/
def Work.done (fs : List OutF) (node : BitVec 5) (w : Work) : State :=
  Work.store { w.written fs node with op := { (w.written fs node).op with outq := restOuts w.outs [] } }

/-- What a firing that writes as `w` says makes of the machine: when every output has room it happens; until then the inputs stay, and the seam
FIFOs that lack a granule ask for it (R27, R352). -/
def Comes (fs : List OutF) (node : BitVec 5) (s : State) (w : Work) (o : Host.Outcome State Fault Refusal) : Prop :=
  (w.canCommit fs node = true → o = .next (w.done fs node))
  ∧ (w.canCommit fs node = false → o = .next (w.asks fs (firstOuts w.outs []) s))

/-- The op after a DATA firing has used every port and the predicate bit (R28, R29, R127). -/
def Work.used (f : CCFrame) (w : Work) : Work := (f.ports.foldl (fun x p => x.take p.1 p.2) w).takePred f.pin

/-- A compute-cell op is due for a DATA firing with the predicate bit given: no resolution is under way, a DATA token stands at every stream
port, every held port has its token resident, free of an uncorrectable error, or DATA at its head and no marker there, and `a`, `y` and `c` are
the tokens its ports give (R127, R389). -/
def DataDue (f : CCFrame) (bit : Bool) (s : State) (w : Work) (a y c : Token) : Prop :=
  Ready s w ∧ w.op.resolving = none
  ∧ (∀ p ∈ f.streams, ∃ t, w.head p.1 p.2 = some t ∧ t.kind = 0)
  ∧ (∀ p ∈ f.helds, (w.resident p.1).isSome = false → ∃ t, w.head p.1 p.2 = some t ∧ t.kind = 0)
  ∧ (∀ n h, w.resident n = some h → h.tok.bad = false)
  ∧ (∀ p ∈ f.helds, ∀ t, w.head p.1 p.2 = some t → t.isMarker = false)
  ∧ w.predBit f.pin f.psense = some bit
  ∧ w.portTok f.ty f.imm .a f.a = some a ∧ w.portTok f.ty f.imm .b f.b = some y ∧ w.portTok f.ty f.imm .c f.c = some c

/-- A memory-cell op is due for a DATA firing with the predicate bit given: it holds no request, waits for nothing, resolves nothing, writes no
token of a firing of several, is within no firing, a DATA token stands at every stream port, and every held port has its token resident or
DATA at its head and no marker there, none with an uncorrectable error (R127, R189, R190, R389). -/
def McDue (f : MCFrame) (bit : Bool) (s : State) (w : Work) : Prop :=
  s.workAt s.focus = some w ∧ w.op.heldReq = none ∧ w.op.parked w.run = false ∧ w.op.resolving = none ∧ w.op.bad = false
  ∧ (∀ x ∈ w.op.mcq, x.more = false)
  ∧ (∀ n h, w.resident n = some h → h.tok.bad = false)
  ∧ (∀ p ∈ f.streams, ∃ t, w.head p.1 p.2 = some t ∧ t.kind = 0)
  ∧ (∀ p ∈ f.helds, (w.resident p.1).isSome = false → ∃ t, w.head p.1 p.2 = some t ∧ t.kind = 0)
  ∧ (∀ p ∈ f.helds, ∀ t, w.head p.1 p.2 = some t → t.isMarker = false)
  ∧ w.predBit f.pin f.psense = some bit

/-- One turn of a memory-cell op that makes one access for each lane of L, the machine after it `s1`, with `v` and `m` what it has of its answer:
the op goes on with the next lane, or after the last uses its ports and queues an answer as `item` says (R196, R294). -/
def LaneTurn (f : MCFrame) (L : List (Nat × Int)) (w : Work) (s1 : State) (v : List (BitVec 32)) (m : BitVec 16) (item : McItem → Prop)
    (o : Host.Outcome State Fault Refusal) : Prop :=
  (1 < L.length → ∃ n : OpState, o = .next (Work.store { w with s := s1, op := n }) ∧ n.vals = v ∧ n.bufMask = m ∧ n.agIdx = some [] ∧ n.mcq = w.op.mcq
    ∧ ∀ q, L.head? = some q → n.col = q.1 + 1)
  ∧ (L.length ≤ 1 → ∃ (n : OpState) (x : McItem), o = .next (Work.takeMc f { w with s := s1, op := n }).store ∧ n.mcq = w.op.mcq ++ [x] ∧ n.col = 0
    ∧ n.agIdx = none ∧ x.out = none ∧ x.reads = [] ∧ item x)

/-- A token of elements: DATA with the mask of `a`, each valid element the value given and every other element port A's (R22, R126). -/
def IsElems (wd : Nat) (a t : Token) (v : Nat → Nat) : Prop :=
  t.kind = 0 ∧ t.mask = a.mask
  ∧ ∀ e < 512 / wd, elem t.payload wd e = if validE a.mask wd e = true then v e else elem a.payload wd e

/-- The integer ops whose exact result is brought into T: the result, from T values (R133). -/
def finTable : List ((CCFrame → Instr) × (Int → Int → Int → Int)) :=
  [(.ccAdd, fun a b _ => a + b), (.ccSub, fun a b _ => a - b), (.ccMul, fun a b _ => a * b), (.mad, fun a b c => a * b + c),
    (.absd, fun a b _ => max (a - b) (b - a))]

/-- The other integer and logic ops, with the result as a pattern of width w, from patterns (R133 to R135); `v` gives a pattern's T value. -/
def patTable : List ((CCFrame → Instr) × (CCFrame → Nat → (Nat → Int) → Nat → Nat → Nat → Nat)) :=
  [(.pass, fun _ _ _ a _ _ => a), (.ccMulh, fun _ w v a b _ => (v a * v b / 2 ^ w % 2 ^ w).toNat),
    (.ccMin, fun _ _ v a b _ => if v a ≤ v b then a else b), (.ccMax, fun _ _ v a b _ => if v b ≤ v a then a else b),
    (.ccAnd, fun _ _ _ a b _ => a &&& b), (.ccOr, fun _ _ _ a b _ => a ||| b), (.ccXor, fun _ _ _ a b _ => a ^^^ b),
    (.ccAndn, fun _ w _ a b _ => a &&& (2 ^ w - 1 - b)), (.ccShl, fun _ w _ a b _ => a * 2 ^ (b % w) % 2 ^ w),
    (.ccShr, fun _ w _ a b _ => a / 2 ^ (b % w)), (.ccSar, fun _ w v a b _ => (v a / 2 ^ (b % w) % 2 ^ w).toNat),
    (.rol, fun _ w _ a b _ => a * 2 ^ (b % w) % 2 ^ w + a / 2 ^ (w - b % w)),
    (.ccClz, fun _ w _ a _ _ => w - Nat.size a), (.ccPopc, fun _ w _ a _ _ => ((Finset.range w).filter fun i => a.testBit i = true).card),
    (.cmpv, fun f w v a b _ => if [v a == v b, v a != v b, decide (v a < v b), decide (v a ≤ v b), decide (v b < v a), decide (v b ≤ v a)].getD (f.flags.extractLsb' 0 3).toNat false then 2 ^ w - 1 else 0),
    (.selv, fun _ _ _ a b c => if c ≠ 0 then a else b)]

/-- The value that an atomic of a code stores (R248): `x` is the old value and `y` the operand, both of the access's width. -/
def atomValue {w : Nat} (code : Nat) (x y : BitVec w) : BitVec w :=
  match code with
  | 0 => x + y
  | 1 => if x.toInt ≤ y.toInt then x else y
  | 2 => if x.toInt ≤ y.toInt then y else x
  | 3 => if x.toNat ≤ y.toNat then x else y
  | 4 => if x.toNat ≤ y.toNat then y else x
  | 5 => x &&& y
  | 6 => x ||| y
  | 7 => x ^^^ y
  | _ => y

/-- The state in which the running task has read a record of `n` bytes: the blocks it lies in have been read by their home controller (R326), and
nothing of it is outstanding outside the package. -/
def State.recorded (s : State) (va n : Nat) : State := (s.touchV s.myDie s.myPart s.myAsid va n).forget (.task s.cur)

/-- Whether what a die holds of another's incarnation is the present one, or it is that die itself (R385). -/
def State.knows (s : State) (die home : Nat) : Prop := die = home ∨ s.knownInc die home = s.inc home

/-- One event of an ILOAD that has the words of `l` to write, each with its address: one of them is written, every other byte of every store is kept,
and the ILOAD completes with the last (R280). -/
def LoadsWord (s t : State) (l : List (Nat × List Byte)) : Prop :=
  SameRegsBut s t s.cur 0 ∧ SameHbm s t ∧ (∀ r, r ≠ taskRing s.cur → t.sequencer r = s.sequencer r)
  ∧ (t.sequencer (taskRing s.cur)).dstore = (s.sequencer (taskRing s.cur)).dstore
  ∧ ∃ k x bs, l[k]? = some (x, bs)
    ∧ (∀ i < bs.length, Memory.read (t.sequencer (taskRing s.cur)).istore (x + i) = bs.getD i 0)
    ∧ (∀ y, y < x ∨ x + bs.length ≤ y → Memory.read (t.sequencer (taskRing s.cur)).istore y = Memory.read (s.sequencer (taskRing s.cur)).istore y)
    ∧ (l.length = 1 → t.me.pc = s.me.pc + 8 ∧ t.me.waitFor = none)
    ∧ (l.length ≠ 1 → t.me.pc = s.me.pc ∧ t.me.waitFor = some (.words (l.eraseIdx k)))

/-- What the instructions that read a view record need of it: the record at a, aligned, readable and keeping R118 with the coordinates of b. -/
def ViewAt (a b : Reg) (s : State) (v : View) : Prop :=
  (s.r a).toNat % 64 = 0
  ∧ (∃ bs, s.readV s.myDie s.myPart s.myAsid (.task s.cur) (s.r a).toNat 64 = .ok bs ∧ viewOf bs = some v)
  ∧ ∀ d < 4, v.dims ≤ d → coord (s.r b) d = 0

end Machine
end Sys2Proof
end

