-- ==== Sys2Proof/Certificates/Slice0/Obligations.lean ====
section
/-! DEFINITION. Certificates/Slice0/Obligations: the statements for the provers. -/
open Sys2Proof Sys2Proof.Machine

/-! ### Register instructions of a sequencer -/

/-- R223: a sequencer instruction whose guard is false only moves the pc past itself (and counts toward SAFEGAP, R275): it writes no
register, predicate or memory, raises no counter, does not block and takes no fault. The guard is read from the instruction's word, and
guard P7 with sense 1 is never true. -/
def Obligations.FalseGuardOnlyAdvances : Prop :=
  (∀ i w s, encodeSeq i = some w → Guard.holds (seqFields w).guard s.me = false → exec i s = .next (s.onTo (s.me.pc + 8)))
  ∧ (∀ x : Task, Guard.holds ⟨true, 7⟩ x = false)
  ∧ (∀ (g : Guard) (x : Task), Guard.holds g x = (x.pred g.p ^^ g.sense))

/-- R228, R230: the two-operand ALU instructions (ADD, SUB, MUL, MULH, MULHN, DIV, DIVN, REM, REMN, AND, OR, XOR, ANDN, SHL, SHR, SAR, MIN,
MINN, MAX, MAXN, SEXT, ZEXT) complete in both forms with the table's result in d, the immediate sign-extended, and change nothing else but
the pc; R227: the result of a multiplication is available 4 clk of the sequencer later, of a division 24 (two of them pass in a clk of the
fabric, in which the machine's clk counts). R229, R231: CLZ and POPC count from operand a in both forms; LI, LUI and SEL write what their table says; each completes. -/
def Obligations.AluAndConstantsComplete : Prop :=
  (∀ row ∈ aluTable, ∀ (g : Guard) (d a : Reg) (s : State),
      (∀ b, Issues g .free [a, b] [d] s → exec (row.1 g d a b) s = .next (s.wroteAfter row.2.2.1 d (row.2.2.2 (s.r a) (s.r b))))
      ∧ (∀ imm, Issues g .free [a] [d] s → exec (row.2.1 g d a imm) s = .next (s.wroteAfter row.2.2.1 d (row.2.2.2 (s.r a) (imm.signExtend 64)))))
  ∧ ((∀ (g : Guard) (d a : Reg) (s : State), Issues g .free [a] [d] s →
      (∃ n : Nat, exec (.clz g d a) s = .next (s.wrote d (BitVec.ofNat 64 n)) ∧ exec (.clzImm g d a) s = .next (s.wrote d (BitVec.ofNat 64 n))
        ∧ n ≤ 64 ∧ (s.r a).toNat < 2 ^ (64 - n) ∧ (n < 64 → 2 ^ (63 - n) ≤ (s.r a).toNat))
      ∧ (∃ n : Nat, exec (.popc g d a) s = .next (s.wrote d (BitVec.ofNat 64 n)) ∧ exec (.popcImm g d a) s = .next (s.wrote d (BitVec.ofNat 64 n))
        ∧ n = ((Finset.range 64).filter fun i => (s.r a).getLsbD i = true).card)
      ∧ (∀ imm, exec (.lui g d a imm) s = .next (s.wrote d (BitVec.ofNat 64 (imm.toNat * 2 ^ 32 + (s.r a).toNat % 2 ^ 32)))))
    ∧ (∀ (g : Guard) (d : Reg) (imm : BitVec 32) (s : State), Issues g .free [] [d] s →
      exec (.li g d imm) s = .next (s.wrote d (BitVec.ofInt 64 imm.toInt)))
    ∧ (∀ (g : Guard) (d a b : Reg) (p : Pred) (s : State), Issues g .free [a, b] [d] s →
      exec (.sel g d a b p) s = .next (s.wrote d (if p = 7 ∨ s.me.pred p = true then s.r a else s.r b))))

/-- R232, R233: SETP, SETPI and PLOG complete with the condition, or the table's bit, in the destination predicate; a write to P7 is
discarded (R224), and nothing else changes but the pc. -/
def Obligations.PredicatesComplete : Prop :=
  (∀ (g : Guard) (p : Pred) (a b : Reg) (s : State), Issues g .free [a, b] [] s → ∀ row ∈ condTable,
    exec (.setp g row.1 p a b) s = .next ((s.updMe fun x => x.setPred p (row.2 (s.r a) (s.r b))).onTo (s.me.pc + 8)))
  ∧ (∀ (g : Guard) (p : Pred) (a : Reg) (imm : BitVec 32) (s : State), Issues g .free [a] [] s → ∀ row ∈ condTable,
    exec (.setpi g row.1 p a imm) s = .next ((s.updMe fun x => x.setPred p (row.2 (s.r a) (imm.signExtend 64))).onTo (s.me.pc + 8)))
  ∧ (∀ (g : Guard) (p pa pb : Pred) (table : BitVec 4) (s : State), Issues g .free [] [] s →
    exec (.plog g p pa pb table) s =
      .next ((s.updMe fun x => x.setPred p (table.getLsbD (2 * (s.me.pred pa).toNat + (s.me.pred pb).toNat))).onTo (s.me.pc + 8)))

/-- R234: BR, BRX, CALL, RET and LOOP complete with the table's pc; the offset is added modulo 2^16 to the instruction's own address, and
the bits of a and S31 above bit 15 are ignored. R234: a BRX or RET whose guard is true and whose target is not a multiple of 8 takes a
precise ILLOP at itself; a task that is in its handler already is stopped instead (R48). -/
def Obligations.BranchesCompleteOrTrap : Prop :=
  ((∀ g off s, Issues g .free [] [] s → exec (.br g off) s = .next (s.onTo (BitVec.ofNat 16 (s.me.pc.toNat + off.toNat))))
    ∧ (∀ g a s, Issues g .free [a] [] s → (s.r a).toNat % 8 = 0 → exec (.brx g a) s = .next (s.onTo ((s.r a).setWidth 16)))
    ∧ (∀ g off s, Issues g .free [] [31] s →
        exec (.call g off) s = .next ((s.setR 31 ((s.me.pc + 8).setWidth 64)).onTo (BitVec.ofNat 16 (s.me.pc.toNat + off.toNat))))
    ∧ (∀ g s, Issues g .free [31] [] s → (s.r 31).toNat % 8 = 0 → exec (.ret g) s = .next (s.onTo ((s.r 31).setWidth 16)))
    ∧ (∀ g d off s, Issues g .free [d] [d] s → d ≠ 0 →
        exec (.loop g d off) s = .next ((s.setR d (s.r d - 1)).onTo
          (if s.r d = 1 then s.me.pc + 8 else BitVec.ofNat 16 (s.me.pc.toNat + off.toNat)))))
  ∧ ((∀ g a s, Issues g .free [a] [] s → (s.r a).toNat % 8 ≠ 0 →
      exec (.brx g a) s = .next (s.takeFault s.cur 0 s.me.pc (s.report fILLOP 0 0)))
    ∧ (∀ g s, Issues g .free [31] [] s → (s.r 31).toNat % 8 ≠ 0 →
      exec (.ret g) s = .next (s.takeFault s.cur 0 s.me.pc (s.report fILLOP 0 0))))

/-- R46, R224: S0 reads 0 and P7 reads 1 in every state, and a write to either changes no register and no predicate; a write to another
register or predicate is what the next read gives, and leaves every other one alone. -/
def Obligations.HardwiredRegisters : Prop :=
  ∀ (x : Task) (r : Reg) (v : Word) (p : Pred) (b : Bool),
    x.reg 0 = 0 ∧ x.pred 7 = true
    ∧ (∀ q, (x.setReg r v).reg q = if q = r ∧ r ≠ 0 then v else x.reg q)
    ∧ (∀ q, (x.setPred p b).pred q = if q = p ∧ p ≠ 7 then b else x.pred q)
    ∧ (∀ q, (x.setReg r v).pred q = x.pred q) ∧ (∀ q, (x.setPred p b).reg q = x.reg q)

/-- R236, R237: NOP completes with no effect. YIELD completes and puts the slot last in the sequencer's round-robin order; its status stays.
TEND completes: the slot is IDLE with the in-handler bit clear, and registers, predicates, ENTRY, HVEC and counters keep their values; the
task is in no sync group afterwards. -/
def Obligations.NopYieldTendComplete : Prop :=
  ∀ g s, Issues g .free [] [] s →
    exec (.nop g) s = .next (s.onTo (s.me.pc + 8))
    ∧ exec (.yield g) s = .next ((s.rotate (taskRing s.cur) (taskSlot s.cur)).onTo (s.me.pc + 8))
    ∧ (((s.rotate (taskRing s.cur) (taskSlot s.cur)).sequencer (taskRing s.cur)).order.getLast? = some (taskSlot s.cur))
    ∧ ∃ t, exec (.tend g) s = .next t ∧ t.me.status = .idle ∧ t.me.inHandler = false ∧ t.me.pc = s.me.pc + 8
      ∧ (∀ r, t.me.reg r = s.me.reg r) ∧ SameControl s t s.cur ∧ (∀ p, t.me.pred p = s.me.pred p)
      ∧ ∀ x ∈ t.groups, s.me.activation ∉ x.members

/-- R224, R228 to R237, R242, R278: the frame of the instructions that store nothing (the ALU in both forms, LI, LUI, SEL, SETP, SETPI, PLOG,
BR, BRX, CALL, RET, LOOP, YIELD, NOP, LD, RDTS, CRD): whatever next state one gives, every byte of memory, tile storage and the sequencer
stores reads as before, every register but its destination and every predicate but its destination keeps its value, and so does every
counter, control register and channel; the exception registers change only by handler entry. -/
def Obligations.RegisterFrame : Prop :=
  ∀ i d p s t, writesOf i = some (d, p) → exec i s = .next t →
    SameBytes s t
    ∧ (∀ k r, (k ≠ s.cur ∨ r ≠ d ∨ r = 0) → (t.task k).reg r = (s.task k).reg r)
    ∧ (∀ k q, (k ≠ s.cur ∨ q ≠ p ∨ q = 7) → (t.task k).pred q = (s.task k).pred q)
    ∧ (∀ k, SameControl s t k ∧ SameException s t k)
    ∧ (∀ k, (s.queue k) = (t.queue k))

/-! ### Channels and the data store -/

/-- R239: with an entry in the task's channel whose release has been applied at its die, RECV removes the head, writes its word to d and
then kind + 8 × level + 64 × slice to e, and WAITCH removes nothing; with an empty channel both block. -/
def Obligations.ChannelReadsComplete : Prop :=
  ∀ (g : Guard) (d e : Reg) (s : State),
    (∀ h tl, s.queue s.cur = h :: tl → s.applied s.myDie h.deps = true →
      (Issues g .free [] [d, e] s → exec (.recv g d e) s =
        .next ((((s.setQueue s.cur tl).setR d h.word).setR e
          (BitVec.ofNat 64 (h.kind.toNat + 8 * (if h.kind = 1 then h.level.toNat else 0) + 64 * h.slice.toNat))).onTo (s.me.pc + 8)))
      ∧ (Issues g .free [] [] s → exec (.waitch g) s = .next (s.onTo (s.me.pc + 8))))
    ∧ (s.queue s.cur = [] →
      (Issues g .free [] [d, e] s → exec (.recv g d e) s = .next (s.block .chan))
      ∧ (Issues g .free [] [] s → exec (.waitch g) s = .next (s.block .chan)))

/-- R117, R240, R241: SENDQ in both forms. An enabled endpoint of a channel Qn of the task's partition, on a die whose incarnation the task's die
knows, receives the entry when it has room and every earlier access of the task is performed, and the instruction completes; while it is full, or
an access is outstanding, the task blocks. An IF endpoint of a run's QUEUE binding receives it as a token (DATA in lanes 1:0 with lane mask 0x0003,
a STOP of its level, or the marker), a STOP of level 7 closing the binding, and otherwise blocks in the same way. At once, whatever is
outstanding: a disabled endpoint completes with nothing delivered; a reserved endpoint value in a register, an endpoint outside the partition, and
an IF endpoint on a ring with no run or not bound as QUEUE are a precise PERM; and at a closed binding the instruction completes with nothing
delivered, which is the model's choice (assumption 98). -/
def Obligations.SendqDelivers : Prop :=
  ∀ (g : Guard) (k : SendKind) (a b : Reg) (ep : BitVec 16) (s : State) (i : Instr), s.me.waitFor = none →
    ((i = .sendq g k a ep ∧ Issues g .free [a] [] s)
      ∨ (i = .sendqReg g k a b ∧ ep = (s.r b).extractLsb' 0 16 ∧ Issues g .free [a, b] [] s)) →
    (∀ ring ch, endpointOf ep = some ⟨true, ring, ch⟩ → s.ringPart ring = some s.myPart → ch < 8 →
      s.knows s.myDie (ringDie ring) →
      ((s.queue (8 * ring + ch)).length < 32 → s.accessesOf s.cur = [] →
        exec i s = .next ((s.pushQ (8 * ring + ch) ⟨k.code, k.level, false, s.r a, s.sendDeps ep⟩).onTo (s.me.pc + 8)))
      ∧ (32 ≤ (s.queue (8 * ring + ch)).length ∨ s.accessesOf s.cur ≠ [] → exec i s = .next (s.block (.deliver ep none))))
    ∧ (∀ ring (j : Fin 8), endpointOf ep = some ⟨true, ring, 8 + j.val⟩ → s.ringPart ring = some s.myPart →
      (s.runOnRing ring = none → exec i s = .next (s.takeFault s.cur 0 s.me.pc (s.report fPERM 0 0)))
      ∧ (∀ r, s.runOnRing ring = some r → s.run r.serial = some r →
        (bindKind r.recd.ifb[j] ≠ 2 → exec i s = .next (s.takeFault s.cur 0 s.me.pc (s.report fPERM 0 0)))
        ∧ (bindKind r.recd.ifb[j] = 2 → r.ins[j].closed = true → exec i s = .next (s.onTo (s.me.pc + 8)))
        ∧ (bindKind r.recd.ifb[j] = 2 → r.ins[j].closed = false →
          (r.ins[j].room = false ∨ s.accessesOf s.cur ≠ [] → exec i s = .next (s.block (.deliver ep (some r.serial))))
          ∧ (r.ins[j].room = true → s.accessesOf s.cur = [] → s.knows s.myDie (ringDie ring) →
            ∃ x : Token, x.kind = k.code ∧ (∀ l, k = .stop l → x.level.toNat = l.val + 1) ∧ ((∀ l, k ≠ .stop l) → x.mask = 3 ∧ lanes10 x.payload = s.r a)
              ∧ x.deps = s.sendDeps ep ∧ exec i s = .next ((s.updRun r.serial fun y => { y with
                  ins := y.ins.set j.val { r.ins[j].accept r.cutRule x with closed := decide (k = .stop 6) } }).onTo (s.me.pc + 8))))))
    ∧ (∀ ring ch, endpointOf ep = some ⟨false, ring, ch⟩ → exec i s = .next (s.onTo (s.me.pc + 8)))
    ∧ ((endpointOf ep = none ∨ ∃ ring ch, endpointOf ep = some ⟨true, ring, ch⟩ ∧ s.ringPart ring ≠ some s.myPart) →
        exec i s = .next (s.takeFault s.cur 0 s.me.pc (s.report fPERM 0 0)))

/-- R242: LD writes the bytes at (a + imm)[16:0] of the ring's data store, each address modulo 2^17, lowest byte first, zero- or
sign-extended; ST writes the low bytes of d there and changes no other byte of that store; both complete. (A word with an uncorrectable
error is R389's matter: no word read here has one.) -/
def Obligations.DataStoreAccesses : Prop :=
  (∀ (g : Guard) (sz : LoadSize) (d a : Reg) (imm : BitVec 32) (s : State), Issues g .free [a] [d] s →
    (s.sequencer (taskRing s.cur)).dataBad (dataAddr (s.r a) imm) sz.bytes = false →
    ∃ v, exec (.ld g sz d a imm) s = .next (s.wrote d v)
      ∧ (∀ i < 8 * sz.bytes, v.getLsbD i = (Memory.read (s.sequencer (taskRing s.cur)).dstore
          (((s.r a).toNat + (imm.signExtend 64).toNat + i / 8) % 131072)).getLsbD (i % 8))
      ∧ (∀ i, 8 * sz.bytes ≤ i → i < 64 → v.getLsbD i = (sz.signed && v.getLsbD (8 * sz.bytes - 1))))
  ∧ (∀ (g : Guard) (sz : Size) (d a : Reg) (imm : BitVec 32) (s : State), Issues g .free [a, d] [] s → MemoryForm s →
    ∃ m, exec (.st g sz d a imm) s =
        .next ((s.setSequencer (taskRing s.cur) { s.sequencer (taskRing s.cur) with dstore := m }).onTo (s.me.pc + 8))
      ∧ (∀ i < sz.bytes, Memory.read m (((s.r a).toNat + (imm.signExtend 64).toNat + i) % 131072) = (s.r d).extractLsb' (8 * i) 8)
      ∧ (∀ x, (∀ i < sz.bytes, x ≠ ((s.r a).toNat + (imm.signExtend 64).toNat + i) % 131072) →
          Memory.read m x = Memory.read (s.sequencer (taskRing s.cur)).dstore x))

/-! ### Global memory -/

/-- R225, R245, R247, R248: an LDG, STG or ATOMG (ADD, MIN, MAX, MINN, MAXN, AND, OR, XOR, XCHG, CAS) whose parts translate with the
permission it needs issues and goes on: the access is recorded, with its parts in address order, and raises ld, or st for STG; STG reads d
at issue; ATOMG clears the low address bits of its size. R225, R245: an LDG, STG or ATOMG whose translation or permission check fails takes
a precise fault, at itself, that names the failing address; with an untranslated page it waits for the walk, having had no effect. (Of STG, word
3 of the record names the data register where R383 has the destination register: the model's choice, assumption 86.) -/
def Obligations.GlobalAccessesIssueOrTrap : Prop :=
  (∀ (g : Guard) (d a b c : Reg) (imm : BitVec 32) (sc : SScope) (s : State),
      (∀ sz o ps cs, Issues g .free [a] [d] s →
        s.translateParts s.myDie s.myPart s.myAsid ⟨true, false, false⟩ (partsOf (s.r a + imm.signExtend 64).toNat sz.bytes) = .ok ps cs →
        s.me.cnt.ld.toNat < 255 →
        exec (.ldg g sz o sc d a imm) s = .next ((s.issued (.load sz d) o.cls sc (s.r a + imm.signExtend 64) ps cs .ld).onTo (s.me.pc + 8)))
      ∧ (∀ sz o ps cs, Issues g .store [a, d] [] s →
        s.translateParts s.myDie s.myPart s.myAsid ⟨false, true, false⟩ (partsOf (s.r a + imm.signExtend 64).toNat sz.bytes) = .ok ps cs →
        s.me.cnt.st.toNat < 255 →
        exec (.stg g sz o sc d a imm) s =
          .next ((s.issued (.store sz d (s.r d)) o.cls sc (s.r a + imm.signExtend 64) ps cs .st).onTo (s.me.pc + 8)))
      ∧ (∀ sz o ps cs, ∀ va : Word, va = BitVec.ofNat 64 ((s.r a).toNat / sz.bytes * sz.bytes) →
        s.translateParts s.myDie s.myPart s.myAsid ⟨true, true, true⟩ (partsOf va.toNat sz.bytes) = .ok ps cs →
        s.me.cnt.ld.toNat < 255 →
        (∀ row ∈ atomTable, Issues g .store [a, b, 0] [d] s →
          exec (row.1 g sz o sc d a b) s = .next ((s.issued (.atom row.2 sz (s.r b) 0 d) o sc va ps cs .ld).onTo (s.me.pc + 8)))
        ∧ (Issues g .store [a, b, c] [d] s →
          exec (.atomgCas g sz o sc d a b c) s = .next ((s.issued (.atom 9 sz (s.r b) (s.r c) d) o sc va ps cs .ld).onTo (s.me.pc + 8)))))
  ∧ (∀ (g : Guard) (d a b c : Reg) (imm : BitVec 32) (sc : SScope) (s : State) (i : Instr) (need : Need) (va : Word) (n info : Nat),
      ((∃ sz o, i = .ldg g sz o sc d a imm ∧ Issues g .free [a] [d] s ∧ need = ⟨true, false, false⟩ ∧ va = s.r a + imm.signExtend 64
          ∧ n = LoadSize.bytes sz ∧ info = accessInfo d (sizeCode n) (LoadSize.signed sz))
        ∨ (∃ sz o, i = .stg g sz o sc d a imm ∧ Issues g .store [a, d] [] s ∧ need = ⟨false, true, false⟩ ∧ va = s.r a + imm.signExtend 64
          ∧ n = Size.bytes sz ∧ info = accessInfo d (sizeCode n) false)
        ∨ (∃ sz o, ((∃ row ∈ atomTable, i = row.1 g sz o sc d a b ∧ Issues g .store [a, b, 0] [d] s)
            ∨ (i = .atomgCas g sz o sc d a b c ∧ Issues g .store [a, b, c] [d] s))
          ∧ need = ⟨true, true, true⟩ ∧ va = BitVec.ofNat 64 ((s.r a).toNat / ASize.bytes sz * sz.bytes) ∧ n = ASize.bytes sz
          ∧ info = accessInfo d (sizeCode n) false)) →
      (∀ code acc x, s.translateParts s.myDie s.myPart s.myAsid need (partsOf va.toNat n) = .bad code acc x →
        exec i s = .next ((s.dropWalkFault s.myDie s.myAsid x).takeFault s.cur (if code = fTAGFAIL then 1 else 0) s.me.pc
          ⟨code, acc, x, s.me.pc.toNat + info * 65536⟩))
      ∧ (∀ pages, s.translateParts s.myDie s.myPart s.myAsid need (partsOf va.toNat n) = .miss pages →
        exec i s = .next ((s.queueWalks s.myDie s.myAsid pages).block (.walks s.myDie s.myAsid pages))))

/-- R225, R246 to R248: GLOBAL_ACCESS_COMPLETE of an access in one part that the order rules let go on. A load writes its register with
the bytes its die reads, extended. A store puts the low bytes of its value where its die reads them, and no other byte changes for anyone,
nor this one for another die yet. An atomic stores the table's value as one event with its read and returns the old one. In each the
counter falls by one, the access is over, and no other register changes. A store of the ordered class whose write has been applied
everywhere completes too. R244 to R248: LDG, STG and every ATOMG of a naturally aligned address in package memory, issued by a task with no
other access outstanding, complete in two steps, the instruction's and the completion's of the access it issued: with the register's
new value, the bytes stored, and the counters as before. -/
def Obligations.GlobalAccessCompletes : Prop :=
  (∀ (s : State) (n : Nat) (a : GAccess) (pa len : Nat) (sh : Bool), MemoryForm s →
    s.accesses.find? (fun b => b.serial == n) = some a → a.written = none → a.parts = [(pa, len, sh)] → a.got = [] → a.order ≠ .ord →
    s.staleTarget a = false → taskDie a.task < 6 → s.mayPerform a = true → (∀ i < len, paHbm (pa + i) = true) → 0 < len → s.blockFault sh pa = none →
    (∀ sz d, a.op = .load sz d → ∃ t, exec (.globalAccessComplete n) s = .next t ∧ SameHbm s t ∧ t.mem = s.mem ∧ t.sram = s.sram ∧ t.seqs = s.seqs
      ∧ SameRegsBut s t a.task d
      ∧ (d ≠ 0 → (t.task a.task).reg d = extendWord sz.signed (s.viewBytes (taskDie a.task) pa len))
      ∧ (t.task a.task).cnt = { (s.task a.task).cnt with ld := BitVec.ofNat 8 ((s.task a.task).cnt.ld.toNat - 1) }
      ∧ t.accesses = s.accesses.filter fun b => b.serial != a.serial)
    ∧ (∀ sz d v, a.op = .store sz d v → len = sz.bytes → ∃ t, exec (.globalAccessComplete n) s = .next t ∧ SameRegsBut s t a.task 0
      ∧ (∀ i < len, t.view (taskDie a.task) (pa + i) = v.extractLsb' (8 * i) 8)
      ∧ (∀ e x, paHbm x = true → x < pa ∨ pa + len ≤ x → t.view e x = s.view e x)
      ∧ (∀ e < 6, e ≠ taskDie a.task → ∀ x, paHbm x = true → t.view e x = s.view e x)
      ∧ (t.task a.task).cnt = { (s.task a.task).cnt with st := BitVec.ofNat 8 ((s.task a.task).cnt.st.toNat - 1) }
      ∧ t.accesses = s.accesses.filter fun b => b.serial != a.serial)
    ∧ (∀ code sz b c d, a.op = .atom code sz b c d → len = sz.bytes → code ≤ 9 →
      ∀ old : BitVec (8 * len), old = BitVec.ofNat (8 * len) (leNat (Memory.readBytes s.mem pa len)) →
      ∃ t, exec (.globalAccessComplete n) s = .next t ∧ SameRegsBut s t a.task d
        ∧ (d ≠ 0 → (t.task a.task).reg d = old.setWidth 64)
        ∧ (∀ i < len, Memory.read t.mem (pa + i) =
            (if code = 9 ∧ old ≠ c.setWidth (8 * len) then old else atomValue code old (b.setWidth (8 * len))).extractLsb' (8 * i) 8)
        ∧ (∀ e x, paHbm x = true → x < pa ∨ pa + len ≤ x → t.view e x = s.view e x)
        ∧ (t.task a.task).cnt = { (s.task a.task).cnt with ld := BitVec.ofNat 8 ((s.task a.task).cnt.ld.toNat - 1) }
        ∧ t.accesses = s.accesses.filter fun b => b.serial != a.serial))
  ∧ (∀ (s : State) (n w : Nat) (a : GAccess) (sz : Size) (d : Reg) (v : Word), s.accesses.find? (fun b => b.serial == n) = some a →
    a.written = some w → a.op = .store sz d v → (∀ q ∈ s.inFlight, q.serial ≠ w) →
    ∃ t, exec (.globalAccessComplete n) s = .next t ∧ SameBytes s t ∧ SameRegsBut s t a.task 0
      ∧ (t.task a.task).cnt = { (s.task a.task).cnt with st := BitVec.ofNat 8 ((s.task a.task).cnt.st.toNat - 1) }
      ∧ t.accesses = s.accesses.filter fun b => b.serial != a.serial)
  ∧ (∀ (g : Guard) (a b c d : Reg) (imm : BitVec 32) (sc : SScope) (s : State) (va : Word) (pa : Nat) (e : TlbEntry), MemoryForm s → s.myDie < 6 →
    s.accessesOf s.cur = [] → (∀ y ∈ s.accesses, y.serial ≠ s.nextSerial) → (∀ q ∈ s.inFlight, q.ord ≠ some s.myPart) →
    s.blockFault e.shared pa = none → s.knownInc s.myDie (s.homeOf pa) = s.inc (s.homeOf pa) → (∀ i < 8, paHbm (pa + i) = true) →
    (∀ sz o, Issues g .free [a] [d] s → va = s.r a + imm.signExtend 64 → va.toNat % LoadSize.bytes sz = 0 → s.me.cnt.ld.toNat < 255 →
      s.translate s.myDie s.myPart s.myAsid va.toNat ⟨true, false, false⟩ = .ok pa e →
      ∃ t u, exec (.ldg g sz o sc d a imm) s = .next t ∧ exec (.globalAccessComplete s.nextSerial) t = .next u
        ∧ (d ≠ 0 → u.me.reg d = extendWord sz.signed (s.viewBytes s.myDie pa sz.bytes)) ∧ SameRegsBut s u s.cur d ∧ u.me.pc = s.me.pc + 8
        ∧ u.me.cnt = s.me.cnt ∧ u.accesses = s.accesses ∧ u.mem = s.mem ∧ SameHbm s u)
    ∧ (∀ sz o, Issues g .store [a, d] [] s → va = s.r a + imm.signExtend 64 → va.toNat % Size.bytes sz = 0 → s.me.cnt.st.toNat < 255 →
      s.translate s.myDie s.myPart s.myAsid va.toNat ⟨false, true, false⟩ = .ok pa e →
      ∃ t u, exec (.stg g sz o sc d a imm) s = .next t ∧ exec (.globalAccessComplete s.nextSerial) t = .next u
        ∧ (∀ i < sz.bytes, u.view s.myDie (pa + i) = (s.r d).extractLsb' (8 * i) 8 ∧ Memory.read u.mem (pa + i) = (s.r d).extractLsb' (8 * i) 8)
        ∧ (∀ x, x < pa ∨ pa + sz.bytes ≤ x → Memory.read u.mem x = Memory.read s.mem x)
        ∧ (∀ f x, paHbm x = true → x < pa ∨ pa + sz.bytes ≤ x → u.view f x = s.view f x) ∧ SameRegsBut s u s.cur 0 ∧ u.me.pc = s.me.pc + 8
        ∧ (o.cls ≠ .ord → u.me.cnt = s.me.cnt ∧ u.accesses = s.accesses))
    ∧ (∀ sz o, va = BitVec.ofNat 64 ((s.r a).toNat / ASize.bytes sz * sz.bytes) → s.me.cnt.ld.toNat < 255 →
      s.translate s.myDie s.myPart s.myAsid va.toNat ⟨true, true, true⟩ = .ok pa e → s.upToDate s.myDie pa sz.bytes = true →
      ∀ (i : Instr) (code : Nat) (y : Reg), (∃ row ∈ atomTable, i = row.1 g sz o sc d a b ∧ code = row.2 ∧ y = 0) ∨ (i = .atomgCas g sz o sc d a b c ∧ code = 9 ∧ y = c) →
      Issues g .store [a, b, y] [d] s →
      ∀ old : BitVec (8 * sz.bytes), old = BitVec.ofNat (8 * sz.bytes) (leNat (Memory.readBytes s.mem pa sz.bytes)) →
      ∃ t u, exec i s = .next t ∧ exec (.globalAccessComplete s.nextSerial) t = .next u
        ∧ (∀ k < sz.bytes, Memory.read u.mem (pa + k) = (if code = 9 ∧ old ≠ (s.r c).setWidth (8 * sz.bytes) then old
            else atomValue code old ((s.r b).setWidth (8 * sz.bytes))).extractLsb' (8 * k) 8)
        ∧ (∀ x, x < pa ∨ pa + sz.bytes ≤ x → Memory.read u.mem x = Memory.read s.mem x)
        ∧ (∀ f x, paHbm x = true → x < pa ∨ pa + sz.bytes ≤ x → u.view f x = s.view f x) ∧ u.me.pc = s.me.pc + 8
        ∧ (o ≠ .ord → (d ≠ 0 → u.me.reg d = old.setWidth 64) ∧ SameRegsBut s u s.cur d ∧ u.me.cnt = s.me.cnt ∧ u.accesses = s.accesses)))

/-- R285, R292: REMOTE_WRITE_APPLY applies a write at a die that has applied everything the write's vector counts, and only then: no other
die reads anything differently, no byte outside the write's changes there, and a byte of it that no later write is on its way to reads
there as it does at its home. -/
def Obligations.RemoteWriteApplies : Prop :=
  ∀ (s : State) (die n : Nat) (r : RemoteWrite), s.inFlight.find? (fun r => r.dst == die && r.serial == n) = some r →
    (s.canApply r = false → exec (.remoteWriteApply die n) s = .next s)
    ∧ (s.canApply r = true → ∃ t, exec (.remoteWriteApply die n) s = .next t
      ∧ t.mem = s.mem ∧ (∀ q ∈ t.inFlight, ¬ (q.serial = n ∧ q.dst = die))
      ∧ (∀ q ∈ s.inFlight, ¬ (q.serial = n ∧ q.dst = die) → q ∈ t.inFlight)
      ∧ (∀ e x, (e ≠ die ∨ r.covers x = false) → t.view e x = s.view e x)
      ∧ (∀ x, r.covers x = true → paHbm x = true →
          (∀ y ∈ s.stale, y.die = die → y.pa = x → y.serial < n) →
          (∀ q ∈ s.inFlight, q.dst = die → n < q.serial → q.covers x = false) →
          t.view die x = Memory.read s.mem x))

/-! ### Tiles -/

/-- R254, R306, R308, R313: TALLOC in both forms, with a valid count and shape, an entry and granules to be had at once: d receives a
handle that no tile of the partition had on the die; its tile is FILLING, with the descriptor's shape, format, mode and counts, no row
valid and no read made, in storage that no other tile uses; the granules are charged; nothing else changes in any register or in memory.
R254, R313: a TALLOC, in both forms, with a reserved mode or count is a precise ILLOP, with an invalid format or shape a precise FMT; where the request
cannot be granted at once it is queued behind the others of its die and partition, and the task blocks. -/
def Obligations.TallocMakesTileOrWaits : Prop :=
  (∀ (g : Guard) (d a : Reg) (desc : BitVec 27) (s : State) (i : Instr),
      ((i = .talloc g d desc ∧ Issues g .system [] [d] s)
        ∨ (i = .tallocReg g d a ∧ desc = (s.r a).extractLsb' 0 27 ∧ Issues g .system [a] [d] s)) →
      s.me.waitFor = none → s.myPart < 16 → countOk (descOf desc).mode (descOf desc).count = true →
      shapeOk (descOf desc).k (descOf desc).format = true →
      s.grantNow s.myDie s.myPart (descOf desc).hb true (granulesOf (descOf desc).rows (descOf desc).k (descOf desc).format) = true →
      ∃ t h x, exec i s = .next t ∧ t.me.pc = s.me.pc + 8 ∧ SameRegsBut s t s.cur d ∧ SameHbm s t ∧ (d ≠ 0 → t.me.reg d = BitVec.ofNat 64 h)
        ∧ 1 ≤ h ∧ h < 2 ^ 20 ∧ s.tile s.myDie s.myPart h = none ∧ t.tile s.myDie s.myPart h = some x
        ∧ x.state = .filling ∧ x.filling = false ∧ x.rows = (descOf desc).rows ∧ x.k = (descOf desc).k ∧ x.format = (descOf desc).format
        ∧ x.hb = (descOf desc).hb ∧ x.mode = tileModeOf (descOf desc).mode ∧ x.valid = 0 ∧ x.done = 0 ∧ x.inProg = 0
        ∧ x.reads = (if (descOf desc).mode = 0 then (descOf desc).count
            else if (descOf desc).mode = 1 then maskCount (BitVec.ofNat 8 (descOf desc).count) else 255)
        ∧ (∀ u ∈ x.storage, u ∉ s.usedUnits s.myDie s.myPart x.hb)
        ∧ (∀ y ∈ s.tiles, y ∈ t.tiles)
        ∧ ((descOf desc).hb = false → (t.pool s.myDie s.myPart).held = (s.pool s.myDie s.myPart).held
            + granulesOf (descOf desc).rows (descOf desc).k (descOf desc).format)
        ∧ (t.me.cnt = s.me.cnt))
  ∧ (∀ (g : Guard) (d a : Reg) (desc : BitVec 27) (s : State) (i : Instr),
      ((i = .talloc g d desc ∧ Issues g .system [] [d] s)
        ∨ (i = .tallocReg g d a ∧ desc = (s.r a).extractLsb' 0 27 ∧ Issues g .system [a] [d] s)) →
      s.me.waitFor = none →
      (countOk (descOf desc).mode (descOf desc).count = false →
        exec i s = .next (s.takeFault s.cur 0 s.me.pc (s.report fILLOP 0 0)))
      ∧ (countOk (descOf desc).mode (descOf desc).count = true → shapeOk (descOf desc).k (descOf desc).format = false →
        exec i s = .next (s.takeFault s.cur 0 s.me.pc (s.report fFMT 0 0)))
      ∧ (∀ n, n = granulesOf (descOf desc).rows (descOf desc).k (descOf desc).format →
        countOk (descOf desc).mode (descOf desc).count = true → shapeOk (descOf desc).k (descOf desc).format = true →
        s.grantNow s.myDie s.myPart (descOf desc).hb true n = false → (descOf desc).hb = false →
        ∃ t r, exec i s = .next t ∧ t.me.status = .blocked ∧ t.me.pc = s.me.pc
          ∧ (t.pool s.myDie s.myPart).queue = (s.pool s.myDie s.myPart).queue ++ [r] ∧ r.n = n ∧ r.granted = false ∧ r.who = .task s.cur
          ∧ (t.pool s.myDie s.myPart).held = (s.pool s.myDie s.myPart).held ∧ t.tiles = s.tiles))

/-- R255 to R257: TSEAL of a tile in FILLING that no engine fills moves it to FULL, its counts kept; TSTAT gives the status word of the
tile its handle names, zeros where there is none; TLOAD of a tile that is FULL or DRAINING peeks the bytes at its offset, extended, and
changes no count, the blocks of an HB tile that it reads being placed in the cache (R326); TSTORE into a FILLING tile writes the low bytes of d at the offset and sets the validity bit of every row it touches. A
naturally aligned one is performed as one part and completes; a misaligned one may be split at a multiple of 8, and completes with its last
part, which the bytes moved before precede. R256: the fields of a tile's status word: state, engine filling, reads remaining, reader mask, done mask, mode, level,
format, k − 1, rows − 1 and the number of valid rows, with zeros in between; a handle with no tile reads as zeros,
once what the seal of a tile freed there released has reached the die, until when TSTAT issues again (DEDUCED, assumption 91). -/
def Obligations.TileInstructionsComplete : Prop :=
  (∀ (g : Guard) (a b d : Reg) (imm : BitVec 32) (s : State) (x : Tile), s.tile s.myDie s.myPart (handleOf (s.r a)) = some x →
      (∀ y ∈ s.tiles, y.uid = x.uid → y = x) → x.bad = false →
      (Issues g .release [a] [] s → x.state = .filling → x.filling = false → x.abandoned = [] → s.endedSlots x.owner = [] → x.doomed = false →
        0 < x.reads → ∃ t, exec (.tseal g a) s = .next t
          ∧ t.tileU x.uid = some { x with state := .full, wasFull := true, deps := s.depsOf s.myDie }
          ∧ t.me.pc = s.me.pc + 8 ∧ SameBytes s t ∧ SameRegsBut s t s.cur 0)
      ∧ (Issues g .system [a] [d] s → s.unseen s.myDie x = false → exec (.tstat g d a) s = .next (s.wrote d x.status))
      ∧ (∀ sz o k last, Issues g .system [a, b] [d] s → (tileOff (s.r b) imm) + LoadSize.bytes sz ≤ x.dataBytes → x.state = .full ∨ x.state = .draining →
        s.unseen s.myDie x = false → nextPart (tileOff (s.r b) imm) sz.bytes s.movedBytes.length = (o, k, last) → s.tileBad x 0 o k = false →
        (last = true → exec (.tload g sz d a b imm) s = .next ((s.touchTile x 0 o k).wrote d (extendWord sz.signed (s.movedBytes ++ s.tileData x o k))))
        ∧ (last = false → exec (.tload g sz d a b imm) s =
            .next ((s.touchTile x 0 o k).updMe fun y => { y with waitFor := some (.parts (s.movedBytes ++ s.tileData x o k)) })))
      ∧ (∀ sz o k last, Issues g .tileWrite [a, b, d] [] s → (tileOff (s.r b) imm) + Size.bytes sz ≤ x.dataBytes → x.state = .filling →
        nextPart (tileOff (s.r b) imm) sz.bytes s.movedBytes.length = (o, k, last) → s.movedBytes.length < sz.bytes → s.hbBad x 0 o k = false →
        ∀ bs, bs = ((wordBytes sz.bytes (s.r d)).drop s.movedBytes.length).take k →
        ∃ v, (∀ r < 64, v.getLsbD r = (x.valid.getLsbD r || decide (r * x.rowBytes < o + k ∧ o < (r + 1) * x.rowBytes)))
          ∧ (last = true → exec (.tstore g sz d a b imm) s =
              .next (((s.setTileData x o bs).updTile x.uid fun y => { y with valid := v }).onTo (s.me.pc + 8)))
          ∧ (last = false → exec (.tstore g sz d a b imm) s = .next (((s.setTileData x o bs).updTile x.uid fun y => { y with valid := v }).updMe
              fun y => { y with waitFor := some (.parts (s.movedBytes ++ bs)) }))))
  ∧ (∀ x n : Nat, n ∈ [1, 2, 4, 8] → (nextPart x n 0).1 = x ∧ (x % n = 0 → nextPart x n 0 = (x, n, true))
      ∧ ((nextPart x n 0).2.2 = false → (x + (nextPart x n 0).2.1) % 8 = 0 ∧ (nextPart x n 0).2.1 < n
        ∧ nextPart x n (nextPart x n 0).2.1 = (x + (nextPart x n 0).2.1, n - (nextPart x n 0).2.1, true)))
  ∧ ((∀ (x : Tile), x.reads < 256 → 1 ≤ x.k → x.k ≤ 16 → 1 ≤ x.rows → x.rows ≤ 64 →
      (x.status.extractLsb' 0 3).toNat = x.state.code ∧ x.status.getLsbD 3 = x.filling ∧ (x.status.extractLsb' 4 8).toNat = x.reads
      ∧ x.status.extractLsb' 12 8 = x.rmask ∧ x.status.extractLsb' 20 8 = x.done ∧ (x.status.extractLsb' 28 2).toNat = x.mode.code
      ∧ x.status.getLsbD 30 = x.hb ∧ x.status.extractLsb' 31 6 = x.format ∧ (x.status.extractLsb' 37 4).toNat = x.k - 1
      ∧ (x.status.extractLsb' 41 6).toNat = x.rows - 1 ∧ x.status.getLsbD 47 = false
      ∧ (x.status.extractLsb' 48 7).toNat = ((Finset.range 64).filter fun i => x.valid.getLsbD i = true).card ∧ x.status.extractLsb' 55 9 = 0)
    ∧ (∀ (g : Guard) (d a : Reg) (s : State), Issues g .system [a] [d] s → s.tile s.myDie s.myPart (handleOf (s.r a)) = none →
      (s.freeSeen s.cur s.myDie (handleOf (s.r a)) = true → exec (.tstat g d a) s = .next (s.wrote d 0))
      ∧ (s.freeSeen s.cur s.myDie (handleOf (s.r a)) = false → exec (.tstat g d a) s = .next (s.updMe fun x => { x with waitFor := none }))))

/-- R257: what TLOAD and TSTORE meet otherwise: a handle with no tile is a precise TOVER of TLOAD and TSTATE of TSTORE; bytes past the data
area are PERM, before the state is looked at; TLOAD of a FILLING tile blocks, of a POISON tile is a precise POISON; TSTORE to a tile not in
FILLING is TSTATE. R255: a TSEAL of a handle with no tile, of a tile not in FILLING, or of one that an engine fills is a precise TSTATE. -/
def Obligations.TileRefusals : Prop :=
  ∀ (g : Guard) (a b d : Reg) (imm : BitVec 32) (s : State) (sz : LoadSize) (wz : Size) (h x : Nat), h = handleOf (s.r a) → x = tileOff (s.r b) imm →
    (s.tile s.myDie s.myPart h = none →
      (Issues g .system [a, b] [d] s → ∃ f, f.code = fTOVER ∧ exec (.tload g sz d a b imm) s = .next (s.takeFault s.cur 0 s.me.pc f))
      ∧ (Issues g .tileWrite [a, b, d] [] s → ∃ f, f.code = fTSTATE ∧ exec (.tstore g wz d a b imm) s = .next (s.takeFault s.cur 0 s.me.pc f))
      ∧ (Issues g .release [a] [] s → ∃ f, f.code = fTSTATE ∧ exec (.tseal g a) s = .next (s.takeFault s.cur 0 s.me.pc f)))
    ∧ (∀ y, s.tile s.myDie s.myPart h = some y → y.bad = false →
      (Issues g .system [a, b] [d] s →
        (y.dataBytes < x + sz.bytes → ∃ f, f.code = fPERM ∧ exec (.tload g sz d a b imm) s = .next (s.takeFault s.cur 0 s.me.pc f))
        ∧ (x + sz.bytes ≤ y.dataBytes → y.state = .filling → exec (.tload g sz d a b imm) s = .next (s.block (.tileFilled s.myDie h)))
        ∧ (x + sz.bytes ≤ y.dataBytes → y.state = .poison →
            ∃ f, f.code = fPOISON ∧ exec (.tload g sz d a b imm) s = .next (s.takeFault s.cur 0 s.me.pc f)))
      ∧ (Issues g .tileWrite [a, b, d] [] s →
        (y.dataBytes < x + wz.bytes → ∃ f, f.code = fPERM ∧ exec (.tstore g wz d a b imm) s = .next (s.takeFault s.cur 0 s.me.pc f))
        ∧ (x + wz.bytes ≤ y.dataBytes → y.state ≠ .filling →
            ∃ f, f.code = fTSTATE ∧ exec (.tstore g wz d a b imm) s = .next (s.takeFault s.cur 0 s.me.pc f)))
      ∧ (Issues g .release [a] [] s → (y.state ≠ .filling ∨ y.filling = true) →
            ∃ f, f.code = fTSTATE ∧ exec (.tseal g a) s = .next (s.takeFault s.cur 0 s.me.pc f)))

/-- R305: the data area of a tile in the scratchpad is storage: bytes written at an offset are read back there, every other byte of the
tile keeps its value, and so does every byte of a tile of any die that shares no granule with it. R308 to R310, R314: a consuming read of
an anonymous or declared tile counts: beginning one makes a FULL tile DRAINING; ending the last one in progress makes it FULL again while
reads remain, marks a declared reader's slot done, and lowers the reads remaining by one, and a tile that then has none left becomes FREE:
its handle names no tile any more and its granules return to the pool. A pinned tile's count stays. -/
def Obligations.TileReadsAndStorage : Prop :=
  (∀ (s : State) (x : Tile) (off : Nat) (bs : List Byte), MemoryForm s → x.hb = false → x.storage.Nodup → (∀ u ∈ x.storage, u < 262144) →
      off + bs.length ≤ x.dataBytes → x.dataBytes ≤ 2048 * x.storage.length →
      (s.setTileData x off bs).tileData x off bs.length = bs
      ∧ (∀ y, y < x.dataBytes → (y < off ∨ off + bs.length ≤ y) → (s.setTileData x off bs).tileData x y 1 = s.tileData x y 1)
      ∧ (∀ (z : Tile) (y n : Nat), z.hb = false → (∀ u ∈ z.storage, u < 262144) → (z.die = x.die → ∀ u ∈ z.storage, u ∉ x.storage) →
          (s.setTileData x off bs).tileData z y n = s.tileData z y n)
      ∧ (s.setTileData x off bs).mem = s.mem)
  ∧ (∀ (s : State) (x : Tile) (slot : Option Nat), s.tileU x.uid = some x → x.state = .full → x.inProg = 0 → x.slotsIn = [] → x.doomed = false →
      (∃ y, (s.beginRead x.uid slot).tileU x.uid = some y ∧ y.state = .draining ∧ y.inProg = 1 ∧ y.reads = x.reads)
      ∧ (2 ≤ x.reads → x.mode ≠ .pinned → ∃ y, ((s.beginRead x.uid slot).endRead x.uid slot).tileU x.uid = some y ∧ y.state = .full
          ∧ y.reads = x.reads - 1 ∧ y.inProg = 0
          ∧ y.done = (if x.mode = .declared then (match slot with | some k => x.done ||| BitVec.twoPow 8 k | none => x.done) else x.done))
      ∧ (x.mode = .pinned → ∃ y, ((s.beginRead x.uid slot).endRead x.uid slot).tileU x.uid = some y ∧ y.reads = x.reads ∧ y.state = .full)
      ∧ (x.reads = 1 → x.mode ≠ .pinned → x.hb = false → x.funded = none →
          ((s.beginRead x.uid slot).endRead x.uid slot).tileU x.uid = none
          ∧ (((s.beginRead x.uid slot).endRead x.uid slot).pool x.die x.partition).held = (s.pool x.die x.partition).held - x.storage.length))

/-! ### Engines -/

/-- R252, R260 to R263: DRAW, DRAWS, SEND and COPYM issue and go on: each starts one engine operation of the task with the operands it
names, raises its counters (dr by 1, dr by the number of tiles, sr and sv by 1, st by 1), and leaves every byte of memory alone. DRAW also
makes a tile in FILLING, of the format of its base's page, marked as filled by an engine, and writes its handle to d. R258: TXFER of a
handle that names a tile on the source die, with storage to be had at once on the destination die: a new tile there in FILLING with the
source's shape and format, its handle in d, dr raised, and an engine operation that will read the source as the slot given. A handle that
names no tile there is a precise TOVER, and changes no register and no counter. (Of other dies the task's die holds the present incarnations, R385.) -/
def Obligations.EnginesStart : Prop :=
  (∀ (g : Guard) (a b c d : Reg) (s : State) (v : View), s.me.waitFor = none →
      (∀ (desc : BitVec 27) (pa : Nat) (e : TlbEntry), Issues g .system [a, b] [d] s → ViewAt a b s v → drawDescOk desc = true → s.myPart < 16 →
        (s.recorded (s.r a).toNat 64).translate s.myDie s.myPart s.myAsid v.base ⟨true, false, false⟩ = .ok pa e →
        shapeOk (descOf desc).k e.format = true →
        s.me.cnt.dr.toNat < 255 →
        s.grantNow s.myDie s.myPart (descOf desc).hb true (granulesOf (descOf desc).rows (descOf desc).k e.format) = true →
        ∃ t x op, exec (.draw g d a b desc) s = .next t ∧ t.engines = s.engines ++ [op] ∧ op.kind = .draw v (s.r b) x.uid ∧ op.task = some s.cur
          ∧ op.die = s.myDie ∧ x ∈ t.tiles ∧ x ∉ s.tiles ∧ x.die = s.myDie ∧ x.partition = s.myPart ∧ x.state = .filling ∧ x.filling = true
          ∧ x.format = e.format ∧ x.rows = (descOf desc).rows ∧ x.k = (descOf desc).k
          ∧ (d ≠ 0 → t.me.reg d = BitVec.ofNat 64 x.handle) ∧ SameRegsBut s t s.cur d ∧ SameHbm s t
          ∧ t.me.cnt = { s.me.cnt with dr := BitVec.ofNat 8 (s.me.cnt.dr.toNat + 1) } ∧ t.me.pc = s.me.pc + 8)
      ∧ (∀ (desc : BitVec 27) (dim : Fin 4) (m : Nat) (ep : BitVec 16), Issues g .system [a, b, c] [] s → ViewAt a b s v → drawDescOk desc = true →
        m = ((s.r c).extractLsb' 16 16).toNat → ep = (s.r c).extractLsb' 0 16 → m ≤ 255 →
        s.deliver s.myPart ep ⟨0, 0, false, 0, []⟩ ≠ .perm → s.me.cnt.dr.toNat + m ≤ 255 →
        (m = 0 → exec (.draws g a b c dim desc) s = .next ((s.recorded (s.r a).toNat 64).onTo (s.me.pc + 8)))
        ∧ (0 < m → ∃ t op, exec (.draws g a b c dim desc) s = .next t ∧ t.engines = s.engines ++ [op] ∧ op.task = some s.cur
            ∧ op.kind = .draws ⟨v, s.r b, dim.val, desc, m, 0, [], false, ep, s.endpointRun ep⟩ ∧ SameRegsBut s t s.cur 0 ∧ SameHbm s t ∧ t.tiles = s.tiles
            ∧ t.me.cnt = { s.me.cnt with dr := BitVec.ofNat 8 (s.me.cnt.dr.toNat + m) } ∧ t.me.pc = s.me.pc + 8))
      ∧ (∀ (slot : Fin 8) (valid : Bool) (sc : SScope), Issues g .system [a, b, c] [] s → ViewAt b c s v →
        s.me.cnt.sr.toNat < 255 → s.me.cnt.sv.toNat < 255 →
        ∃ t op, exec (.send g a b c slot valid sc) s = .next t ∧ t.engines = s.engines ++ [op] ∧ op.task = some s.cur
          ∧ op.kind = .send (handleOf (s.r a)) v (s.r c) (if valid then some slot.val else none) sc ∧ op.readDone = false ∧ op.reading = none
          ∧ SameRegsBut s t s.cur 0 ∧ SameHbm s t ∧ t.tiles = s.tiles
          ∧ t.me.cnt = { s.me.cnt with sr := BitVec.ofNat 8 (s.me.cnt.sr.toNat + 1), sv := BitVec.ofNat 8 (s.me.cnt.sv.toNat + 1) }
          ∧ t.me.pc = s.me.pc + 8)
      ∧ (∀ (sc : SScope), Issues g .system [a, b, c] [] s → (s.r c).toNat < 2 ^ 40 → s.me.cnt.st.toNat < 255 →
        ∃ t op, exec (.copym g a b c sc) s = .next t ∧ t.engines = s.engines ++ [op] ∧ op.task = some s.cur
          ∧ op.kind = .copym (s.r a).toNat (s.r b).toNat (s.r c).toNat sc ∧ SameRegsBut s t s.cur 0 ∧ SameHbm s t ∧ t.tiles = s.tiles
          ∧ t.me.cnt = { s.me.cnt with st := BitVec.ofNat 8 (s.me.cnt.st.toNat + 1) } ∧ t.me.pc = s.me.pc + 8))
  ∧ (∀ (g : Guard) (d a : Reg) (x : TxWord) (s : State), Issues g .system [a] [d] s → s.me.waitFor = none →
      countOk x.mode.toNat x.count.toNat = true → s.myPart < 16 → s.knows s.myDie x.srcDie.val → s.knows s.myDie x.dstDie.val →
      (∀ src, s.tile x.srcDie.val s.myPart (handleOf (s.r a)) = some src → src.bad = false → s.me.cnt.dr.toNat < 255 →
        s.grantNow x.dstDie.val s.myPart x.level true (granulesOf src.rows src.k src.format) = true →
        ∃ t u op, exec (.txfer g d a x) s = .next t ∧ t.engines = s.engines ++ [op] ∧ op.task = some s.cur
          ∧ op.kind = .txfer src.uid u.uid (if x.valid then some x.slot.val else none) (tileVa x.srcDie.val (handleOf (s.r a)))
          ∧ u ∈ t.tiles ∧ u ∉ s.tiles ∧ u.die = x.dstDie.val ∧ u.partition = s.myPart ∧ u.state = .filling ∧ u.filling = true
          ∧ u.rows = src.rows ∧ u.k = src.k ∧ u.format = src.format ∧ u.hb = x.level
          ∧ (d ≠ 0 → t.me.reg d = BitVec.ofNat 64 u.handle) ∧ SameRegsBut s t s.cur d ∧ SameHbm s t
          ∧ t.me.cnt = { s.me.cnt with dr := BitVec.ofNat 8 (s.me.cnt.dr.toNat + 1) } ∧ t.me.pc = s.me.pc + 8)
      ∧ (s.tile x.srcDie.val s.myPart (handleOf (s.r a)) = none →
        exec (.txfer g d a x) s =
          .next (s.takeFault s.cur 0 s.me.pc (s.report fTOVER 0 (tileVa x.srcDie.val (handleOf (s.r a)))))))

/-- R258, R260, R294: DRAW_COMPLETE and TXFER_COMPLETE. A fill whose tile is still FILLING and whose every request has been answered makes the
tile FULL: each in-bounds row holds what its requests brought, with the view's fill value after its in-bounds elements, and its group records; each
other row holds fill values, and is not valid. A TXFER begins its consuming read of a source that is past FILLING, copies a piece a turn to the same
place of its tile and no other byte, the pieces together being the whole of both areas, and with none left the tile is FULL with the source's validity
mask and the bytes it then has, and the source's read is over. dr falls by one, and the operation is over. R262: SEND_READ_DONE and
SEND_WRITES_VISIBLE, of an operation of a task. First the consuming read of a tile past FILLING begins, once what its seal released is applied at the
engine's die (R296); then, with every row's requests translated, the read ends and sr falls, and only then may the writes be performed; with all of
them performed sv falls. (What a read's beginning and end do to its tile is TileReadsAndStorage's.) R253, R261, R263: COPYM_COMPLETE of a copy writes
to each 64-byte piece of the destination what the source's pieces were read as, and with every piece performed st falls. A request of a DRAW, a SEND
or a COPYM that its streamer serves is performed as one event: a read gives what the operation's die reads, a write puts its bytes there and changes
no other. DRAWS_TILE_COMPLETE delivers the handle of its oldest tile once that is filled, with the tile's number above it, or discards it once the run
of its endpoint has ended, and when every tile has been delivered, it delivers a STOP of level 1 to its endpoint and ends.
HELD_REQUEST_FIRMWARE_RELEASE of a held operation drops its hold, or abandons it: an abandoned copy is over, and st falls. -/
def Obligations.EngineStepsComplete : Prop :=
  (∀ (s : State) (n : Nat) (e : EngOp) (k : Nat), s.engine n = some e → e.task = some k → e.node = none → e.held = none →
      (∀ y ∈ s.tiles, y.bad = false) →
      (∀ v c uid x rows l, e.kind = .draw v c uid → s.tileU uid = some x → x.state = .filling → x.filling = true →
        (s.engines.find? fun y => y.kind.fills uid) = some e → x.abandoned = [] → s.endedSlots x.owner = [] →
        x.doomed = false → 0 < x.reads → s.fillRead e x v c = .ok rows → e.todo (fillReqs rows) = [] → EngR.each e.rowOf rows = .ok l →
        s.hbBad x 0 0 x.dataBytes = false →
        ∃ t y, exec (.drawComplete n) s = .next t ∧ t.tileU uid = some y ∧ y.state = .full ∧ y.filling = false ∧ y.reads = x.reads
          ∧ (∀ r < 64, y.valid.getLsbD r = l.any fun q => q.1 == r)
          ∧ t.engine n = none ∧ (t.task k).cnt = { (s.task k).cnt with dr := BitVec.ofNat 8 ((s.task k).cnt.dr.toNat - 1) }
          ∧ SameRegsBut s t k 0
          ∧ (MemoryForm s → x.storage.Nodup → (x.hb = false → ∀ u ∈ x.storage, u < 262144) → shapeOk x.k x.format = true → x.rows ≤ 64 →
            unitsOf x.dataBytes + unitsOf (sideBytes x.rows x.k x.format) ≤ x.storage.length →
            (∀ q ∈ l, q.2.2.1.length = elemBytes q.2.1 (fmtWidth x.format) ∧ q.2.2.2.length = 4 * rowGroups x.format q.2.1) →
            ∀ m, m = rowElems x.k x.format →
            (∀ q ∈ l, t.tileData y (q.1 * x.rowBytes) x.rowBytes = mergeRow v.fill (fmtWidth x.format) m q.2.1 q.2.2.1
              ∧ (fmtGroup x.format ≠ 0 → t.tileSide y (4 * (q.1 * (m / fmtGroup x.format))) (4 * rowGroups x.format q.2.1) = q.2.2.2))
            ∧ (∀ i < x.rows, (∀ q ∈ l, q.1 ≠ i) → t.tileData y (i * x.rowBytes) x.rowBytes = fillBytes v.fill (fmtWidth x.format) m)))
      ∧ (∀ src tile slot va x, e.kind = .txfer src tile slot va → s.tileU src = some x → src ≠ tile →
        (e.reading = none → x.state ≠ .filling → slot.isSome = decide (x.mode = .declared) → s.readRefused x slot = false → s.knows e.die x.die →
          ∃ t f, exec (.txferComplete n) s = .next t ∧ t.engine n = some f ∧ f.kind = e.kind ∧ f.reading = some ⟨src, x.readSlot slot⟩ ∧ f.left = x.pieces
            ∧ t.tileU src = (s.beginRead src (x.readSlot slot)).tileU src ∧ (∀ j, (t.task j).cnt = (s.task j).cnt))
        ∧ (∀ rd y, e.reading = some rd → s.tileU tile = some y → x.state ≠ .poison → y.state = .filling → s.applied y.die x.deps = true →
          (e.left ≠ [] → s.mayServe (.engine n) = true → s.knows e.die x.die → s.knows e.die y.die → MemoryForm s → y.storage.Nodup →
            (y.hb = false → ∀ u ∈ y.storage, u < 262144) →
            (∀ p ∈ e.left, s.tileBad x p.1 p.2.1 p.2.2 = false ∧ s.hbBad y p.1 p.2.1 p.2.2 = false
              ∧ p.1 + unitsOf (p.2.1 + p.2.2) ≤ y.storage.length) →
            ∃ p ∈ e.left, ∃ t f, exec (.txferComplete n) s = .next t ∧ t.engine n = some f ∧ f.kind = e.kind ∧ f.reading = e.reading
              ∧ f.left = e.left.erase p ∧ t.tileU tile = some y ∧ t.tileU src = some x
              ∧ t.tileBytes y p.1 p.2.1 p.2.2 = s.tileBytes x p.1 p.2.1 p.2.2
              ∧ (∀ u off, off < 2048 → u < y.storage.length → (∀ z, p.2.1 ≤ z → z < p.2.1 + p.2.2 → ¬ (u = p.1 + z / 2048 ∧ off = z % 2048)) →
                  t.unitByte y u off = s.unitByte y u off)
              ∧ (∀ j, (t.task j).cnt = (s.task j).cnt))
          ∧ (e.left = [] → y.filling = true → (s.engines.find? fun z => z.kind.fills tile) = some e →
            y.abandoned = [] → s.endedSlots y.owner = [] → y.doomed = false → 0 < y.reads →
            ∃ t z, exec (.txferComplete n) s = .next t ∧ t.tileU tile = some z ∧ z.state = .full ∧ z.valid = x.valid ∧ z.reads = y.reads
              ∧ (∀ base o m, t.tileBytes z base o m = s.tileBytes y base o m) ∧ t.tileU src = (s.endRead src rd.slot).tileU src
              ∧ t.engine n = none ∧ (t.task k).cnt = { (s.task k).cnt with dr := BitVec.ofNat 8 ((s.task k).cnt.dr.toNat - 1) }
              ∧ SameRegsBut s t k 0))))
  ∧ (∀ (x : Tile), (∀ z < x.dataBytes, ∃ p ∈ x.pieces, p.1 = 0 ∧ p.2.1 ≤ z ∧ z < p.2.1 + p.2.2)
      ∧ ∀ z < sideBytes x.rows x.k x.format, ∃ p ∈ x.pieces, p.1 = unitsOf x.dataBytes ∧ p.2.1 ≤ z ∧ z < p.2.1 + p.2.2)
  ∧ (∀ (s : State) (n k handle : Nat) (v : View) (c : Word) (slot : Option Nat) (sc : SScope) (e : EngOp), s.engine n = some e → e.task = some k →
      e.node = none → e.held = none → e.kind = .send handle v c slot sc →
      (∀ x, e.readDone = false → e.reading = none → s.tile e.die e.part handle = some x → x.bad = false → x.state ≠ .filling →
        s.applied e.die x.deps = true → s.readRefused x slot = false →
        ∃ t, exec (.sendReadDone n) s = .next t ∧ (∃ f, t.engine n = some f ∧ f.reading = some ⟨x.uid, x.readSlot slot⟩ ∧ f.format = x.format)
          ∧ t.tileU x.uid = (s.beginRead x.uid (x.readSlot slot)).tileU x.uid ∧ (∀ j, (t.task j).cnt = (s.task j).cnt))
      ∧ (∀ rd x l u, e.readDone = false → e.reading = some rd → s.tileU rd.tile = some x → x.state ≠ .poison →
        u = (s.touchTile x 0 0 x.dataBytes).touchTile x (unitsOf x.dataBytes) 0 (sideBytes x.rows x.k x.format) → u.tileBad x 0 0 x.dataBytes = false →
        u.tileBad x (unitsOf x.dataBytes) 0 (sideBytes x.rows x.k x.format) = false → u.sendLayout e x v = .ok () →
        EngR.each (u.sendRow e x) ((geoRows v c x.rows x.k (fmtWidth x.format)).filter fun r => x.valid.getLsbD r.1) = .ok l → l ≠ [] →
        ∃ t f, exec (.sendReadDone n) s = .next t ∧ t.engine n = some f ∧ f.readDone = true ∧ f.writes = l.map Prod.fst
          ∧ t.tileU rd.tile = (u.endRead rd.tile rd.slot).tileU rd.tile
          ∧ (t.task k).cnt = { (s.task k).cnt with sr := BitVec.ofNat 8 ((s.task k).cnt.sr.toNat - 1) }
          ∧ t.mem = s.mem ∧ SameRegsBut s t k 0)
      ∧ (e.readDone = false → exec (.sendWritesVisible n) s = .next s)
      ∧ (∀ rs, e.readDone = true → s.sendReqs e = .ok rs → e.todo rs = [] → e.failures rs = [] →
        ∃ t, exec (.sendWritesVisible n) s = .next t ∧ t.engine n = none
          ∧ (t.task k).cnt = { (s.task k).cnt with sv := BitVec.ofNat 8 ((s.task k).cnt.sv.toNat - 1) } ∧ t.mem = s.mem ∧ SameRegsBut s t k 0))
  ∧ (∀ (s : State) (n : Nat) (e : EngOp) (r : EngReq) (i : Instr), s.engine n = some e → e.held = none → s.mayServe (.engine n) = true →
      (∀ y ∈ s.tiles, y.bad = false) → s.applied e.die (s.nodeDeps e.node) = true →
      ((∃ v c uid x rows, e.kind = .draw v c uid ∧ s.tileU uid = some x ∧ x.state = .filling ∧ s.fillRead e x v c = .ok rows
          ∧ e.todo (fillReqs rows) = [r] ∧ i = .drawComplete n)
        ∨ (∃ h v c slot sc rs, e.kind = .send h v c slot sc ∧ e.readDone = true ∧ s.sendReqs e = .ok rs ∧ e.todo rs = [r] ∧ i = .sendWritesVisible n)
        ∨ (∃ dst src len sc ps, e.kind = .copym dst src len sc ∧ s.copyAll e dst src len = .ok ps
          ∧ e.todo (s.copyReqs e dst len ps) = [r] ∧ i = .copymComplete n)) →
      r.whole = false → r.half = false → MemoryForm s → e.die < 6 → 0 < r.x.len → (∀ j < r.x.len, paHbm (r.x.pa + j) = true) →
      s.knownInc e.die (s.homeOf r.x.pa) = s.inc (s.homeOf r.x.pa) → s.blockFault r.x.entry.shared r.x.pa = none →
      ∃ t f a, exec i s = .next t ∧ t.engine n = some f ∧ f.kind = e.kind ∧ f.brought r.x r.data.isSome = some a ∧ a.code = 0
        ∧ (∀ j, (t.task j).cnt = (s.task j).cnt) ∧ SameRegsBut s t 0 0
        ∧ (r.data = none → a.bytes = s.viewBytes e.die r.x.pa r.x.len ∧ t.mem = s.mem ∧ SameHbm s t)
        ∧ (∀ bs, r.data = some bs → bs.length = r.x.len → (∀ j, ∀ h : j < bs.length, t.view e.die (r.x.pa + j) = bs[j])
          ∧ (∀ d x, paHbm x = true → x < r.x.pa ∨ r.x.pa + r.x.len ≤ x → t.view d x = s.view d x)))
  ∧ (∀ (s : State) (n k : Nat) (e : EngOp), s.engine n = some e → e.task = some k → e.node = none →
      (∀ dst src len sc ps, e.kind = .copym dst src len sc → e.held = none → s.copyAll e dst src len = .ok ps →
        (∀ p ∈ ps, p.src.read ∈ s.copyReqs e dst len ps
          ∧ ∀ bs, copiedBytes e (ps.filter fun q => q.dst == p.dst) = some bs → s.blockFault p.dst.entry.shared p.dst.pa = none →
          (⟨p.dst, some bs, false, false⟩ : EngReq) ∈ s.copyReqs e dst len ps)
        ∧ (e.todo (s.copyReqs e dst len ps) = [] → e.failures (s.copyReqs e dst len ps) = [] →
          ∃ t, exec (.copymComplete n) s = .next t ∧ t.engine n = none
            ∧ (t.task k).cnt = { (s.task k).cnt with st := BitVec.ofNat 8 ((s.task k).cnt.st.toNat - 1) } ∧ t.mem = s.mem ∧ SameRegsBut s t k 0))
      ∧ (∀ d, e.kind = .draws d → e.held = none → d.tiles = [] → d.total ≤ d.next → d.run = none →
        (∀ ring ch, endpointOf d.ep = some ⟨true, ring, ch⟩ → s.ringPart ring = some e.part → ch < 8 → (s.queue (8 * ring + ch)).length < 32 →
          ∃ t, exec (.drawsTileComplete n) s = .next t ∧ t.engine n = none
            ∧ t.queue (8 * ring + ch) = s.queue (8 * ring + ch) ++ [⟨1, 1, false, 0, []⟩] ∧ (∀ j, (t.task j).cnt = (s.task j).cnt)))
      ∧ (∀ d uid handle rest, e.kind = .draws d → e.held = none → d.tiles = (uid, handle) :: rest → d.filled = true → d.total ≤ d.next → d.run = none →
        (∀ ring ch, endpointOf d.ep = some ⟨true, ring, ch⟩ → s.ringPart ring = some e.part → ch < 8 → (s.queue (8 * ring + ch)).length < 32 →
          ∃ t f, exec (.drawsTileComplete n) s = .next t ∧ t.engine n = some f ∧ f.kind = .draws { d with tiles := rest, filled := false }
            ∧ t.queue (8 * ring + ch) = s.queue (8 * ring + ch)
                ++ [⟨0, 0, false, BitVec.ofNat 64 ((d.next - d.tiles.length) * 2 ^ 20 + handle), []⟩] ∧ (∀ j, (t.task j).cnt = (s.task j).cnt)))
      ∧ (∀ d uid handle rest m, e.kind = .draws d → e.held = none → d.tiles = (uid, handle) :: rest → d.filled = true → d.total ≤ d.next →
        d.run = some m → s.runLives m = false →
        ∃ t f, exec (.drawsTileComplete n) s = .next t ∧ t.engine n = some f ∧ f.kind = .draws { d with tiles := rest, filled := false }
          ∧ t.runs = s.runs ∧ (∀ q, t.queue q = s.queue q) ∧ (∀ j, (t.task j).cnt = (s.task j).cnt))
      ∧ (e.held ≠ none →
        (∃ t f, exec (.heldRequestFirmwareRelease n true) s = .next t ∧ t.engine n = some f ∧ f.held = none ∧ f.kind = e.kind
          ∧ ∀ j, t.task j = s.task j)
        ∧ (∀ dst src len sc, e.kind = .copym dst src len sc →
            ∃ t, exec (.heldRequestFirmwareRelease n false) s = .next t ∧ t.engine n = none
              ∧ (t.task k).cnt = { (s.task k).cnt with st := BitVec.ofNat 8 ((s.task k).cnt.st.toNat - 1) }
              ∧ (∀ d x, t.view d x = s.view d x)))
      ∧ (e.held = none → ∀ b, exec (.heldRequestFirmwareRelease n b) s = .next s))

/-! ### Runs, graphs, waits, fences and groups -/

/-- R252, R265: RUN of a record that passes launches a run in the task's partition: it has configured nothing and stands nowhere yet, it
has the record's fields, its identifier is in d, and rn rises by 1. No byte of memory changes. R265: a RUN whose record address is not a
multiple of 64, or whose record is refused, is a precise ILLCFG, and launches nothing: no counter rises. R270: GLAUNCH of a graph at a
multiple of 128 puts it last in the acceptance FIFO of the task's partition interface while fewer than 16 wait there, blocks while 16 do,
and is a precise ILLOP at another address; R393: in a partition that is CREATED it is a precise PERM. -/
def Obligations.RunAndGlaunch : Prop :=
  (∀ (g : Guard) (d a : Reg) (s : State) (bs : List Byte), Issues g .release [a] [d] s → (s.r a).toNat % 64 = 0 →
      s.readV s.myDie s.myPart s.myAsid (.task s.cur) (s.r a).toNat 256 = .ok bs → s.runRecOk s.myPart false bs = true → s.me.cnt.rn.toNat < 255 →
      ∃ t r, exec (.run g d a) s = .next t ∧ t.runs = s.runs ++ [r] ∧ r.recd = runRecOf bs ∧ r.phase = .launched ∧ r.stripes = [] ∧ r.rings = []
        ∧ r.partition = s.myPart ∧ r.launcher = .task s.cur s.me.activation ∧ (d ≠ 0 → t.me.reg d = r.opId)
        ∧ t.me.cnt = { s.me.cnt with rn := BitVec.ofNat 8 (s.me.cnt.rn.toNat + 1) } ∧ SameRegsBut s t s.cur d ∧ t.me.pc = s.me.pc + 8
        ∧ SameHbm s t ∧ t.sram = s.sram)
  ∧ (∀ (g : Guard) (d a : Reg) (s : State), Issues g .release [a] [d] s →
      ((s.r a).toNat % 64 ≠ 0 →
        ∃ f, f.code = fILLCFG ∧ f.w3 = s.me.pc.toNat ∧ exec (.run g d a) s = .next (s.takeFault s.cur 0 s.me.pc f))
      ∧ (∀ bs, (s.r a).toNat % 64 = 0 → s.readV s.myDie s.myPart s.myAsid (.task s.cur) (s.r a).toNat 256 = .ok bs →
        s.runRecOk s.myPart false bs = false →
        ∃ f, f.code = fILLCFG ∧ f.w3 = s.me.pc.toNat ∧ exec (.run g d a) s = .next ((s.recorded (s.r a).toNat 256).takeFault s.cur 0 s.me.pc f)))
  ∧ (∀ (g : Guard) (a : Reg) (s : State), Issues g .release [a] [] s →
      ((s.r a).toNat % 128 = 0 → (s.part s.myPart).state ≠ .created → (Tab.get s.pifaces Iface.reset s.myPart).fifo.length < 16 →
        ∃ t x, exec (.glaunch g a) s = .next t ∧ x.va = s.r a ∧ x.asid = s.myAsid ∧ x.deps = s.depsOf s.myDie
          ∧ (Tab.get t.pifaces Iface.reset s.myPart).fifo = (Tab.get s.pifaces Iface.reset s.myPart).fifo ++ [x]
          ∧ t.me.pc = s.me.pc + 8 ∧ SameRegsBut s t s.cur 0 ∧ SameBytes s t)
      ∧ ((s.r a).toNat % 128 = 0 → (s.part s.myPart).state = .created →
        exec (.glaunch g a) s = .next (s.takeFault s.cur 0 s.me.pc (s.report fPERM 0 0)))
      ∧ ((s.r a).toNat % 128 = 0 → (s.part s.myPart).state ≠ .created → 16 ≤ (Tab.get s.pifaces Iface.reset s.myPart).fifo.length → exec (.glaunch g a) s = .next (s.block .launchRoom))
      ∧ ((s.r a).toNat % 128 ≠ 0 → exec (.glaunch g a) s = .next (s.takeFault s.cur 0 s.me.pc (s.report fILLOP 0 0))))

/-- R252, R267 to R269: RSTOP.SAFE, RSTOP.NOW, RSWAP and RESUME of a run of the task's partition complete at issue. A run that has
configured nothing ends at once, with cause 1 for SAFE and cause 2 for NOW; otherwise SAFE leaves its stripes as they are, to drain, and
NOW unconfigures them all. RSWAP records the pending image, and a later one replaces it. RESUME drops every hold of the run, to be tried
again. R252, R253: of an engine operation, RSTOP abandons the request it holds, and leaves one that holds none alone; RESUME drops its hold. R252: an
identifier with a non-zero zero field is a precise ILLOP of RSTOP and RESUME, one of another partition's operation a PERM,
and one that names an operation that has ended has no effect. -/
def Obligations.RunControlsComplete : Prop :=
  (∀ (g : Guard) (a b : Reg) (s : State) (r : Run), Issues g .system [a] [] s → s.named (s.r a) = .run r → s.run r.serial = some r →
      (r.started = false → r.stopping = .no → (∀ c, r.phase ≠ .ended c) →
        (∃ t x, exec (.rstopSafe g a) s = .next t ∧ t.run r.serial = some x ∧ x.stopping = .now 1 ∧ x.stripes = [] ∧ t.me.pc = s.me.pc + 8)
        ∧ (∃ t x, exec (.rstopNow g a) s = .next t ∧ t.run r.serial = some x ∧ x.stopping = .now 2 ∧ x.stripes = [] ∧ t.me.pc = s.me.pc + 8))
      ∧ (r.started = true → r.phase = .running → r.stopping = .no →
        (∃ t x, exec (.rstopSafe g a) s = .next t ∧ t.run r.serial = some x ∧ x.stopping = .safe ∧ x.stripes = r.stripes ∧ x.seams = r.seams)
        ∧ (∃ t x, exec (.rstopNow g a) s = .next t ∧ t.run r.serial = some x ∧ x.stopping = .now 2 ∧ x.stripes = [] ∧ x.seams = []))
      ∧ (Issues g .system [a, b] [] s → (s.r b).toNat % 32 = 0 → (s.r a).getLsbD 62 = false →
        exec (.rswap g a b) s =
          .next ((s.updRun r.serial fun x => { x with pending := some ⟨s.r b, false, []⟩ }).onTo (s.me.pc + 8)))
      ∧ (∃ t x, exec (.resume g a) s = .next t ∧ t.run r.serial = some x ∧ x.heldCfg = none ∧ (∀ i : Fin 8, x.ins[i].held = none ∧ x.outs[i].held = none)
        ∧ (∀ p ∈ x.stripes, ∀ o ∈ p.2.ops, o.2.heldReq = none) ∧ x.phase = r.phase))
  ∧ (∀ (g : Guard) (a : Reg) (s : State) (e : EngOp), Issues g .system [a] [] s → s.named (s.r a) = .engine e → s.engine e.serial = some e →
      (e.held = none → exec (.rstopSafe g a) s = .next (s.onTo (s.me.pc + 8)) ∧ exec (.rstopNow g a) s = .next (s.onTo (s.me.pc + 8)))
      ∧ (e.held ≠ none → ∃ t, t = (s.abandon e).onTo ((s.abandon e).me.pc + 8) ∧ exec (.rstopSafe g a) s = .next t ∧ exec (.rstopNow g a) s = .next t
        ∧ ((∀ d, e.kind ≠ .draws d) → t.engine e.serial = none))
      ∧ (∃ t, exec (.resume g a) s = .next t ∧ t.engine e.serial = some { e with held := none } ∧ t.me.pc = s.me.pc + 8 ∧ SameRegsBut s t s.cur 0
        ∧ SameBytes s t))
  ∧ (∀ (g : Guard) (a : Reg) (s : State) (i : Instr), (i = .rstopSafe g a ∨ i = .rstopNow g a ∨ i = .resume g a) → Issues g .system [a] [] s →
      (((s.r a).getLsbD 63 = true ∨ (s.r a).extractLsb' 44 18 ≠ 0 ∨ (s.r a).extractLsb' 32 4 ≠ 0) →
        exec i s = .next (s.takeFault s.cur 0 s.me.pc (s.report fILLOP 0 0)))
      ∧ (s.named (s.r a) = .other → exec i s = .next (s.takeFault s.cur 0 s.me.pc (s.report fPERM 0 0)))
      ∧ (s.named (s.r a) = .nothing → exec i s = .next (s.onTo (s.me.pc + 8))))

/-- R50, R271: WAIT completes, changing nothing but the pc, when every counter whose field is not 31 is at or below its field and, where it
waits for fills or for runs, what their completions released has been applied at the task's die; with a counter above its field it blocks. WAIT with every field 31 completes
at once. R272: WAITT at its first issue: FREE completes at once for a handle with no tile, and every other state blocks on one; with a tile
it completes in the state named, and for FULL also in DRAINING and POISON, for DRAINING also in POISON, and blocks otherwise. That WAITT also
blocks until what the seal of the tile, or of one freed under the handle, released has been applied at the task's die is the model's reading of
R288 and R296 (DEDUCED, assumption 91). -/
def Obligations.WaitsComplete : Prop :=
  (∀ (g : Guard) (w : WaitFields) (s : State), Issues g .free [] [] s →
      ((∀ p ∈ [(s.me.cnt.ld, w.ld), (s.me.cnt.st, w.st), (s.me.cnt.dr, w.dr), (s.me.cnt.sr, w.sr), (s.me.cnt.sv, w.sv), (s.me.cnt.rn, w.rn)],
          p.2 = 31 ∨ p.1.toNat ≤ p.2.toNat) → w.dr = 31 ∨ s.applied s.myDie s.me.acqDr = true → w.rn = 31 ∨ s.applied s.myDie s.me.acq = true →
          exec (.wait g w) s = .next (s.onTo (s.me.pc + 8)))
      ∧ ((∃ p ∈ [(s.me.cnt.ld, w.ld), (s.me.cnt.st, w.st), (s.me.cnt.dr, w.dr), (s.me.cnt.sr, w.sr), (s.me.cnt.sv, w.sv), (s.me.cnt.rn, w.rn)],
          p.2 ≠ 31 ∧ p.2.toNat < p.1.toNat) → exec (.wait g w) s = .next (s.block (.counters w))))
  ∧ (∀ (g : Guard) (a : Reg) (st : TileStateCode) (s : State), Issues g .free [a] [] s → s.me.waitFor = none →
      (s.tile s.myDie s.myPart (handleOf (s.r a)) = none →
        (st.val = 0 → s.freeSeen s.cur s.myDie (handleOf (s.r a)) = true → exec (.waitt g a st) s = .next (s.onTo (s.me.pc + 8)))
        ∧ (st.val ≠ 0 ∨ s.freeSeen s.cur s.myDie (handleOf (s.r a)) = false → exec (.waitt g a st) s = .next (s.block (.tileAt s.myDie (handleOf (s.r a)) none st false))))
      ∧ (∀ x, s.tile s.myDie s.myPart (handleOf (s.r a)) = some x → s.tileU x.uid = some x → x.bad = false →
        ((st.val = 1 ∧ x.state = .filling ∨ st.val = 2 ∧ x.state ≠ .filling ∨ st.val = 3 ∧ (x.state = .draining ∨ x.state = .poison)
            ∨ st.val = 4 ∧ x.state = .poison) → s.applied s.myDie x.deps = true → exec (.waitt g a st) s = .next (s.onTo (s.me.pc + 8)))
        ∧ (st.val = 0 ∨ st.val = 1 ∧ x.state ≠ .filling ∨ st.val = 2 ∧ x.state = .filling
            ∨ st.val = 3 ∧ (x.state = .filling ∨ x.state = .full) ∨ st.val = 4 ∧ x.state ≠ .poison ∨ s.applied s.myDie x.deps = false →
          exec (.waitt g a st) s = .next (s.block (.tileAt s.myDie (handleOf (s.r a)) (some x.uid) st false)))))

/-- R273: FENCE.ACQ completes when no earlier LDG or ATOMG of the task is out, and blocks until then; FENCE.REL completes at once and holds
later stores, atomics and system instructions until every access now out is performed; FENCE.AR does both; FENCE.ORD completes when
nothing of the task is out or on its way in its scope and no access of the partition's order is, and blocks until then. No fence writes a
register or a byte. -/
def Obligations.FencesOrder : Prop :=
  ∀ (g : Guard) (sc : SScope) (s : State), Issues g .free [] [] s →
    ((∀ x ∈ s.accesses, x.task = s.cur → x.dest = none) →
      exec (.fenceAcq g sc) s = .next (s.onTo (s.me.pc + 8))
      ∧ ∃ t, exec (.fenceAr g sc) s = .next t ∧ exec (.fenceRel g sc) s = .next t)
    ∧ ((∃ x ∈ s.accesses, x.task = s.cur ∧ x.dest ≠ none) →
      (∃ l, exec (.fenceAcq g sc) s = .next (s.block (.accesses l))) ∧ ∃ l, exec (.fenceAr g sc) s = .next (s.block (.accesses l)))
    ∧ (∃ t, exec (.fenceRel g sc) s = .next t ∧ t.me.pc = s.me.pc + 8 ∧ SameBytes s t ∧ SameRegsBut s t s.cur 0 ∧ t.me.cnt = s.me.cnt
      ∧ ∀ x ∈ s.accesses, x.task = s.cur →
          x.serial ∈ t.heldBy s.cur .store ∧ x.serial ∈ t.heldBy s.cur .system ∧ x.serial ∈ t.heldBy s.cur .release ∧ t.heldBy s.cur .free = [])
    ∧ (s.waitOver s.cur (.fence sc) = true → ∃ t, exec (.fenceOrd g sc) s = .next t ∧ exec (.fenceRel g sc) s = .next t)
    ∧ (((∃ x ∈ s.accesses, x.task = s.cur) ∨ (∃ r ∈ s.inFlight, r.ord = some s.myPart)
        ∨ (∃ r ∈ s.inFlight, r.task = some s.cur ∧ scopeCovers (s.modeOf s.myAsid) sc s.myDie r.dst = true)) →
      exec (.fenceOrd g sc) s = .next (s.block (.fence sc)))

/-- R51 to R53, R274: GJOIN makes the group of its key with the task as its one member where there is none, adds the task to a group with
fewer than 32 members, and blocks at 32; GLEAVE takes it out; GARR writes the phase the arrival belongs to, and the arrival that completes
a group advances its phase and clears its arrivals; GWAIT completes when the phase differs from b and blocks while it does not. -/
def Obligations.GroupsComplete : Prop :=
  ∀ (g : Guard) (a b d : Reg) (s : State) (key : BitVec 32), key = keyOf (s.r a) → (s.groups.Pairwise fun x y => ¬ (x.die = y.die ∧ x.part = y.part ∧ x.key = y.key)) →
    (Issues g .system [a] [] s →
      (s.group s.myDie s.myPart key = none → (s.groups.filter fun x => x.die == s.myDie).length < 256 →
        exec (.gjoin g a) s =
          .next (State.onTo { s with groups := s.groups ++ [⟨s.myDie, s.myPart, key, [s.me.activation], [], 0⟩] } (s.me.pc + 8)))
      ∧ (∀ x, s.group s.myDie s.myPart key = some x → s.me.activation ∉ x.members → x.members.length < 32 →
        ∃ t, exec (.gjoin g a) s = .next t ∧ t.group s.myDie s.myPart key = some { x with members := x.members ++ [s.me.activation] }
          ∧ t.me.pc = s.me.pc + 8)
      ∧ (∀ x, s.group s.myDie s.myPart key = some x → s.me.activation ∉ x.members → 32 ≤ x.members.length →
        exec (.gjoin g a) s = .next (s.block (.groupRoom key)))
      ∧ (∃ t, exec (.gleave g a) s = .next t ∧ t.me.pc = s.me.pc + 8
        ∧ (∀ x ∈ t.groups, x.die = s.myDie → x.part = s.myPart → x.key = key → s.me.activation ∉ x.members)))
    ∧ (∀ x, s.group s.myDie s.myPart key = some x → s.me.activation ∈ x.members →
      (Issues g .release [a] [d] s → ∃ t y, exec (.garr g d a) s = .next t ∧ (d ≠ 0 → t.me.reg d = x.phase.setWidth 64)
        ∧ t.group s.myDie s.myPart key = some y ∧ y.members = x.members
        ∧ ((∀ m ∈ x.members, m = s.me.activation ∨ m ∈ x.arrivals) → y.phase = x.phase + 1 ∧ y.arrivals = [])
        ∧ ((∃ m ∈ x.members, m ≠ s.me.activation ∧ m ∉ x.arrivals) → y.phase = x.phase ∧ s.me.activation ∈ y.arrivals))
      ∧ (Issues g .system [a, b] [] s →
        (keyOf (s.r b) ≠ x.phase → exec (.gwait g a b) s = .next (s.onTo (s.me.pc + 8)))
        ∧ (keyOf (s.r b) = x.phase → exec (.gwait g a b) s = .next (s.block (.phase key x.phase)))))
    ∧ ((s.group s.myDie s.myPart key = none ∨ ∃ x, s.group s.myDie s.myPart key = some x ∧ s.me.activation ∉ x.members) →
      (Issues g .release [a] [d] s → exec (.garr g d a) s = .next (s.takeFault s.cur 0 s.me.pc (s.report fILLOP 0 0)))
      ∧ (Issues g .system [a, b] [] s → exec (.gwait g a b) s = .next (s.takeFault s.cur 0 s.me.pc (s.report fILLOP 0 0))))

/-! ### Exceptions, control registers, code and slots -/

/-- R48, R276: TRAP enters the handler of a task that is not in it: EPC is the next address, the record holds code TRAP, class 0, the
immediate and the instruction's address, the pc goes to HVEC, and ESTAT is RUNNABLE; no register and no byte of memory changes. ERET in the handler clears the
in-handler bit and goes to EPC as RUNNABLE, or to IDLE, as ESTAT says; outside it, ERET is a precise ILLOP. -/
def Obligations.TrapAndReturn : Prop :=
  (∀ (g : Guard) (code : BitVec 32) (s : State), Issues g .free [] [] s → s.me.inHandler = false →
    ∃ t, exec (.trap g code) s = .next t ∧ t.me.status = .handler ∧ t.me.inHandler = true ∧ t.me.estat = .runnable ∧ t.me.epc = s.me.pc + 8
      ∧ t.me.pc = s.me.hvec ∧ t.me.spcount = 0 ∧ t.me.frec.w0.extractLsb' 0 8 = 22 ∧ t.me.frec.w0.extractLsb' 12 4 = 0
      ∧ t.me.frec.w1 = s.timestamp ∧ t.me.frec.w2 = code.setWidth 64 ∧ t.me.frec.w3 = s.me.pc.setWidth 64
      ∧ SameRegsBut s t s.cur 0 ∧ SameBytes s t ∧ t.me.cnt = s.me.cnt ∧ t.me.hvec = s.me.hvec ∧ t.me.entry = s.me.entry)
  ∧ (∀ (g : Guard) (s : State), Issues g .free [] [] s → s.me.inHandler = true → s.me.stubRun = none → s.me.stubDue = none →
    ∃ t, exec (.eret g) s = .next t ∧ t.me.inHandler = false ∧ SameRegsBut s t s.cur 0 ∧ SameBytes s t
      ∧ (s.me.estat = .idle → t.me.status = .idle)
      ∧ (s.me.estat = .runnable → t.me.status = .runnable ∧ t.me.pc = s.me.epc)
      ∧ t.me.epc = s.me.epc ∧ t.me.frec = s.me.frec ∧ t.me.cnt = s.me.cnt)
  ∧ (∀ (g : Guard) (s : State), Issues g .free [] [] s → s.me.inHandler = false →
    exec (.eret g) s = .next (s.takeFault s.cur 0 s.me.pc (s.report fILLOP 0 0)))

/-- R48, R225, R384: taking an exception, for every class and report. A task outside its handler enters it: EPC, the record, HVEC, ESTAT and
the in-handler bit as the entry says. A task that is in its handler stops: its slot is IDLE with the bit clear, and a
class-2 record goes to firmware, with one of each failure it had still to take (the model's choice, assumption 88). Either way every other register, every counter and every byte is kept. -/
def Obligations.ExceptionEntry : Prop :=
  ∀ (s : State) (k cls : Nat) (epc : BitVec 16) (f : Report),
    SameRegsBut s (s.takeFault k cls epc f) k 0 ∧ SameBytes s (s.takeFault k cls epc f) ∧ (∀ j, SameControl s (s.takeFault k cls epc f) j)
    ∧ (∀ j, j ≠ k → ((s.takeFault k cls epc f).task j).epc = (s.task j).epc ∧ ((s.takeFault k cls epc f).task j).frec = (s.task j).frec)
    ∧ ((s.task k).inHandler = false → ((s.takeFault k cls epc f).task k).status = .handler ∧ ((s.takeFault k cls epc f).task k).inHandler = true
      ∧ ((s.takeFault k cls epc f).task k).epc = epc ∧ ((s.takeFault k cls epc f).task k).pc = (s.task k).hvec
      ∧ ((s.takeFault k cls epc f).task k).estat = .runnable ∧ ((s.takeFault k cls epc f).task k).spcount = 0
      ∧ ((s.takeFault k cls epc f).task k).frec = s.taskRecord k cls f)
    ∧ ((s.task k).inHandler = true → ((s.takeFault k cls epc f).task k).status = .idle ∧ ((s.takeFault k cls epc f).task k).inHandler = false
      ∧ (∃ l, (s.takeFault k cls epc f).fwRecords = s.fwRecords ++ s.taskRecord k 2 f :: l ∧ l.length = (s.task k).deferred.length)
      ∧ ((s.takeFault k cls epc f).task k).epc = (s.task k).epc)

/-- R114, R278: RDTS writes the timestamp; CRD writes the control register it names, zero-extended, as the state holds it; CWR of ENTRY, HVEC
and EPC writes bits 15 to 3 of a with zeros below, of SAFEGAP the low 32 bits. -/
def Obligations.ControlRegistersComplete : Prop :=
  (∀ (g : Guard) (d : Reg) (s : State), Issues g .free [] [d] s →
    exec (.rdts g d) s = .next (s.wrote d s.timestamp)
    ∧ exec (.crd g d .entry) s = .next (s.wrote d (s.me.entry.setWidth 64)) ∧ exec (.crd g d .hvec) s = .next (s.wrote d (s.me.hvec.setWidth 64))
    ∧ exec (.crd g d .epc) s = .next (s.wrote d (s.me.epc.setWidth 64)) ∧ exec (.crd g d .safegap) s = .next (s.wrote d (s.me.safegap.setWidth 64))
    ∧ exec (.crd g d .frec0) s = .next (s.wrote d s.me.frec.w0) ∧ exec (.crd g d .frec1) s = .next (s.wrote d s.me.frec.w1)
    ∧ exec (.crd g d .frec2) s = .next (s.wrote d s.me.frec.w2) ∧ exec (.crd g d .frec3) s = .next (s.wrote d s.me.frec.w3)
    ∧ exec (.crd g d .taskid) s = .next (s.wrote d (BitVec.ofNat 64 s.cur)) ∧ exec (.crd g d .partition) s = .next (s.wrote d (BitVec.ofNat 64 s.myPart))
    ∧ exec (.crd g d .spcount) s = .next (s.wrote d (s.me.spcount.setWidth 64))
    ∧ exec (.crd g d .counters) s = .next (s.wrote d ((0 : BitVec 16) ++ s.me.cnt.ld ++ s.me.cnt.st ++ s.me.cnt.dr ++ s.me.cnt.sr ++ s.me.cnt.sv ++ s.me.cnt.rn)))
  ∧ (∀ (g : Guard) (a : Reg) (s : State), Issues g .free [a] [] s →
    exec (.cwr g .entry a) s = .next ((s.updMe fun x => { x with entry := (s.r a).extractLsb' 3 13 ++ (0 : BitVec 3) }).onTo (s.me.pc + 8))
    ∧ exec (.cwr g .hvec a) s = .next ((s.updMe fun x => { x with hvec := (s.r a).extractLsb' 3 13 ++ (0 : BitVec 3) }).onTo (s.me.pc + 8))
    ∧ exec (.cwr g .epc a) s = .next ((s.updMe fun x => { x with epc := (s.r a).extractLsb' 3 13 ++ (0 : BitVec 3) }).onTo (s.me.pc + 8))
    ∧ exec (.cwr g .safegap a) s = .next ((s.updMe fun x => { x with safegap := (s.r a).extractLsb' 0 32 }).onTo (s.me.pc + 8)))

/-- R275, R277: SAFEPT with no switch pending starts the safe-point counter again and completes; with one pending and every counter 0 it saves
the task's context, the registers not named live as 0, and leaves the slot IDLE, with its channel empty. FWCALL asks the firmware and
blocks; its reply, when there, is written to d. -/
def Obligations.SafePointsAndFirmwareCalls : Prop :=
  (∀ (g : Guard) (regs : BitVec 31) (preds : BitVec 7) (stub : Option (BitVec 13)) (s : State), Issues g .free [] [] s →
    (s.me.switchReq ≠ some .switchOut →
      exec (.safept g regs preds stub) s = .next (s.updMe fun x => { x with pc := s.me.pc + 8, spcount := 0, waitFor := none }))
    ∧ (s.me.switchReq = some .switchOut → s.me.cnt = ⟨0, 0, 0, 0, 0, 0⟩ →
      ∃ t c, exec (.safept g regs preds stub) s = .next t ∧ t.switchedOut = s.switchedOut ++ [c] ∧ c.task = s.cur ∧ c.pc = s.me.pc + 8
        ∧ (∀ i : Fin 32, c.regs[i] = if i.val ≠ 0 ∧ regs.getLsbD (i.val - 1) = true then s.me.regs[i] else 0)
        ∧ c.preds = s.me.preds &&& preds ∧ c.queue = s.queue s.cur ∧ t.queue s.cur = [] ∧ t.me.status = .idle ∧ SameBytes s t)
    ∧ (s.me.switchReq = some .switchOut → s.me.cnt ≠ ⟨0, 0, 0, 0, 0, 0⟩ →
      ∃ t, exec (.safept g regs preds stub) s = .next t ∧ t.me.status = .blocked ∧ t.me.waitFor = some .switch ∧ t.me.pc = s.me.pc))
  ∧ (∀ (g : Guard) (d a : Reg) (svc : BitVec 16) (s : State), Issues g .release [a] [d] s →
    (s.me.fwReply = none → ∃ t, exec (.fwcall g d a svc) s = .next t ∧ t.me.status = .blocked ∧ t.me.fwCall = some (svc, s.r a) ∧ t.me.pc = s.me.pc)
    ∧ (∀ v, s.me.fwReply = some v → ∃ t, exec (.fwcall g d a svc) s = .next t ∧ (d ≠ 0 → t.me.reg d = v) ∧ t.me.fwCall = none
        ∧ t.me.pc = s.me.pc + 8 ∧ SameRegsBut s t s.cur d ∧ SameBytes s t))

/-- R115, R279, R280: CINV.CFG and CINV.CODE drop the copies of the task's partition that meet the range, and keep the rest. ILOAD of an image
whose header is right and whose check value matches writes the words of its body to the ring's instruction store, each word one event, in an
order that is open (the model's choice, assumption 3); the code is in memory as the task's die reads it (no copy of it is held). That it reads
the image in parts, a 2 KiB block or all that is left at a time, by the parity of a free value (assumption 3), and that a part that is not the
last one writes nothing yet, is the model's (assumptions 55 and 60). -/
def Obligations.CodeAndCachesComplete : Prop :=
  (∀ (g : Guard) (a b : Reg) (s : State), Issues g .store [a, b] [] s →
    (∃ t, exec (.cinvCfg g a b) s = .next t ∧ t.me.pc = s.me.pc + 8 ∧ SameRegsBut s t s.cur 0 ∧ SameBytes s t
      ∧ (∀ c ∈ t.caches, ∀ e ∈ c.2, e.partition = s.myPart → cinvMeets (s.r a).toNat (s.r b).toNat e.va (32 * e.length) = false)
      ∧ (∀ c ∈ s.caches, ∀ e ∈ c.2, e.partition ≠ s.myPart ∨ cinvMeets (s.r a).toNat (s.r b).toNat e.va (32 * e.length) = false →
          ∃ c' ∈ t.caches, c'.1 = c.1 ∧ e ∈ c'.2))
    ∧ (∃ t, exec (.cinvCode g a b) s = .next t ∧ t.me.pc = s.me.pc + 8 ∧ SameRegsBut s t s.cur 0 ∧ SameBytes s t
      ∧ (∀ e ∈ t.codeCopies, e.part = s.myPart → cinvMeets (s.r a).toNat (s.r b).toNat e.va e.bytes.length = false)
      ∧ (∀ e ∈ s.codeCopies, e.part ≠ s.myPart ∨ cinvMeets (s.r a).toNat (s.r b).toNat e.va e.bytes.length = false → e ∈ t.codeCopies)))
  ∧ (∀ (g : Guard) (a : Reg) (dst : BitVec 13) (s : State), Issues g .store [a] [] s →
    (∀ (u : State) (got b0 : List Byte) (len left n : Nat), (∀ l, s.me.waitFor ≠ some (.words l)) →
      (∀ c ∈ s.codeCopies, ¬ (c.part = s.myPart ∧ c.asid = s.myAsid ∧ c.va = (s.r a).toNat)) →
      (s.movedBytes = [] ∧ s.drawNat.2.readV s.myDie s.myPart s.myAsid (.task s.cur) (s.r a).toNat 16 = .ok got
          ∧ u = s.drawNat.2.touchV s.myDie s.myPart s.myAsid (s.r a).toNat 16
        ∨ s.movedBytes = got ∧ got ≠ [] ∧ u = s.drawNat.2) →
      left = 16 + len - got.length → n = (if Config.freeNat (s.freeCtr + 1) % 2 = 0 then left else min left (2048 - ((s.r a).toNat + got.length) % 2048)) →
      u.readV s.myDie s.myPart s.myAsid (.task s.cur) ((s.r a).toNat + got.length) n = .ok b0 → 16 ≤ got.length → b0.length = n →
      fieldAt got 0 4 = len → 0 < len → len % 8 = 0 → fieldAt got 8 8 = 0 → 8 * dst.toNat + len ≤ 65536 →
      (n < left → ∃ t, exec (.iload g a dst) s = .next t ∧ t.me.pc = s.me.pc ∧ t.movedBytes = got ++ b0 ∧ SameRegsBut s t s.cur 0 ∧ SameHbm s t
        ∧ ∀ r, t.sequencer r = s.sequencer r)
      ∧ (n = left → got.length ≤ 16 + len → (crc32c ((got ++ b0).drop 16)).toNat = fieldAt (got ++ b0) 4 4 → (s.sequencer (taskRing s.cur)).istore.wf = true →
        ∃ t, exec (.iload g a dst) s = .next t
          ∧ LoadsWord s t ((List.range (len / 8)).map fun j => (8 * dst.toNat + 8 * j, (((got ++ b0).drop 16).drop (8 * j)).take 8))))
    ∧ (∀ l, s.me.waitFor = some (.words l) → l ≠ [] → (∀ p ∈ l, p.2.length = 8) → (s.sequencer (taskRing s.cur)).istore.wf = true →
      ∃ t, exec (.iload g a dst) s = .next t ∧ LoadsWord s t l))

/-- R48, R225, R275: the slot's own steps. TASK_ACTIVATE starts an IDLE slot with an entry in its channel at ENTRY, its channel and registers
as they are, once the writes of its node's predecessors are applied (R301); TASK_UNBLOCK makes a blocked slot whose condition holds RUNNABLE, or HANDLER with the in-handler bit set, at the same pc;
DEFERRED_FAULT enters the oldest deferred fault of a task that runs outside its handler; TASK_SPGAP takes SPGAP when the counter has reached SAFEGAP;
TASK_SWITCH_REQUEST sets or cancels the request; TASK_SWITCH_RESUME puts a context back in its IDLE slot. -/
def Obligations.SlotStepsComplete : Prop :=
  ∀ (s : State) (k : Nat),
    ((s.task k).status = .idle → (s.task k).parked = false → s.queue k ≠ [] → k < 192 → s.applied (taskDie k) (s.nodeDeps (s.task k).node) = true →
      ∃ t, exec (.taskActivate k) s = .next t ∧ (t.task k).status = .runnable ∧ (t.task k).pc = (s.task k).entry ∧ (t.task k).spcount = 0
        ∧ t.queue k = s.queue k ∧ SameRegsBut s t k 0 ∧ (t.task k).cnt = (s.task k).cnt)
    ∧ (∀ w v, (s.task k).status = .blocked → (s.task k).waitFor = some w → w ≠ .firmware → s.waitOver k w = true →
      exec (.taskUnblock k v) s = .next (s.updTask k fun x => { x with status := if x.inHandler then .handler else .runnable }))
    ∧ (∀ d ds, (s.task k).status ≠ .idle → (s.task k).inHandler = false → (s.task k).midway = false → (s.task k).deferred = d :: ds →
      ∃ t, exec (.deferredFault k) s = .next t ∧ (t.task k).status = .handler ∧ (t.task k).epc = (s.task k).pc ∧ (t.task k).pc = (s.task k).hvec
        ∧ (t.task k).deferred = ds ∧ (t.task k).frec = s.taskRecord k d.cls ⟨d.code, d.access, d.va.toNat, d.w3.toNat⟩)
    ∧ ((s.task k).status = .runnable → (s.task k).inHandler = false → (s.task k).safegap ≠ 0 → (s.task k).safegap.toNat ≤ (s.task k).spcount.toNat →
      ∃ t, exec (.taskSpgap k) s = .next t ∧ (t.task k).status = .handler ∧ (t.task k).epc = (s.task k).pc ∧ (t.task k).pc = (s.task k).hvec
        ∧ (t.task k).frec.w0.extractLsb' 0 8 = 14 ∧ (t.task k).frec.w2 = BitVec.ofNat 64 (s.task k).spcount.toNat)
    ∧ (∃ t, exec (.taskSwitchRequest k .switchOut) s = .next t ∧ (t.task k).switchReq = some .switchOut ∧ (t.task k).pc = (s.task k).pc ∧ SameRegsBut s t k 0)
    ∧ (∃ t, exec (.taskSwitchRequest k .cancel) s = .next t ∧ (t.task k).switchReq = none ∧ (t.task k).pc = (s.task k).pc ∧ SameRegsBut s t k 0)
    ∧ (∀ c, s.switchedOut.find? (fun c => c.task == k) = some c → (s.task k).status = .idle →
      ∃ t, exec (.taskSwitchResume k) s = .next t ∧ (t.task k).regs = c.regs ∧ (t.task k).preds = c.preds ∧ t.queue k = c.queue ++ s.queue k
        ∧ (c.stub = none → (t.task k).status = .runnable ∧ (t.task k).pc = c.pc)
        ∧ (∀ x, c.stub = some x → (t.task k).status = .handler ∧ (t.task k).pc = x ∧ (t.task k).epc = c.pc))

/-! ### Compute-cell ops -/

/-- R22, R84, R126, R133 to R135, R137: the integer and logic ops (PASS to POPC, CMPV, SELV), due for a DATA firing, write to OA and OB a token
with port A's mask in which every valid element is the table's result and every other element is port A's; a Fin result that had to change
counts one SAT event, and nothing else of the op changes but its inputs. DIVI writes quotients to OA and remainders to OB. (A condition
code is one of R134's six; every other op has op flags of zeros.) -/
def Obligations.ElementOpsComplete : Prop :=
  ∀ (f : CCFrame) (s : State) (w : Work) (a y c : Token), DataDue f true s w a y c → (f.flags.extractLsb' 0 3).toNat < 6 →
    (∀ row ∈ finTable, ∃ t x, Comes [f.oa, f.ob] f.silt s { w.used f with outs := [(0, t), (1, t)], op := { (w.used f).op with silt := x } } (exec (row.1 f) s)
      ∧ IsElems f.ty.width a t (fun e =>
          let v := row.2 (f.ty.intOf (readElem f.ty f.a a e)) (f.ty.intOf (readElem f.ty f.b y e)) (f.ty.intOf (readElem f.ty f.c c e))
          ((if f.sat then max f.ty.intMin (min v f.ty.intMax) else v) % 2 ^ f.ty.width).toNat)
      ∧ (f.stats = false → x = w.op.silt)
      ∧ (f.stats = true → x = { w.op.silt with
          sat := min (w.op.silt.sat + ((Finset.range (512 / f.ty.width)).filter fun e => validE a.mask f.ty.width e = true ∧
            (let v := row.2 (f.ty.intOf (readElem f.ty f.a a e)) (f.ty.intOf (readElem f.ty f.b y e)) (f.ty.intOf (readElem f.ty f.c c e))
             v < f.ty.intMin ∨ f.ty.intMax < v)).card) 0xFFFFFFFF, nan := min w.op.silt.nan 0xFFFFFFFF, unf := min w.op.silt.unf 0xFFFFFFFF }))
    ∧ (∀ row ∈ patTable, ∃ t x, Comes [f.oa, f.ob] f.silt s { w.used f with outs := [(0, t), (1, t)], op := { (w.used f).op with silt := x } } (exec (row.1 f) s)
      ∧ IsElems f.ty.width a t (fun e => row.2 f f.ty.width f.ty.intOf (readElem f.ty f.a a e) (readElem f.ty f.b y e) (readElem f.ty f.c c e)))
    ∧ (∃ q r, Comes [f.oa, f.ob] f.silt s { w.used f with outs := [(0, q), (1, r)] } (exec (.divi f) s)
      ∧ IsElems f.ty.width a q (fun e => (divPair f.ty.width f.ty.isSigned (readElem f.ty f.a a e) (readElem f.ty f.b y e)).1 % 2 ^ f.ty.width)
      ∧ IsElems f.ty.width a r (fun e => (divPair f.ty.width f.ty.isSigned (readElem f.ty f.a a e) (readElem f.ty f.b y e)).2 % 2 ^ f.ty.width))

/-- R126, R138 to R140, R82: the float ops, due for a DATA firing, write to OA and OB a token with port A's mask in which every valid
element is the op's result on the values of A, B and C, rounded as the frame says, and every other element is port A's. R72 to R76, R141 to
R143: CVT, CVTI, CVTF, QNT and DQNT, due for a DATA firing, write to OA and OB a token of the n elements that the wider type allows, each
valid element converted under the frame's rounding and saturation (QNT and DQNT with the record in port B's lane 0), zero elsewhere; an
output lane is valid when its every element is computed from a valid one. -/
def Obligations.FloatAndConversionOpsComplete : Prop :=
  (∀ (f : CCFrame) (s : State) (w : Work) (a y c : Token), DataDue f true s w a y c →
      ∀ row ∈ ([(.fadd, fun a b _ => fAdd f.ty f.rm f.sat (f.ty.floatOf a) (f.ty.floatOf b)),
          (.fsub, fun a b _ => fAdd f.ty f.rm f.sat (f.ty.floatOf a) (f.ty.floatOf b).negate),
          (.fmul, fun a b _ => fMul f.ty f.rm f.sat (f.ty.floatOf a) (f.ty.floatOf b)),
          (.fma, fun a b c => fFma f.ty f.rm f.sat (f.ty.floatOf a) (f.ty.floatOf b) (f.ty.floatOf c)),
          (.fmin, fun a b _ => fMinMax f.ty false a b), (.fmax, fun a b _ => fMinMax f.ty true a b),
          (.fdiv, fun a b _ => fDiv f.ty f.rm f.sat (f.ty.floatOf a) (f.ty.floatOf b)),
          (.fsqrt, fun a _ _ => fSqrt f.ty f.rm f.sat (f.ty.floatOf a)),
          (.frcp, fun a _ _ => fDiv f.ty f.rm f.sat (.fin false 1 0) (f.ty.floatOf a)),
          (.frsq, fun a _ _ => fRsq f.ty f.rm f.sat (f.ty.floatOf a)),
          (.fexp2, fun a _ _ => fExp2 f.ty f.sat a), (.flog2, fun a _ _ => fLog2 f.ty f.sat a), (.ftanh, fun a _ _ => fTanh f.ty a),
          (.fcmpv, fun a b _ => (if (fCmp f.ty (condOf f) a b).1 then 2 ^ f.ty.width - 1 else 0, (fCmp f.ty (condOf f) a b).2)),
          (.fclass, fun a _ _ => (fClass f.ty a, Ev.zero))] : List ((CCFrame → Instr) × (Nat → Nat → Nat → Nat × Ev))),
        ∃ t x, Comes [f.oa, f.ob] f.silt s { w.used f with outs := [(0, t), (1, t)], op := { (w.used f).op with silt := x } } (exec (row.1 f) s)
          ∧ IsElems f.ty.width a t (fun e => (row.2 (readElem f.ty f.a a e) (readElem f.ty f.b y e) (readElem f.ty f.c c e)).1 % 2 ^ f.ty.width)
          ∧ (f.stats = false → x = w.op.silt))
  ∧ (∀ (f : CCFrame) (s : State) (w : Work) (a y c : Token) (u : Ty), DataDue f true s w a y c → tyOfCode (f.ext.extractLsb' 0 4) = some u →
      ∀ row ∈ ([(.cvt, fun _ v => if f.ty.isFloat then floatToFloat u f.rm f.sat (f.ty.floatOf v) else finInt u f.sat (f.ty.intOf v)),
          (.cvti, fun _ v => floatToInt u f.rm f.sat (f.ty.floatOf v)), (.cvtf, fun _ v => intToFloat u f.rm f.sat (f.ty.intOf v)),
          (.qnt, fun r v => qntElem u f.rm (f.ty.floatOf v) r), (.dqnt, fun r v => dqntElem u f.rm f.sat v r)] :
            List ((CCFrame → Instr) × (Nat → Nat → Nat × Ev))),
        ∃ t x, Comes [f.oa, f.ob] f.silt s { w.used f with outs := [(0, t), (1, t)], op := { (w.used f).op with silt := x } } (exec (row.1 f) s)
          ∧ t.kind = 0
          ∧ (∀ e < 512 / max f.ty.width u.width, elem t.payload u.width e =
              if validE a.mask f.ty.width e then (row.2 (lane y.payload 0) (readElem f.ty f.a a e)).1 % 2 ^ u.width else 0)
          ∧ (∀ l < 16, t.mask.getLsbD l = true ↔ ∀ e, u.width * e < 32 * (l + 1) → 32 * l < u.width * (e + 1) →
              e < 512 / max f.ty.width u.width ∧ validE a.mask f.ty.width e = true))

/-- R65 to R71, R138 to R140: special values, and the rounding of the others. A NaN operand of an addition, product, fused product (its addend
too), quotient, root or reciprocal root gives the canonical NaN, and counts one NAN event for each signalling operand; ∞ − ∞, 0 × ∞, alone and
inside a fused product, 0 ÷ 0, ∞ ÷ ∞ and either root of a negative number give it with one NAN event, for every sign and either order; FMIN and
FMAX return the operand that is no NaN; a comparison with a NaN holds for NE and UN only; −0 equals +0; FCLASS sets exactly one bit, of the
ten. A sum, product, quotient or fused product of finite values whose exact value is not zero is that value rounded under the mode: to the type's precision, with one
UNF event for a zero or subnormal result, and beyond the largest finite value to what the table of R69 gives, with one SAT event. -/
def Obligations.FloatSpecialValues : Prop :=
  ∀ (t : Ty) (rm : Rm) (sat : Bool), t ∈ [Ty.f32, .f16, .bf16, .e4m3, .e5m2] →
    (∀ x y z : FV,
      ((x.isNan = true ∨ y.isNan = true) → fAdd t rm sat x y = (t.nanBits, ⟨0, x.sig + y.sig, 0⟩) ∧ fMul t rm sat x y = (t.nanBits, ⟨0, x.sig + y.sig, 0⟩)
        ∧ fDiv t rm sat x y = (t.nanBits, ⟨0, x.sig + y.sig, 0⟩))
      ∧ ((x.isNan = true ∨ y.isNan = true ∨ z.isNan = true) → fFma t rm sat x y z = (t.nanBits, ⟨0, x.sig + y.sig + z.sig, 0⟩))
      ∧ (x.isNan = true → fSqrt t rm sat x = (t.nanBits, ⟨0, x.sig, 0⟩) ∧ fRsq t rm sat x = (t.nanBits, ⟨0, x.sig, 0⟩)))
    ∧ (∀ (b c : Bool) (m : Nat) (e e' : Int) (z : FV),
      fAdd t rm sat (.inf b) (.inf !b) = (t.nanBits, ⟨0, 1, 0⟩)
      ∧ fMul t rm sat (.inf b) (.fin c 0 e) = (t.nanBits, ⟨0, 1, 0⟩) ∧ fMul t rm sat (.fin c 0 e) (.inf b) = (t.nanBits, ⟨0, 1, 0⟩)
      ∧ (z.isNan = false → fFma t rm sat (.inf b) (.fin c 0 e) z = (t.nanBits, ⟨0, 1, 0⟩) ∧ fFma t rm sat (.fin c 0 e) (.inf b) z = (t.nanBits, ⟨0, 1, 0⟩))
      ∧ fDiv t rm sat (.fin b 0 e) (.fin c 0 e') = (t.nanBits, ⟨0, 1, 0⟩) ∧ fDiv t rm sat (.inf b) (.inf c) = (t.nanBits, ⟨0, 1, 0⟩)
      ∧ (0 < m → fSqrt t rm sat (.fin true m e) = (t.nanBits, ⟨0, 1, 0⟩) ∧ fRsq t rm sat (.fin true m e) = (t.nanBits, ⟨0, 1, 0⟩))
      ∧ fSqrt t rm sat (.inf true) = (t.nanBits, ⟨0, 1, 0⟩) ∧ fRsq t rm sat (.inf true) = (t.nanBits, ⟨0, 1, 0⟩)
      ∧ fSqrt t rm sat (.fin b 0 e) = (if b then 2 ^ (t.width - 1) else 0, ⟨0, 0, 0⟩))
    ∧ (∀ a b : Nat, (t.floatOf a).isNan = true → (t.floatOf b).isNan = false →
      (∀ mx, (fMinMax t mx a b).1 = b ∧ (fMinMax t mx b a).1 = b)
      ∧ (∀ c, (fCmp t c a b).1 = (decide (c = .ne) || decide (c = .un)) ∧ (fCmp t c b a).1 = (decide (c = .ne) || decide (c = .un))))
    ∧ (∀ mx a b, (t.floatOf a).isNan = true → (t.floatOf b).isNan = true → (fMinMax t mx a b).1 = t.nanBits)
    ∧ (fCmp t .eq 0 (2 ^ (t.width - 1))).1 = true ∧ (fCmp t .lt (2 ^ (t.width - 1)) 0).1 = false
    ∧ (∀ v, ∃ i < 10, fClass t v = 2 ^ i)
    ∧ (∀ (n n' k : Bool) (m m' j : Nat) (e e' i : Int) (x y z : ℚ), x = (FV.fin n m e).exact → y = (FV.fin n' m' e').exact → z = (FV.fin k j i).exact →
      (x + y ≠ 0 → IsRound t rm sat (x + y) (fAdd t rm sat (.fin n m e) (.fin n' m' e')))
      ∧ (x * y ≠ 0 → IsRound t rm sat (x * y) (fMul t rm sat (.fin n m e) (.fin n' m' e')))
      ∧ (x ≠ 0 → y ≠ 0 → IsRound t rm sat (x / y) (fDiv t rm sat (.fin n m e) (.fin n' m' e')))
      ∧ (x * y + z ≠ 0 → IsRound t rm sat (x * y + z) (fFma t rm sat (.fin n m e) (.fin n' m' e') (.fin k j i))))

/-- R125, R144, R145, R147: SHUF, LROT and BCST, due for a DATA firing, copy whole lanes of port A's values with their mask bits from the source
lane of the table, which port B's values may give. PACK puts part j of its r parts from the low part of the j-th token and emits a full buffer at the r-th; UNPK
emits part j of the token, which is consumed at the last. R148 to R150, R159, R160: RED writes in element 0 the combination of the valid
elements, LIDX the index of each element counted from port B's element 0, SCAN at each valid element the combination of the carried value
with the valid elements up to it, and keeps the whole one as its carry; ACC adds each valid element to its own total, and COUNT counts the
tokens, or the valid elements, both without writing OA before their sequence ends. -/
def Obligations.LaneOpsAndReductionsComplete : Prop :=
  (∀ (f : CCFrame) (s : State) (w : Work),
      (∀ a y c p, DataDue f true s w a y c → p = readPayload f.ty f.b y →
        ∀ row ∈ ([(.shuf, fun l => if f.flags.getLsbD 0 then lane p l % 16 else (f.imm.toNat / 2 ^ (4 * l)) % 16),
            (.lrot, fun l => (l + (if f.flags.getLsbD 0 then lane p 0 % 16 else f.ext.toNat % 16)) % 16),
            (.bcst, fun _ => if f.flags.getLsbD 0 then lane p 0 % 16 else f.ext.toNat % 16)] : List ((CCFrame → Instr) × (Nat → Nat))),
          ∃ t, Comes [f.oa, f.ob] f.silt s { w.used f with outs := [(0, t), (1, t)] } (exec (row.1 f) s)
            ∧ t.kind = 0 ∧ ∀ l < 16, lane t.payload l = lane (readPayload f.ty f.a a) (row.2 l) ∧ t.mask.getLsbD l = a.mask.getLsbD (row.2 l))
      ∧ (∀ t r, Ready s w → w.portTok f.ty f.imm .a f.a = some t → t.kind = 0 → r = 2 ^ (f.ext.extractLsb' 0 2).toNat →
        (w.op.part + 1 < r → Comes [f.oa, f.ob] f.silt s
            { w.pop f.a.src (.port w.o .a) with op := { w.op with part := w.op.part + 1
                                                                  tot := w.op.tot ||| ((t.payload.setWidth (512 / r)).setWidth 512 <<< (512 / r * w.op.part))
                                                                  bufMask := w.op.bufMask ||| ((t.mask.setWidth (16 / r)).setWidth 16 <<< (16 / r * w.op.part)) } }
            (exec (.pack f) s))
        ∧ (w.op.part + 1 = r → w.op.erred = none → ∃ o, Comes [f.oa, f.ob] f.silt s
            { w.pop f.a.src (.port w.o .a) with outs := [(0, o), (1, o)], op := { w.op with part := 0, tot := 0, bufMask := 0, erred := none } } (exec (.pack f) s)
            ∧ o.kind = 0 ∧ o.payload = w.op.tot ||| ((t.payload.setWidth (512 / r)).setWidth 512 <<< (512 / r * w.op.part))
            ∧ o.mask = w.op.bufMask ||| ((t.mask.setWidth (16 / r)).setWidth 16 <<< (16 / r * w.op.part)))
        ∧ (w.op.part < r → ∃ o w1, Comes [f.oa, f.ob] f.silt s
            { w1 with outs := [(0, o), (1, o)], op := { w.op with part := if w.op.part + 1 = r then 0 else w.op.part + 1, erred := none } } (exec (.unpk f) s)
            ∧ o.kind = 0 ∧ o.payload.toNat = t.payload.toNat / 2 ^ (512 / r * w.op.part) % 2 ^ (512 / r)
            ∧ o.mask.toNat = t.mask.toNat / 2 ^ (16 / r * w.op.part) % 2 ^ (16 / r)
            ∧ (w.op.part + 1 = r → w1 = w.pop f.a.src (.port w.o .a)) ∧ (w.op.part + 1 < r → w1.s = w.s))))
  ∧ (∀ (f : CCFrame) (s : State) (w : Work) (a y c : Token) (vals : List Nat) (k : Nat), DataDue f true s w a y c → k = (f.flags.extractLsb' 0 3).toNat →
      vals = ((List.range (512 / f.ty.width)).filter fun e => validE a.mask f.ty.width e).map (readElem f.ty f.a a) →
      (∃ t x, Comes [f.oa, f.ob] f.silt s { w.used f with outs := [(0, t), (1, t)], op := { (w.used f).op with silt := x } } (exec (.red f) s)
        ∧ t.kind = 0 ∧ elem t.payload f.ty.width 0 = (comb f.ty f.rm f.sat k vals).1 % 2 ^ f.ty.width
        ∧ t.mask = (if vals = [] then 0 else if f.ty.width = 64 then 3 else 1))
      ∧ (∃ t x, Comes [f.oa, f.ob] f.silt s { w.used f with outs := [(0, t), (1, t)], op := { (w.used f).op with silt := x } } (exec (.lidx f) s)
        ∧ t.kind = 0 ∧ t.mask = a.mask
        ∧ ∀ e < 512 / f.ty.width, elem t.payload f.ty.width e = (finInt f.ty f.sat (f.ty.intOf (readElem f.ty f.b y 0) + e)).1 % 2 ^ f.ty.width)
      ∧ (∃ t x cy, Comes [f.oa, f.ob] f.silt s { w.used f with outs := [(0, t), (1, t)], op := { (w.used f).op with silt := x, carry := cy } } (exec (.scan f) s)
        ∧ IsElems f.ty.width a t (fun e => (comb f.ty f.rm f.sat k ((w.op.carry.map BitVec.toNat).toList
            ++ ((List.range (if f.flags.getLsbD 3 then e else e + 1)).filter fun i => validE a.mask f.ty.width i).map (readElem f.ty f.a a))).1 % 2 ^ f.ty.width)
        ∧ (vals = [] → cy = w.op.carry)
        ∧ (vals ≠ [] → cy = some (BitVec.ofNat 64 (comb f.ty f.rm f.sat k ((w.op.carry.map BitVec.toNat).toList ++ vals)).1)))
      ∧ (∃ x tot full, Comes [f.oa, f.ob] f.silt s
            { w.used f with outs := if f.flags.getLsbD 3 then [(1, a)] else [], op := { (w.used f).op with silt := x, tot := tot, nonEmpty := full } } (exec (.acc f) s)
        ∧ ∀ e < 512 / f.ty.width, full.getLsbD e = (w.op.nonEmpty.getLsbD e || validE a.mask f.ty.width e)
          ∧ (validE a.mask f.ty.width e = false → elem tot f.ty.width e = elem w.op.tot f.ty.width e)
          ∧ (validE a.mask f.ty.width e = true → w.op.nonEmpty.getLsbD e = true → elem tot f.ty.width e =
              (comb f.ty f.rm f.sat k [elem w.op.tot f.ty.width e, readElem f.ty f.a a e]).1 % 2 ^ f.ty.width)
          ∧ (validE a.mask f.ty.width e = true → w.op.nonEmpty.getLsbD e = false → f.ty.isFlt = false → elem tot f.ty.width e = readElem f.ty f.a a e))
      ∧ (∃ x n, Comes [f.oa, f.ob] f.silt s
            { w.used f with outs := if f.flags.getLsbD 3 then [(1, a)] else [], op := { (w.used f).op with silt := x, count := n } } (exec (.count f) s)
        ∧ n.toNat = min (w.op.count.toNat + if f.flags.getLsbD 0 then vals.length else 1) (2 ^ 32 - 1)))

/-- R136, R139, R167, R168, R170 to R172: CMPP, FCMPP and TOKP, due for a DATA firing, pass port A's token and write the predicate bit that any,
or with op flags [3] every, valid element satisfies; PTOK turns its bit into a token of ones or zeros; PLOGIC writes its table's bit to
every output, PDUP copies its bit and consumes it at the last copy, PGEN writes the pattern's next bit. -/
def Obligations.PredicateOpsComplete : Prop :=
  (∀ (f : CCFrame) (s : State) (w : Work) (a y c : Token) (es : List Nat), DataDue f true s w a y c →
    es = (List.range (512 / f.ty.width)).filter (fun e => validE a.mask f.ty.width e) →
    ∀ row ∈ ([(.cmpp, fun e => intCmp (condOf f) (f.ty.intOf (readElem f.ty f.a a e)) (f.ty.intOf (readElem f.ty f.b y e))),
        (.fcmpp, fun e => (fCmp f.ty (condOf f) (readElem f.ty f.a a e) (readElem f.ty f.b y e)).1),
        (.tokp, fun e => readElem f.ty f.a a e != 0)] : List ((CCFrame → Instr) × (Nat → Bool))),
      ∃ x, Comes [f.oa, f.ob] f.silt s { w.used f with outs := [(0, a), (1, a)], bits := [(f.pout, if f.flags.getLsbD 3 then es.all row.2 else es.any row.2)]
                                                       op := { (w.used f).op with silt := x } } (exec (row.1 f) s))
  ∧ (∀ (f : CCFrame) (s : State) (w : Work) (a y c : Token) (bit : Bool), DataDue f bit s w a y c →
    ∃ t, Comes [f.oa, f.ob] f.silt s { w.used f with outs := [(0, t), (1, t)] } (exec (.ptok f) s) ∧ t.kind = 0 ∧ t.mask = a.mask
      ∧ ∀ e < 512 / f.ty.width, elem t.payload f.ty.width e = if bit then 1 else 0)
  ∧ (∀ (f : PNFrame) (s : State) (w : Work), Ready s w →
    (∀ p q r, pnIn w 0 f.in0 f.sense0 = some p → pnIn w 1 f.in1 f.sense1 = some q → pnIn w 2 f.in2 f.sense2 = some r →
      Comes [] 0 s (pnWrite f (f.table.getLsbD (4 * r.toNat + 2 * q.toNat + p.toNat)) (pnPop (pnPop (pnPop w 0 f.in0) 1 f.in1) 2 f.in2)) (exec (.plogic f) s))
    ∧ (∀ p, pnIn w 0 f.in0 f.sense0 = some p →
      (w.op.count.toNat < f.plen.toNat → Comes [] 0 s (pnWrite f p { w with op := { w.op with count := w.op.count + 1 } }) (exec (.pdup f) s))
      ∧ (w.op.count.toNat = f.plen.toNat →
          Comes [] 0 s (pnWrite f p { pnPop w 0 f.in0 with op := { w.op with count := 0 } }) (exec (.pdup f) s))
      ∧ (w.op.count.toNat < f.plen.toNat →
          Comes [] 0 s (pnWrite f (f.pattern.getLsbD w.op.count.toNat) { pnPop w 0 f.in0 with op := { w.op with count := w.op.count + 1 } }) (exec (.pgen f) s))
      ∧ (w.op.count.toNat = f.plen.toNat →
          Comes [] 0 s (pnWrite f (f.pattern.getLsbD f.plen.toNat) { pnPop w 0 f.in0 with op := { w.op with count := 0 } }) (exec (.pgen f) s))))

/-- R156 to R158, R161 to R166: the stream ops on DATA. STEER sends port A's token to OA under a bit of 1 and to OB under 0. FILT keeps a lane
valid where port B's lane is not zero. MERGE takes from the port its bit names, or A before B; CMERGE from the port it did not take from
last. GEN writes the next token of its sequence, and after the last its STOP; REPL another copy; LEVUP raises every k-th STOP of its
level; LEVDN writes a STOP after k tokens; STOPAT ends its sequence's output at the first true bit; SINK consumes. -/
def Obligations.StreamOpsComplete : Prop :=
  ∀ (f : CCFrame) (s : State) (w : Work), Ready s w → w.op.resolving = none →
    (∀ t a b, w.head .a f.a = some t → t.kind = 0 → w.predBit f.pin f.psense = some b → w.portTok f.ty f.imm .a f.a = some a →
      Comes [f.oa, f.ob] f.silt s { (w.take .a f.a).takePred f.pin with outs := [(if b then 0 else 1, a)] } (exec (.steer f) s))
    ∧ (∀ a y c, DataDue f true s w a y c →
      ∃ m : BitVec 16, (∀ l < 16, m.getLsbD l = (a.mask.getLsbD l && lane (readPayload f.ty f.b y) l != 0))
        ∧ Comes [f.oa, f.ob] f.silt s { w.used f with outs := if f.flags.getLsbD 0 && m == 0 then [] else [(0, { a with mask := m, deps := [] }), (1, { a with mask := m, deps := [] })] }
            (exec (.filt f) s))
    ∧ (∀ x y, w.head .a f.a = some x → w.head .b f.b = some y → x.kind = 0 → y.kind = 0 → f.a.bcast = false → f.b.bcast = false →
      (f.pin = .none → Comes [f.oa, f.ob] f.silt s { w.pop f.a.src (.port w.o .a) with outs := [(0, x), (1, x)] } (exec (.merge f) s))
      ∧ (∀ b, f.pin ≠ .none → w.predBit f.pin f.psense = some b →
          Comes [f.oa, f.ob] f.silt s { (w.takePred f.pin).pop (if b then f.a.src else f.b.src) (.port w.o (if b then .a else .b)) with
            outs := [(0, if b then x else y), (1, if b then x else y)] } (exec (.merge f) s))
      ∧ (∀ b, b = !w.op.flag → ∃ w1, Comes [f.oa, f.ob] f.silt s { w1 with outs := [(0, if b then x else y), (1, if b then x else y)] } (exec (.cmerge f) s)
          ∧ w1 = Work.pop { w with op := { w.op with flag := b } } (if b then f.a.src else f.b.src) (.port w.o (if b then .a else .b))))
    ∧ (∀ a y c, DataDue f true s w a y c → ccReady f w = some (a, y, c) →
      (∀ n, n = readElem f.ty f.c c 0 % 2 ^ 32 →
        (w.op.count.toNat * (512 / f.ty.width) < n → ∃ t x, Comes [f.oa, f.ob] f.silt s
            { w with outs := [(0, t), (1, t)], op := { w.op with count := w.op.count + 1, silt := x } } (exec (.gen f) s)
          ∧ t.kind = 0 ∧ ∀ j < 512 / f.ty.width, elem t.payload f.ty.width j =
              if w.op.count.toNat * (512 / f.ty.width) + j < n then
                (finInt f.ty f.sat (f.ty.intOf (readElem f.ty f.b y 0) + ((w.op.count.toNat * (512 / f.ty.width) + j : Nat) : Int) * f.ext.toInt)).1 % 2 ^ f.ty.width
              else 0)
        ∧ (n ≤ w.op.count.toNat * (512 / f.ty.width) → Comes [f.oa, f.ob] f.silt s
            { w.takeAll f with outs := [(0, stopTok f.level Ride.none), (1, stopTok f.level Ride.none)], op := { (w.takeAll f).op with count := 0 } } (exec (.gen f) s)))
      ∧ (∀ k z, k = (if f.flags.getLsbD 0 then lane (readPayload f.ty f.b y) 0 % 65536 else (f.ext.extractLsb' 0 16).toNat) →
        z = (if f.flags.getLsbD 1 then [(0, stopTok f.level Ride.none), (1, stopTok f.level Ride.none)] else []) →
        (k = 0 → Comes [f.oa, f.ob] f.silt s { w.takeAll f with outs := z } (exec (.repl f) s))
        ∧ (w.op.count.toNat + 1 < k → Comes [f.oa, f.ob] f.silt s { w with outs := [(0, a), (1, a)], op := { w.op with count := w.op.count + 1 }, deps := a.deps } (exec (.repl f) s))
        ∧ (w.op.count.toNat + 1 = k → Comes [f.oa, f.ob] f.silt s { w.takeAll f with outs := [(0, a), (1, a)] ++ z, op := { (w.takeAll f).op with count := 0 } } (exec (.repl f) s))))
    ∧ (∀ t, w.head .a f.a = some t → t.kind = 1 → t.level ≠ 0 → t.level = f.level →
      ∃ w1 l n, Comes [f.oa, f.ob] f.silt s { w1 with outs := [(0, stopTok l t.ride), (1, stopTok l t.ride)], op := { w1.op with count := n }, silt := f.stats } (exec (.levup f) s)
        ∧ w1 = (w.pop f.a.src (.port w.o .a)).passStop t.level t.ride
        ∧ (w.op.count.toNat + 1 = (f.ext.extractLsb' 0 16).toNat → l = f.level + 1 ∧ n = 0)
        ∧ (w.op.count.toNat + 1 ≠ (f.ext.extractLsb' 0 16).toNat → l = f.level ∧ n = w.op.count + 1))
    ∧ (∀ t, w.head .a f.a = some t → t.kind = 0 →
      ((f.ext.extractLsb' 0 16).toNat ≤ w.op.count.toNat → Comes [f.oa, f.ob] f.silt s
          { w with outs := [(0, stopTok f.level Ride.none), (1, stopTok f.level Ride.none)], op := { w.op with count := 0 } } (exec (.levdn f) s))
      ∧ Comes [f.oa, f.ob] f.silt s ((w.pop f.a.src (.port w.o .a))) (exec (.sink f) s))
    ∧ (∀ a y c, DataDue f true s w a y c →
      (w.op.count.toNat < (f.ext.extractLsb' 0 16).toNat → w.head .a f.a ≠ none →
        Comes [f.oa, f.ob] f.silt s { w.used f with outs := [(0, a), (1, a)], op := { (w.used f).op with count := w.op.count + 1 } } (exec (.levdn f) s))
      ∧ (w.op.flag = false → f.flags.getLsbD 0 = false →
        Comes [f.oa, f.ob] f.silt s { w.used f with outs := [(0, a), (1, a)], op := { (w.used f).op with flag := true } } (exec (.stopat f) s))
      ∧ (w.op.flag = true → Comes [f.oa, f.ob] f.silt s (w.used f) (exec (.stopat f) s)))

/-- R23, R28, R29, R30, R33, R127, R128: what the ops that follow R127 do besides a DATA firing, for ADD, CMPV, FMA, CVT, SCAN, RED and the others
alike, said of an op by its frame, with any stream ports and any held ports. Under a bit of 0 they pass port A's token unchanged, their inputs
used. With a STOP of one level at every stream port they consume them all and write one; at or above the op's own level that ends its sequence:
each held port without a token consumes its next, the held tokens go, the Silt counts are due, and SCAN's carry is cleared. With a STOP at some
stream ports and other tokens at the rest they write ERR MISMATCH and begin to resolve at the highest level, consuming nothing yet. A marker goes
first: one kind at every stream port is consumed from them all, else the first port that has one gives it up. With no marker and no STOP there,
an ERR goes on in the firing's place: the first in port order, every stream port and every held port that has one consumed. -/
def Obligations.FiringProcedure : Prop :=
  ∀ row ∈ ([.pass, .ccAdd, .ccSub, .ccMul, .ccMulh, .mad, .ccMin, .ccMax, .absd, .ccAnd, .ccOr, .ccXor, .ccAndn, .ccShl, .ccShr, .ccSar, .rol, .ccClz, .ccPopc,
      .cmpv, .selv, .divi, .fadd, .fsub, .fmul, .fma, .fmin, .fmax, .fdiv, .fsqrt, .frcp, .frsq, .fexp2, .flog2, .ftanh, .fcmpv, .fclass, .cvt, .cvti,
      .cvtf, .qnt, .dqnt, .shuf, .lrot, .bcst, .scan, .red, .lidx, .filt] : List (CCFrame → Instr)),
    ∀ (f : CCFrame) (s : State) (w : Work), Ready s w → w.op.resolving = none →
      (∀ a y c, DataDue f false s w a y c → Comes [f.oa, f.ob] f.silt s { w.used f with outs := [(0, a), (1, a)] } (exec (row f) s))
      ∧ (∀ p t l1 l2, f.streams ++ f.helds = l1 ++ p :: l2 → (∀ q ∈ l1, ∀ u, w.head q.1 q.2 = some u → u.isMarker = false) → w.head p.1 p.2 = some t →
        t.isMarker = true →
        (l1 = [] → f.streams ≠ [] → (∀ q ∈ f.streams, ∃ u, w.head q.1 q.2 = some u ∧ u.kind = t.kind) →
          Comes [f.oa, f.ob] f.silt s { (w.popAll f.streams).passMarker t with outs := [(0, t), (1, t)] } (exec (row f) s))
        ∧ (p.2.kind ≠ .stream ∨ (∃ q ∈ f.streams, ∀ u, w.head q.1 q.2 = some u → u.kind ≠ t.kind) →
          Comes [f.oa, f.ob] f.silt s { (w.pop p.2.src (.port w.o p.1)).passMarker t with outs := [(0, t), (1, t)] } (exec (row f) s)))
      ∧ ((∀ q ∈ f.streams ++ f.helds, ∀ u, w.head q.1 q.2 = some u → u.isMarker = false) → f.streams ≠ [] → (∀ q ∈ f.streams, (w.head q.1 q.2).isSome = true) →
        (∀ l r w1, l ≠ 0 → (∀ q ∈ f.streams, ∀ u, w.head q.1 q.2 = some u → u.kind = 1 ∧ u.level = l) →
          r = rides (f.streams.filterMap fun q => w.head q.1 q.2) → w1 = (w.popAll f.streams).passStop l r →
          (l < f.level → Comes [f.oa, f.ob] f.silt s { w1 with outs := [(0, stopTok l r), (1, stopTok l r)] } (exec (row f) s))
          ∧ (f.level ≤ l → (∀ q ∈ f.helds, w1.resident q.1 = none → ∃ u, w1.head q.1 q.2 = some u ∧ (u.kind = 0 ∨ u.kind = 2)) →
            ∃ w2 c, Comes [f.oa, f.ob] f.silt s { w2 with outs := [(0, stopTok l r), (1, stopTok l r)], silt := f.stats, op := { w2.op with held := [], carry := c } }
                (exec (row f) s)
              ∧ w2 = w1.popAll (f.helds.filter fun q => (w1.resident q.1).isNone)
              ∧ (row f = .scan f → c = none) ∧ (row f ≠ .scan f → c = w2.op.carry)))
        ∧ (∀ l, l ≠ 0 → w.o.cls = .cc → f.stats = false → (∃ q ∈ f.streams, ∃ u, w.head q.1 q.2 = some u ∧ u.kind = 1 ∧ u.level = l) →
          (∀ q ∈ f.streams, ∀ u, w.head q.1 q.2 = some u → u.kind = 1 → u.level ≤ l) →
          (∃ q ∈ f.streams, ∃ u, w.head q.1 q.2 = some u ∧ (u.kind = 1 → u.level ≠ l)) →
          ∃ e, Comes [f.oa, f.ob] f.silt s { w with outs := [(0, e), (1, e)], op := { w.op with resolving := some (l, Ride.none) } } (exec (row f) s)
            ∧ e.kind = 2 ∧ (e.payload.toNat % 2 ^ 16 = 1) ∧ e.payload.extractLsb' 64 64 = s.timestamp)
        ∧ (∀ p e l1 l2 b, (∀ q ∈ f.streams, ∀ u, w.head q.1 q.2 = some u → u.kind ≠ 1) →
          (f.ports.filter fun q => (f.streams ++ f.helds).contains q) = l1 ++ p :: l2 → (∀ q ∈ l1, w.errAt q = none) → w.errAt p = some e →
          w.predBit f.pin f.psense = some b →
          Comes [f.oa, f.ob] f.silt s
            { ((f.helds.filter fun q => (w.errAt q).isSome).foldl Work.dropErr (w.popAll f.streams)).takePred f.pin with outs := [(0, e), (1, e)] } (exec (row f) s)))

/-- R173 to R176: the Silt nodes. A node takes the token at the head of its queue into the sum of its sequence number while that lies within four
of the oldest; a complete oldest sum leaves SNADD as four tokens of that number and advances the oldest; SNSINK adds it to its running
totals, one completed sequence more. SNADD's waiting words go where its destination says, one a turn, while that has room: to a node of its
stripe, to one of the next stripe or its seam FIFO (R38), which may first ask to grow, or to a channel. SNSINK of mode 0 writes its totals into
its row of a tile that is FILLING and makes the row valid; at another tile, or none, it stalls with a TSTATE record. -/
def Obligations.SiltNodesComplete : Prop :=
  ∀ (f : SNFrame) (s : State) (w : Work) (n : SnNode), s.workAt s.focus = some w → n = w.st.sn f.index.val →
    (n.outq = [] →
      exec (.snadd f) s = .next (w.updNode f fun m => if m.complete f = true then
          { m.advance with outq := sumWords m.oldest (m.sum m.oldest).sat (m.sum m.oldest).nan (m.sum m.oldest).unf (m.sum m.oldest).oob (m.sum m.oldest).mis }
        else m.accept)
      ∧ exec (.snsink f) s = .next (w.updNode f fun m => if m.complete f = true then
          { m.total with outq := if f.mode then sumWords m.oldest m.total.tSat m.total.tNan m.total.tUnf m.total.tOob m.total.tMis else [m.oldest.setWidth 64] }
        else m.accept))
    ∧ (∀ x xs, n.outq = x :: xs → ∀ i, (i = .snadd f ∨ i = .snsink f ∧ f.mode = true) →
      (f.dst = .none → exec i s = .next (w.updNode f fun m => { m with outq := m.outq.drop 1 }))
      ∧ (∀ k, f.dst = .q k → (s.queue (w.qTask k)).length < 32 →
          exec i s = .next (Work.updNode { w with s := s.pushQ (w.qTask k) ⟨0, 0, false, x, []⟩ } f fun m => { m with outq := m.outq.drop 1 }))
      ∧ (∀ k, f.dst = .q k → 32 ≤ (s.queue (w.qTask k)).length → exec i s = .next s)
      ∧ (∀ k, f.dst = .here k →
        ((w.st.sn k.val).queue.length < 16 → exec i s = .next (Work.updNode { w with
          s := s.updStripe w.run.serial w.slot fun p => p.updSn k.val fun m => { m with queue := m.queue ++ [x] } } f fun m => { m with outq := m.outq.drop 1 }))
        ∧ (16 ≤ (w.st.sn k.val).queue.length → exec i s = .next s))
      ∧ (∀ k, f.dst = .next k →
        (∀ slot p, w.onward (.sn k) = .direct slot p →
          ((p.sn k.val).queue.length < 16 → exec i s = .next (Work.updNode { w with
            s := s.updStripe w.run.serial slot fun y => y.updSn k.val fun m => { m with queue := m.queue ++ [x] } } f fun m => { m with outq := m.outq.drop 1 }))
          ∧ (16 ≤ (p.sn k.val).queue.length → exec i s = .next s))
        ∧ (w.onward (.sn k) = .seam →
          (s.seamRoom w.run.serial w.nextVs (.sn k) = true → exec i s = .next (Work.updNode { w with
            s := (s.seamGrow w.run.serial w.nextVs (.sn k)).seamPut w.run.serial w.nextVs (.sn k) fun q => { q with words := q.words ++ [x] } }
              f fun m => { m with outq := m.outq.drop 1 }))
          ∧ (s.seamRoom w.run.serial w.nextVs (.sn k) = false → exec i s = .next (s.seamAsk w.run.serial w.nextVs (.sn k))))
        ∧ (w.onward (.sn k) = .wait → exec i s = .next s)))
    ∧ (∀ x xs, n.outq = x :: xs → f.mode = false → n.stalled = false →
      (∀ u, s.tile w.die w.run.partition f.handle.toNat = some u → u.bad = false → u.state = .filling → f.row.toNat < u.rows →
        s.hbBad u 0 (f.row.toNat * u.rowBytes) 64 = false →
        exec (.snsink f) s = .next (Work.updNode { w with
          s := (s.setTileData u (f.row.toNat * u.rowBytes) (snRow n (x.setWidth 16))).updTile u.uid fun y =>
            { y with valid := y.valid ||| BitVec.twoPow 64 f.row.toNat } } f fun m => { m with outq := m.outq.drop 1, resumed := false }))
      ∧ (∀ t, (s.tile w.die w.run.partition f.handle.toNat = none
            ∨ ∃ u, s.tile w.die w.run.partition f.handle.toNat = some u ∧ u.bad = false ∧ (u.state ≠ .filling ∨ u.rows ≤ f.row.toNat)) →
          t = w.updNode f (fun m => { m with stalled := true }) →
          exec (.snsink f) s = .next (t.runRecord w.run.serial (w.record 3 2 fTSTATE (tileVa w.die f.handle.toNat) s.timestamp))))
    ∧ (∀ x xs, n.queue = x :: xs → x.getLsbD 34 = false → (x.extractLsb' 48 16 - n.oldest).toNat < 4 →
      n.accept.queue = xs ∧ n.accept.sum (x.extractLsb' 48 16) = (n.sum (x.extractLsb' 48 16)).add x
      ∧ ∀ q, q ≠ x.extractLsb' 48 16 → n.accept.sum q = n.sum q)
    ∧ (∀ x xs, n.queue = x :: xs → x.getLsbD 34 = false → 4 ≤ (x.extractLsb' 48 16 - n.oldest).toNat → n.accept = n)
    ∧ (n.total.oldest = n.oldest + 1 ∧ n.total.tSat = min (n.tSat + (n.sum n.oldest).sat) (2 ^ 32 - 1) ∧ n.total.done = min (n.done + 1) (2 ^ 16 - 1))

/-- R178 to R187: the matrix ops, due and with no other matrix op of the cell before them. LDS and MTRN fill one row, or one column, more of a
shadow plane that is not complete. MMA adds one activation row into the accumulator plane's next row: with I8 operands and no saturation
each element grows by the exact sum of the products of the valid activations with its weights, modulo 2^32. ACCZ clears its plane; ACCIN
writes 16 elements of a row; ACCOUT dumps. MMA and MMAQ pass their activations on. -/
def Obligations.MatrixOpsComplete : Prop :=
  ∀ (f : CCFrame) (s : State) (w : Work) (a y c : Token), DataDue f true s w a y c → w.yields = false →
    (w.unit.fill < 64 → (w.head .a f.a).isSome = true →
      (∃ w1, Comes [f.oa, f.ob] f.silt s w1 (exec (.lds f) s) ∧ w1.unit.fill = w.unit.fill + 1 ∧ w1.unit.active = w.unit.active
        ∧ (∀ l < 16, lane (w1.unit.shadow.row w.unit.fill) l = if a.mask.getLsbD l then lane a.payload l else 0)
        ∧ (∀ j, j ≠ w.unit.fill → w1.unit.shadow.row j = w.unit.shadow.row j)
        ∧ w1.outs = if w.unit.fill = 63 ∧ f.flags.getLsbD 0 = true then [(0, planeTok), (1, planeTok)] else [])
      ∧ (∃ w1, Comes [f.oa, f.ob] f.silt s w1 (exec (.mtrn f) s) ∧ w1.unit.fill = w.unit.fill + 1 ∧ w1.unit.active = w.unit.active
        ∧ (∀ n < 64, elem (w1.unit.shadow.row n) 8 w.unit.fill = if a.mask.getLsbD (n / 4) then elem a.payload 8 n else 0)
        ∧ (∀ n < 64, ∀ e < 64, e ≠ w.unit.fill → elem (w1.unit.shadow.row n) 8 e = elem (w.unit.shadow.row n) 8 e)))
    ∧ ((∃ t, w.head .a f.a = some t ∧ t.kind = 0) → Comes [f.oa, f.ob] f.silt s (((fireRow f false [a] (w.used f)).emit 0 a).emit 1 a) (exec (.mma f) s)
      ∧ (weightTy f ≠ .q4 → Comes [f.oa, f.ob] f.silt s (((fireRow f true [a] (w.used f)).emit 0 a).emit 1 a) (exec (.mmaq f) s))
      ∧ (weightTy f = .q4 → Comes [f.oa, f.ob] f.silt s (((fireRow f true [a, y] (w.used f)).emit 0 a).emit 1 y) (exec (.mmaq f) s)))
    ∧ (f.ty = .i8 → weightTy f = .i8 → f.sat = false → w.op.row < 64 → ∀ n < 64,
      accElem (((fireRow f false [a] (w.used f)).unit.acc (accOf f)).row w.op.row) n =
        ((Ty.i32.intOf (accElem ((w.unit.acc (accOf f)).row w.op.row) n)
          + ∑ e ∈ (Finset.range 64).filter fun e => validE a.mask 8 e = true, Ty.i8.intOf (elem a.payload 8 e) * Ty.i8.intOf (elem (w.unit.active.row n) 8 e))
          % 2 ^ 32).toNat)
    ∧ (∃ w1, Comes [f.oa, f.ob] f.silt s w1 (exec (.accz f) s) ∧ w1.unit.acc (accOf f) = ⟨[], 0, []⟩ ∧ w1.unit.acc (!accOf f) = w.unit.acc (!accOf f)
      ∧ w1.outs = [(0, a), (1, a)])
    ∧ (w.op.col < 4 → ∃ w1, Comes [f.oa, f.ob] f.silt s w1 (exec (.accin f) s) ∧ w1.outs = [] ∧ w1.op.col = (w.op.col + 1) % 4
      ∧ (∀ n < 64, accElem ((w1.unit.acc (accOf f)).row w.op.row) n =
          if n / 16 = w.op.col then (if a.mask.getLsbD (n % 16) then lane a.payload (n % 16) else 0) else accElem ((w.unit.acc (accOf f)).row w.op.row) n)
      ∧ (w1.unit.acc (accOf f)).high = max (w.unit.acc (accOf f)).high (w.op.row + 1))
    ∧ Comes [f.oa, f.ob] f.silt s (dump f (w.used f)) (exec (.accout f) s)

/-- R204 to R209: the ops that read and write a tile, due, with the tile there in the state they need and no failing storage. TRD answers with
the 64 bytes at its place, or with zeros and no valid lane where that is out of range or in a row not valid. TRDC keeps the lanes that are not zero
with their coordinates; TWR writes its token's valid lanes and acknowledges; TWRC puts each value in its element of the row buffer; GATH
reads the element its lane names; SCAT writes one element a turn, lane by lane, and acknowledges after the last. -/
def Obligations.TileCellOpsComplete : Prop :=
  ∀ (f : MCFrame) (s : State) (w : Work) (h : Nat) (x : Tile), McDue f true s w → f.fromC = false → f.stats = false → h = f.handle.toNat →
    s.tile w.die w.run.partition h = some x → x.bad = false →
    (x.state = .full → f.consume = false → w.mayPass f = true →
      (∀ a, (a = match w.gen with | some g => g.addr (w.op.agIdx.getD g.start) w.op.agPos | none => ((64 * x.k * w.op.row + 64 * w.op.col : Nat) : Int)) →
        (∀ g, w.gen = some g → g.empty w.run.recd.args = false) → s.tileBad x 0 a.toNat 64 = false →
        ∃ (w1 : Work) (r : Token) (m : Bool) (more : List McItem), exec (.trd f) s = .next w1.store
          ∧ w1.op.mcq = w.op.mcq ++ ⟨some r, some r, none, m, none, none, []⟩ :: more ∧ r.kind = 0
          ∧ ((0 ≤ a ∧ a.toNat % 64 = 0 ∧ a.toNat + 64 ≤ x.dataBytes ∧ x.valid.getLsbD (a.toNat / x.rowBytes) = true) →
              r.mask = 0xFFFF ∧ r.payload = payloadOf (s.tileData x a.toNat 64))
          ∧ (¬ (0 ≤ a ∧ a.toNat % 64 = 0 ∧ a.toNat + 64 ≤ x.dataBytes ∧ x.valid.getLsbD (a.toNat / x.rowBytes) = true) → r.mask = 0 ∧ r.payload = 0))
      ∧ (∀ p, p = payloadOf (s.tileData x (64 * x.k * w.op.row + 64 * w.op.col) 64) → s.tileBad x 0 (64 * x.k * w.op.row + 64 * w.op.col) 64 = false →
        x.valid.getLsbD w.op.row = true → w.op.col + 1 < x.k →
        (w.op.vals.length + ((List.range 16).filter fun l => lane p l != 0).length < 16 →
          ∃ p1, exec (.trdc f) s = .next (Work.store { w with s := s.touchTile x 0 (64 * x.k * w.op.row + 64 * w.op.col) 64, op := { w.op with
            part := p1
            vals := w.op.vals ++ ((List.range 16).filter fun l => lane p l != 0).map fun l => BitVec.ofNat 32 (lane p l)
            coords := w.op.coords ++ ((List.range 16).filter fun l => lane p l != 0).map fun l => BitVec.ofNat 32 (w.op.row * 65536 + (16 * w.op.col + l))
            agIdx := some [], col := w.op.col + 1 } })))
      ∧ (∀ l i, l = w.op.col → (w.tok f .a f.a).mask.getLsbD l = true → l < 15 → f.c.src = .unused → w.gen = none → i = lane (w.tok f .a f.a).payload l →
        w.op.count = 0 → w.op.vals.length < 15 → 4 * i + 4 ≤ x.dataBytes → x.valid.getLsbD (4 * i / x.rowBytes) = true → s.tileBad x 0 (4 * i) 4 = false →
        ∃ p1, exec (.gath f) s = .next (Work.store { w with s := s.touchTile x 0 (4 * i) 4, op := { w.op with
          part := p1, deps := (Work.gather f { w with s := s.touchTile x 0 (4 * i) 4, deps := w.deps ++ x.deps }).op.deps
          vals := w.op.vals ++ [BitVec.ofNat 32 (leNat (s.tileData x (4 * i) 4))], valid := w.op.valid ++ [true], agIdx := some [], col := l + 1, count := 0 } })))
    ∧ (∀ w0, w0 = { w with op := { w.op with part := 0 } } → x.state = .filling → x.hb = false →
      (∀ b p, b = w.tok f .b f.b → w.gen = none → w.op.col < x.k → w.op.row < x.rows → p = 64 * x.k * w.op.row + 64 * w.op.col →
        exec (.twr f) s = .next (((({ w0 with s := s.writeLanes x p b, op := { w0.op with col := w.op.col + 1 } } : Work).ack f b).gather f).takeMc f).store)
      ∧ (∃ buf fl, exec (.twrc f) s = .next (((({ w0 with op := { w0.op with vals := buf, flag := fl } } : Work).ack f (w.tok f .b f.b)).gather f).takeMc f).store
        ∧ buf.length = 16 * x.k
        ∧ (∀ l i, (w.tok f .a f.a).mask.getLsbD l = true → l < 16 → lane (w.tok f .a f.a).payload l = w.op.row * 65536 + i → i < 16 * x.k → i < 65536 →
            (∀ m, l < m → m < 16 → (w.tok f .a f.a).mask.getLsbD m = true → lane (w.tok f .a f.a).payload m ≠ w.op.row * 65536 + i) →
            buf[i]? = some (BitVec.ofNat 32 (lane (w.tok f .b f.b).payload l))))
      ∧ (∀ L b s1, L = (w.laneAddrs (w.tok f .a f.a) 4).filter (fun q => decide (w.op.col ≤ q.1)) → b = w.tok f .b f.b →
          s1 = (match L with | [] => s | q :: _ => if elemIn x q.2 = true then s.setElem x q.2.toNat (leBytes 4 (lane b.payload q.1)) else s) →
          LaneTurn f L w s1 w.op.vals w.op.bufMask (fun y => y.a = none ∧ y.bit = none ∧ ∃ r, y.b = some r ∧ r.kind = b.kind ∧ r.payload = b.payload ∧ r.mask = b.mask)
            (exec (.scat f) s)))

/-- R210 to R217: RMWA and TAS update the elements and bits that their lanes name, one a turn, lane by lane, and answer after the last; ATOM combines one element at
its home and answers the old one; LREQ answers 64 bytes of memory, SREQ writes its valid lanes and acknowledges; FIFO takes a token into
its tile and lets one go; LUT answers each lane from its copy. R216: FIFO, with its tile FILLING and healthy and both outputs free: its
oldest token goes to its outputs with the payload its tile holds, and a token that stands at port B is taken while fewer than rows × k are
held. -/
def Obligations.UpdateGlobalAndFifoOpsComplete : Prop :=
  (∀ (f : MCFrame) (s : State) (w : Work) (a b : Token), McDue f true s w → f.stats = false → a = w.tok f .a f.a → b = w.tok f .b f.b →
      (∀ x, s.tile w.die w.run.partition f.handle.toNat = some x → x.bad = false → x.state = .filling → x.hb = false →
        (∀ L s1 v m v1 m1, L = (w.laneAddrs a 4).filter (fun q => decide (w.op.col ≤ q.1)) →
          (∀ q ∈ L, elemIn x q.2 = true → s.tileBad x 0 q.2.toNat 4 = false) → (w.op.within = false → w.op.busyTo ≤ s.clk ∧ w.op.recent = []) →
          (v, m) = (if w.op.within = true then (w.op.vals, w.op.bufMask) else ((List.range 16).map fun l => BitVec.ofNat 32 (lane a.payload l), a.mask)) →
          (v1, m1, s1) = (match L with
            | [] => (v, m, s)
            | q :: _ =>
              if elemIn x q.2 = true then
                (v.set q.1 (BitVec.ofNat 32 (combine f (leNat (s.tileData x q.2.toNat 4)) (lane b.payload q.1) 0).1), m,
                  s.setElem x q.2.toNat (leBytes 4 (combine f (leNat (s.tileData x q.2.toNat 4)) (lane b.payload q.1) 0).1))
              else (v.set q.1 0, m &&& ~~~(BitVec.twoPow 16 q.1), s)) →
          LaneTurn f L w s1 v1 m1 (fun y => y.bit = none ∧ ∃ r, y.a = some r ∧ y.b = some r ∧ r.kind = 0 ∧ r.mask = m1 ∧ r.payload = packElems 32 (v1.map BitVec.toNat))
            (exec (.rmwa f) s))
        ∧ (∀ L s1 v m v1 m1 byte, L = (w.laneAddrs a 1).filter (fun q => decide (w.op.col ≤ q.1)) →
          (∀ q ∈ L, bitIn x q.2 = true → s.tileBad x 0 (q.2.toNat / 8) 1 = false) →
          (v, m) = (if w.op.within = true then (w.op.vals, w.op.bufMask) else (List.replicate 16 0, a.mask)) →
          (∀ q, L.head? = some q → byte = leNat (s.tileData x (q.2.toNat / 8) 1)) →
          (v1, m1, s1) = (match L with
            | [] => (v, m, s)
            | q :: _ =>
              if bitIn x q.2 = true then
                (if byte.testBit (q.2.toNat % 8) = true then v.set q.1 1 else v, if byte.testBit (q.2.toNat % 8) = true then m &&& ~~~(BitVec.twoPow 16 q.1) else m,
                  s.setElem x (q.2.toNat / 8) (leBytes 1 (byte ||| 2 ^ (q.2.toNat % 8))))
              else (v, m &&& ~~~(BitVec.twoPow 16 q.1), s)) →
          LaneTurn f L w s1 v1 m1 (fun y => y.bit = some (m1 != 0) ∧ (∃ r, y.a = some r ∧ r.kind = a.kind ∧ r.payload = a.payload ∧ r.mask = m1)
              ∧ ∃ r, y.b = some r ∧ r.kind = 0 ∧ r.payload = packElems 32 (v1.map BitVec.toNat)
                ∧ ∀ l < 16, r.mask.getLsbD l = true ↔ ∃ q ∈ w.laneAddrs a 1, q.1 = l ∧ bitIn x q.2 = true)
            (exec (.tas f) s)))
      ∧ (∀ va pa e, s.streams.any (fun z => z.who == .cell w.run.serial w.slot w.o.index) = true → s.mayServe (.cell w.run.serial w.slot w.o.index) = true →
        s.applied w.die (w.portDeps f) = true → fmtValid e.format = true → fmtTy e.format = some f.ty → s.blockFault e.shared pa = none → paHbm pa = true →
        s.knownInc w.die (s.homeOf pa) = s.inc (s.homeOf pa) →
        (va = Work.gva f (off64 a) / (f.ty.width / 8) * (f.ty.width / 8) → (∀ y ∈ w.op.mcq, y.out = none) → s.translate w.die w.run.partition w.run.asid va ⟨true, true, true⟩ = .ok pa e →
          s.upToDate w.die pa (f.ty.width / 8) = true →
          ∃ (w1 : Work) (r : Token) (g : Bool), exec (.atom f) s = .next (w1.takeMc f).store
            ∧ w1.op.mcq = w.op.mcq ++ [⟨some r, some r, none, g, none, some ⟨[s.homeOf pa], va, 3⟩, []⟩] ∧ r.kind = 0
            ∧ elem r.payload f.ty.width 0 = leNat (Memory.readBytes s.mem pa (f.ty.width / 8)) % 2 ^ f.ty.width
            ∧ w1.s.mem = Memory.writeBytes s.mem pa (leBytes (f.ty.width / 8)
                (combine f (leNat (Memory.readBytes s.mem pa (f.ty.width / 8))) (elem b.payload f.ty.width 0) (elem (w.tok f .c f.c).payload f.ty.width 0)).1))
        ∧ (va = Work.gva f (off64 a) / 64 * 64 → w.gen = none → (∀ i < 64, paHbm (pa + i) = true) →
          s.translate w.die w.run.partition w.run.asid va ⟨true, false, false⟩ = .ok pa e →
          ∃ (w1 : Work) (r : Token) (g : Bool), exec (.lreq f) s = .next (w1.takeMc f).store
            ∧ w1.op.mcq = w.op.mcq ++ [⟨some r, some r, none, g, none, some ⟨[s.homeOf pa], va, 1⟩, []⟩] ∧ r.kind = 0
            ∧ r.mask = 0xFFFF ∧ r.payload = payloadOf (s.viewBytes w.die pa 64) ∧ w1.s.mem = s.mem)
        ∧ (va = Work.gva f (off64 a) / 64 * 64 → w.gen = none → s.translate w.die w.run.partition w.run.asid va ⟨false, true, false⟩ = .ok pa e →
          ∃ (w1 : Work) (r : Token), exec (.sreq f) s = .next (w1.takeMc f).store
            ∧ w1.op.mcq = w.op.mcq ++ [⟨none, some r, none, false, none, some ⟨[s.homeOf pa], va, 2⟩, []⟩] ∧ r.kind = b.kind
            ∧ r.payload = b.payload ∧ w1.s.mem = ((s.storeLanes w.die (w.portDeps f) e.shared pa b).mem)))
      ∧ (∀ copy, w.op.bank = some copy → ∃ (w1 : Work) (r : Token) (g : Bool), exec (.lut f) s = .next (w1.takeMc f).store ∧ w1.op.mcq = w.op.mcq ++ [⟨some r, some r, none, g, none, none, []⟩]
        ∧ r.mask = a.mask ∧ ∀ l < 16, lane r.payload l =
            if a.mask.getLsbD l then (copy.getD (lane a.payload l) (f.imm.setWidth 32)).toNat else lane a.payload l))
  ∧ (∀ (f : MCFrame) (s : State) (w : Work) (x : Tile), s.workAt s.focus = some w → w.op.heldReq = none → w.op.parked w.run = false → w.op.bad = false →
      s.tile w.die w.run.partition f.handle.toNat = some x → x.bad = false → x.state = .filling → x.hb = false →
      (∀ t, w.op.ring = [] → w.headAt f.b.src (.port w.o .b) = some t → t.kind = 0 → 0 < x.rows * x.k →
        ∃ u, exec (.fifo f) s = .next u ∧ u = Work.store { w.pop f.b.src (.port w.o .b) with
          s := (w.pop f.b.src (.port w.o .b)).s.setTileData x (64 * (w.op.rptr % (x.rows * x.k))) (leBytes 64 t.payload.toNat), op := { w.op with ring := [t] } })
      ∧ (∀ t rest y w2 w3, w.op.ring = t :: rest → t.bad = false → s.tileBad x 0 (64 * w.op.rptr) 64 = false → y = { t with payload := payloadOf (s.tileData x (64 * w.op.rptr) 64) } →
        w.outRoom [f.oa, f.ob] (0, y) = true → w.outRoom [f.oa, f.ob] (1, y) = true →
        w2 = Work.outPut [f.oa, f.ob] (Work.outPut [f.oa, f.ob] w (0, y)) (1, y) →
        w3 = { w2 with op := { w2.op with ring := rest, rptr := (w.op.rptr + 1) % (x.rows * x.k) } } → w3.fitsAll = true →
        exec (.fifo f) s = .next (fifoIn f x w3).store)
      ∧ (w.op.ring = [] → w.queue f.b.src (.port w.o .b) = [] → exec (.fifo f) s = .next s))

/-- R218 to R222: the switch ops, ready and with no marker at any input. SELX writes the token of the input its index names to every output,
DIST the token of input 0 to the output it names, ARB the token of the first takeable input at or after its turn, JOIN that of its lowest
input once all its inputs show DATA; each consumes what it took, and completes when every output it writes has room; until then nothing is
consumed, and a seam FIFO may be asked to grow. An index of SELX that names no used input (8 or more, or one not used) and one of DIST that
names no used output give ERR IDXRANGE. -/
def Obligations.SwitchOpsComplete : Prop :=
  ∀ (f : SWFrame) (s : State) (w w1 : Work), Ready s w → swMarker f w = none → w.op.resolving = none →
    (∀ i q t, w.idxTok f = some i → i.kind = 0 → q ∈ f.used → q.1 = lane i.payload 0 → w.inHead q = some t → t.kind = 0 →
      w1 = ((w.takeIdx f).inPop q).emitAll f t →
      (w1.canCommit f.outs.toList 0 = true → exec (.selx f) s = .next (w1.done f.outs.toList 0))
      ∧ (w1.canCommit f.outs.toList 0 = false → exec (.selx f) s = .next (w1.asks f.outs.toList (firstOuts w1.outs []) s)))
    ∧ (∀ i p, w.idxTok f = some i → i.kind = 0 → (∀ q ∈ f.used, q.1 ≠ lane i.payload 0) → p ∈ f.used → (∀ u, w.inHead p = some u → u.kind = 0) →
      ∃ (w2 : Work) (e : Token), Comes f.outs.toList 0 s (w2.emitAll f e) (exec (.selx f) s) ∧ (e, w2) = (w.takeIdx f).err eIDXRANGE ∧ e.kind = 2
        ∧ e.payload.toNat % 2 ^ 16 = 2)
    ∧ (∀ i t, w.idxTok f = some i → i.kind = 0 → w.inHead (0, f.ins[0]) = some t → t.kind = 0 →
      (lane i.payload 0 ∈ f.outUsed → w1 = ((w.takeIdx f).inPop (0, f.ins[0])).emit (lane i.payload 0) t →
        (w1.canCommit f.outs.toList 0 = true → exec (.dist f) s = .next (w1.done f.outs.toList 0))
        ∧ (w1.canCommit f.outs.toList 0 = false → exec (.dist f) s = .next (w1.asks f.outs.toList (firstOuts w1.outs []) s)))
      ∧ (lane i.payload 0 ∉ f.outUsed → ∃ (w2 : Work) (e : Token), Comes f.outs.toList 0 s (w2.emitLow f e) (exec (.dist f) s)
          ∧ (e, w2) = ((w.takeIdx f).inPop (0, f.ins[0])).err eIDXRANGE ∧ e.kind = 2 ∧ e.payload.toNat % 2 ^ 16 = 2))
    ∧ (∀ q t k, q ∈ f.used → w.inHead q = some t → t.kind = 0 → k < 8 → q.1 = (w.op.part + k) % 8 →
      (∀ p ∈ f.used, (∃ j < k, p.1 = (w.op.part + j) % 8) → w.inHead p = none ∨ f.flags.getLsbD 0 = false ∧ ∃ u, w.inHead p = some u ∧ u.isStop = true) →
      w1 = (Work.inPop { w with op := { w.op with part := (q.1 + 1) % 8 } } q).emitAll f t →
      (w1.canCommit f.outs.toList 0 = true → exec (.arb f) s = .next (w1.done f.outs.toList 0))
      ∧ (w1.canCommit f.outs.toList 0 = false → exec (.arb f) s = .next (w1.asks f.outs.toList (firstOuts w1.outs []) s)))
    ∧ (∀ t q rest, f.used = q :: rest → (∀ p ∈ f.used, ∃ u, w.inHead p = some u ∧ u.kind = 0) → w.inHead q = some t →
      w1 = (f.used.foldl (fun z x => z.inPop x) w).emitAll f t →
      (w1.canCommit f.outs.toList 0 = true → exec (.join f) s = .next (w1.done f.outs.toList 0))
      ∧ (w1.canCommit f.outs.toList 0 = false → exec (.join f) s = .next (w1.asks f.outs.toList (firstOuts w1.outs []) s)))

/-! ### The steps of other agents: cells and bindings -/

/-- R29, R189 to R191, R217, R218: the cells' own steps. HELD_STOP_DISCARD takes a STOP from the head of a held port and INDEX_STOP_DISCARD
a STOP, PLANE or SAFE from a switch's index port, without a firing. MC_RESPONSE and MC_ACKNOWLEDGE write the oldest answer of a reading and
of a writing op to the outputs that have room for it. LUT_COPY copies the 4-byte elements of a FULL tile, a row not valid as zeros. R38,
R117, R238, R352, R384, R429: what moves at a run's bindings and seams. SEAM_FIFO_DELIVER takes the oldest entry of a seam FIFO into the
channel of its configured stripe, when that has room. TILE_BINDING_STREAM puts the next 64 bytes of its FULL tile into the input FIFO as
one token. OF_QUEUE_SEND sends a DATA token's low word to the endpoint's channel. OF_TILE_WRITE writes a DATA token at the binding's
position and goes one column on; a tile that is not FILLING holds it. FAULT_RECORD_DELIVER sends the next word of the oldest record, and
after the fourth the record is gone. -/
def Obligations.CellAgentsAndBindingsComplete : Prop :=
  (∀ (s : State) (p : OpPlace) (w : Work) (i : Instr), s.workAt p = some w → s.opInstr p = some i →
      (∀ port q t, Instr.portOf i port = some q → q.kind = .held → w.head port q = some t → t.kind = 1 →
        exec (.heldStopDiscard p port) s = .next (w.pop q.src (.port w.o port)).s)
      ∧ (∀ f t, Instr.swFrame i = some f → w.headAt f.idx.src (.index w.o) = some t → t.kind = 1 ∨ t.kind = 3 ∨ t.kind = 4 →
        exec (.indexStopDiscard p) s = .next (w.pop f.idx.src (.index w.o)).s)
      ∧ (∀ (f : MCFrame) (x : McItem) (rest : List McItem) (w1 w2 w3 : Work), i.mcFrame = some f → w.op.mcq = x :: rest → x.out = none →
        (∀ b, x.bit = some b → w.proom f.pout = true) →
        (∀ t, x.a = some t → w.outRoom [f.oa, f.ob] (0, t) = true) → (∀ t, x.b = some t → w.outRoom [f.oa, f.ob] (1, t) = true) →
        w1 = ((x.a.toList.map fun t => ((0 : Nat), t)) ++ x.b.toList.map fun t => ((1 : Nat), t)).foldl (Work.outPut [f.oa, f.ob]) w →
        w2 = x.bit.toList.foldl (fun y b => (y.after ((x.a.toList ++ x.b.toList).flatMap fun t => t.deps)).pput f.pout b) w1 →
        w3 = { w2 with s := x.reads.foldl (fun (y : State) (r : ReadInProg) => y.endRead r.tile r.slot) w2.s, op := { w2.op with mcq := rest } } →
        w3.fitsAll = true → exec (if i.acks then .mcAcknowledge p else .mcResponse p) s = .next w3.store)
      ∧ (∀ f x, i = .lut f → w.op.heldReq = none → w.op.bank = none → s.tile w.die w.run.partition f.handle.toNat = some x → x.bad = false →
        x.state = .full → s.tileBad x 0 0 (min 16384 x.dataBytes) = false →
        ∃ l : List (BitVec 32), exec (.lutCopy p) s = .next (Work.store { w with s := s.touchTile x 0 0 (min 16384 x.dataBytes), op := { w.op with bank := some l, deps := s.onWay x.deps } })
          ∧ l.length = min 4096 (x.dataBytes / 4)
          ∧ ∀ k < l.length, l[k]? = some (if x.valid.getLsbD (4 * k / x.rowBytes) = true then BitVec.ofNat 32 (leNat (s.tileData x (4 * k) 4)) else 0)))
  ∧ (∀ (s : State) (run : Nat) (r : Run) (fifo : Fin 8), s.run run = some r →
      (∀ vs slot st, r.stripes.find? (fun p => p.2.vs == vs && !p.2.restoring && !r.retiredK.contains p.2.k) = some (slot, st) →
        (∀ n q t rest, r.seam vs (.pa n) = some q → q.toks = t :: rest → (∀ c, st.chan (.pa n.val) = some c → c.hasRoom = true) →
          exec (.seamFifoDeliver run vs (.pa n)) s =
            .next ((s.updStripe run slot fun p => p.updChan (.pa n.val) fun c => c.push t).seamRead run { q with toks := rest }))
        ∧ (∀ n q b rest, r.seam vs (.pp n) = some q → q.bits = b :: rest → (∀ c, st.pchan (.pp n.val) = some c → c.hasRoom = true) →
          exec (.seamFifoDeliver run vs (.pp n)) s =
            .next ((s.updStripe run slot fun p => p.updPchan (.pp n.val) fun c => c.push b).updRun run fun x => x.setSeam { q with bits := rest })))
      ∧ (r.phase = .running → r.stopping = .no →
        (∀ x, bindKind r.recd.ifb[fifo] = 1 → (r.recd.ifb[fifo]).getLsbD 20 = false → r.ins[fifo].closed = false → r.ins[fifo].held = none →
          r.ins[fifo].room = true → r.ins[fifo].cut = false → r.ins[fifo].begun = none → r.resuming = .no →
          s.tile r.die r.partition ((r.recd.ifb[fifo]).extractLsb' 0 20).toNat = some x → x.bad = false → x.state = .full → s.applied r.die x.deps = true →
          r.ins[fifo].col < x.k → x.valid.getLsbD r.ins[fifo].row = true →
          s.tileBad x 0 (r.ins[fifo].row * x.rowBytes + 64 * r.ins[fifo].col) 64 = false →
          ∃ t r1, exec (.tileBindingStream run fifo) s = .next t ∧ t.run run = some r1 ∧ r1.ins[fifo].row = r.ins[fifo].row ∧ r1.ins[fifo].col = r.ins[fifo].col + 1
            ∧ r1.ins[fifo].fifo = r.ins[fifo].fifo.push
                { dataTok 0xFFFF (payloadOf (s.tileData x (r.ins[fifo].row * x.rowBytes + 64 * r.ins[fifo].col) 64)) with deps := x.deps })
        ∧ (∀ t rest ring ch, bindKind r.recd.ofb[fifo] = 2 → r.outs[fifo].fifo = t :: rest → t.kind = 0 → t.bad = false →
          endpointOf ((r.recd.ofb[fifo]).extractLsb' 0 16) = some ⟨true, ring, ch⟩ → s.ringPart ring = some r.partition → ch < 8 →
          (s.queue (8 * ring + ch)).length < 32 →
          ∃ s1 r1, exec (.ofQueueSend run fifo) s = .next s1 ∧ s1.queue (8 * ring + ch) = s.queue (8 * ring + ch) ++ [⟨0, 0, false, t.payload.extractLsb' 0 64, t.deps⟩]
            ∧ s1.run run = some r1 ∧ r1.outs[fifo].fifo = rest)
        ∧ (∀ t rest x, bindKind r.recd.ofb[fifo] = 1 → r.outs[fifo].fifo = t :: rest → t.kind = 0 → t.bad = false → r.outs[fifo].held = none →
          s.tile r.die r.partition ((r.recd.ofb[fifo]).extractLsb' 0 20).toNat = some x → x.bad = false →
          (x.state = .filling → x.hb = false → r.outs[fifo].row < x.rows → r.outs[fifo].col < x.k →
            ∃ s1 r1, exec (.ofTileWrite run fifo) s = .next s1 ∧ s1.sram = (s.writeLanes x (r.outs[fifo].row * x.rowBytes + 64 * r.outs[fifo].col) t).sram
              ∧ s1.run run = some r1 ∧ r1.outs[fifo].fifo = rest ∧ r1.outs[fifo].row = r.outs[fifo].row ∧ r1.outs[fifo].col = r.outs[fifo].col + 1)
          ∧ (x.state ≠ .filling → ∃ s1 r1, exec (.ofTileWrite run fifo) s = .next s1 ∧ s1.run run = some r1 ∧ r1.outs[fifo].held ≠ none
              ∧ r1.outs[fifo].fifo = t :: rest)))
      ∧ (∀ f n rest ring ch, r.records = (f, n) :: rest → endpointOf r.recd.faultEp = some ⟨true, ring, ch⟩ → s.ringPart ring = some r.partition → ch < 8 →
        (s.queue (8 * ring + ch)).length < 32 →
        ∃ s1 r1, exec (.faultRecordDeliver run) s = .next s1
          ∧ s1.queue (8 * ring + ch) = s.queue (8 * ring + ch) ++ [⟨0, 0, false, if n = 0 then f.w0 else if n = 1 then f.w1 else if n = 2 then f.w2 else f.w3, []⟩]
          ∧ s1.run run = some r1 ∧ r1.records = if n < 3 then (f, n + 1) :: rest else rest))

/-! ### The scroll controller and the life of a run -/

/-- R36 to R39, R268, R349 to R351, R371: the scroll controller's steps. STRIPE_IMAGE_ACCEPT keeps a part of an image that it reads by parts,
keeps an image that passes, and ends the run with cause 4 on one that does not. STRIPE_CONFIGURE puts the next configuration into its free slot. STRIPE_RETIRE and SLOT_RELEASE clear a slot, the second
remembering what it released. STATE_RESTORE gives a stripe its saved state. RSWAP_PREPARE accepts the new images once it has read each, or refuses the
swap, and IMAGE_SWAP configures a stripe with its new image. -/
def Obligations.ScrollComplete : Prop :=
  ∀ (s : State) (run : Nat) (r : Run), s.run run = some r → r.scrolls = true →
    (∀ vs k ring f, r.wants vs = some k → ring = (if (r.toMove.map fun x => x.k) = some k then r.targetPhys (k % r.p) else r.slotPhys (k % r.p)) →
      s.applied (ringDie ring) r.deps = true → f = s.fetchImage r (ringDie ring) vs (r.imageSource vs).1 (r.imageSource vs).2.1 →
      (∀ e im, f = .ok (e, im) →
        exec (.stripeImageAccept run vs) s =
          .next ((s.keepFetched ring r (r.imageSource vs).1 vs (e, im)).updRun run fun x => x.keepDir (r.imageSource vs).2.2 vs e))
      ∧ (∀ va bs, f = .part va bs → exec (.stripeImageAccept run vs) s = .next ((s.touchV (ringDie ring) r.partition r.asid va bs.length).updRun run fun y => { y with fetch := some (va, bs) }))
      ∧ (∀ c, f = .bad c → r.dueConfig = some k ∨ (r.toMove.map fun x => x.k) = some k →
        ∃ t r1, exec (.stripeImageAccept run vs) s = .next t ∧ t.run run = some r1 ∧ r1.stopping = .now 4))
    ∧ (∀ k e im, r.dueConfig = some k → Tab.find (r.imageSource (k % r.recd.v)).2.1 (k % r.recd.v) = some e →
      s.cached (r.slotPhys (k % r.p)) r (k % r.recd.v) e = some im → s.placeTaken r (k % r.p) = false → r.resuming = .no →
      r.retiredK.contains k = false →
      ∃ t r1 st, exec (.stripeConfigure run) s = .next t ∧ t.run run = some r1 ∧ r1.stripe (k % r.p) = some st ∧ st.k = k ∧ st.vs = k % r.recd.v
        ∧ st.image = im ∧ st.ops = im.ops.map (fun o => (o.1, OpState.init)) ∧ st.sns = [] ∧ st.cells = []
        ∧ st.restoring = (Tab.find r.saved (k % r.recd.v)).isSome ∧ (r.resumeK = [] → r1.nextK = r.nextK + 1)
        ∧ ∀ j, j ≠ k % r.p → r1.stripe j = r.stripe j)
    ∧ (∀ slot p, r.stripe slot = some p → p.image.hd.stateful = false →
      (r.marking = none → p.retires r = true → (p.leaving false).seamed = [] →
        ∃ t r1, exec (.stripeRetire run slot) s = .next t ∧ t.run run = some r1 ∧ r1.stripe slot = none ∧ (∀ j, j ≠ slot → r1.stripe j = r.stripe j)
          ∧ r1.nextK = r.nextK)
      ∧ (∀ j q, r.marking ≠ none → p.released r = true → (p.leaving true).seamed = [] → j ≠ slot → r.stripe j = some q →
        ∃ t r1, exec (.slotRelease run slot) s = .next t ∧ t.run run = some r1 ∧ r1.stripe slot = none ∧ r1.stripe j = some q
          ∧ r1.released = r.released ++ [⟨slot, p.k, true, p⟩]))
    ∧ (∀ slot p v, r.stripe slot = some p → p.restoring = true → Tab.find r.saved p.vs = some v → r.resuming = .no →
      r.portFree slot p.k = true → (∀ o ∈ s.outReqs, o.who = .run run → ∀ l, o.op ≠ .write l) →
      State.scrollRead { s with stale := [] } r (ringDie (r.slotPhys slot)) v.region v.length = .ok (regionBytes v.serial v.length) →
      ∃ t r1, exec (.stateRestore run slot) s = .next t ∧ t.run run = some r1 ∧ r1.stripe slot = some (p.restore v) ∧ Tab.find r1.saved p.vs = none)
    ∧ (∀ q, r.pending = some q →
      (q.accepted = false → (∀ p ∈ r.stripes, p.2.restoring = false) →
        ((∀ p ∈ r.stripes, (s.swapImage r q p.1 p.2).isSome = true) →
          ∃ t r1, exec (.rswapPrepare run) s = .next t ∧ t.run run = some r1 ∧ (∃ u, r1.pending = some u ∧ u.accepted = true ∧ u.va = q.va)
            ∧ r1.images = r.images)
        ∧ (∀ slot p f, r.stripes.find? (fun x => (s.swapImage r q x.1 x.2).isNone) = some (slot, p) →
          f = s.fetchImage r (ringDie (r.slotPhys slot)) p.vs q.va q.dir →
          (∀ x, f = .ok x → swapMatches p.image.hd x.2.hd = true →
            exec (.rswapPrepare run) s = .next ((s.keepFetched (r.slotPhys slot) r q.va p.vs x).updRun run fun y => y.keepDir true p.vs x.1))
          ∧ ((∃ x, f = .ok x ∧ swapMatches p.image.hd x.2.hd = false) ∨ (∃ c, f = .bad c) →
            ∃ t r1, exec (.rswapPrepare run) s = .next t ∧ t.run run = some r1 ∧ r1.pending = none ∧ r1.stripes = r.stripes ∧ r1.images = r.images)))
      ∧ (∀ slot p e im, q.accepted = true → r.marking = none → r.stripe slot = some p → p.idle = true → p.swapped = false → p.passedSwap = true →
        s.swapImage r q slot p = some (e, im) → p.image.hd.stateful = false →
        ∃ t r1 st, exec (.imageSwap run slot) s = .next t ∧ t.run run = some r1 ∧ r1.stripe slot = some st ∧ st.image = im ∧ st.k = p.k ∧ st.vs = p.vs
          ∧ st.restoring = false ∧ st.swapped = true))

/-- R266, R347, R368 to R381: the life of a run. RUN_ADMIT puts it on rings that are free and begins it, or ends it with cause 4 for a placement
hardware refuses. RUN_END ends a run that is complete or stopped: rn falls. RUN_SPGAP stops it with cause 3 when a SAFEGAP counter
has passed, QUIET counts a quiet. SLICE_MARK, GANG_MARK and MIGRATION mark it, GANG_COMMIT suspends it, GANG_DEADLINE_EXPIRY and
MIGRATION_CANCEL unmark it. MIGRATE and MIGRATE_REARM report a hot sensor once; readings are counted in tenths of a degree (assumption 113).
SUSPENDED_RUN_RESUME puts it on rings again, which become its logical rings where it had not migrated (assumption 77, DEDUCED), and
REBUILD_STUB_ENTRY enters its stub. -/
def Obligations.RunLifeComplete : Prop :=
  (∀ (s : State) (run : Nat) (r : Run), s.run run = some r →
    (r.phase = .launched → r.stopping = .no → ∀ rings,
      (s.placeOk r rings = true → s.ringsFree run rings = true → (∀ g ∈ rings, s.applied (ringDie g) r.deps = true) → r.recd.reserve = 0 →
        s.awaitsGang run = false →
        ∃ t r1, exec (.runAdmit run rings) s = .next t ∧ t.run run = some r1 ∧ r1.phase = .running ∧ r1.rings = rings ∧ r1.phys = rings ∧ r1.recd = r.recd)
      ∧ (s.placeOk r rings = false → ∃ t r1, exec (.runAdmit run rings) s = .next t ∧ t.run run = some r1 ∧ r1.stopping = .now 4))
    ∧ (∀ c ring ch, r.endCause = some c → s.asksOutside run = false → endpointOf r.recd.doneEp = some ⟨false, ring, ch⟩ →
      ∃ t r1, exec (.runEnd run) s = .next t ∧ t.run run = some r1 ∧ r1.phase = .ended c ∧ r1.stripes = [] ∧ r1.seams = []
        ∧ (∀ k a, r.launcher = .task k a → (t.task k).cnt = { (s.task k).cnt with rn := BitVec.ofNat 8 ((s.task k).cnt.rn.toNat - 1) }))
    ∧ (∀ g ∈ r.gaps, r.recd.safegap < g.2 → r.recd.safegap ≠ 0 → r.phase = .running → r.stopping = .no →
      ∃ t r1, exec (.runSpgap run) s = .next t ∧ t.run run = some r1 ∧ r1.stopping = .now 3)
    ∧ (∀ ring ch, r.phase = .running → r.flight = 0 → r.quietDone = false → 2 * r.window ≤ r.quietClk → r.stopping = .no → s.saving run = false →
      endpointOf r.recd.quietEp = some ⟨false, ring, ch⟩ →
      ∃ t r1, exec (.quiet run) s = .next t ∧ t.run run = some r1 ∧ r1.quiets = r.quiets + 1 ∧ r1.quietDone = true ∧ r1.gaps = [])
    ∧ (∀ unflagged : Tab Stripe, r.marks = true →
      unflagged = r.stripes.map (fun p => (p.1, { p.2 with ops := p.2.ops.map fun (o : OpAddr × OpState) => (o.1, { o.2 with flagSeen := false }) })) →
      (r.dies.length ≤ 1 → ∃ t r1, exec (.sliceMark run none) s = .next t ∧ t.run run = some r1 ∧ r1.marking = some (.slice none) ∧ r1.stripes = unflagged)
      ∧ (∀ d, 1 < r.dies.length → d ≠ 0 → ∃ t r1, exec (.gangMark run none d) s = .next t ∧ t.run run = some r1
          ∧ r1.marking = some (.gang none d.toNat) ∧ r1.markClk = s.clk ∧ r1.stripes = unflagged)
      ∧ (∀ d targets, s.targetsOk r targets = true → d ≠ 0 → ∃ t r1, exec (.migration run targets d) s = .next t ∧ t.run run = some r1
          ∧ r1.marking = some (.migration targets d.toNat) ∧ r1.markClk = s.clk ∧ r1.phys = r.phys))
    ∧ (∀ d t, r.marking = some (.gang none d) → r.stripes = [] → r.scrolls = true → s.clk ≤ r.markClk + d → s.suspend r r.released = .done t →
      exec (.gangCommit run) s = .next t ∧ ∃ r1, t.run run = some r1 ∧ r1.phase = .suspended ∧ r1.marking = none ∧ r1.released = r.released)
    ∧ (∀ d, r.stopping = .no → r.markClk + d < s.clk → r.resuming = .no ∨ r.released = [] →
      (r.marking = some (.gang none d) → ∃ t r1, exec (.gangDeadlineExpiry run) s = .next t ∧ t.run run = some r1 ∧ r1.marking = none ∧ r1.released = [] ∧ r1.phys = r.phys)
      ∧ (∀ targets, r.marking = some (.migration targets d) → ∃ t r1, exec (.migrationCancel run) s = .next t ∧ t.run run = some r1 ∧ r1.marking = none
          ∧ r1.released = [] ∧ r1.phys = r.phys))
    ∧ (∀ rings, r.phase = .suspended → r.stopping = .no → s.placeOk r rings = true → s.ringsFree run rings = true →
      (∀ g ∈ rings, s.applied (ringDie g) r.deps = true) →
      ∃ t r1, exec (.suspendedRunResume run rings) s = .next t ∧ t.run run = some r1 ∧ r1.phase = .running ∧ r1.phys = rings
        ∧ r1.rings = if r.rings = r.phys then rings else r.rings)
    ∧ (∀ k, r.resuming = .stub → r.stopping = .no → r.stubTask = some k → (∀ x ∈ s.tasks, x.2.stubRun ≠ some run ∧ ∀ y, x.2.stubDue = some y → y.2 ≠ run) →
      (s.task k).status = .runnable → (s.task k).inHandler = false →
      ∃ t, exec (.rebuildStubEntry run) s = .next t ∧ (t.task k).status = .handler ∧ (t.task k).inHandler = true ∧ (t.task k).pc = r.recd.stubAddr
        ∧ (t.task k).epc = (s.task k).pc ∧ (t.task k).estat = .runnable))
  ∧ (∀ (s : State) (ring sensor reading : Nat), ring < 24 → sensor < 4 →
    (10 * s.figures.migrateC ≤ reading → 4 * ring + sensor ∉ s.sensorsHot →
      ∃ t, exec (.migrate ring sensor reading) s = .next t ∧ t.sensorsHot = s.sensorsHot ++ [4 * ring + sensor])
    ∧ (10 * s.figures.migrateC ≤ reading → 4 * ring + sensor ∈ s.sensorsHot → exec (.migrate ring sensor reading) s = .next (s.read ring sensor reading))
    ∧ (reading < 10 * s.figures.migrateC → exec (.migrateRearm ring sensor reading) s =
        .next { s.read ring sensor reading with sensorsHot := s.sensorsHot.filter fun k => k != 4 * ring + sensor }))

/-! ### Pools, streamers and translation -/

/-- R284, R312 to R316, R321, R323, R354: POOL_GRANT grants the head of a queue that fits and charges it, and no other; POOL_FIGURES_SET sets
figures that the die's granules allow, and refuses others. ASTALL reports a request that has waited its time. STREAMER_BIND binds the
stream that has waited longest, STREAMER_PROMOTE promotes a waiting request whose time has passed. TRANSLATION_WALK_COMPLETE puts the
walk's outcome into the die's cache, once a table in host memory has been asked for; TRANSLATION_INVALIDATE drops every entry of the ASID and
no other, once no access that an older translation serves is outstanding. CONTEXT_CREATE makes a context that
does not exist yet; that it leaves one that exists as it was is the model's reading (assumption 14, DEDUCED). -/
def Obligations.PoolsAndTranslationsComplete : Prop :=
  ∀ (s : State) (die part : Nat),
    (∀ x rest, waiting (s.pool die part).queue = x :: rest →
      (s.fits die part false x.entry x.n = true →
        ∃ t, exec (.poolGrant die part false) s = .next t ∧ (t.pool die part).held = (s.pool die part).held + x.n
          ∧ (t.pool die part).queue = (s.pool die part).queue.map fun y => if y.id == x.id then { y with granted := true } else y)
      ∧ (s.fits die part false x.entry x.n = false → exec (.poolGrant die part false) s = .next s))
    ∧ (∀ res lim quota, die < 6 → part < 16 → res ≤ lim →
      (((List.range 16).map fun i => if i = part then res else (s.pool die i).res).sum ≤ 262144 →
        ∃ t, exec (.poolFiguresSet die part res lim quota) s = .next t ∧ (t.pool die part).res = res ∧ (t.pool die part).lim = lim
          ∧ (t.pool die part).quota = quota ∧ (t.pool die part).held = (s.pool die part).held)
      ∧ (262144 < ((List.range 16).map fun i => if i = part then res else (s.pool die i).res).sum →
          exec (.poolFiguresSet die part res lim quota) s = .next s))
    ∧ (∀ n x, ((s.pool die part).queue ++ (s.pool die part).hbQueue).find? (fun y => y.id == n && !y.granted && !y.stalled) = some x →
      (x.since + s.figures.astallClk ≤ s.clk →
        ∃ t, exec (.astall die part n) s = .next t ∧ t.astalls = s.astalls ++ [(die, x.who, x.n, (s.pool die part).held, (s.pool die part).lim, s.sharedFree die)]
          ∧ (t.pool die part).held = (s.pool die part).held)
      ∧ (s.clk < x.since + s.figures.astallClk → exec (.astall die part n) s = .next s))
    ∧ (∀ x k, s.streams.find? (fun y => y.die == die && y.streamer.isNone) = some x → s.freeStreamer die = some k →
      exec (.streamerBind die) s =
        .next { s with streams := s.streams.map fun y => if y.id == x.id then { y with streamer := some k, since := s.clk } else y })
    ∧ (∀ n, ∃ t, exec (.streamerPromote die n) s = .next t ∧ t.streams.length = s.streams.length
      ∧ ∀ (i : Nat) (x : Machine.Stream), s.streams[i]? = some x → t.streams[i]? = some (if x.die = die ∧ x.id = n ∧ x.streamer ≠ none ∧ x.waiting = true ∧ x.since + s.figures.promoteClk ≤ s.clk
          then { x with promoted := true } else x))
    ∧ (∀ asid page, (die, asid, page) ∈ s.walks →
      (∀ e, s.walk die asid page = .entry e →
        ∃ t, exec (.translationWalkComplete die asid page) s = .next t ∧ t.tlbFind die asid (4096 * page) = some e ∧ (die, asid, page) ∉ t.walks)
      ∧ (∀ pa n, s.walk die asid page = .out pa n →
        ∃ t, exec (.translationWalkComplete die asid page) s = .next t ∧ t.tlb = s.tlb ∧ t.walks = s.walks
          ∧ ∃ o ∈ t.outReqs, o.who = .walker die asid page ∧ o.pa = pa))
    ∧ (∀ asid,
      ((∀ a ∈ s.accesses, a.asid = asid → a.parts = []) →
        ∃ t, exec (.translationInvalidate asid) s = .next t ∧ (∀ e, e ∈ t.tlb ↔ e ∈ s.tlb ∧ e.asid ≠ asid) ∧ t.walks = s.walks)
      ∧ ((∃ a ∈ s.accesses, a.asid = asid ∧ a.parts ≠ []) → exec (.translationInvalidate asid) s = .next s))
    ∧ (∀ asid (c : CtxRecord), asid < 65536 → c.partition < 16 → (s.part c.partition).state = .created ∨ (s.part c.partition).state = .active →
      (Tab.find s.contexts asid = none → (∀ q ∈ s.partitions, q.1 ≠ c.partition → asid ∉ q.2.contexts) →
        ∃ t, exec (.contextCreate asid c) s = .next t ∧ Tab.find t.contexts asid = some c ∧ asid ∈ (t.part c.partition).contexts)
      ∧ (Tab.find s.contexts asid ≠ none → exec (.contextCreate asid c) s = .next s))

/-! ### Kiln -/

/-- R326, R327, R329, R330, R393: SEALED_WRITEBACK writes a modified block back under the current generation with its version one
higher, or with version 0 from another generation, and stalls it where the version would wrap. KILN_ROTATE makes the next generation current, with its key, and keeps the others
live. KILN_SWEEP brings a generation's blocks under the current one. KILN_RETIRE ends a generation that no block carries. KILN_INITIALISE_RANGE
makes its blocks zeros under a new generation. TREE_KEY_ROTATION gives a stack a new key. That a block leaves the cache when it is written back is assumption 43 (DEDUCED), and the number of
the new tree key, and of what a block's memory is free in, is the model's count of free values (assumption 3). KILN_GENERATED_KEY makes a CREATED partition ACTIVE with generation 0 live in
every Kiln. -/
def Obligations.KilnComplete : Prop :=
  ∀ (s : State) (die part : Nat),
    (∀ block (b : Block), b = Tab.get s.blocks Block.reset block → b.cached = true → b.dirty = true → s.unitOwner (2048 * block) = some part →
      s.unitShared (2048 * block) = false → die = s.homeOf (2048 * block) → (s.kiln die part).live ≠ [] → b.lineBad = false →
      (∀ k ∈ treePath block, Tab.get s.treeCounts 0 k ≠ 2 ^ 48 - 1) →
      (b.gen = (s.kiln die part).current → b.version ≠ 0xFFFFFFFF → ∃ t, exec (.sealedWriteback block) s = .next t
        ∧ Tab.get t.blocks Block.reset block = { b with version := b.version + 1, cached := false, dirty := false, stalled := false } ∧ t.mem = s.mem)
      ∧ (b.gen ≠ (s.kiln die part).current → ∃ t, exec (.sealedWriteback block) s = .next t
        ∧ Tab.get t.blocks Block.reset block = { b with gen := (s.kiln die part).current, version := 0, cached := false, dirty := false, stalled := false })
      ∧ (b.gen = (s.kiln die part).current → b.version = 0xFFFFFFFF → ∃ t, exec (.sealedWriteback block) s = .next t
        ∧ Tab.get t.blocks Block.reset block = { b with stalled := true }))
    ∧ (∀ key, (s.kiln die part).key = some key → (s.kiln die part).live.length < 4 → (s.kiln die part).isLive ((s.kiln die part).current + 1) = false →
      (s.kiln die part).current ≠ 0xFFFF →
      (∃ t, exec (.kilnRotate die part) s = .next t ∧ (t.kiln die part).current = (s.kiln die part).current + 1 ∧ (t.kiln die part).epoch = (s.kiln die part).epoch
        ∧ (t.kiln die part).live = (s.kiln die part).live
            ++ [((s.kiln die part).current + 1, genKey key part ((s.kiln die part).current + 1) (s.kiln die part).epoch)])
      ∧ (∀ base n, base % 2048 = 0 → 0 < n → (∀ i < n, s.blockOf die part (base / 2048 + i) = true ∧ s.unitShared (base + 2048 * i) = false) →
        (∀ q ∈ s.blocks, q.2.stalled = false) →
        ∃ t, exec (.kilnInitialiseRange die part base (2048 * n)) s = .next t ∧ (t.kiln die part).current = (s.kiln die part).current + 1
          ∧ (∀ d x, base ≤ x → x < base + 2048 * n → paHbm x = true → t.view d x = 0)
          ∧ (∀ x, x < base ∨ base + 2048 * n ≤ x → Memory.read t.mem x = Memory.read s.mem x)
          ∧ (∃ m, ∀ i < n, Tab.get t.blocks Block.reset (base / 2048 + i) = { Block.reset with gen := (s.kiln die part).current + 1, since := m })))
    ∧ (∀ g : Nat, g < 65536 → (s.kiln die part).current ≠ BitVec.ofNat 16 g →
      ((s.kiln die part).live ≠ [] → ∃ t, exec (.kilnSweep die part g) s = .next t ∧ t.mem = s.mem ∧ t.kilns = s.kilns
        ∧ t = (s.sealedBlocks die part).foldl (fun x b => x.sweepBlock part (BitVec.ofNat 16 g) b) s)
      ∧ (∀ block, (Tab.get s.blocks Block.reset block).gen = BitVec.ofNat 16 g → s.blockFault false (2048 * block) = none → die = s.homeOf (2048 * block) →
        (∀ k ∈ treePath block, Tab.get s.treeCounts 0 k ≠ 2 ^ 48 - 1) →
        (Tab.get (s.sweepBlock part (BitVec.ofNat 16 g) block).blocks Block.reset block).gen = (s.kiln die part).current
        ∧ (Tab.get (s.sweepBlock part (BitVec.ofNat 16 g) block).blocks Block.reset block).version = 0)
      ∧ ((∀ b ∈ s.sealedBlocks die part, (Tab.get s.blocks Block.reset b).gen ≠ BitVec.ofNat 16 g) →
        ∃ t, exec (.kilnRetire die part g) s = .next t ∧ (t.kiln die part).live = (s.kiln die part).live.filter (fun x => x.1 != BitVec.ofNat 16 g)
          ∧ (t.kiln die part).current = (s.kiln die part).current)
      ∧ ((∃ b ∈ s.sealedBlocks die part, (Tab.get s.blocks Block.reset b).gen = BitVec.ofNat 16 g) → exec (.kilnRetire die part g) s = .next s))
    ∧ (∀ stack, (∀ q ∈ s.blocks, q.2.stalled = false) → ∃ t, exec (.treeKeyRotation stack) s = .next t ∧ Tab.get t.treeKey 0 stack = s.freeCtr
      ∧ (∀ k, k / 2 ^ 32 = stack → Tab.get t.treeCounts 0 k = 0) ∧ t.blocks = s.blocks ∧ t.mem = s.mem)
    ∧ ((s.part part).state = .created → ∃ t key, exec (.kilnGeneratedKey part) s = .next t ∧ (t.part part).state = .active
      ∧ (part < 16 → ∀ d < 6, t.kiln d part = ⟨some key, 0, [(0, genKey key part 0 0)], 0⟩))

/-! ### Graphs -/

/-- R299, R301, R333, R334, R337, R340 to R346: LAUNCH queues a graph at a live interface of an ACTIVE partition, ordered after the host writes on their
way, or drops and counts it. CANCEL cancels the
live graph it names; a write of a reserved size is dropped and counted. GRAPH_ACCEPT makes a graph that passes live, its nodes without predecessors ready, and
refuses one whose header does not pass. NODE_DISPATCH parks what no agent can take and starts the first node of the order, NODE_PROMOTE promotes nodes that
have waited. NODE_EVALUATE chooses a COND or SWITCH node's successors by the word in memory, which it acquires, and iterates a LOOP. NODE_COMPLETE finishes a node, and ends the graph
at END. -/
def Obligations.GraphsComplete : Prop :=
  (∀ (s : State) (n : Nat) (va : Word), s.pageLive n = true →
    ((s.part (s.iface n).part).state = .active → (s.iface n).fifo.length < 16 →
      exec (.launch n va) s = .next (s.setIface n { s.iface n with fifo := (s.iface n).fifo ++ [⟨va, (s.iface n).asid, s.hostWrites⟩] }))
    ∧ ((s.part (s.iface n).part).state ≠ .active ∨ 16 ≤ (s.iface n).fifo.length →
      exec (.launch n va) s = .next (s.setIface n { s.iface n with dropped := (s.iface n).dropped + 1 }))
    ∧ (∀ g, s.graphs.find? (fun g => g.iface == some n && g.va == va && !g.cancelled) = some g → s.graph g.id = some g →
      ∃ t x, exec (.cancel n va) s = .next t ∧ t.graph g.id = some x ∧ x.cancelled = true ∧ x.nodes = g.nodes ∧ (g.failStatus = 0 → x.failStatus = 1))
    ∧ (∀ off size, size ≠ 8 → exec (.notifyReservedWrite n off size) s = .next (s.setIface n { s.iface n with dropped := (s.iface n).dropped + 1 }))
    ∧ (∀ off, exec (.notifyReservedWrite n off 8) s = .next s))
  ∧ (∀ (s u : State) (n : Nat) (f : Iface) (p : Pending) (rest : List Pending) (h bs : List Byte), f = s.iface n → u = s.touchV 6 f.part p.asid p.va.toNat 128 → f.fifo = p :: rest →
    (s.part f.part).state = .active → (s.graphs.filter fun g => g.part == f.part).length < 64 → p.va.toNat % 128 = 0 →
    s.readV 6 f.part p.asid (ifaceWho n) p.va.toNat 128 = .ok h → ((s.graphs.filter fun g => g.part == f.part).map fun g => g.nodes.length).sum < 32768 →
    (badHeader h = [] → ((s.graphs.filter fun g => g.part == f.part).map fun g => g.nodes.length).sum + fieldAt h 0 2 ≤ 32768 →
      u.readV 6 f.part p.asid (ifaceWho n) (p.va.toNat + 128) (128 * fieldAt h 0 2) = .ok bs →
      ∀ nodes, (u.touchV 6 f.part p.asid (p.va.toNat + 128) (128 * fieldAt h 0 2)).checkGraph f.part ((List.range (fieldAt h 0 2)).map fun i => (bs.drop (128 * i)).take 128) = .ok nodes →
      ∃ t g, exec (.graphAccept n) s = .next t ∧ t.graphs = s.graphs ++ [g] ∧ g.va = p.va ∧ g.asid = p.asid ∧ g.part = f.part ∧ g.cancelled = false
        ∧ g.nodes.length = nodes.length ∧ (t.iface n).fifo = rest ∧ (t.iface n).accepted = f.accepted + 1
        ∧ ∀ (i : Nat) (m : Node), nodes[i]? = some m → ∃ x : Node, g.nodes[i]? = some x ∧ (m.preds = 0 → x.status = .ready) ∧ (m.preds ≠ 0 → x = m))
    ∧ (badHeader h ≠ [] → fieldAt h 8 8 = 0 →
      ∃ t, exec (.graphAccept n) s = .next t ∧ t.graphs = s.graphs ∧ (t.iface n).fifo = rest ∧ (t.iface n).completed = f.completed + 1))
  ∧ (∀ (s : State) (part : Nat),
    (∀ q x, q = s.park part → q.turnOf part = true → firstReady (q.dispatchable part) = some x → x.node.bad = false →
      (x.node.operands.all (q.operandOk part) = true →
        (4 ≤ x.node.kind → exec (.nodeDispatch part) s = .next ((q.countTurn part).updNode x.graph.id x.index fun n => { n with status := .dispatched, ended := false }))
        ∧ (x.node.kind = 3 → exec (.nodeDispatch part) s = .next ((q.countTurn part).startCopy x))
        ∧ (x.node.kind = 2 → (q.countTurn part).ringPart (taskRing x.node.task) = some x.graph.part →
          ∃ t, exec (.nodeDispatch part) s = .next t ∧ (t.task x.node.task).node = some (x.graph.id, x.index) ∧ (t.task x.node.task).dispatched = true
            ∧ t.queue x.node.task = s.queue x.node.task ++ [⟨0, 0, false, BitVec.ofNat 64 (x.node.field 0x40 8), x.node.deps⟩])
        ∧ (∀ y, x.node.kind = 1 → (q.countTurn part).startRun x = .done y → exec (.nodeDispatch part) s = .next y))
      ∧ (x.node.operands.all (q.operandOk part) = false → ∀ g m, q.graph x.graph.id = some g → g.failStatus = 0 → g.nodes[x.index]? = some m →
        ∃ t y z, exec (.nodeDispatch part) s = .next t ∧ t.graph x.graph.id = some y ∧ y.cancelled = true ∧ y.failStatus = 3 ∧ y.failReason = 4
          ∧ y.failNode = x.index ∧ y.nodes[x.index]? = some z ∧ z.status = .failed))
    ∧ (∃ t, exec (.nodePromote part) s = .next t ∧ t.graphs.length = s.graphs.length
      ∧ ∀ (i : Nat) (g : Graph), s.graphs[i]? = some g → ∃ y : Graph, t.graphs[i]? = some y ∧ y.id = g.id ∧ (g.part ≠ part → y = g)
        ∧ (g.part = part → ∀ (j : Nat) (m : Node), g.nodes[j]? = some m → y.nodes[j]? = some (if m.status = .ready ∧ m.readyAt + 1000 * (s.part part).nodeAge ≤ s.timestamp.toNat
            then { m with promoted := true } else m))))
  ∧ (∀ (s : State) (graph node : Nat) (g : Graph) (n : Node), s.graph graph = some g → g.nodes[node]? = some n →
    n.bad = false →
    (∀ bs w g1 s1, n.status = .dispatched → g.cancelled = false → s.readV 6 g.part g.asid (.graph graph node) (n.field 0x38 8) 8 = .ok bs →
      g1 = g.acquire node (s.depsOf 6) → s1 = (s.touchV 6 g.part g.asid (n.field 0x38 8) 8).forget (.graph graph node) →
      w = BitVec.ofNat 64 (leNat bs) &&& BitVec.ofNat 64 (n.field 0x40 8) →
      (n.kind = 4 → exec (.nodeEvaluate graph node) s = .next (s1.finishNode g1 node fun j => if n.holds w = true then decide (j < n.field 0x51 1) else decide (n.field 0x51 1 ≤ j)))
      ∧ (n.kind = 6 → exec (.nodeEvaluate graph node) s = .next (s1.finishNode g1 node fun j =>
          decide (j = if w.toNat / 2 ^ n.field 0x48 1 < n.succ.length then w.toNat / 2 ^ n.field 0x48 1 else n.field 0x49 1)))
      ∧ (n.kind = 5 → n.holds w = false → exec (.nodeEvaluate graph node) s = .next (s1.finishNode g1 node fun _ => true))
      ∧ (n.kind = 5 → n.holds w = true → n.field 0x56 2 = 0 ∨ n.iters < n.field 0x56 2 → node < n.field 0x52 2 ∨ n.field 0x54 2 < node →
        n.field 0x52 2 ≤ n.field 0x54 2 → n.field 0x54 2 < g.nodes.length →
        ∃ t y z, exec (.nodeEvaluate graph node) s = .next t ∧ t.graph graph = some y ∧ y.nodes[node]? = some z ∧ z.status = .waiting
          ∧ z.iters = n.iters + 1 ∧ z.count = n.preds))
    ∧ (n.status = .dispatched → s.agentOver n = true → ∃ t, exec (.nodeComplete graph node) s = .next t
      ∧ (∃ y z, t.graph graph = some y ∧ y.nodes[node]? = some z ∧ (z.status = .complete ∨ node ∈ n.succ))
      ∧ (∀ j m, n.succ = [j] → g.cancelled = false → j ≠ node → g.nodes[j]? = some m → m.count = 1 → m.bad = false →
          ∃ y z, t.graph graph = some y ∧ y.nodes[j]? = some z ∧ z.status = .ready))
    ∧ (n.kind = 7 → n.status = .ready → g.cancelled = false → g.completion = 0 →
      ∃ t, exec (.nodeComplete graph node) s = .next t ∧ (∀ y ∈ t.graphs, y.id ≠ graph)
        ∧ (t.iface g.ifaceNo).completed = (s.iface g.ifaceNo).completed + 1))

/-! ### The package -/

/-- R1, R359, R360, R385 to R389, R404, R408, R409: EVENT_LOG_APPEND appends a source's oldest event once its time has passed; one with an error is
lost and counted. PACKAGE_RESET leaves every task and incarnation as at reset, keeps the enabled rings, which the management interface reads,
and starts the firmware when an image of each kind passes. A die's reset, warm or fatal, leaves its tasks, tiles and scratchpad as at reset and raises its
incarnation. A late response is dropped and counted. LINK_FAILURE takes the link down and stops the runs that cross it. The thermal and power
steps stretch clocks, end that, and shut the package down. THRESHOLD_SET sets a figure in its range and refuses one outside. Of these, an event
that waits for its time is assumption 46, the enabled rings kept over PACKAGE_RESET assumption 47 and the emptied channels of a reset die
assumption 48 (all DEDUCED); that THRESHOLD_SET also sets the promotion time and the retry count is assumption 110, and that readings are in
tenths of a degree assumption 113 (DESIGN CHOICE). -/
def Obligations.PackageComplete : Prop :=
  ∀ (s : State),
    (∀ source e rest, (Tab.get s.sources ⟨[], 0⟩ source).buffer = e :: rest → (Tab.get s.sources ⟨[], 0⟩ source).dropped = 0 →
      (s.passed e = true → e.bad = false → ∃ t, exec (.eventLogAppend source) s = .next t ∧ t.log = s.log ++ [e] ∧ (Tab.get t.sources ⟨[], 0⟩ source).buffer = rest)
      ∧ (s.passed e = true → e.bad = true → ∃ t, exec (.eventLogAppend source) s = .next t ∧ t.log = s.log
          ∧ (Tab.get t.sources ⟨[], 0⟩ source).buffer = rest ++ [⟨s.timestamp, source, 0x10, 0, s.inc (source / 512), 1, 0, false⟩])
      ∧ (s.passed e = false → exec (.eventLogAppend source) s = .next s))
    ∧ (∀ cs ms ss, ∃ t, exec (.packageReset cs ms ss) s = .next t ∧ (∀ k, t.task k = Task.reset) ∧ t.incs = Vector.replicate 8 0 ∧ t.tiles = [] ∧ t.runs = []
        ∧ t.management.rings = s.enabled ∧ t.off = false ∧ (∀ p, (t.part p).state = .free)
        ∧ t.booted = ((bootImage 1 cs).isSome && (bootImage 2 ms).isSome && (bootImage 3 ss).isSome) ∧ t.trained = t.booted
        ∧ t.measures = (match bootImage 1 cs, bootImage 2 ms, bootImage 3 ss with
            | some c, some m, some x => [FwImage.digest c, FwImage.digest m, FwImage.digest x]
            | _, _, _ => []))
    ∧ (∀ die, die < 6 →
      ∀ i, i = .dieResetFatal die ∨ (i = .dieResetWarm die ∧ s.dirtyBlocks die = [] ∧ ∀ a ∈ s.accesses, s.accessAt a die = false ∨ taskDie a.task = die) →
      ∃ t, exec i s = .next t ∧ (∀ k < 32, t.task (32 * die + k) = Task.reset) ∧ (∀ x ∈ t.tiles, x.die ≠ die)
        ∧ t.inc die = s.inc die + 1 ∧ (∀ a, die * 262144 * 2048 ≤ a → a < (die + 1) * 262144 * 2048 → Memory.read t.sram a = 0)
        ∧ (∀ r < 4, t.sequencer (4 * die + r) = Sequencer.reset) ∧ ∀ k < 32, t.queue (32 * die + k) = [])
    ∧ (∀ die n x, s.lateResp.find? (fun x => x.1 == die && x.2.1 == n) = some x → x.2.2 ≠ s.inc die →
      exec (.staleResponseDrop die n) s = .next { s with lateResp := s.lateResp.erase x, staleDrops := s.staleDrops + 1 })
    ∧ (∀ link, link < 6 → link ∉ s.linksDown → ∃ t, exec (.linkFailure link) s = .next t ∧ t.linksDown = s.linksDown ++ [link]
      ∧ ∀ r ∈ s.runs, s.run r.serial = some r → r.crosses link = true → ∃ r1, t.run r.serial = some r1 ∧ r1.stopping = .now 3 ∧ r1.stripes = [])
    ∧ (∀ ring sensor reading key, ring < 24 → sensor < 4 → key = 4 * ring + sensor →
      (1050 ≤ reading → key ∉ s.throttled → ∃ t, exec (.thermalThrottle ⟨ring, sensor⟩ reading) s = .next t ∧ t.throttled = s.throttled ++ [key])
      ∧ (1050 ≤ reading → key ∈ s.throttled → exec (.thermalThrottle ⟨ring, sensor⟩ reading) s = .next (s.read ring sensor reading))
      ∧ (reading < 1050 → exec (.thermalThrottle ⟨ring, sensor⟩ reading) s = .next (s.read ring sensor reading)
          ∧ exec (.throttleRelease ⟨ring, sensor⟩ reading) s =
              .next { s.read ring sensor reading with throttled := s.throttled.filter fun k => k != key }))
    ∧ (∀ die reading, die < 8 → 1150 ≤ reading → exec (.thermalShutdown die reading) s = .next { s with off := true })
    ∧ (∀ mw dies, (s.figures.powerCapMW < mw → ∃ t, exec (.powerCapEnforce ⟨mw, dies⟩) s = .next t ∧ t.powerThrottle = true ∧ t.powers = dies)
      ∧ (mw ≤ s.figures.powerCapMW → exec (.powerCapEnforce ⟨mw, dies⟩) s = .next { s with powers := dies, powerThrottle := false }))
    ∧ (∀ v, (2000000 ≤ v → v ≤ 5500000 → exec (.thresholdSet (.powerCapMW v)) s = .next { s with figures := { s.figures with powerCapMW := v } })
      ∧ (v < 2000000 ∨ 5500000 < v → exec (.thresholdSet (.powerCapMW v)) s = .next s)
      ∧ (70 ≤ v → v ≤ 104 → exec (.thresholdSet (.migrateC v)) s = .next { s with figures := { s.figures with migrateC := v } })
      ∧ (v < 70 ∨ 104 < v → exec (.thresholdSet (.migrateC v)) s = .next s)
      ∧ (1 ≤ v → v ≤ 4095 → exec (.thresholdSet (.promoteClk v)) s = .next { s with figures := { s.figures with promoteClk := v } })
      ∧ (v < 1 ∨ 4095 < v → exec (.thresholdSet (.promoteClk v)) s = .next s)
      ∧ exec (.thresholdSet (.retries v)) s = .next { s with figures := { s.figures with maxRetries := v } })

/-- R243, R333, R392 to R394, R396 to R398: PARTITION_CREATE makes a FREE partition CREATED with its resources. PARTITION_DESTROY makes it ENDING, its graphs
cancelled and its tasks IDLE; PARTITION_FREE makes a drained one FREE, with nothing and no key. RING_SET_CHANGE moves an idle ring,
its sequencer and tasks as at reset. FUNCTION_LEVEL_RESET cancels the function's graphs. INTERFACE_BIND and INTERFACE_UNBIND change a binding while no graph is live on it. A host reads the
counts of a bound interface at STATUS of its page, 0 elsewhere in it and 0 where none is bound, and writes LAUNCH and CANCEL there (which page
an interface has is the model's choice, assumption 82). NUMVFS_WRITE keeps the two functions at 256 together. The condition under which a
ring may move is assumption 15, the FIFO that a binding empties assumption 16, and the test of a binding against its partition and page
assumption 83 (all the model's). -/
def Obligations.PartitionsComplete : Prop :=
  ∀ (s : State) (part : Nat),
    (∀ g, s.booted = true → part < 16 → (s.part part).state = .free → s.grantOk g = true →
      ∃ t, exec (.partitionCreate part g) s = .next t ∧ (t.part part).state = .created ∧ (t.part part).rings = g.rings ∧ (t.part part).units = g.units
        ∧ (t.part part).contexts = g.contexts ∧ (t.part part).functions = g.functions ∧ ∀ q, q ≠ part → t.part q = s.part q)
    ∧ ((s.part part).state ≠ .free → (s.part part).state ≠ .ending →
      ∃ t, exec (.partitionDestroy part) s = .next t ∧ (t.part part).state = .ending ∧ (∀ g ∈ t.graphs, g.part = part → g.cancelled = true)
        ∧ (∀ r ∈ (s.part part).rings, ∀ k < 8, (t.task (8 * r + k)).status = .idle)
        ∧ (∀ n f, n < 8192 → Tab.find s.ifaces n = some f → f.part = part → (t.iface n).fifo = [] ∧ (t.iface n).dropped = f.dropped + BitVec.ofNat 16 f.fifo.length))
    ∧ (part < 16 → (s.part part).state = .ending → s.drained part = true →
      ∃ t, exec (.partitionFree part) s = .next t ∧ t.part part = Partition.reset ∧ (∀ d < 6, t.kiln d part = Kiln.reset)
        ∧ (∀ r ∈ (s.part part).rings, t.sequencer r = Sequencer.reset ∧ ∀ k < 8, t.task (8 * r + k) = Task.reset))
    ∧ (part < 16 → (s.part part).state = .free → exec (.partitionFree part) s = .next s)
    ∧ (∀ ring, ring ∈ s.enabled → part < 16 → (s.part part).state = .active → s.ringPart ring ≠ some part → s.ringOut ring = false → (∀ r ∈ s.runs, ring ∉ r.holds) →
      (∀ x ∈ s.tasks, taskRing x.1 = ring → x.2.status = .idle) →
      ∃ t, exec (.ringSetChange ring part) s = .next t ∧ (t.part part).rings = (s.part part).rings ++ [ring] ∧ t.sequencer ring = Sequencer.reset
        ∧ (∀ k < 8, t.task (8 * ring + k) = Task.reset) ∧ ∀ q, s.ringPart ring = some q → ring ∉ (t.part q).rings)
    ∧ (∀ function n f g, n < 8192 → Tab.find s.ifaces n = some f → f.binding.getLsbD 63 = true → (f.binding.extractLsb' 54 9).toNat = function →
      ∃ t, exec (.functionLevelReset function) s = .next t ∧ (t.iface n).fifo = [] ∧ (t.iface n).binding = f.binding
        ∧ (s.graph g.id = some g → g.iface = some n → ∃ y, t.graph g.id = some y ∧ y.cancelled = true ∧ y.discard = true))
    ∧ (∀ n b, n < 8192 → s.ifaceLive n = false →
      (s.bindingOk b = true → s.bindingFits n b = true → ∃ t, exec (.interfaceBind n b) s = .next t ∧ (t.iface n).binding = b ∧ (t.iface n).fifo = []
        ∧ (t.iface n).part = (b.extractLsb' 30 4).toNat ∧ (t.iface n).asid = (b.extractLsb' 14 16).toNat)
      ∧ (s.bindingOk b = false ∨ s.bindingFits n b = false → exec (.interfaceBind n b) s = .next s)
      ∧ (∃ t, exec (.interfaceUnbind n) s = .next t ∧ (t.iface n).binding = 0 ∧ (t.iface n).fifo = []))
    ∧ (∀ (n : Nat) (f : Iface) (v : Word), s.trained = true → n < 8192 → Tab.find s.ifaces n = some f → f.binding.getLsbD 63 = true →
      (∀ x ∈ s.ifaces, s.pageLive x.1 = true → bindFunction x.2.binding = bindFunction f.binding → x.1 % 1024 = n % 1024 → x = (n, f)) →
      (∀ off size, off < 4096 → s.bar0Read (bindFunction f.binding) (4096 * (n % 1024) + off) size = some (if off = 8 ∧ size = 8 then
          BitVec.ofNat 64 (f.accepted.toNat + f.completed.toNat * 2 ^ 16 + f.dropped.toNat * 2 ^ 32 + f.fifo.length % 32 * 2 ^ 48) else 0))
      ∧ s.bar0Write (bindFunction f.binding) (4096 * (n % 1024)) 8 v = exec (.launch n v) s
      ∧ s.bar0Write (bindFunction f.binding) (4096 * (n % 1024) + 0x10) 8 v = exec (.cancel n v) s)
    ∧ (∀ function off size v, off < 0x400000 →
      (∀ x ∈ s.ifaces, s.pageLive x.1 = true → bindFunction x.2.binding = function → x.1 % 1024 ≠ off / 4096) →
      s.bar0Read function off size = some 0 ∧ s.bar0Write function off size v = .next s)
    ∧ (∀ n b, s.ifaceLive n = true → exec (.interfaceBind n b) s = .next s ∧ exec (.interfaceUnbind n) s = .next s)
    ∧ (∀ count, (count + s.numVfs[1] ≤ 256 → exec (.numvfsWrite 0 count) s = .next { s with numVfs := s.numVfs.set 0 count })
      ∧ (256 < count + s.numVfs[1] → exec (.numvfsWrite 0 count) s = .next s)
      ∧ (count + s.numVfs[0] ≤ 256 → exec (.numvfsWrite 1 count) s = .next { s with numVfs := s.numVfs.set 1 count })
      ∧ (256 < count + s.numVfs[0] → exec (.numvfsWrite 1 count) s = .next s))

/-- R299, R328, R395, R399, R402: HOST_COMPLETION answers a request to host memory: a load's register receives the bytes, and a refused one is a
fault of its task. HOST_CXL_MEM_ACCESS reads or writes shared memory that a decoder of a CXL port maps, and returns poison for anything else. SCALEOUT_WRITE of the expected
sequence number writes the peer window and acknowledges it, and a READ_REQUEST is answered with its bytes. A READ_RESPONSE, an ACK and a NAK take acknowledged frames away; a NAK and a RETRANSMIT_TIMEOUT send what
is left again. A frame that fails is discarded and counted. A decoder that the host programs at the first access is assumption 85, the sequence,
ack, nak and discard conventions are assumption 17 and the poison of an access to sealed memory assumption 53 (the model's). A frame sealed under
a key opens under it, with its payload as it was; the key stream and the tag are opaque (assumption 6). -/
def Obligations.HostLinkComplete : Prop :=
  ∀ (s : State),
    (∀ n o m a pa len sh, s.outReqs.find? (fun o => o.serial == n && paSpace o.pa == 2) = some o → o.who = .access m → o.line = none →
      s.accesses.find? (fun a => a.serial == m) = some a → a.parts = [(pa, len, sh)] → a.got = [] → a.order ≠ .ord → o.op = .read →
      (∀ sz d data, a.op = .load sz d → o.len ≤ data.length →
        ∃ t, exec (.hostCompletion n (.success data)) s = .next t ∧ (d ≠ 0 → (t.task a.task).reg d = extendWord sz.signed (data.take o.len))
          ∧ (t.task a.task).cnt = { (s.task a.task).cnt with ld := BitVec.ofNat 8 ((s.task a.task).cnt.ld.toNat - 1) }
          ∧ t.outReqs = s.outReqs.filter (fun x => x.serial != o.serial))
      ∧ (∀ sz d, a.op = .load sz d → ∃ t, exec (.hostCompletion n .abort) s = .next t ∧ exec (.hostCompletion n .unsupported) s = .next t
          ∧ (d ≠ 0 → (t.task a.task).reg d = (s.task a.task).reg d)
          ∧ (t.task a.task).cnt = { (s.task a.task).cnt with ld := BitVec.ofNat 8 ((s.task a.task).cnt.ld.toNat - 1) }))
    ∧ (∀ pa, s.trained = true → s.cxl.toList.contains true = true →
      (∀ n ds, s.decoded ((s.unitOwner pa).getD 0) (pa / 2 ^ 21) = some ds → paHbm pa = true → pa / 2 ^ 21 = (pa + n - 1) / 2 ^ 21 → s.unitShared pa = true → s.physOk true pa n = true →
        exec (.hostCxlMemAccess pa (.read n)) s = .next { s with hdm := ds, hostReply := .data (({ s with hdm := ds } : State).viewBytes hostAgent pa n) })
      ∧ (∀ d ds, s.decoded ((s.unitOwner pa).getD 0) (pa / 2 ^ 21) = some ds → MemoryForm s → paHbm pa = true → pa % 2048 + d.length ≤ 2048 → 0 < d.length → s.unitShared pa = true → s.physOk true pa d.length = true →
        ∃ t, exec (.hostCxlMemAccess pa (.write d)) s = .next t ∧ t.hostReply = .done ∧ t.hdm = ds
          ∧ (∀ i, ∀ h : i < d.length, Memory.read t.mem (pa + i) = d[i]) ∧ ∀ x, x < pa ∨ pa + d.length ≤ x → Memory.read t.mem x = Memory.read s.mem x)
      ∧ (∀ a, s.unitShared pa = false → exec (.hostCxlMemAccess pa a) s = .next { s with hostReply := .poison })
      ∧ (∀ n, paHbm pa = true → pa / 2 ^ 21 = (pa + n - 1) / 2 ^ 21 → s.unitShared pa = true → s.decoded ((s.unitOwner pa).getD 0) (pa / 2 ^ 21) = none →
          exec (.hostCxlMemAccess pa (.read n)) s = .next s))
    ∧ (∀ pa a, s.cxl.toList.contains true = false → exec (.hostCxlMemAccess pa a) s = .next s)
    ∧ (∀ (f : SoFrame) (key : BitVec 256) (kind n : Nat),
      soVerify (soProtect f key kind n) key kind n = some { f with tag := (soProtect f key kind n).tag } ∧ (soProtect f key kind n).payload.length = f.payload.length)
    ∧ (∀ (f g : SoFrame) (w : Nat × Nat) (q : SoStream) (key : Nat), key = streamKey f.partition f.source → Tab.find s.peers key = some q →
      (∀ x ∈ q.unacked, covered f.acked x.frame.seqNo = false) →
      (s.openFrame f 1 f.payload.length = some (g, w) → f.seqNo = q.rxSeq → g.offset.toNat + g.payload.length ≤ w.2 → g.payload.length ≤ 8192 →
        ∃ t q1 x, exec (.scaleoutWrite f) s = .next t ∧ Tab.find t.peers key = some q1 ∧ q1.rxSeq = q.rxSeq + 1 ∧ q1.sent = q.sent ++ [x] ∧ x.kind = 4
          ∧ x.frame.acked = q.rxSeq
          ∧ (MemoryForm s → paHbm (w.1 + g.offset.toNat) = true → 0 < g.payload.length → (w.1 + g.offset.toNat) % 2048 + g.payload.length ≤ 2048 →
              s.blockFault false (w.1 + g.offset.toNat) = none →
              ∀ i, ∀ h : i < g.payload.length, Memory.read t.mem (w.1 + g.offset.toNat + i) = g.payload[i]))
      ∧ (∀ n, s.openFrame f 2 n = some (g, w) → f.seqNo = q.rxSeq → g.offset.toNat + n ≤ w.2 → n ≤ 8192 → s.physOk false (w.1 + g.offset.toNat) n = true →
        ∃ t q1 x, exec (.scaleoutReadRequest f n) s = .next t ∧ Tab.find t.peers key = some q1 ∧ q1.rxSeq = q.rxSeq + 1 ∧ q1.nextSeq = q.nextSeq + 1
          ∧ q1.sent = q.sent ++ [x] ∧ q1.unacked = q.unacked ++ [x] ∧ x.kind = 3 ∧ x.frame.seqNo = q.nextSeq ∧ t.mem = s.mem
          ∧ x.frame = soProtect (s.frameTo { q with rxSeq := q.rxSeq + 1 } f.partition f.source g.offset (s.viewBytes 6 (w.1 + g.offset.toNat) n)) q.key 3 n)
      ∧ (s.openFrame f 3 f.payload.length = some (g, w) → f.seqNo = q.rxSeq → s.outReqs = [] →
        ∃ t q1 x, exec (.scaleoutReadResponse f) s = .next t ∧ Tab.find t.peers key = some q1 ∧ q1.rxSeq = q.rxSeq + 1 ∧ q1.sent = q.sent ++ [x] ∧ x.kind = 4)
      ∧ (s.openFrame f 4 0 = some (g, w) → exec (.scaleoutAck f) s = .next s)
      ∧ (s.openFrame f 5 0 = some (g, w) → q.unacked ≠ [] → q.retries < s.figures.maxRetries →
        exec (.scaleoutNak f) s = .next { s with peers := Tab.set s.peers key { q with retries := q.retries + 1, sent := q.sent ++ q.unacked } }))
    ∧ (∀ (f g : SoFrame) (w : Nat × Nat) (q : SoStream) (key : Nat), key = streamKey f.partition f.source → s.openFrame f 4 0 = some (g, w) →
      Tab.find s.peers key = some q → q.unacked ≠ [] → (∀ x ∈ q.unacked, covered f.acked x.frame.seqNo = true ∧ x.kind ≠ 1) →
      exec (.scaleoutAck f) s = .next { s with peers := Tab.set s.peers key { q with unacked := [], retries := 0 } })
    ∧ (∀ part peer q, Tab.find s.peers (streamKey part peer) = some q → q.unacked ≠ [] → q.retries < s.figures.maxRetries →
      exec (.retransmitTimeout part peer) s =
        .next { s with peers := Tab.set s.peers (streamKey part peer) { q with retries := q.retries + 1, sent := q.sent ++ q.unacked } })
    ∧ (∀ f n,
      (s.openFrame f 1 f.payload.length = none → exec (.scaleoutWrite f) s = .next { s with badFrames := s.badFrames + 1 })
      ∧ (s.openFrame f 2 n = none → exec (.scaleoutReadRequest f n) s = .next { s with badFrames := s.badFrames + 1 })
      ∧ (s.openFrame f 3 f.payload.length = none → exec (.scaleoutReadResponse f) s = .next { s with badFrames := s.badFrames + 1 })
      ∧ (s.openFrame f 4 0 = none → exec (.scaleoutAck f) s = .next { s with badFrames := s.badFrames + 1 })
      ∧ (s.openFrame f 5 0 = none → exec (.scaleoutNak f) s = .next { s with badFrames := s.badFrames + 1 }))

/-- R406, R407: the SPDM responder of a function, with the ports trained; every answer raises one of the function's mailbox vectors (R394), which
one is free (assumption 84). GET_VERSION begins again with version 1.3, GET_CAPABILITIES and NEGOTIATE_ALGORITHMS answer, and the other
requests answer with an error until the algorithms are negotiated. KEY_EXCHANGE opens a session and FINISH completes its handshake; END_SESSION ends it. A
VENDOR_DEFINED_REQUEST that delivers a tenant key installs it in every Kiln and makes the partition ACTIVE, and another answers an error. Every
answer is signed and, once a session's handshake is over, sealed. That the requests answer with an error before the algorithms are negotiated, and
FINISH and END_SESSION without a session, is assumption 54; what the answers' bytes are, assumption 6 (the model's). -/
def Obligations.SpdmResponderComplete : Prop :=
  ∀ (s : State) (n : Nat) (x : Spdm) (reply : Spdm → List Byte → SpdmReply → State), s.trained = true → n < 258 → x = s.spdmOf n →
    (∀ y asked a, reply y asked a =
      { s with spdm := Tab.set s.spdm n (Spdm.send s x y asked a), interrupts := s.interrupts ++ [(n, 1024 + Config.freeNat s.freeCtr % 4)] }) →
    (∀ y asked a, ∃ z, (Spdm.send s x y asked a).response = some z ∧ z.reply = a ∧ z.signature = s.sign (asked ++ a.bytes)
      ∧ (z.secured = none ↔ x.finished = false ∨ x.session = none))
    ∧ exec (.getVersion n) s = .next (reply Spdm.reset [] (.version 0x13))
    ∧ exec (.getCapabilities n) s = .next (reply x [] .capabilities)
    ∧ exec (.negotiateAlgorithms n) s = .next (reply { x with negotiated := true } [] .algorithms)
    ∧ (x.negotiated = false →
      (∀ i ∈ [Instr.getDigests n, .getCertificate n, .finish n, .endSession n], exec i s = .next (reply x [] .error))
      ∧ ∀ nonce, exec (.challenge n nonce) s = .next (reply x (nonce ++ s.certChain) .error) ∧ exec (.getMeasurements n nonce) s = .next (reply x nonce .error))
    ∧ (x.negotiated = true →
      exec (.getDigests n) s = .next (reply x [] (.digests (Config.sha512 s.certChain)))
      ∧ exec (.getCertificate n) s = .next (reply x [] (.certificate s.certChain))
      ∧ (∀ nonce, exec (.challenge n nonce) s = .next (reply x (nonce ++ s.certChain) .challengeAuth))
      ∧ (∀ nonce, exec (.getMeasurements n nonce) s = .next (reply x nonce (.measurements (s.blocksFor n))) ∧ s.measures <+: s.blocksFor n)
      ∧ (∀ share, ∃ t y z b, exec (.keyExchange n share) s = .next t ∧ Tab.find t.spdm n = some y ∧ y.negotiated = true ∧ y.session ≠ none ∧ y.finished = false
          ∧ y.response = some z ∧ z.reply = .keyExchange b)
      ∧ (x.session ≠ none → exec (.finish n) s = .next (reply { x with finished := true } [] .finish)
          ∧ exec (.endSession n) s = .next (reply { x with session := none, finished := false } [] .endSession))
      ∧ (x.session = none → exec (.finish n) s = .next (reply x [] .error) ∧ exec (.endSession n) s = .next (reply x [] .error)))
    ∧ (∀ registry payload tag,
      (∀ p, s.keyTarget n registry payload tag = some p →
        ∃ t y z, exec (.vendorDefinedRequest n registry ⟨payload, tag⟩) s = .next t ∧ Tab.find t.spdm n = some y ∧ y.response = some z ∧ z.reply = .vendorDefined
          ∧ (t.part p).state = .active
          ∧ ∀ d < 6, t.kiln d p = ⟨some (BitVec.ofNat 256 (leNat payload)), 0, [(0, genKey (BitVec.ofNat 256 (leNat payload)) p 0 0)], 0⟩)
      ∧ (s.keyTarget n registry payload tag = none →
          exec (.vendorDefinedRequest n registry ⟨payload, tag⟩) s = .next (reply (if x.hears payload tag = true then { x with heard := x.heard + 1 } else x) payload .error)))

/-! ### Encodings -/

/-- R94, R99, R101, R108 to R112: words and frames that the manual writes out bit by bit decode to the instructions they stand for (its worked
examples), and the all-zero word decodes to none. -/
def Obligations.ExampleWordsDecode : Prop :=
  decodeSeq 0x28A21A2200000010 = .ok (.ldg ⟨true, 2⟩ .w .acq .dev 4 6 16)
  ∧ decodeSeq 0x0370800000000000 = .ok (.li ⟨false, 7⟩ 1 0)
  ∧ decodeSeq 0x0970980000000001 = .ok (.setpi ⟨false, 7⟩ .eq 1 6 1)
  ∧ decodeSeq 0x10700000FFFFFFD0 = .ok (.br ⟨false, 7⟩ (-48))
  ∧ decodeSeq 0x0120844000000000 = .ok (.add ⟨false, 2⟩ 1 1 2)
  ∧ decodeSeq 0x2972AA4300000008 = .ok (.stg ⟨false, 7⟩ .d .rel .dev 5 10 8)
  ∧ decodeSeq 0x2A701CB000000010 = .ok (.atomgAdd ⟨false, 7⟩ .d .rlx .dev 0 7 5)
  ∧ decodeSeq 0x38728440000800C7 = .ok (.draw ⟨false, 7⟩ 5 1 2 0x800C7)
  ∧ decodeSeq 0x3A70146010000002 = .ok (.send ⟨false, 7⟩ 5 3 2 0 false .dev)
  ∧ decodeSeq 0x487000003FF07FFF = .ok (.wait ⟨false, 7⟩ ⟨31, 31, 0, 31, 31, 31⟩)
  ∧ decodeSeq 0x30728000001A1000 = .ok (.talloc ⟨false, 7⟩ 5 0x1A1000)
  ∧ decodeSeq 0x1A7002E300070000 = .ok (.sendqReg ⟨false, 7⟩ (.stop 6) 0 23)
  ∧ decodeSeq 0 = .error .zeroWord
  ∧ decodeFrame 0x119010E300000882003600000800FE0096FE1110000000003FC0000000000000 = .ok (.op ⟨.cc, 3, 1⟩ (.fma
      { cell := 3, stage := 1, ty := .f32, a := ⟨.st 0, 0, false, false, false, 0⟩, b := ⟨.sl 2, 8, false, false, false, 0⟩
        c := ⟨.imm, 0, false, false, false, 0⟩, oa := ⟨.pa 4, .forward⟩, ob := ⟨.none, .forward⟩, pin := .pl 5, psense := true, pout := .none
        rm := .rne, sat := false, stats := true, silt := 2, level := 1, flags := 0, imm := 0x3FC00000, ext := 0 }))
  ∧ decodeFrame 0x2280C01C0048DF80007E0001F800006007F007E7FA400C000000000000000000 = .ok (.op ⟨.mc, 5, 0⟩ (.trd
      { cell := 5, ty := .b32, handle := 0x123, fromC := false, a := ⟨.unused, 0, false, false, false, 0⟩
        b := ⟨.unused, 0, false, false, false, 0⟩, c := ⟨.unused, 0, false, false, false, 0⟩, oa := ⟨.pa 6, .forward⟩
        ob := ⟨.none, .forward⟩, pin := .none, psense := false, pout := .none, consume := true, level := 2, scope := .die, subop := 0
        sat := false, sealEnd := false, silt := 1, stats := true, imm := 0 }))
  ∧ decodeFrame 0x2290120000000000000000000000030001000002000040000002400110000000 = .ok (.gen
      { cell := 5, mode := .affine, dims := 2, d0 := ⟨2, 64, 1, false, false⟩, d1 := ⟨3, 256, 2, false, false⟩, d2 := ⟨0, 0, 0, false, false⟩
        d3 := ⟨0, 0, 0, false, false⟩, base := 576 })

/-- R108 to R112: the decoder and the encoder of sequencer words agree on every word and every instruction: a word decodes to an instruction
exactly when the instruction is well-formed and that word is its encoding. So no bit of a word is dropped, no two words mean one instruction,
and no other word is accepted. -/
def Obligations.SequencerWordsRoundTrip : Prop :=
  ∀ (i : Instr) (w : BitVec 64), decodeSeq w = .ok i ↔ (i.wf = true ∧ encodeSeq i = some w)

/-- R90 to R104: the same of the frames: of an op of a cell, a switch or a node, of an address generator, of an HD frame, of a depth table and of
the last frame, each with every field at every value its encoding admits; and an op's frame carries the op's own address. -/
def Obligations.FramesRoundTrip : Prop :=
  (∀ (i : Instr) (w : Frame), (∃ a, decodeFrame w = .ok (.op a i)) ↔ (i.wf = true ∧ encodeFrame i = some w))
  ∧ (∀ (f : AGFrame) (w : Frame), decodeFrame w = .ok (.gen f) ↔ (f.wf = true ∧ f.bits = w))
  ∧ (∀ (f : HDFrame) (w : Frame), decodeFrame w = .ok (.hd f) ↔ f.bits = w)
  ∧ (∀ (d : BitVec 240) (w : Frame), decodeFrame w = .ok (.depths d) ↔ addrBits 7 0 0 ++ d = w)
  ∧ (∀ w : Frame, decodeFrame w = .ok .last ↔ addrBits 15 0 0 ++ (0 : BitVec 240) = w)
  ∧ (∀ (i : Instr) (w : Frame) (a : OpAddr), decodeFrame w = .ok (.op a i) →
      a.index = (w.extractLsb' 247 5).toNat ∧ a.slot = (w.extractLsb' 244 3).toNat)

/-- R109, R229, R232, R240, R244: the encodings of LDG, STG and ATOMG that R244 names, the condition codes above 9, the ALU codes above 23, the
kinds and levels that no SENDQ has and the all-zero word are rejected; and a sequencer whose next slot stands at a rejected word takes a
precise ILLOP there, whatever the word's guard. -/
def Obligations.RejectedWordsTrap : Prop :=
  (∀ w : BitVec 64, ∀ major fn b imm : Nat,
    major = (w.extractLsb' 56 8).toNat → fn = (w.extractLsb' 32 5).toNat → b = (w.extractLsb' 37 5).toNat → imm = (w.extractLsb' 0 32).toNat →
    (w = 0
      ∨ ((major = 0x28 ∨ major = 0x29) ∧ b / 8 = 0) ∨ (major = 0x2A ∧ imm / 8 % 4 = 0)
      ∨ (major = 0x28 ∧ b % 8 ∉ [0, 1, 4]) ∨ (major = 0x29 ∧ b % 8 ∉ [0, 2, 4]) ∨ (major = 0x2A ∧ 5 ≤ imm % 8)
      ∨ (major = 0x28 ∧ fn % 8 = 7)
      ∨ (major = 0x28 ∧ 8 ≤ fn) ∨ (major = 0x29 ∧ 4 ≤ fn)
      ∨ (major = 0x2A ∧ 10 ≤ fn % 16)
      ∨ (major = 0x2A ∧ fn % 16 ≠ 9 ∧ imm / 2 ^ 27 ≠ 0)
      ∨ (major = 0x2A ∧ imm / 32 % 2 ^ 22 ≠ 0)
      ∨ ((major = 8 ∨ major = 9) ∧ 10 ≤ fn) ∨ ((major = 1 ∨ major = 2) ∧ 24 ≤ fn)
      ∨ (major = 0x1A ∧ (fn / 2 % 8 ∉ [0, 1, 4, 5] ∨ (fn / 2 % 8 = 1 ↔ imm / 2 ^ 16 % 8 = 0) ∨ imm / 2 ^ 19 ≠ 0))) →
    ∃ r, decodeSeq w = .error r)
  ∧ (∀ (s : State) (turn : Turn) (rest : List Turn) (ring k : Nat) (r : Reject) (s1 s2 : State), s.agenda = turn :: rest →
      turn.act = .seq ring → s.off = false → ring ∈ s.enabled →
      s1 = { (s.elapse turn.clk turn.ticks) with agenda := rest } → s1.pickSlot ring = some k →
      ((s.task (8 * ring + k)).inHandler = true ∨ (s.task (8 * ring + k)).midway = true ∨ (s.task (8 * ring + k)).deferred = []) →
      ((s.task (8 * ring + k)).safegap = 0 ∨ (s.task (8 * ring + k)).spcount.toNat < (s.task (8 * ring + k)).safegap.toNat) →
      (s.task (8 * ring + k)).pc.toNat / 8 ∉ (s.sequencer ring).ibad →
      decodeSeq ((s.sequencer ring).fetch (s.task (8 * ring + k)).pc) = .error r →
      s2 = { (s1.rotate ring k) with cur := 8 * ring + k } →
      step s = .next (s2.takeFault (8 * ring + k) 0 (s.task (8 * ring + k)).pc (s2.report fILLOP 0 0)))

/-! ### Steps -/

/-- R49, R109, R225, R235, R275, R389: a step runs the decoded instruction. When the agenda's next turn is a sequencer's, the slot is the first in its
round-robin order that is RUNNABLE or HANDLER, the word is the eight bytes of the instruction store at that slot's pc, lowest address
least significant, and the step is exec of the instruction those bytes decode to, at a state in which time has passed, the turn is over,
the slot is last in its ring's order and is the running task. When the turn is an op's, and its configuration has no error, the step is exec of the op as it is configured,
with the focus at its place; when it is another agent's step, it is exec of that. With no turn left nothing happens. (The agenda is the
model's own: see its log entry.) -/
def Obligations.StepRunsDecoded : Prop :=
  ∀ (s : State) (turn : Turn) (rest : List Turn) (s1 : State), s.agenda = turn :: rest → s.off = false →
    s1 = { (s.elapse turn.clk turn.ticks) with agenda := rest } →
    (∀ (ring k : Nat) (i : Instr), turn.act = .seq ring → ring ∈ s.enabled →
      ((s.sequencer ring).order.find? fun j => (s.task (8 * ring + j)).status == .runnable || (s.task (8 * ring + j)).status == .handler) = some k →
      ((s.task (8 * ring + k)).inHandler = true ∨ (s.task (8 * ring + k)).midway = true ∨ (s.task (8 * ring + k)).deferred = []) →
      ((s.task (8 * ring + k)).safegap = 0 ∨ (s.task (8 * ring + k)).spcount.toNat < (s.task (8 * ring + k)).safegap.toNat) →
      (s.task (8 * ring + k)).pc.toNat / 8 ∉ (s.sequencer ring).ibad →
      decodeSeq ((s.sequencer ring).fetch (s.task (8 * ring + k)).pc) = .ok i →
      step s = exec i { (s1.rotate ring k) with cur := 8 * ring + k })
    ∧ (∀ (ring : Nat) (pc : BitVec 16) (j : Nat), j < 64 → ((s.sequencer ring).fetch pc).getLsbD j
        = (Memory.read (s.sequencer ring).istore ((pc.toNat + j / 8) % 65536)).getLsbD (j % 8))
    ∧ (∀ (p : OpPlace) (i : Instr), turn.act = .op p → s1.configBad p = false → s1.opInstr p = some i → step s = exec i { s1 with focus := p })
    ∧ (∀ (i : Instr), turn.act = .agent i → encode i = none → step s = exec i s1)
    ∧ step { s with agenda := [] } = .next { s with agenda := [] }

/-- R46, R47, R243, R385, R393: the machine right after reset, of what the manual states: every task slot IDLE with registers, predicates,
pc, ENTRY, HVEC, EPC, record, SAFEGAP, SPCOUNT and counters zero, the in-handler bit clear and ESTAT RUNNABLE; every
byte of the instruction and data stores zero; every partition FREE; every incarnation 0. Of what it does not state: every channel empty, no tile
and no run, which is the model's choice (assumption 5). The invariant holds at reset. -/
def Obligations.ResetStateHasForm : Prop :=
  ((∀ (k : Nat) (r : Reg) (p : Pred),
      (State.reset.task k).reg r = 0 ∧ (p ≠ 7 → (State.reset.task k).pred p = false) ∧ (State.reset.task k).pc = 0
      ∧ (State.reset.task k).entry = 0 ∧ (State.reset.task k).hvec = 0 ∧ (State.reset.task k).epc = 0
      ∧ (State.reset.task k).frec = ⟨0, 0, 0, 0⟩ ∧ (State.reset.task k).safegap = 0 ∧ (State.reset.task k).spcount = 0
      ∧ (State.reset.task k).cnt = ⟨0, 0, 0, 0, 0, 0⟩ ∧ (State.reset.task k).inHandler = false ∧ (State.reset.task k).estat = .runnable
      ∧ (State.reset.task k).status = .idle ∧ (State.reset.task k).context.toNat = (State.reset.part (State.reset.partOf k)).defaultCtx
      ∧ State.reset.queue k = [])
    ∧ (∀ ring a, Memory.read (State.reset.sequencer ring).istore a = 0 ∧ Memory.read (State.reset.sequencer ring).dstore a = 0)
    ∧ (∀ p, (State.reset.part p).state = .free) ∧ (∀ d : Fin 8, State.reset.incs[d] = 0) ∧ State.reset.tiles = [] ∧ State.reset.runs = [])
  ∧ (MemoryForm State.reset)

/-! ### Memory -/

/-- R6, R242, R305: byte storage in canonical form is storage: a written byte reads back and every other byte is as before, also of a run of
bytes and of a store whose addresses wrap; clearing a range makes its bytes read zero and leaves the rest; and two storages in canonical
form that read alike are the same data. -/
def Obligations.StorageReadsBack : Prop :=
  (∀ (m : Memory) (a : Nat) (b : Byte) (x : Nat), m.wf = true → Memory.read (Memory.write m a b) x = if x = a then b else Memory.read m x)
  ∧ (∀ (m : Memory) (a : Nat) (bs : List Byte) (x : Nat), m.wf = true →
      Memory.read (Memory.writeBytes m a bs) x = if a ≤ x ∧ x < a + bs.length then bs.getD (x - a) 0 else Memory.read m x)
  ∧ (∀ (m : Memory) (size a : Nat) (bs : List Byte), m.wf = true → bs.length ≤ size →
      (∀ i < bs.length, Memory.read (Memory.writeWrap size m a bs) ((a + i) % size) = bs.getD i 0)
      ∧ (∀ x, (∀ i < bs.length, x ≠ (a + i) % size) → Memory.read (Memory.writeWrap size m a bs) x = Memory.read m x))
  ∧ (∀ (m : Memory) (a n x : Nat), m.wf = true → Memory.read (Memory.zero m a n) x = if a ≤ x ∧ x < a + n then 0 else Memory.read m x)
  ∧ (∀ m k : Memory, m.wf = true → k.wf = true → (∀ x, Memory.read m x = Memory.read k x) → m = k)

/-- The invariant of the storages: every step from a state whose package memory, tile storage and sequencer stores are in canonical form, whoever
moves and whatever it does, ends in such a state (the form is the model's own: equal memories are equal data; its log entry is 4). -/
def Obligations.EveryStepKeepsMemoryForm : Prop :=
  ∀ s t : State, MemoryForm s → step s = .next t → MemoryForm t
end

