-- ==== Sys2Proof/Laws/State.lean ====
section
/-! SUPPORT. Laws/State: what each update of one component leaves of every other, true by unfolding, so that no later proof unfolds a record update. -/
namespace Sys2Proof.Machine

variable (s : State)

/-! ### setTask -/

@[simp] theorem State.setTask_agenda (k : Nat) (v : Task) : (s.setTask k v).agenda = s.agenda := rfl
@[simp] theorem State.setTask_focus (k : Nat) (v : Task) : (s.setTask k v).focus = s.focus := rfl
@[simp] theorem State.setTask_cur (k : Nat) (v : Task) : (s.setTask k v).cur = s.cur := rfl
@[simp] theorem State.setTask_freeCtr (k : Nat) (v : Task) : (s.setTask k v).freeCtr = s.freeCtr := rfl
@[simp] theorem State.setTask_timestamp (k : Nat) (v : Task) : (s.setTask k v).timestamp = s.timestamp := rfl
@[simp] theorem State.setTask_clk (k : Nat) (v : Task) : (s.setTask k v).clk = s.clk := rfl
@[simp] theorem State.setTask_off (k : Nat) (v : Task) : (s.setTask k v).off = s.off := rfl
@[simp] theorem State.setTask_booted (k : Nat) (v : Task) : (s.setTask k v).booted = s.booted := rfl
@[simp] theorem State.setTask_trained (k : Nat) (v : Task) : (s.setTask k v).trained = s.trained := rfl
@[simp] theorem State.setTask_enabled (k : Nat) (v : Task) : (s.setTask k v).enabled = s.enabled := rfl
@[simp] theorem State.setTask_queues (k : Nat) (v : Task) : (s.setTask k v).queues = s.queues := rfl
@[simp] theorem State.setTask_seqs (k : Nat) (v : Task) : (s.setTask k v).seqs = s.seqs := rfl
@[simp] theorem State.setTask_accesses (k : Nat) (v : Task) : (s.setTask k v).accesses = s.accesses := rfl
@[simp] theorem State.setTask_outReqs (k : Nat) (v : Task) : (s.setTask k v).outReqs = s.outReqs := rfl
@[simp] theorem State.setTask_answers (k : Nat) (v : Task) : (s.setTask k v).answers = s.answers := rfl
@[simp] theorem State.setTask_nextSerial (k : Nat) (v : Task) : (s.setTask k v).nextSerial = s.nextSerial := rfl
@[simp] theorem State.setTask_engines (k : Nat) (v : Task) : (s.setTask k v).engines = s.engines := rfl
@[simp] theorem State.setTask_streams (k : Nat) (v : Task) : (s.setTask k v).streams = s.streams := rfl
@[simp] theorem State.setTask_groups (k : Nat) (v : Task) : (s.setTask k v).groups = s.groups := rfl
@[simp] theorem State.setTask_switchedOut (k : Nat) (v : Task) : (s.setTask k v).switchedOut = s.switchedOut := rfl
@[simp] theorem State.setTask_mem (k : Nat) (v : Task) : (s.setTask k v).mem = s.mem := rfl
@[simp] theorem State.setTask_stale (k : Nat) (v : Task) : (s.setTask k v).stale = s.stale := rfl
@[simp] theorem State.setTask_inFlight (k : Nat) (v : Task) : (s.setTask k v).inFlight = s.inFlight := rfl
@[simp] theorem State.setTask_dieWrites (k : Nat) (v : Task) : (s.setTask k v).dieWrites = s.dieWrites := rfl
@[simp] theorem State.setTask_homeSeq (k : Nat) (v : Task) : (s.setTask k v).homeSeq = s.homeSeq := rfl
@[simp] theorem State.setTask_blocks (k : Nat) (v : Task) : (s.setTask k v).blocks = s.blocks := rfl
@[simp] theorem State.setTask_kilns (k : Nat) (v : Task) : (s.setTask k v).kilns = s.kilns := rfl
@[simp] theorem State.setTask_treeKey (k : Nat) (v : Task) : (s.setTask k v).treeKey = s.treeKey := rfl
@[simp] theorem State.setTask_treeCounts (k : Nat) (v : Task) : (s.setTask k v).treeCounts = s.treeCounts := rfl
@[simp] theorem State.setTask_treeBad (k : Nat) (v : Task) : (s.setTask k v).treeBad = s.treeBad := rfl
@[simp] theorem State.setTask_contexts (k : Nat) (v : Task) : (s.setTask k v).contexts = s.contexts := rfl
@[simp] theorem State.setTask_tlb (k : Nat) (v : Task) : (s.setTask k v).tlb = s.tlb := rfl
@[simp] theorem State.setTask_walks (k : Nat) (v : Task) : (s.setTask k v).walks = s.walks := rfl
@[simp] theorem State.setTask_tiles (k : Nat) (v : Task) : (s.setTask k v).tiles = s.tiles := rfl
@[simp] theorem State.setTask_freed (k : Nat) (v : Task) : (s.setTask k v).freed = s.freed := rfl
@[simp] theorem State.setTask_sram (k : Nat) (v : Task) : (s.setTask k v).sram = s.sram := rfl
@[simp] theorem State.setTask_sramOwner (k : Nat) (v : Task) : (s.setTask k v).sramOwner = s.sramOwner := rfl
@[simp] theorem State.setTask_sramBad (k : Nat) (v : Task) : (s.setTask k v).sramBad = s.sramBad := rfl
@[simp] theorem State.setTask_pools (k : Nat) (v : Task) : (s.setTask k v).pools = s.pools := rfl
@[simp] theorem State.setTask_bindings (k : Nat) (v : Task) : (s.setTask k v).bindings = s.bindings := rfl
@[simp] theorem State.setTask_runs (k : Nat) (v : Task) : (s.setTask k v).runs = s.runs := rfl
@[simp] theorem State.setTask_caches (k : Nat) (v : Task) : (s.setTask k v).caches = s.caches := rfl
@[simp] theorem State.setTask_remap (k : Nat) (v : Task) : (s.setTask k v).remap = s.remap := rfl
@[simp] theorem State.setTask_ifaces (k : Nat) (v : Task) : (s.setTask k v).ifaces = s.ifaces := rfl
@[simp] theorem State.setTask_pifaces (k : Nat) (v : Task) : (s.setTask k v).pifaces = s.pifaces := rfl
@[simp] theorem State.setTask_graphs (k : Nat) (v : Task) : (s.setTask k v).graphs = s.graphs := rfl
@[simp] theorem State.setTask_schedSerial (k : Nat) (v : Task) : (s.setTask k v).schedSerial = s.schedSerial := rfl
@[simp] theorem State.setTask_lastServed (k : Nat) (v : Task) : (s.setTask k v).lastServed = s.lastServed := rfl
@[simp] theorem State.setTask_partitions (k : Nat) (v : Task) : (s.setTask k v).partitions = s.partitions := rfl
@[simp] theorem State.setTask_sources (k : Nat) (v : Task) : (s.setTask k v).sources = s.sources := rfl
@[simp] theorem State.setTask_log (k : Nat) (v : Task) : (s.setTask k v).log = s.log := rfl
@[simp] theorem State.setTask_fwRecords (k : Nat) (v : Task) : (s.setTask k v).fwRecords = s.fwRecords := rfl
@[simp] theorem State.setTask_astalls (k : Nat) (v : Task) : (s.setTask k v).astalls = s.astalls := rfl
@[simp] theorem State.setTask_interrupts (k : Nat) (v : Task) : (s.setTask k v).interrupts = s.interrupts := rfl
@[simp] theorem State.setTask_incs (k : Nat) (v : Task) : (s.setTask k v).incs = s.incs := rfl
@[simp] theorem State.setTask_learned (k : Nat) (v : Task) : (s.setTask k v).learned = s.learned := rfl
@[simp] theorem State.setTask_lateResp (k : Nat) (v : Task) : (s.setTask k v).lateResp = s.lateResp := rfl
@[simp] theorem State.setTask_staleDrops (k : Nat) (v : Task) : (s.setTask k v).staleDrops = s.staleDrops := rfl
@[simp] theorem State.setTask_linksDown (k : Nat) (v : Task) : (s.setTask k v).linksDown = s.linksDown := rfl
@[simp] theorem State.setTask_throttled (k : Nat) (v : Task) : (s.setTask k v).throttled = s.throttled := rfl
@[simp] theorem State.setTask_powerThrottle (k : Nat) (v : Task) : (s.setTask k v).powerThrottle = s.powerThrottle := rfl
@[simp] theorem State.setTask_sensorsHot (k : Nat) (v : Task) : (s.setTask k v).sensorsHot = s.sensorsHot := rfl
@[simp] theorem State.setTask_temps (k : Nat) (v : Task) : (s.setTask k v).temps = s.temps := rfl
@[simp] theorem State.setTask_powers (k : Nat) (v : Task) : (s.setTask k v).powers = s.powers := rfl
@[simp] theorem State.setTask_figures (k : Nat) (v : Task) : (s.setTask k v).figures = s.figures := rfl
@[simp] theorem State.setTask_codeCopies (k : Nat) (v : Task) : (s.setTask k v).codeCopies = s.codeCopies := rfl
@[simp] theorem State.setTask_package (k : Nat) (v : Task) : (s.setTask k v).package = s.package := rfl
@[simp] theorem State.setTask_peers (k : Nat) (v : Task) : (s.setTask k v).peers = s.peers := rfl
@[simp] theorem State.setTask_hostReply (k : Nat) (v : Task) : (s.setTask k v).hostReply = s.hostReply := rfl
@[simp] theorem State.setTask_busy (k : Nat) (v : Task) : (s.setTask k v).busy = s.busy := rfl
@[simp] theorem State.setTask_cxl (k : Nat) (v : Task) : (s.setTask k v).cxl = s.cxl := rfl
@[simp] theorem State.setTask_hdm (k : Nat) (v : Task) : (s.setTask k v).hdm = s.hdm := rfl
@[simp] theorem State.setTask_hostLines (k : Nat) (v : Task) : (s.setTask k v).hostLines = s.hostLines := rfl
@[simp] theorem State.setTask_aer (k : Nat) (v : Task) : (s.setTask k v).aer = s.aer := rfl
@[simp] theorem State.setTask_badFrames (k : Nat) (v : Task) : (s.setTask k v).badFrames = s.badFrames := rfl
@[simp] theorem State.setTask_spdm (k : Nat) (v : Task) : (s.setTask k v).spdm = s.spdm := rfl
@[simp] theorem State.setTask_numVfs (k : Nat) (v : Task) : (s.setTask k v).numVfs = s.numVfs := rfl
@[simp] theorem State.setTask_aliasKey (k : Nat) (v : Task) : (s.setTask k v).aliasKey = s.aliasKey := rfl
@[simp] theorem State.setTask_measures (k : Nat) (v : Task) : (s.setTask k v).measures = s.measures := rfl
@[simp] theorem State.setTask_corrected (k : Nat) (v : Task) : (s.setTask k v).corrected = s.corrected := rfl

/-! ### updTask -/

@[simp] theorem State.updTask_agenda (k : Nat) (f : Task → Task) : (s.updTask k f).agenda = s.agenda := rfl
@[simp] theorem State.updTask_focus (k : Nat) (f : Task → Task) : (s.updTask k f).focus = s.focus := rfl
@[simp] theorem State.updTask_cur (k : Nat) (f : Task → Task) : (s.updTask k f).cur = s.cur := rfl
@[simp] theorem State.updTask_freeCtr (k : Nat) (f : Task → Task) : (s.updTask k f).freeCtr = s.freeCtr := rfl
@[simp] theorem State.updTask_timestamp (k : Nat) (f : Task → Task) : (s.updTask k f).timestamp = s.timestamp := rfl
@[simp] theorem State.updTask_clk (k : Nat) (f : Task → Task) : (s.updTask k f).clk = s.clk := rfl
@[simp] theorem State.updTask_off (k : Nat) (f : Task → Task) : (s.updTask k f).off = s.off := rfl
@[simp] theorem State.updTask_booted (k : Nat) (f : Task → Task) : (s.updTask k f).booted = s.booted := rfl
@[simp] theorem State.updTask_trained (k : Nat) (f : Task → Task) : (s.updTask k f).trained = s.trained := rfl
@[simp] theorem State.updTask_enabled (k : Nat) (f : Task → Task) : (s.updTask k f).enabled = s.enabled := rfl
@[simp] theorem State.updTask_queues (k : Nat) (f : Task → Task) : (s.updTask k f).queues = s.queues := rfl
@[simp] theorem State.updTask_seqs (k : Nat) (f : Task → Task) : (s.updTask k f).seqs = s.seqs := rfl
@[simp] theorem State.updTask_accesses (k : Nat) (f : Task → Task) : (s.updTask k f).accesses = s.accesses := rfl
@[simp] theorem State.updTask_outReqs (k : Nat) (f : Task → Task) : (s.updTask k f).outReqs = s.outReqs := rfl
@[simp] theorem State.updTask_answers (k : Nat) (f : Task → Task) : (s.updTask k f).answers = s.answers := rfl
@[simp] theorem State.updTask_nextSerial (k : Nat) (f : Task → Task) : (s.updTask k f).nextSerial = s.nextSerial := rfl
@[simp] theorem State.updTask_engines (k : Nat) (f : Task → Task) : (s.updTask k f).engines = s.engines := rfl
@[simp] theorem State.updTask_streams (k : Nat) (f : Task → Task) : (s.updTask k f).streams = s.streams := rfl
@[simp] theorem State.updTask_groups (k : Nat) (f : Task → Task) : (s.updTask k f).groups = s.groups := rfl
@[simp] theorem State.updTask_switchedOut (k : Nat) (f : Task → Task) : (s.updTask k f).switchedOut = s.switchedOut := rfl
@[simp] theorem State.updTask_mem (k : Nat) (f : Task → Task) : (s.updTask k f).mem = s.mem := rfl
@[simp] theorem State.updTask_stale (k : Nat) (f : Task → Task) : (s.updTask k f).stale = s.stale := rfl
@[simp] theorem State.updTask_inFlight (k : Nat) (f : Task → Task) : (s.updTask k f).inFlight = s.inFlight := rfl
@[simp] theorem State.updTask_dieWrites (k : Nat) (f : Task → Task) : (s.updTask k f).dieWrites = s.dieWrites := rfl
@[simp] theorem State.updTask_homeSeq (k : Nat) (f : Task → Task) : (s.updTask k f).homeSeq = s.homeSeq := rfl
@[simp] theorem State.updTask_blocks (k : Nat) (f : Task → Task) : (s.updTask k f).blocks = s.blocks := rfl
@[simp] theorem State.updTask_kilns (k : Nat) (f : Task → Task) : (s.updTask k f).kilns = s.kilns := rfl
@[simp] theorem State.updTask_treeKey (k : Nat) (f : Task → Task) : (s.updTask k f).treeKey = s.treeKey := rfl
@[simp] theorem State.updTask_treeCounts (k : Nat) (f : Task → Task) : (s.updTask k f).treeCounts = s.treeCounts := rfl
@[simp] theorem State.updTask_treeBad (k : Nat) (f : Task → Task) : (s.updTask k f).treeBad = s.treeBad := rfl
@[simp] theorem State.updTask_contexts (k : Nat) (f : Task → Task) : (s.updTask k f).contexts = s.contexts := rfl
@[simp] theorem State.updTask_tlb (k : Nat) (f : Task → Task) : (s.updTask k f).tlb = s.tlb := rfl
@[simp] theorem State.updTask_walks (k : Nat) (f : Task → Task) : (s.updTask k f).walks = s.walks := rfl
@[simp] theorem State.updTask_tiles (k : Nat) (f : Task → Task) : (s.updTask k f).tiles = s.tiles := rfl
@[simp] theorem State.updTask_freed (k : Nat) (f : Task → Task) : (s.updTask k f).freed = s.freed := rfl
@[simp] theorem State.updTask_sram (k : Nat) (f : Task → Task) : (s.updTask k f).sram = s.sram := rfl
@[simp] theorem State.updTask_sramOwner (k : Nat) (f : Task → Task) : (s.updTask k f).sramOwner = s.sramOwner := rfl
@[simp] theorem State.updTask_sramBad (k : Nat) (f : Task → Task) : (s.updTask k f).sramBad = s.sramBad := rfl
@[simp] theorem State.updTask_pools (k : Nat) (f : Task → Task) : (s.updTask k f).pools = s.pools := rfl
@[simp] theorem State.updTask_bindings (k : Nat) (f : Task → Task) : (s.updTask k f).bindings = s.bindings := rfl
@[simp] theorem State.updTask_runs (k : Nat) (f : Task → Task) : (s.updTask k f).runs = s.runs := rfl
@[simp] theorem State.updTask_caches (k : Nat) (f : Task → Task) : (s.updTask k f).caches = s.caches := rfl
@[simp] theorem State.updTask_remap (k : Nat) (f : Task → Task) : (s.updTask k f).remap = s.remap := rfl
@[simp] theorem State.updTask_ifaces (k : Nat) (f : Task → Task) : (s.updTask k f).ifaces = s.ifaces := rfl
@[simp] theorem State.updTask_pifaces (k : Nat) (f : Task → Task) : (s.updTask k f).pifaces = s.pifaces := rfl
@[simp] theorem State.updTask_graphs (k : Nat) (f : Task → Task) : (s.updTask k f).graphs = s.graphs := rfl
@[simp] theorem State.updTask_schedSerial (k : Nat) (f : Task → Task) : (s.updTask k f).schedSerial = s.schedSerial := rfl
@[simp] theorem State.updTask_lastServed (k : Nat) (f : Task → Task) : (s.updTask k f).lastServed = s.lastServed := rfl
@[simp] theorem State.updTask_partitions (k : Nat) (f : Task → Task) : (s.updTask k f).partitions = s.partitions := rfl
@[simp] theorem State.updTask_sources (k : Nat) (f : Task → Task) : (s.updTask k f).sources = s.sources := rfl
@[simp] theorem State.updTask_log (k : Nat) (f : Task → Task) : (s.updTask k f).log = s.log := rfl
@[simp] theorem State.updTask_fwRecords (k : Nat) (f : Task → Task) : (s.updTask k f).fwRecords = s.fwRecords := rfl
@[simp] theorem State.updTask_astalls (k : Nat) (f : Task → Task) : (s.updTask k f).astalls = s.astalls := rfl
@[simp] theorem State.updTask_interrupts (k : Nat) (f : Task → Task) : (s.updTask k f).interrupts = s.interrupts := rfl
@[simp] theorem State.updTask_incs (k : Nat) (f : Task → Task) : (s.updTask k f).incs = s.incs := rfl
@[simp] theorem State.updTask_learned (k : Nat) (f : Task → Task) : (s.updTask k f).learned = s.learned := rfl
@[simp] theorem State.updTask_lateResp (k : Nat) (f : Task → Task) : (s.updTask k f).lateResp = s.lateResp := rfl
@[simp] theorem State.updTask_staleDrops (k : Nat) (f : Task → Task) : (s.updTask k f).staleDrops = s.staleDrops := rfl
@[simp] theorem State.updTask_linksDown (k : Nat) (f : Task → Task) : (s.updTask k f).linksDown = s.linksDown := rfl
@[simp] theorem State.updTask_throttled (k : Nat) (f : Task → Task) : (s.updTask k f).throttled = s.throttled := rfl
@[simp] theorem State.updTask_powerThrottle (k : Nat) (f : Task → Task) : (s.updTask k f).powerThrottle = s.powerThrottle := rfl
@[simp] theorem State.updTask_sensorsHot (k : Nat) (f : Task → Task) : (s.updTask k f).sensorsHot = s.sensorsHot := rfl
@[simp] theorem State.updTask_temps (k : Nat) (f : Task → Task) : (s.updTask k f).temps = s.temps := rfl
@[simp] theorem State.updTask_powers (k : Nat) (f : Task → Task) : (s.updTask k f).powers = s.powers := rfl
@[simp] theorem State.updTask_figures (k : Nat) (f : Task → Task) : (s.updTask k f).figures = s.figures := rfl
@[simp] theorem State.updTask_codeCopies (k : Nat) (f : Task → Task) : (s.updTask k f).codeCopies = s.codeCopies := rfl
@[simp] theorem State.updTask_package (k : Nat) (f : Task → Task) : (s.updTask k f).package = s.package := rfl
@[simp] theorem State.updTask_peers (k : Nat) (f : Task → Task) : (s.updTask k f).peers = s.peers := rfl
@[simp] theorem State.updTask_hostReply (k : Nat) (f : Task → Task) : (s.updTask k f).hostReply = s.hostReply := rfl
@[simp] theorem State.updTask_busy (k : Nat) (f : Task → Task) : (s.updTask k f).busy = s.busy := rfl
@[simp] theorem State.updTask_cxl (k : Nat) (f : Task → Task) : (s.updTask k f).cxl = s.cxl := rfl
@[simp] theorem State.updTask_hdm (k : Nat) (f : Task → Task) : (s.updTask k f).hdm = s.hdm := rfl
@[simp] theorem State.updTask_hostLines (k : Nat) (f : Task → Task) : (s.updTask k f).hostLines = s.hostLines := rfl
@[simp] theorem State.updTask_aer (k : Nat) (f : Task → Task) : (s.updTask k f).aer = s.aer := rfl
@[simp] theorem State.updTask_badFrames (k : Nat) (f : Task → Task) : (s.updTask k f).badFrames = s.badFrames := rfl
@[simp] theorem State.updTask_spdm (k : Nat) (f : Task → Task) : (s.updTask k f).spdm = s.spdm := rfl
@[simp] theorem State.updTask_numVfs (k : Nat) (f : Task → Task) : (s.updTask k f).numVfs = s.numVfs := rfl
@[simp] theorem State.updTask_aliasKey (k : Nat) (f : Task → Task) : (s.updTask k f).aliasKey = s.aliasKey := rfl
@[simp] theorem State.updTask_measures (k : Nat) (f : Task → Task) : (s.updTask k f).measures = s.measures := rfl
@[simp] theorem State.updTask_corrected (k : Nat) (f : Task → Task) : (s.updTask k f).corrected = s.corrected := rfl

/-! ### setSequencer -/

@[simp] theorem State.setSequencer_agenda (k : Nat) (v : Sequencer) : (s.setSequencer k v).agenda = s.agenda := rfl
@[simp] theorem State.setSequencer_focus (k : Nat) (v : Sequencer) : (s.setSequencer k v).focus = s.focus := rfl
@[simp] theorem State.setSequencer_cur (k : Nat) (v : Sequencer) : (s.setSequencer k v).cur = s.cur := rfl
@[simp] theorem State.setSequencer_freeCtr (k : Nat) (v : Sequencer) : (s.setSequencer k v).freeCtr = s.freeCtr := rfl
@[simp] theorem State.setSequencer_timestamp (k : Nat) (v : Sequencer) : (s.setSequencer k v).timestamp = s.timestamp := rfl
@[simp] theorem State.setSequencer_clk (k : Nat) (v : Sequencer) : (s.setSequencer k v).clk = s.clk := rfl
@[simp] theorem State.setSequencer_off (k : Nat) (v : Sequencer) : (s.setSequencer k v).off = s.off := rfl
@[simp] theorem State.setSequencer_booted (k : Nat) (v : Sequencer) : (s.setSequencer k v).booted = s.booted := rfl
@[simp] theorem State.setSequencer_trained (k : Nat) (v : Sequencer) : (s.setSequencer k v).trained = s.trained := rfl
@[simp] theorem State.setSequencer_enabled (k : Nat) (v : Sequencer) : (s.setSequencer k v).enabled = s.enabled := rfl
@[simp] theorem State.setSequencer_tasks (k : Nat) (v : Sequencer) : (s.setSequencer k v).tasks = s.tasks := rfl
@[simp] theorem State.setSequencer_queues (k : Nat) (v : Sequencer) : (s.setSequencer k v).queues = s.queues := rfl
@[simp] theorem State.setSequencer_accesses (k : Nat) (v : Sequencer) : (s.setSequencer k v).accesses = s.accesses := rfl
@[simp] theorem State.setSequencer_outReqs (k : Nat) (v : Sequencer) : (s.setSequencer k v).outReqs = s.outReqs := rfl
@[simp] theorem State.setSequencer_answers (k : Nat) (v : Sequencer) : (s.setSequencer k v).answers = s.answers := rfl
@[simp] theorem State.setSequencer_nextSerial (k : Nat) (v : Sequencer) : (s.setSequencer k v).nextSerial = s.nextSerial := rfl
@[simp] theorem State.setSequencer_engines (k : Nat) (v : Sequencer) : (s.setSequencer k v).engines = s.engines := rfl
@[simp] theorem State.setSequencer_streams (k : Nat) (v : Sequencer) : (s.setSequencer k v).streams = s.streams := rfl
@[simp] theorem State.setSequencer_groups (k : Nat) (v : Sequencer) : (s.setSequencer k v).groups = s.groups := rfl
@[simp] theorem State.setSequencer_switchedOut (k : Nat) (v : Sequencer) : (s.setSequencer k v).switchedOut = s.switchedOut := rfl
@[simp] theorem State.setSequencer_mem (k : Nat) (v : Sequencer) : (s.setSequencer k v).mem = s.mem := rfl
@[simp] theorem State.setSequencer_stale (k : Nat) (v : Sequencer) : (s.setSequencer k v).stale = s.stale := rfl
@[simp] theorem State.setSequencer_inFlight (k : Nat) (v : Sequencer) : (s.setSequencer k v).inFlight = s.inFlight := rfl
@[simp] theorem State.setSequencer_dieWrites (k : Nat) (v : Sequencer) : (s.setSequencer k v).dieWrites = s.dieWrites := rfl
@[simp] theorem State.setSequencer_homeSeq (k : Nat) (v : Sequencer) : (s.setSequencer k v).homeSeq = s.homeSeq := rfl
@[simp] theorem State.setSequencer_blocks (k : Nat) (v : Sequencer) : (s.setSequencer k v).blocks = s.blocks := rfl
@[simp] theorem State.setSequencer_kilns (k : Nat) (v : Sequencer) : (s.setSequencer k v).kilns = s.kilns := rfl
@[simp] theorem State.setSequencer_treeKey (k : Nat) (v : Sequencer) : (s.setSequencer k v).treeKey = s.treeKey := rfl
@[simp] theorem State.setSequencer_treeCounts (k : Nat) (v : Sequencer) : (s.setSequencer k v).treeCounts = s.treeCounts := rfl
@[simp] theorem State.setSequencer_treeBad (k : Nat) (v : Sequencer) : (s.setSequencer k v).treeBad = s.treeBad := rfl
@[simp] theorem State.setSequencer_contexts (k : Nat) (v : Sequencer) : (s.setSequencer k v).contexts = s.contexts := rfl
@[simp] theorem State.setSequencer_tlb (k : Nat) (v : Sequencer) : (s.setSequencer k v).tlb = s.tlb := rfl
@[simp] theorem State.setSequencer_walks (k : Nat) (v : Sequencer) : (s.setSequencer k v).walks = s.walks := rfl
@[simp] theorem State.setSequencer_tiles (k : Nat) (v : Sequencer) : (s.setSequencer k v).tiles = s.tiles := rfl
@[simp] theorem State.setSequencer_freed (k : Nat) (v : Sequencer) : (s.setSequencer k v).freed = s.freed := rfl
@[simp] theorem State.setSequencer_sram (k : Nat) (v : Sequencer) : (s.setSequencer k v).sram = s.sram := rfl
@[simp] theorem State.setSequencer_sramOwner (k : Nat) (v : Sequencer) : (s.setSequencer k v).sramOwner = s.sramOwner := rfl
@[simp] theorem State.setSequencer_sramBad (k : Nat) (v : Sequencer) : (s.setSequencer k v).sramBad = s.sramBad := rfl
@[simp] theorem State.setSequencer_pools (k : Nat) (v : Sequencer) : (s.setSequencer k v).pools = s.pools := rfl
@[simp] theorem State.setSequencer_bindings (k : Nat) (v : Sequencer) : (s.setSequencer k v).bindings = s.bindings := rfl
@[simp] theorem State.setSequencer_runs (k : Nat) (v : Sequencer) : (s.setSequencer k v).runs = s.runs := rfl
@[simp] theorem State.setSequencer_caches (k : Nat) (v : Sequencer) : (s.setSequencer k v).caches = s.caches := rfl
@[simp] theorem State.setSequencer_remap (k : Nat) (v : Sequencer) : (s.setSequencer k v).remap = s.remap := rfl
@[simp] theorem State.setSequencer_ifaces (k : Nat) (v : Sequencer) : (s.setSequencer k v).ifaces = s.ifaces := rfl
@[simp] theorem State.setSequencer_pifaces (k : Nat) (v : Sequencer) : (s.setSequencer k v).pifaces = s.pifaces := rfl
@[simp] theorem State.setSequencer_graphs (k : Nat) (v : Sequencer) : (s.setSequencer k v).graphs = s.graphs := rfl
@[simp] theorem State.setSequencer_schedSerial (k : Nat) (v : Sequencer) : (s.setSequencer k v).schedSerial = s.schedSerial := rfl
@[simp] theorem State.setSequencer_lastServed (k : Nat) (v : Sequencer) : (s.setSequencer k v).lastServed = s.lastServed := rfl
@[simp] theorem State.setSequencer_partitions (k : Nat) (v : Sequencer) : (s.setSequencer k v).partitions = s.partitions := rfl
@[simp] theorem State.setSequencer_sources (k : Nat) (v : Sequencer) : (s.setSequencer k v).sources = s.sources := rfl
@[simp] theorem State.setSequencer_log (k : Nat) (v : Sequencer) : (s.setSequencer k v).log = s.log := rfl
@[simp] theorem State.setSequencer_fwRecords (k : Nat) (v : Sequencer) : (s.setSequencer k v).fwRecords = s.fwRecords := rfl
@[simp] theorem State.setSequencer_astalls (k : Nat) (v : Sequencer) : (s.setSequencer k v).astalls = s.astalls := rfl
@[simp] theorem State.setSequencer_interrupts (k : Nat) (v : Sequencer) : (s.setSequencer k v).interrupts = s.interrupts := rfl
@[simp] theorem State.setSequencer_incs (k : Nat) (v : Sequencer) : (s.setSequencer k v).incs = s.incs := rfl
@[simp] theorem State.setSequencer_learned (k : Nat) (v : Sequencer) : (s.setSequencer k v).learned = s.learned := rfl
@[simp] theorem State.setSequencer_lateResp (k : Nat) (v : Sequencer) : (s.setSequencer k v).lateResp = s.lateResp := rfl
@[simp] theorem State.setSequencer_staleDrops (k : Nat) (v : Sequencer) : (s.setSequencer k v).staleDrops = s.staleDrops := rfl
@[simp] theorem State.setSequencer_linksDown (k : Nat) (v : Sequencer) : (s.setSequencer k v).linksDown = s.linksDown := rfl
@[simp] theorem State.setSequencer_throttled (k : Nat) (v : Sequencer) : (s.setSequencer k v).throttled = s.throttled := rfl
@[simp] theorem State.setSequencer_powerThrottle (k : Nat) (v : Sequencer) : (s.setSequencer k v).powerThrottle = s.powerThrottle := rfl
@[simp] theorem State.setSequencer_sensorsHot (k : Nat) (v : Sequencer) : (s.setSequencer k v).sensorsHot = s.sensorsHot := rfl
@[simp] theorem State.setSequencer_temps (k : Nat) (v : Sequencer) : (s.setSequencer k v).temps = s.temps := rfl
@[simp] theorem State.setSequencer_powers (k : Nat) (v : Sequencer) : (s.setSequencer k v).powers = s.powers := rfl
@[simp] theorem State.setSequencer_figures (k : Nat) (v : Sequencer) : (s.setSequencer k v).figures = s.figures := rfl
@[simp] theorem State.setSequencer_codeCopies (k : Nat) (v : Sequencer) : (s.setSequencer k v).codeCopies = s.codeCopies := rfl
@[simp] theorem State.setSequencer_package (k : Nat) (v : Sequencer) : (s.setSequencer k v).package = s.package := rfl
@[simp] theorem State.setSequencer_peers (k : Nat) (v : Sequencer) : (s.setSequencer k v).peers = s.peers := rfl
@[simp] theorem State.setSequencer_hostReply (k : Nat) (v : Sequencer) : (s.setSequencer k v).hostReply = s.hostReply := rfl
@[simp] theorem State.setSequencer_busy (k : Nat) (v : Sequencer) : (s.setSequencer k v).busy = s.busy := rfl
@[simp] theorem State.setSequencer_cxl (k : Nat) (v : Sequencer) : (s.setSequencer k v).cxl = s.cxl := rfl
@[simp] theorem State.setSequencer_hdm (k : Nat) (v : Sequencer) : (s.setSequencer k v).hdm = s.hdm := rfl
@[simp] theorem State.setSequencer_hostLines (k : Nat) (v : Sequencer) : (s.setSequencer k v).hostLines = s.hostLines := rfl
@[simp] theorem State.setSequencer_aer (k : Nat) (v : Sequencer) : (s.setSequencer k v).aer = s.aer := rfl
@[simp] theorem State.setSequencer_badFrames (k : Nat) (v : Sequencer) : (s.setSequencer k v).badFrames = s.badFrames := rfl
@[simp] theorem State.setSequencer_spdm (k : Nat) (v : Sequencer) : (s.setSequencer k v).spdm = s.spdm := rfl
@[simp] theorem State.setSequencer_numVfs (k : Nat) (v : Sequencer) : (s.setSequencer k v).numVfs = s.numVfs := rfl
@[simp] theorem State.setSequencer_aliasKey (k : Nat) (v : Sequencer) : (s.setSequencer k v).aliasKey = s.aliasKey := rfl
@[simp] theorem State.setSequencer_measures (k : Nat) (v : Sequencer) : (s.setSequencer k v).measures = s.measures := rfl
@[simp] theorem State.setSequencer_corrected (k : Nat) (v : Sequencer) : (s.setSequencer k v).corrected = s.corrected := rfl

/-! ### setQueue -/

@[simp] theorem State.setQueue_agenda (k : Nat) (v : List QEntry) : (s.setQueue k v).agenda = s.agenda := rfl
@[simp] theorem State.setQueue_focus (k : Nat) (v : List QEntry) : (s.setQueue k v).focus = s.focus := rfl
@[simp] theorem State.setQueue_cur (k : Nat) (v : List QEntry) : (s.setQueue k v).cur = s.cur := rfl
@[simp] theorem State.setQueue_freeCtr (k : Nat) (v : List QEntry) : (s.setQueue k v).freeCtr = s.freeCtr := rfl
@[simp] theorem State.setQueue_timestamp (k : Nat) (v : List QEntry) : (s.setQueue k v).timestamp = s.timestamp := rfl
@[simp] theorem State.setQueue_clk (k : Nat) (v : List QEntry) : (s.setQueue k v).clk = s.clk := rfl
@[simp] theorem State.setQueue_off (k : Nat) (v : List QEntry) : (s.setQueue k v).off = s.off := rfl
@[simp] theorem State.setQueue_booted (k : Nat) (v : List QEntry) : (s.setQueue k v).booted = s.booted := rfl
@[simp] theorem State.setQueue_trained (k : Nat) (v : List QEntry) : (s.setQueue k v).trained = s.trained := rfl
@[simp] theorem State.setQueue_enabled (k : Nat) (v : List QEntry) : (s.setQueue k v).enabled = s.enabled := rfl
@[simp] theorem State.setQueue_tasks (k : Nat) (v : List QEntry) : (s.setQueue k v).tasks = s.tasks := rfl
@[simp] theorem State.setQueue_seqs (k : Nat) (v : List QEntry) : (s.setQueue k v).seqs = s.seqs := rfl
@[simp] theorem State.setQueue_accesses (k : Nat) (v : List QEntry) : (s.setQueue k v).accesses = s.accesses := rfl
@[simp] theorem State.setQueue_outReqs (k : Nat) (v : List QEntry) : (s.setQueue k v).outReqs = s.outReqs := rfl
@[simp] theorem State.setQueue_answers (k : Nat) (v : List QEntry) : (s.setQueue k v).answers = s.answers := rfl
@[simp] theorem State.setQueue_nextSerial (k : Nat) (v : List QEntry) : (s.setQueue k v).nextSerial = s.nextSerial := rfl
@[simp] theorem State.setQueue_engines (k : Nat) (v : List QEntry) : (s.setQueue k v).engines = s.engines := rfl
@[simp] theorem State.setQueue_streams (k : Nat) (v : List QEntry) : (s.setQueue k v).streams = s.streams := rfl
@[simp] theorem State.setQueue_groups (k : Nat) (v : List QEntry) : (s.setQueue k v).groups = s.groups := rfl
@[simp] theorem State.setQueue_switchedOut (k : Nat) (v : List QEntry) : (s.setQueue k v).switchedOut = s.switchedOut := rfl
@[simp] theorem State.setQueue_mem (k : Nat) (v : List QEntry) : (s.setQueue k v).mem = s.mem := rfl
@[simp] theorem State.setQueue_stale (k : Nat) (v : List QEntry) : (s.setQueue k v).stale = s.stale := rfl
@[simp] theorem State.setQueue_inFlight (k : Nat) (v : List QEntry) : (s.setQueue k v).inFlight = s.inFlight := rfl
@[simp] theorem State.setQueue_dieWrites (k : Nat) (v : List QEntry) : (s.setQueue k v).dieWrites = s.dieWrites := rfl
@[simp] theorem State.setQueue_homeSeq (k : Nat) (v : List QEntry) : (s.setQueue k v).homeSeq = s.homeSeq := rfl
@[simp] theorem State.setQueue_blocks (k : Nat) (v : List QEntry) : (s.setQueue k v).blocks = s.blocks := rfl
@[simp] theorem State.setQueue_kilns (k : Nat) (v : List QEntry) : (s.setQueue k v).kilns = s.kilns := rfl
@[simp] theorem State.setQueue_treeKey (k : Nat) (v : List QEntry) : (s.setQueue k v).treeKey = s.treeKey := rfl
@[simp] theorem State.setQueue_treeCounts (k : Nat) (v : List QEntry) : (s.setQueue k v).treeCounts = s.treeCounts := rfl
@[simp] theorem State.setQueue_treeBad (k : Nat) (v : List QEntry) : (s.setQueue k v).treeBad = s.treeBad := rfl
@[simp] theorem State.setQueue_contexts (k : Nat) (v : List QEntry) : (s.setQueue k v).contexts = s.contexts := rfl
@[simp] theorem State.setQueue_tlb (k : Nat) (v : List QEntry) : (s.setQueue k v).tlb = s.tlb := rfl
@[simp] theorem State.setQueue_walks (k : Nat) (v : List QEntry) : (s.setQueue k v).walks = s.walks := rfl
@[simp] theorem State.setQueue_tiles (k : Nat) (v : List QEntry) : (s.setQueue k v).tiles = s.tiles := rfl
@[simp] theorem State.setQueue_freed (k : Nat) (v : List QEntry) : (s.setQueue k v).freed = s.freed := rfl
@[simp] theorem State.setQueue_sram (k : Nat) (v : List QEntry) : (s.setQueue k v).sram = s.sram := rfl
@[simp] theorem State.setQueue_sramOwner (k : Nat) (v : List QEntry) : (s.setQueue k v).sramOwner = s.sramOwner := rfl
@[simp] theorem State.setQueue_sramBad (k : Nat) (v : List QEntry) : (s.setQueue k v).sramBad = s.sramBad := rfl
@[simp] theorem State.setQueue_pools (k : Nat) (v : List QEntry) : (s.setQueue k v).pools = s.pools := rfl
@[simp] theorem State.setQueue_bindings (k : Nat) (v : List QEntry) : (s.setQueue k v).bindings = s.bindings := rfl
@[simp] theorem State.setQueue_runs (k : Nat) (v : List QEntry) : (s.setQueue k v).runs = s.runs := rfl
@[simp] theorem State.setQueue_caches (k : Nat) (v : List QEntry) : (s.setQueue k v).caches = s.caches := rfl
@[simp] theorem State.setQueue_remap (k : Nat) (v : List QEntry) : (s.setQueue k v).remap = s.remap := rfl
@[simp] theorem State.setQueue_ifaces (k : Nat) (v : List QEntry) : (s.setQueue k v).ifaces = s.ifaces := rfl
@[simp] theorem State.setQueue_pifaces (k : Nat) (v : List QEntry) : (s.setQueue k v).pifaces = s.pifaces := rfl
@[simp] theorem State.setQueue_graphs (k : Nat) (v : List QEntry) : (s.setQueue k v).graphs = s.graphs := rfl
@[simp] theorem State.setQueue_schedSerial (k : Nat) (v : List QEntry) : (s.setQueue k v).schedSerial = s.schedSerial := rfl
@[simp] theorem State.setQueue_lastServed (k : Nat) (v : List QEntry) : (s.setQueue k v).lastServed = s.lastServed := rfl
@[simp] theorem State.setQueue_partitions (k : Nat) (v : List QEntry) : (s.setQueue k v).partitions = s.partitions := rfl
@[simp] theorem State.setQueue_sources (k : Nat) (v : List QEntry) : (s.setQueue k v).sources = s.sources := rfl
@[simp] theorem State.setQueue_log (k : Nat) (v : List QEntry) : (s.setQueue k v).log = s.log := rfl
@[simp] theorem State.setQueue_fwRecords (k : Nat) (v : List QEntry) : (s.setQueue k v).fwRecords = s.fwRecords := rfl
@[simp] theorem State.setQueue_astalls (k : Nat) (v : List QEntry) : (s.setQueue k v).astalls = s.astalls := rfl
@[simp] theorem State.setQueue_interrupts (k : Nat) (v : List QEntry) : (s.setQueue k v).interrupts = s.interrupts := rfl
@[simp] theorem State.setQueue_incs (k : Nat) (v : List QEntry) : (s.setQueue k v).incs = s.incs := rfl
@[simp] theorem State.setQueue_learned (k : Nat) (v : List QEntry) : (s.setQueue k v).learned = s.learned := rfl
@[simp] theorem State.setQueue_lateResp (k : Nat) (v : List QEntry) : (s.setQueue k v).lateResp = s.lateResp := rfl
@[simp] theorem State.setQueue_staleDrops (k : Nat) (v : List QEntry) : (s.setQueue k v).staleDrops = s.staleDrops := rfl
@[simp] theorem State.setQueue_linksDown (k : Nat) (v : List QEntry) : (s.setQueue k v).linksDown = s.linksDown := rfl
@[simp] theorem State.setQueue_throttled (k : Nat) (v : List QEntry) : (s.setQueue k v).throttled = s.throttled := rfl
@[simp] theorem State.setQueue_powerThrottle (k : Nat) (v : List QEntry) : (s.setQueue k v).powerThrottle = s.powerThrottle := rfl
@[simp] theorem State.setQueue_sensorsHot (k : Nat) (v : List QEntry) : (s.setQueue k v).sensorsHot = s.sensorsHot := rfl
@[simp] theorem State.setQueue_temps (k : Nat) (v : List QEntry) : (s.setQueue k v).temps = s.temps := rfl
@[simp] theorem State.setQueue_powers (k : Nat) (v : List QEntry) : (s.setQueue k v).powers = s.powers := rfl
@[simp] theorem State.setQueue_figures (k : Nat) (v : List QEntry) : (s.setQueue k v).figures = s.figures := rfl
@[simp] theorem State.setQueue_codeCopies (k : Nat) (v : List QEntry) : (s.setQueue k v).codeCopies = s.codeCopies := rfl
@[simp] theorem State.setQueue_package (k : Nat) (v : List QEntry) : (s.setQueue k v).package = s.package := rfl
@[simp] theorem State.setQueue_peers (k : Nat) (v : List QEntry) : (s.setQueue k v).peers = s.peers := rfl
@[simp] theorem State.setQueue_hostReply (k : Nat) (v : List QEntry) : (s.setQueue k v).hostReply = s.hostReply := rfl
@[simp] theorem State.setQueue_busy (k : Nat) (v : List QEntry) : (s.setQueue k v).busy = s.busy := rfl
@[simp] theorem State.setQueue_cxl (k : Nat) (v : List QEntry) : (s.setQueue k v).cxl = s.cxl := rfl
@[simp] theorem State.setQueue_hdm (k : Nat) (v : List QEntry) : (s.setQueue k v).hdm = s.hdm := rfl
@[simp] theorem State.setQueue_hostLines (k : Nat) (v : List QEntry) : (s.setQueue k v).hostLines = s.hostLines := rfl
@[simp] theorem State.setQueue_aer (k : Nat) (v : List QEntry) : (s.setQueue k v).aer = s.aer := rfl
@[simp] theorem State.setQueue_badFrames (k : Nat) (v : List QEntry) : (s.setQueue k v).badFrames = s.badFrames := rfl
@[simp] theorem State.setQueue_spdm (k : Nat) (v : List QEntry) : (s.setQueue k v).spdm = s.spdm := rfl
@[simp] theorem State.setQueue_numVfs (k : Nat) (v : List QEntry) : (s.setQueue k v).numVfs = s.numVfs := rfl
@[simp] theorem State.setQueue_aliasKey (k : Nat) (v : List QEntry) : (s.setQueue k v).aliasKey = s.aliasKey := rfl
@[simp] theorem State.setQueue_measures (k : Nat) (v : List QEntry) : (s.setQueue k v).measures = s.measures := rfl
@[simp] theorem State.setQueue_corrected (k : Nat) (v : List QEntry) : (s.setQueue k v).corrected = s.corrected := rfl

/-! ### setPart -/

@[simp] theorem State.setPart_agenda (k : Nat) (v : Partition) : (s.setPart k v).agenda = s.agenda := rfl
@[simp] theorem State.setPart_focus (k : Nat) (v : Partition) : (s.setPart k v).focus = s.focus := rfl
@[simp] theorem State.setPart_cur (k : Nat) (v : Partition) : (s.setPart k v).cur = s.cur := rfl
@[simp] theorem State.setPart_freeCtr (k : Nat) (v : Partition) : (s.setPart k v).freeCtr = s.freeCtr := rfl
@[simp] theorem State.setPart_timestamp (k : Nat) (v : Partition) : (s.setPart k v).timestamp = s.timestamp := rfl
@[simp] theorem State.setPart_clk (k : Nat) (v : Partition) : (s.setPart k v).clk = s.clk := rfl
@[simp] theorem State.setPart_off (k : Nat) (v : Partition) : (s.setPart k v).off = s.off := rfl
@[simp] theorem State.setPart_booted (k : Nat) (v : Partition) : (s.setPart k v).booted = s.booted := rfl
@[simp] theorem State.setPart_trained (k : Nat) (v : Partition) : (s.setPart k v).trained = s.trained := rfl
@[simp] theorem State.setPart_enabled (k : Nat) (v : Partition) : (s.setPart k v).enabled = s.enabled := rfl
@[simp] theorem State.setPart_tasks (k : Nat) (v : Partition) : (s.setPart k v).tasks = s.tasks := rfl
@[simp] theorem State.setPart_queues (k : Nat) (v : Partition) : (s.setPart k v).queues = s.queues := rfl
@[simp] theorem State.setPart_seqs (k : Nat) (v : Partition) : (s.setPart k v).seqs = s.seqs := rfl
@[simp] theorem State.setPart_accesses (k : Nat) (v : Partition) : (s.setPart k v).accesses = s.accesses := rfl
@[simp] theorem State.setPart_outReqs (k : Nat) (v : Partition) : (s.setPart k v).outReqs = s.outReqs := rfl
@[simp] theorem State.setPart_answers (k : Nat) (v : Partition) : (s.setPart k v).answers = s.answers := rfl
@[simp] theorem State.setPart_nextSerial (k : Nat) (v : Partition) : (s.setPart k v).nextSerial = s.nextSerial := rfl
@[simp] theorem State.setPart_engines (k : Nat) (v : Partition) : (s.setPart k v).engines = s.engines := rfl
@[simp] theorem State.setPart_streams (k : Nat) (v : Partition) : (s.setPart k v).streams = s.streams := rfl
@[simp] theorem State.setPart_groups (k : Nat) (v : Partition) : (s.setPart k v).groups = s.groups := rfl
@[simp] theorem State.setPart_switchedOut (k : Nat) (v : Partition) : (s.setPart k v).switchedOut = s.switchedOut := rfl
@[simp] theorem State.setPart_mem (k : Nat) (v : Partition) : (s.setPart k v).mem = s.mem := rfl
@[simp] theorem State.setPart_stale (k : Nat) (v : Partition) : (s.setPart k v).stale = s.stale := rfl
@[simp] theorem State.setPart_inFlight (k : Nat) (v : Partition) : (s.setPart k v).inFlight = s.inFlight := rfl
@[simp] theorem State.setPart_dieWrites (k : Nat) (v : Partition) : (s.setPart k v).dieWrites = s.dieWrites := rfl
@[simp] theorem State.setPart_homeSeq (k : Nat) (v : Partition) : (s.setPart k v).homeSeq = s.homeSeq := rfl
@[simp] theorem State.setPart_blocks (k : Nat) (v : Partition) : (s.setPart k v).blocks = s.blocks := rfl
@[simp] theorem State.setPart_kilns (k : Nat) (v : Partition) : (s.setPart k v).kilns = s.kilns := rfl
@[simp] theorem State.setPart_treeKey (k : Nat) (v : Partition) : (s.setPart k v).treeKey = s.treeKey := rfl
@[simp] theorem State.setPart_treeCounts (k : Nat) (v : Partition) : (s.setPart k v).treeCounts = s.treeCounts := rfl
@[simp] theorem State.setPart_treeBad (k : Nat) (v : Partition) : (s.setPart k v).treeBad = s.treeBad := rfl
@[simp] theorem State.setPart_contexts (k : Nat) (v : Partition) : (s.setPart k v).contexts = s.contexts := rfl
@[simp] theorem State.setPart_tlb (k : Nat) (v : Partition) : (s.setPart k v).tlb = s.tlb := rfl
@[simp] theorem State.setPart_walks (k : Nat) (v : Partition) : (s.setPart k v).walks = s.walks := rfl
@[simp] theorem State.setPart_tiles (k : Nat) (v : Partition) : (s.setPart k v).tiles = s.tiles := rfl
@[simp] theorem State.setPart_freed (k : Nat) (v : Partition) : (s.setPart k v).freed = s.freed := rfl
@[simp] theorem State.setPart_sram (k : Nat) (v : Partition) : (s.setPart k v).sram = s.sram := rfl
@[simp] theorem State.setPart_sramOwner (k : Nat) (v : Partition) : (s.setPart k v).sramOwner = s.sramOwner := rfl
@[simp] theorem State.setPart_sramBad (k : Nat) (v : Partition) : (s.setPart k v).sramBad = s.sramBad := rfl
@[simp] theorem State.setPart_pools (k : Nat) (v : Partition) : (s.setPart k v).pools = s.pools := rfl
@[simp] theorem State.setPart_bindings (k : Nat) (v : Partition) : (s.setPart k v).bindings = s.bindings := rfl
@[simp] theorem State.setPart_runs (k : Nat) (v : Partition) : (s.setPart k v).runs = s.runs := rfl
@[simp] theorem State.setPart_caches (k : Nat) (v : Partition) : (s.setPart k v).caches = s.caches := rfl
@[simp] theorem State.setPart_remap (k : Nat) (v : Partition) : (s.setPart k v).remap = s.remap := rfl
@[simp] theorem State.setPart_ifaces (k : Nat) (v : Partition) : (s.setPart k v).ifaces = s.ifaces := rfl
@[simp] theorem State.setPart_pifaces (k : Nat) (v : Partition) : (s.setPart k v).pifaces = s.pifaces := rfl
@[simp] theorem State.setPart_graphs (k : Nat) (v : Partition) : (s.setPart k v).graphs = s.graphs := rfl
@[simp] theorem State.setPart_schedSerial (k : Nat) (v : Partition) : (s.setPart k v).schedSerial = s.schedSerial := rfl
@[simp] theorem State.setPart_lastServed (k : Nat) (v : Partition) : (s.setPart k v).lastServed = s.lastServed := rfl
@[simp] theorem State.setPart_sources (k : Nat) (v : Partition) : (s.setPart k v).sources = s.sources := rfl
@[simp] theorem State.setPart_log (k : Nat) (v : Partition) : (s.setPart k v).log = s.log := rfl
@[simp] theorem State.setPart_fwRecords (k : Nat) (v : Partition) : (s.setPart k v).fwRecords = s.fwRecords := rfl
@[simp] theorem State.setPart_astalls (k : Nat) (v : Partition) : (s.setPart k v).astalls = s.astalls := rfl
@[simp] theorem State.setPart_interrupts (k : Nat) (v : Partition) : (s.setPart k v).interrupts = s.interrupts := rfl
@[simp] theorem State.setPart_incs (k : Nat) (v : Partition) : (s.setPart k v).incs = s.incs := rfl
@[simp] theorem State.setPart_learned (k : Nat) (v : Partition) : (s.setPart k v).learned = s.learned := rfl
@[simp] theorem State.setPart_lateResp (k : Nat) (v : Partition) : (s.setPart k v).lateResp = s.lateResp := rfl
@[simp] theorem State.setPart_staleDrops (k : Nat) (v : Partition) : (s.setPart k v).staleDrops = s.staleDrops := rfl
@[simp] theorem State.setPart_linksDown (k : Nat) (v : Partition) : (s.setPart k v).linksDown = s.linksDown := rfl
@[simp] theorem State.setPart_throttled (k : Nat) (v : Partition) : (s.setPart k v).throttled = s.throttled := rfl
@[simp] theorem State.setPart_powerThrottle (k : Nat) (v : Partition) : (s.setPart k v).powerThrottle = s.powerThrottle := rfl
@[simp] theorem State.setPart_sensorsHot (k : Nat) (v : Partition) : (s.setPart k v).sensorsHot = s.sensorsHot := rfl
@[simp] theorem State.setPart_temps (k : Nat) (v : Partition) : (s.setPart k v).temps = s.temps := rfl
@[simp] theorem State.setPart_powers (k : Nat) (v : Partition) : (s.setPart k v).powers = s.powers := rfl
@[simp] theorem State.setPart_figures (k : Nat) (v : Partition) : (s.setPart k v).figures = s.figures := rfl
@[simp] theorem State.setPart_codeCopies (k : Nat) (v : Partition) : (s.setPart k v).codeCopies = s.codeCopies := rfl
@[simp] theorem State.setPart_package (k : Nat) (v : Partition) : (s.setPart k v).package = s.package := rfl
@[simp] theorem State.setPart_peers (k : Nat) (v : Partition) : (s.setPart k v).peers = s.peers := rfl
@[simp] theorem State.setPart_hostReply (k : Nat) (v : Partition) : (s.setPart k v).hostReply = s.hostReply := rfl
@[simp] theorem State.setPart_busy (k : Nat) (v : Partition) : (s.setPart k v).busy = s.busy := rfl
@[simp] theorem State.setPart_cxl (k : Nat) (v : Partition) : (s.setPart k v).cxl = s.cxl := rfl
@[simp] theorem State.setPart_hdm (k : Nat) (v : Partition) : (s.setPart k v).hdm = s.hdm := rfl
@[simp] theorem State.setPart_hostLines (k : Nat) (v : Partition) : (s.setPart k v).hostLines = s.hostLines := rfl
@[simp] theorem State.setPart_aer (k : Nat) (v : Partition) : (s.setPart k v).aer = s.aer := rfl
@[simp] theorem State.setPart_badFrames (k : Nat) (v : Partition) : (s.setPart k v).badFrames = s.badFrames := rfl
@[simp] theorem State.setPart_spdm (k : Nat) (v : Partition) : (s.setPart k v).spdm = s.spdm := rfl
@[simp] theorem State.setPart_numVfs (k : Nat) (v : Partition) : (s.setPart k v).numVfs = s.numVfs := rfl
@[simp] theorem State.setPart_aliasKey (k : Nat) (v : Partition) : (s.setPart k v).aliasKey = s.aliasKey := rfl
@[simp] theorem State.setPart_measures (k : Nat) (v : Partition) : (s.setPart k v).measures = s.measures := rfl
@[simp] theorem State.setPart_corrected (k : Nat) (v : Partition) : (s.setPart k v).corrected = s.corrected := rfl

/-! ### setPool -/

@[simp] theorem State.setPool_agenda (d k : Nat) (v : Pool) : (s.setPool d k v).agenda = s.agenda := rfl
@[simp] theorem State.setPool_focus (d k : Nat) (v : Pool) : (s.setPool d k v).focus = s.focus := rfl
@[simp] theorem State.setPool_cur (d k : Nat) (v : Pool) : (s.setPool d k v).cur = s.cur := rfl
@[simp] theorem State.setPool_freeCtr (d k : Nat) (v : Pool) : (s.setPool d k v).freeCtr = s.freeCtr := rfl
@[simp] theorem State.setPool_timestamp (d k : Nat) (v : Pool) : (s.setPool d k v).timestamp = s.timestamp := rfl
@[simp] theorem State.setPool_clk (d k : Nat) (v : Pool) : (s.setPool d k v).clk = s.clk := rfl
@[simp] theorem State.setPool_off (d k : Nat) (v : Pool) : (s.setPool d k v).off = s.off := rfl
@[simp] theorem State.setPool_booted (d k : Nat) (v : Pool) : (s.setPool d k v).booted = s.booted := rfl
@[simp] theorem State.setPool_trained (d k : Nat) (v : Pool) : (s.setPool d k v).trained = s.trained := rfl
@[simp] theorem State.setPool_enabled (d k : Nat) (v : Pool) : (s.setPool d k v).enabled = s.enabled := rfl
@[simp] theorem State.setPool_tasks (d k : Nat) (v : Pool) : (s.setPool d k v).tasks = s.tasks := rfl
@[simp] theorem State.setPool_queues (d k : Nat) (v : Pool) : (s.setPool d k v).queues = s.queues := rfl
@[simp] theorem State.setPool_seqs (d k : Nat) (v : Pool) : (s.setPool d k v).seqs = s.seqs := rfl
@[simp] theorem State.setPool_accesses (d k : Nat) (v : Pool) : (s.setPool d k v).accesses = s.accesses := rfl
@[simp] theorem State.setPool_outReqs (d k : Nat) (v : Pool) : (s.setPool d k v).outReqs = s.outReqs := rfl
@[simp] theorem State.setPool_answers (d k : Nat) (v : Pool) : (s.setPool d k v).answers = s.answers := rfl
@[simp] theorem State.setPool_nextSerial (d k : Nat) (v : Pool) : (s.setPool d k v).nextSerial = s.nextSerial := rfl
@[simp] theorem State.setPool_engines (d k : Nat) (v : Pool) : (s.setPool d k v).engines = s.engines := rfl
@[simp] theorem State.setPool_streams (d k : Nat) (v : Pool) : (s.setPool d k v).streams = s.streams := rfl
@[simp] theorem State.setPool_groups (d k : Nat) (v : Pool) : (s.setPool d k v).groups = s.groups := rfl
@[simp] theorem State.setPool_switchedOut (d k : Nat) (v : Pool) : (s.setPool d k v).switchedOut = s.switchedOut := rfl
@[simp] theorem State.setPool_mem (d k : Nat) (v : Pool) : (s.setPool d k v).mem = s.mem := rfl
@[simp] theorem State.setPool_stale (d k : Nat) (v : Pool) : (s.setPool d k v).stale = s.stale := rfl
@[simp] theorem State.setPool_inFlight (d k : Nat) (v : Pool) : (s.setPool d k v).inFlight = s.inFlight := rfl
@[simp] theorem State.setPool_dieWrites (d k : Nat) (v : Pool) : (s.setPool d k v).dieWrites = s.dieWrites := rfl
@[simp] theorem State.setPool_homeSeq (d k : Nat) (v : Pool) : (s.setPool d k v).homeSeq = s.homeSeq := rfl
@[simp] theorem State.setPool_blocks (d k : Nat) (v : Pool) : (s.setPool d k v).blocks = s.blocks := rfl
@[simp] theorem State.setPool_kilns (d k : Nat) (v : Pool) : (s.setPool d k v).kilns = s.kilns := rfl
@[simp] theorem State.setPool_treeKey (d k : Nat) (v : Pool) : (s.setPool d k v).treeKey = s.treeKey := rfl
@[simp] theorem State.setPool_treeCounts (d k : Nat) (v : Pool) : (s.setPool d k v).treeCounts = s.treeCounts := rfl
@[simp] theorem State.setPool_treeBad (d k : Nat) (v : Pool) : (s.setPool d k v).treeBad = s.treeBad := rfl
@[simp] theorem State.setPool_contexts (d k : Nat) (v : Pool) : (s.setPool d k v).contexts = s.contexts := rfl
@[simp] theorem State.setPool_tlb (d k : Nat) (v : Pool) : (s.setPool d k v).tlb = s.tlb := rfl
@[simp] theorem State.setPool_walks (d k : Nat) (v : Pool) : (s.setPool d k v).walks = s.walks := rfl
@[simp] theorem State.setPool_tiles (d k : Nat) (v : Pool) : (s.setPool d k v).tiles = s.tiles := rfl
@[simp] theorem State.setPool_freed (d k : Nat) (v : Pool) : (s.setPool d k v).freed = s.freed := rfl
@[simp] theorem State.setPool_sram (d k : Nat) (v : Pool) : (s.setPool d k v).sram = s.sram := rfl
@[simp] theorem State.setPool_sramOwner (d k : Nat) (v : Pool) : (s.setPool d k v).sramOwner = s.sramOwner := rfl
@[simp] theorem State.setPool_sramBad (d k : Nat) (v : Pool) : (s.setPool d k v).sramBad = s.sramBad := rfl
@[simp] theorem State.setPool_bindings (d k : Nat) (v : Pool) : (s.setPool d k v).bindings = s.bindings := rfl
@[simp] theorem State.setPool_runs (d k : Nat) (v : Pool) : (s.setPool d k v).runs = s.runs := rfl
@[simp] theorem State.setPool_caches (d k : Nat) (v : Pool) : (s.setPool d k v).caches = s.caches := rfl
@[simp] theorem State.setPool_remap (d k : Nat) (v : Pool) : (s.setPool d k v).remap = s.remap := rfl
@[simp] theorem State.setPool_ifaces (d k : Nat) (v : Pool) : (s.setPool d k v).ifaces = s.ifaces := rfl
@[simp] theorem State.setPool_pifaces (d k : Nat) (v : Pool) : (s.setPool d k v).pifaces = s.pifaces := rfl
@[simp] theorem State.setPool_graphs (d k : Nat) (v : Pool) : (s.setPool d k v).graphs = s.graphs := rfl
@[simp] theorem State.setPool_schedSerial (d k : Nat) (v : Pool) : (s.setPool d k v).schedSerial = s.schedSerial := rfl
@[simp] theorem State.setPool_lastServed (d k : Nat) (v : Pool) : (s.setPool d k v).lastServed = s.lastServed := rfl
@[simp] theorem State.setPool_partitions (d k : Nat) (v : Pool) : (s.setPool d k v).partitions = s.partitions := rfl
@[simp] theorem State.setPool_sources (d k : Nat) (v : Pool) : (s.setPool d k v).sources = s.sources := rfl
@[simp] theorem State.setPool_log (d k : Nat) (v : Pool) : (s.setPool d k v).log = s.log := rfl
@[simp] theorem State.setPool_fwRecords (d k : Nat) (v : Pool) : (s.setPool d k v).fwRecords = s.fwRecords := rfl
@[simp] theorem State.setPool_astalls (d k : Nat) (v : Pool) : (s.setPool d k v).astalls = s.astalls := rfl
@[simp] theorem State.setPool_interrupts (d k : Nat) (v : Pool) : (s.setPool d k v).interrupts = s.interrupts := rfl
@[simp] theorem State.setPool_incs (d k : Nat) (v : Pool) : (s.setPool d k v).incs = s.incs := rfl
@[simp] theorem State.setPool_learned (d k : Nat) (v : Pool) : (s.setPool d k v).learned = s.learned := rfl
@[simp] theorem State.setPool_lateResp (d k : Nat) (v : Pool) : (s.setPool d k v).lateResp = s.lateResp := rfl
@[simp] theorem State.setPool_staleDrops (d k : Nat) (v : Pool) : (s.setPool d k v).staleDrops = s.staleDrops := rfl
@[simp] theorem State.setPool_linksDown (d k : Nat) (v : Pool) : (s.setPool d k v).linksDown = s.linksDown := rfl
@[simp] theorem State.setPool_throttled (d k : Nat) (v : Pool) : (s.setPool d k v).throttled = s.throttled := rfl
@[simp] theorem State.setPool_powerThrottle (d k : Nat) (v : Pool) : (s.setPool d k v).powerThrottle = s.powerThrottle := rfl
@[simp] theorem State.setPool_sensorsHot (d k : Nat) (v : Pool) : (s.setPool d k v).sensorsHot = s.sensorsHot := rfl
@[simp] theorem State.setPool_temps (d k : Nat) (v : Pool) : (s.setPool d k v).temps = s.temps := rfl
@[simp] theorem State.setPool_powers (d k : Nat) (v : Pool) : (s.setPool d k v).powers = s.powers := rfl
@[simp] theorem State.setPool_figures (d k : Nat) (v : Pool) : (s.setPool d k v).figures = s.figures := rfl
@[simp] theorem State.setPool_codeCopies (d k : Nat) (v : Pool) : (s.setPool d k v).codeCopies = s.codeCopies := rfl
@[simp] theorem State.setPool_package (d k : Nat) (v : Pool) : (s.setPool d k v).package = s.package := rfl
@[simp] theorem State.setPool_peers (d k : Nat) (v : Pool) : (s.setPool d k v).peers = s.peers := rfl
@[simp] theorem State.setPool_hostReply (d k : Nat) (v : Pool) : (s.setPool d k v).hostReply = s.hostReply := rfl
@[simp] theorem State.setPool_busy (d k : Nat) (v : Pool) : (s.setPool d k v).busy = s.busy := rfl
@[simp] theorem State.setPool_cxl (d k : Nat) (v : Pool) : (s.setPool d k v).cxl = s.cxl := rfl
@[simp] theorem State.setPool_hdm (d k : Nat) (v : Pool) : (s.setPool d k v).hdm = s.hdm := rfl
@[simp] theorem State.setPool_hostLines (d k : Nat) (v : Pool) : (s.setPool d k v).hostLines = s.hostLines := rfl
@[simp] theorem State.setPool_aer (d k : Nat) (v : Pool) : (s.setPool d k v).aer = s.aer := rfl
@[simp] theorem State.setPool_badFrames (d k : Nat) (v : Pool) : (s.setPool d k v).badFrames = s.badFrames := rfl
@[simp] theorem State.setPool_spdm (d k : Nat) (v : Pool) : (s.setPool d k v).spdm = s.spdm := rfl
@[simp] theorem State.setPool_numVfs (d k : Nat) (v : Pool) : (s.setPool d k v).numVfs = s.numVfs := rfl
@[simp] theorem State.setPool_aliasKey (d k : Nat) (v : Pool) : (s.setPool d k v).aliasKey = s.aliasKey := rfl
@[simp] theorem State.setPool_measures (d k : Nat) (v : Pool) : (s.setPool d k v).measures = s.measures := rfl
@[simp] theorem State.setPool_corrected (d k : Nat) (v : Pool) : (s.setPool d k v).corrected = s.corrected := rfl

/-! ### updRun -/

@[simp] theorem State.updRun_agenda (k : Nat) (f : Run → Run) : (s.updRun k f).agenda = s.agenda := rfl
@[simp] theorem State.updRun_focus (k : Nat) (f : Run → Run) : (s.updRun k f).focus = s.focus := rfl
@[simp] theorem State.updRun_cur (k : Nat) (f : Run → Run) : (s.updRun k f).cur = s.cur := rfl
@[simp] theorem State.updRun_freeCtr (k : Nat) (f : Run → Run) : (s.updRun k f).freeCtr = s.freeCtr := rfl
@[simp] theorem State.updRun_timestamp (k : Nat) (f : Run → Run) : (s.updRun k f).timestamp = s.timestamp := rfl
@[simp] theorem State.updRun_clk (k : Nat) (f : Run → Run) : (s.updRun k f).clk = s.clk := rfl
@[simp] theorem State.updRun_off (k : Nat) (f : Run → Run) : (s.updRun k f).off = s.off := rfl
@[simp] theorem State.updRun_booted (k : Nat) (f : Run → Run) : (s.updRun k f).booted = s.booted := rfl
@[simp] theorem State.updRun_trained (k : Nat) (f : Run → Run) : (s.updRun k f).trained = s.trained := rfl
@[simp] theorem State.updRun_enabled (k : Nat) (f : Run → Run) : (s.updRun k f).enabled = s.enabled := rfl
@[simp] theorem State.updRun_tasks (k : Nat) (f : Run → Run) : (s.updRun k f).tasks = s.tasks := rfl
@[simp] theorem State.updRun_queues (k : Nat) (f : Run → Run) : (s.updRun k f).queues = s.queues := rfl
@[simp] theorem State.updRun_seqs (k : Nat) (f : Run → Run) : (s.updRun k f).seqs = s.seqs := rfl
@[simp] theorem State.updRun_accesses (k : Nat) (f : Run → Run) : (s.updRun k f).accesses = s.accesses := rfl
@[simp] theorem State.updRun_outReqs (k : Nat) (f : Run → Run) : (s.updRun k f).outReqs = s.outReqs := rfl
@[simp] theorem State.updRun_answers (k : Nat) (f : Run → Run) : (s.updRun k f).answers = s.answers := rfl
@[simp] theorem State.updRun_nextSerial (k : Nat) (f : Run → Run) : (s.updRun k f).nextSerial = s.nextSerial := rfl
@[simp] theorem State.updRun_engines (k : Nat) (f : Run → Run) : (s.updRun k f).engines = s.engines := rfl
@[simp] theorem State.updRun_streams (k : Nat) (f : Run → Run) : (s.updRun k f).streams = s.streams := rfl
@[simp] theorem State.updRun_groups (k : Nat) (f : Run → Run) : (s.updRun k f).groups = s.groups := rfl
@[simp] theorem State.updRun_switchedOut (k : Nat) (f : Run → Run) : (s.updRun k f).switchedOut = s.switchedOut := rfl
@[simp] theorem State.updRun_mem (k : Nat) (f : Run → Run) : (s.updRun k f).mem = s.mem := rfl
@[simp] theorem State.updRun_stale (k : Nat) (f : Run → Run) : (s.updRun k f).stale = s.stale := rfl
@[simp] theorem State.updRun_inFlight (k : Nat) (f : Run → Run) : (s.updRun k f).inFlight = s.inFlight := rfl
@[simp] theorem State.updRun_dieWrites (k : Nat) (f : Run → Run) : (s.updRun k f).dieWrites = s.dieWrites := rfl
@[simp] theorem State.updRun_homeSeq (k : Nat) (f : Run → Run) : (s.updRun k f).homeSeq = s.homeSeq := rfl
@[simp] theorem State.updRun_blocks (k : Nat) (f : Run → Run) : (s.updRun k f).blocks = s.blocks := rfl
@[simp] theorem State.updRun_kilns (k : Nat) (f : Run → Run) : (s.updRun k f).kilns = s.kilns := rfl
@[simp] theorem State.updRun_treeKey (k : Nat) (f : Run → Run) : (s.updRun k f).treeKey = s.treeKey := rfl
@[simp] theorem State.updRun_treeCounts (k : Nat) (f : Run → Run) : (s.updRun k f).treeCounts = s.treeCounts := rfl
@[simp] theorem State.updRun_treeBad (k : Nat) (f : Run → Run) : (s.updRun k f).treeBad = s.treeBad := rfl
@[simp] theorem State.updRun_contexts (k : Nat) (f : Run → Run) : (s.updRun k f).contexts = s.contexts := rfl
@[simp] theorem State.updRun_tlb (k : Nat) (f : Run → Run) : (s.updRun k f).tlb = s.tlb := rfl
@[simp] theorem State.updRun_walks (k : Nat) (f : Run → Run) : (s.updRun k f).walks = s.walks := rfl
@[simp] theorem State.updRun_tiles (k : Nat) (f : Run → Run) : (s.updRun k f).tiles = s.tiles := rfl
@[simp] theorem State.updRun_freed (k : Nat) (f : Run → Run) : (s.updRun k f).freed = s.freed := rfl
@[simp] theorem State.updRun_sram (k : Nat) (f : Run → Run) : (s.updRun k f).sram = s.sram := rfl
@[simp] theorem State.updRun_sramOwner (k : Nat) (f : Run → Run) : (s.updRun k f).sramOwner = s.sramOwner := rfl
@[simp] theorem State.updRun_sramBad (k : Nat) (f : Run → Run) : (s.updRun k f).sramBad = s.sramBad := rfl
@[simp] theorem State.updRun_pools (k : Nat) (f : Run → Run) : (s.updRun k f).pools = s.pools := rfl
@[simp] theorem State.updRun_bindings (k : Nat) (f : Run → Run) : (s.updRun k f).bindings = s.bindings := rfl
@[simp] theorem State.updRun_caches (k : Nat) (f : Run → Run) : (s.updRun k f).caches = s.caches := rfl
@[simp] theorem State.updRun_remap (k : Nat) (f : Run → Run) : (s.updRun k f).remap = s.remap := rfl
@[simp] theorem State.updRun_ifaces (k : Nat) (f : Run → Run) : (s.updRun k f).ifaces = s.ifaces := rfl
@[simp] theorem State.updRun_pifaces (k : Nat) (f : Run → Run) : (s.updRun k f).pifaces = s.pifaces := rfl
@[simp] theorem State.updRun_graphs (k : Nat) (f : Run → Run) : (s.updRun k f).graphs = s.graphs := rfl
@[simp] theorem State.updRun_schedSerial (k : Nat) (f : Run → Run) : (s.updRun k f).schedSerial = s.schedSerial := rfl
@[simp] theorem State.updRun_lastServed (k : Nat) (f : Run → Run) : (s.updRun k f).lastServed = s.lastServed := rfl
@[simp] theorem State.updRun_partitions (k : Nat) (f : Run → Run) : (s.updRun k f).partitions = s.partitions := rfl
@[simp] theorem State.updRun_sources (k : Nat) (f : Run → Run) : (s.updRun k f).sources = s.sources := rfl
@[simp] theorem State.updRun_log (k : Nat) (f : Run → Run) : (s.updRun k f).log = s.log := rfl
@[simp] theorem State.updRun_fwRecords (k : Nat) (f : Run → Run) : (s.updRun k f).fwRecords = s.fwRecords := rfl
@[simp] theorem State.updRun_astalls (k : Nat) (f : Run → Run) : (s.updRun k f).astalls = s.astalls := rfl
@[simp] theorem State.updRun_interrupts (k : Nat) (f : Run → Run) : (s.updRun k f).interrupts = s.interrupts := rfl
@[simp] theorem State.updRun_incs (k : Nat) (f : Run → Run) : (s.updRun k f).incs = s.incs := rfl
@[simp] theorem State.updRun_learned (k : Nat) (f : Run → Run) : (s.updRun k f).learned = s.learned := rfl
@[simp] theorem State.updRun_lateResp (k : Nat) (f : Run → Run) : (s.updRun k f).lateResp = s.lateResp := rfl
@[simp] theorem State.updRun_staleDrops (k : Nat) (f : Run → Run) : (s.updRun k f).staleDrops = s.staleDrops := rfl
@[simp] theorem State.updRun_linksDown (k : Nat) (f : Run → Run) : (s.updRun k f).linksDown = s.linksDown := rfl
@[simp] theorem State.updRun_throttled (k : Nat) (f : Run → Run) : (s.updRun k f).throttled = s.throttled := rfl
@[simp] theorem State.updRun_powerThrottle (k : Nat) (f : Run → Run) : (s.updRun k f).powerThrottle = s.powerThrottle := rfl
@[simp] theorem State.updRun_sensorsHot (k : Nat) (f : Run → Run) : (s.updRun k f).sensorsHot = s.sensorsHot := rfl
@[simp] theorem State.updRun_temps (k : Nat) (f : Run → Run) : (s.updRun k f).temps = s.temps := rfl
@[simp] theorem State.updRun_powers (k : Nat) (f : Run → Run) : (s.updRun k f).powers = s.powers := rfl
@[simp] theorem State.updRun_figures (k : Nat) (f : Run → Run) : (s.updRun k f).figures = s.figures := rfl
@[simp] theorem State.updRun_codeCopies (k : Nat) (f : Run → Run) : (s.updRun k f).codeCopies = s.codeCopies := rfl
@[simp] theorem State.updRun_package (k : Nat) (f : Run → Run) : (s.updRun k f).package = s.package := rfl
@[simp] theorem State.updRun_peers (k : Nat) (f : Run → Run) : (s.updRun k f).peers = s.peers := rfl
@[simp] theorem State.updRun_hostReply (k : Nat) (f : Run → Run) : (s.updRun k f).hostReply = s.hostReply := rfl
@[simp] theorem State.updRun_busy (k : Nat) (f : Run → Run) : (s.updRun k f).busy = s.busy := rfl
@[simp] theorem State.updRun_cxl (k : Nat) (f : Run → Run) : (s.updRun k f).cxl = s.cxl := rfl
@[simp] theorem State.updRun_hdm (k : Nat) (f : Run → Run) : (s.updRun k f).hdm = s.hdm := rfl
@[simp] theorem State.updRun_hostLines (k : Nat) (f : Run → Run) : (s.updRun k f).hostLines = s.hostLines := rfl
@[simp] theorem State.updRun_aer (k : Nat) (f : Run → Run) : (s.updRun k f).aer = s.aer := rfl
@[simp] theorem State.updRun_badFrames (k : Nat) (f : Run → Run) : (s.updRun k f).badFrames = s.badFrames := rfl
@[simp] theorem State.updRun_spdm (k : Nat) (f : Run → Run) : (s.updRun k f).spdm = s.spdm := rfl
@[simp] theorem State.updRun_numVfs (k : Nat) (f : Run → Run) : (s.updRun k f).numVfs = s.numVfs := rfl
@[simp] theorem State.updRun_aliasKey (k : Nat) (f : Run → Run) : (s.updRun k f).aliasKey = s.aliasKey := rfl
@[simp] theorem State.updRun_measures (k : Nat) (f : Run → Run) : (s.updRun k f).measures = s.measures := rfl
@[simp] theorem State.updRun_corrected (k : Nat) (f : Run → Run) : (s.updRun k f).corrected = s.corrected := rfl

/-! ### updGraph -/

@[simp] theorem State.updGraph_agenda (k : Nat) (f : Graph → Graph) : (s.updGraph k f).agenda = s.agenda := rfl
@[simp] theorem State.updGraph_focus (k : Nat) (f : Graph → Graph) : (s.updGraph k f).focus = s.focus := rfl
@[simp] theorem State.updGraph_cur (k : Nat) (f : Graph → Graph) : (s.updGraph k f).cur = s.cur := rfl
@[simp] theorem State.updGraph_freeCtr (k : Nat) (f : Graph → Graph) : (s.updGraph k f).freeCtr = s.freeCtr := rfl
@[simp] theorem State.updGraph_timestamp (k : Nat) (f : Graph → Graph) : (s.updGraph k f).timestamp = s.timestamp := rfl
@[simp] theorem State.updGraph_clk (k : Nat) (f : Graph → Graph) : (s.updGraph k f).clk = s.clk := rfl
@[simp] theorem State.updGraph_off (k : Nat) (f : Graph → Graph) : (s.updGraph k f).off = s.off := rfl
@[simp] theorem State.updGraph_booted (k : Nat) (f : Graph → Graph) : (s.updGraph k f).booted = s.booted := rfl
@[simp] theorem State.updGraph_trained (k : Nat) (f : Graph → Graph) : (s.updGraph k f).trained = s.trained := rfl
@[simp] theorem State.updGraph_enabled (k : Nat) (f : Graph → Graph) : (s.updGraph k f).enabled = s.enabled := rfl
@[simp] theorem State.updGraph_tasks (k : Nat) (f : Graph → Graph) : (s.updGraph k f).tasks = s.tasks := rfl
@[simp] theorem State.updGraph_queues (k : Nat) (f : Graph → Graph) : (s.updGraph k f).queues = s.queues := rfl
@[simp] theorem State.updGraph_seqs (k : Nat) (f : Graph → Graph) : (s.updGraph k f).seqs = s.seqs := rfl
@[simp] theorem State.updGraph_accesses (k : Nat) (f : Graph → Graph) : (s.updGraph k f).accesses = s.accesses := rfl
@[simp] theorem State.updGraph_outReqs (k : Nat) (f : Graph → Graph) : (s.updGraph k f).outReqs = s.outReqs := rfl
@[simp] theorem State.updGraph_answers (k : Nat) (f : Graph → Graph) : (s.updGraph k f).answers = s.answers := rfl
@[simp] theorem State.updGraph_nextSerial (k : Nat) (f : Graph → Graph) : (s.updGraph k f).nextSerial = s.nextSerial := rfl
@[simp] theorem State.updGraph_engines (k : Nat) (f : Graph → Graph) : (s.updGraph k f).engines = s.engines := rfl
@[simp] theorem State.updGraph_streams (k : Nat) (f : Graph → Graph) : (s.updGraph k f).streams = s.streams := rfl
@[simp] theorem State.updGraph_groups (k : Nat) (f : Graph → Graph) : (s.updGraph k f).groups = s.groups := rfl
@[simp] theorem State.updGraph_switchedOut (k : Nat) (f : Graph → Graph) : (s.updGraph k f).switchedOut = s.switchedOut := rfl
@[simp] theorem State.updGraph_mem (k : Nat) (f : Graph → Graph) : (s.updGraph k f).mem = s.mem := rfl
@[simp] theorem State.updGraph_stale (k : Nat) (f : Graph → Graph) : (s.updGraph k f).stale = s.stale := rfl
@[simp] theorem State.updGraph_inFlight (k : Nat) (f : Graph → Graph) : (s.updGraph k f).inFlight = s.inFlight := rfl
@[simp] theorem State.updGraph_dieWrites (k : Nat) (f : Graph → Graph) : (s.updGraph k f).dieWrites = s.dieWrites := rfl
@[simp] theorem State.updGraph_homeSeq (k : Nat) (f : Graph → Graph) : (s.updGraph k f).homeSeq = s.homeSeq := rfl
@[simp] theorem State.updGraph_blocks (k : Nat) (f : Graph → Graph) : (s.updGraph k f).blocks = s.blocks := rfl
@[simp] theorem State.updGraph_kilns (k : Nat) (f : Graph → Graph) : (s.updGraph k f).kilns = s.kilns := rfl
@[simp] theorem State.updGraph_treeKey (k : Nat) (f : Graph → Graph) : (s.updGraph k f).treeKey = s.treeKey := rfl
@[simp] theorem State.updGraph_treeCounts (k : Nat) (f : Graph → Graph) : (s.updGraph k f).treeCounts = s.treeCounts := rfl
@[simp] theorem State.updGraph_treeBad (k : Nat) (f : Graph → Graph) : (s.updGraph k f).treeBad = s.treeBad := rfl
@[simp] theorem State.updGraph_contexts (k : Nat) (f : Graph → Graph) : (s.updGraph k f).contexts = s.contexts := rfl
@[simp] theorem State.updGraph_tlb (k : Nat) (f : Graph → Graph) : (s.updGraph k f).tlb = s.tlb := rfl
@[simp] theorem State.updGraph_walks (k : Nat) (f : Graph → Graph) : (s.updGraph k f).walks = s.walks := rfl
@[simp] theorem State.updGraph_tiles (k : Nat) (f : Graph → Graph) : (s.updGraph k f).tiles = s.tiles := rfl
@[simp] theorem State.updGraph_freed (k : Nat) (f : Graph → Graph) : (s.updGraph k f).freed = s.freed := rfl
@[simp] theorem State.updGraph_sram (k : Nat) (f : Graph → Graph) : (s.updGraph k f).sram = s.sram := rfl
@[simp] theorem State.updGraph_sramOwner (k : Nat) (f : Graph → Graph) : (s.updGraph k f).sramOwner = s.sramOwner := rfl
@[simp] theorem State.updGraph_sramBad (k : Nat) (f : Graph → Graph) : (s.updGraph k f).sramBad = s.sramBad := rfl
@[simp] theorem State.updGraph_pools (k : Nat) (f : Graph → Graph) : (s.updGraph k f).pools = s.pools := rfl
@[simp] theorem State.updGraph_bindings (k : Nat) (f : Graph → Graph) : (s.updGraph k f).bindings = s.bindings := rfl
@[simp] theorem State.updGraph_runs (k : Nat) (f : Graph → Graph) : (s.updGraph k f).runs = s.runs := rfl
@[simp] theorem State.updGraph_caches (k : Nat) (f : Graph → Graph) : (s.updGraph k f).caches = s.caches := rfl
@[simp] theorem State.updGraph_remap (k : Nat) (f : Graph → Graph) : (s.updGraph k f).remap = s.remap := rfl
@[simp] theorem State.updGraph_ifaces (k : Nat) (f : Graph → Graph) : (s.updGraph k f).ifaces = s.ifaces := rfl
@[simp] theorem State.updGraph_pifaces (k : Nat) (f : Graph → Graph) : (s.updGraph k f).pifaces = s.pifaces := rfl
@[simp] theorem State.updGraph_schedSerial (k : Nat) (f : Graph → Graph) : (s.updGraph k f).schedSerial = s.schedSerial := rfl
@[simp] theorem State.updGraph_lastServed (k : Nat) (f : Graph → Graph) : (s.updGraph k f).lastServed = s.lastServed := rfl
@[simp] theorem State.updGraph_partitions (k : Nat) (f : Graph → Graph) : (s.updGraph k f).partitions = s.partitions := rfl
@[simp] theorem State.updGraph_sources (k : Nat) (f : Graph → Graph) : (s.updGraph k f).sources = s.sources := rfl
@[simp] theorem State.updGraph_log (k : Nat) (f : Graph → Graph) : (s.updGraph k f).log = s.log := rfl
@[simp] theorem State.updGraph_fwRecords (k : Nat) (f : Graph → Graph) : (s.updGraph k f).fwRecords = s.fwRecords := rfl
@[simp] theorem State.updGraph_astalls (k : Nat) (f : Graph → Graph) : (s.updGraph k f).astalls = s.astalls := rfl
@[simp] theorem State.updGraph_interrupts (k : Nat) (f : Graph → Graph) : (s.updGraph k f).interrupts = s.interrupts := rfl
@[simp] theorem State.updGraph_incs (k : Nat) (f : Graph → Graph) : (s.updGraph k f).incs = s.incs := rfl
@[simp] theorem State.updGraph_learned (k : Nat) (f : Graph → Graph) : (s.updGraph k f).learned = s.learned := rfl
@[simp] theorem State.updGraph_lateResp (k : Nat) (f : Graph → Graph) : (s.updGraph k f).lateResp = s.lateResp := rfl
@[simp] theorem State.updGraph_staleDrops (k : Nat) (f : Graph → Graph) : (s.updGraph k f).staleDrops = s.staleDrops := rfl
@[simp] theorem State.updGraph_linksDown (k : Nat) (f : Graph → Graph) : (s.updGraph k f).linksDown = s.linksDown := rfl
@[simp] theorem State.updGraph_throttled (k : Nat) (f : Graph → Graph) : (s.updGraph k f).throttled = s.throttled := rfl
@[simp] theorem State.updGraph_powerThrottle (k : Nat) (f : Graph → Graph) : (s.updGraph k f).powerThrottle = s.powerThrottle := rfl
@[simp] theorem State.updGraph_sensorsHot (k : Nat) (f : Graph → Graph) : (s.updGraph k f).sensorsHot = s.sensorsHot := rfl
@[simp] theorem State.updGraph_temps (k : Nat) (f : Graph → Graph) : (s.updGraph k f).temps = s.temps := rfl
@[simp] theorem State.updGraph_powers (k : Nat) (f : Graph → Graph) : (s.updGraph k f).powers = s.powers := rfl
@[simp] theorem State.updGraph_figures (k : Nat) (f : Graph → Graph) : (s.updGraph k f).figures = s.figures := rfl
@[simp] theorem State.updGraph_codeCopies (k : Nat) (f : Graph → Graph) : (s.updGraph k f).codeCopies = s.codeCopies := rfl
@[simp] theorem State.updGraph_package (k : Nat) (f : Graph → Graph) : (s.updGraph k f).package = s.package := rfl
@[simp] theorem State.updGraph_peers (k : Nat) (f : Graph → Graph) : (s.updGraph k f).peers = s.peers := rfl
@[simp] theorem State.updGraph_hostReply (k : Nat) (f : Graph → Graph) : (s.updGraph k f).hostReply = s.hostReply := rfl
@[simp] theorem State.updGraph_busy (k : Nat) (f : Graph → Graph) : (s.updGraph k f).busy = s.busy := rfl
@[simp] theorem State.updGraph_cxl (k : Nat) (f : Graph → Graph) : (s.updGraph k f).cxl = s.cxl := rfl
@[simp] theorem State.updGraph_hdm (k : Nat) (f : Graph → Graph) : (s.updGraph k f).hdm = s.hdm := rfl
@[simp] theorem State.updGraph_hostLines (k : Nat) (f : Graph → Graph) : (s.updGraph k f).hostLines = s.hostLines := rfl
@[simp] theorem State.updGraph_aer (k : Nat) (f : Graph → Graph) : (s.updGraph k f).aer = s.aer := rfl
@[simp] theorem State.updGraph_badFrames (k : Nat) (f : Graph → Graph) : (s.updGraph k f).badFrames = s.badFrames := rfl
@[simp] theorem State.updGraph_spdm (k : Nat) (f : Graph → Graph) : (s.updGraph k f).spdm = s.spdm := rfl
@[simp] theorem State.updGraph_numVfs (k : Nat) (f : Graph → Graph) : (s.updGraph k f).numVfs = s.numVfs := rfl
@[simp] theorem State.updGraph_aliasKey (k : Nat) (f : Graph → Graph) : (s.updGraph k f).aliasKey = s.aliasKey := rfl
@[simp] theorem State.updGraph_measures (k : Nat) (f : Graph → Graph) : (s.updGraph k f).measures = s.measures := rfl
@[simp] theorem State.updGraph_corrected (k : Nat) (f : Graph → Graph) : (s.updGraph k f).corrected = s.corrected := rfl

/-! ### updEngine -/

@[simp] theorem State.updEngine_agenda (k : Nat) (f : EngOp → EngOp) : (s.updEngine k f).agenda = s.agenda := rfl
@[simp] theorem State.updEngine_focus (k : Nat) (f : EngOp → EngOp) : (s.updEngine k f).focus = s.focus := rfl
@[simp] theorem State.updEngine_cur (k : Nat) (f : EngOp → EngOp) : (s.updEngine k f).cur = s.cur := rfl
@[simp] theorem State.updEngine_freeCtr (k : Nat) (f : EngOp → EngOp) : (s.updEngine k f).freeCtr = s.freeCtr := rfl
@[simp] theorem State.updEngine_timestamp (k : Nat) (f : EngOp → EngOp) : (s.updEngine k f).timestamp = s.timestamp := rfl
@[simp] theorem State.updEngine_clk (k : Nat) (f : EngOp → EngOp) : (s.updEngine k f).clk = s.clk := rfl
@[simp] theorem State.updEngine_off (k : Nat) (f : EngOp → EngOp) : (s.updEngine k f).off = s.off := rfl
@[simp] theorem State.updEngine_booted (k : Nat) (f : EngOp → EngOp) : (s.updEngine k f).booted = s.booted := rfl
@[simp] theorem State.updEngine_trained (k : Nat) (f : EngOp → EngOp) : (s.updEngine k f).trained = s.trained := rfl
@[simp] theorem State.updEngine_enabled (k : Nat) (f : EngOp → EngOp) : (s.updEngine k f).enabled = s.enabled := rfl
@[simp] theorem State.updEngine_tasks (k : Nat) (f : EngOp → EngOp) : (s.updEngine k f).tasks = s.tasks := rfl
@[simp] theorem State.updEngine_queues (k : Nat) (f : EngOp → EngOp) : (s.updEngine k f).queues = s.queues := rfl
@[simp] theorem State.updEngine_seqs (k : Nat) (f : EngOp → EngOp) : (s.updEngine k f).seqs = s.seqs := rfl
@[simp] theorem State.updEngine_accesses (k : Nat) (f : EngOp → EngOp) : (s.updEngine k f).accesses = s.accesses := rfl
@[simp] theorem State.updEngine_outReqs (k : Nat) (f : EngOp → EngOp) : (s.updEngine k f).outReqs = s.outReqs := rfl
@[simp] theorem State.updEngine_answers (k : Nat) (f : EngOp → EngOp) : (s.updEngine k f).answers = s.answers := rfl
@[simp] theorem State.updEngine_nextSerial (k : Nat) (f : EngOp → EngOp) : (s.updEngine k f).nextSerial = s.nextSerial := rfl
@[simp] theorem State.updEngine_streams (k : Nat) (f : EngOp → EngOp) : (s.updEngine k f).streams = s.streams := rfl
@[simp] theorem State.updEngine_groups (k : Nat) (f : EngOp → EngOp) : (s.updEngine k f).groups = s.groups := rfl
@[simp] theorem State.updEngine_switchedOut (k : Nat) (f : EngOp → EngOp) : (s.updEngine k f).switchedOut = s.switchedOut := rfl
@[simp] theorem State.updEngine_mem (k : Nat) (f : EngOp → EngOp) : (s.updEngine k f).mem = s.mem := rfl
@[simp] theorem State.updEngine_stale (k : Nat) (f : EngOp → EngOp) : (s.updEngine k f).stale = s.stale := rfl
@[simp] theorem State.updEngine_inFlight (k : Nat) (f : EngOp → EngOp) : (s.updEngine k f).inFlight = s.inFlight := rfl
@[simp] theorem State.updEngine_dieWrites (k : Nat) (f : EngOp → EngOp) : (s.updEngine k f).dieWrites = s.dieWrites := rfl
@[simp] theorem State.updEngine_homeSeq (k : Nat) (f : EngOp → EngOp) : (s.updEngine k f).homeSeq = s.homeSeq := rfl
@[simp] theorem State.updEngine_blocks (k : Nat) (f : EngOp → EngOp) : (s.updEngine k f).blocks = s.blocks := rfl
@[simp] theorem State.updEngine_kilns (k : Nat) (f : EngOp → EngOp) : (s.updEngine k f).kilns = s.kilns := rfl
@[simp] theorem State.updEngine_treeKey (k : Nat) (f : EngOp → EngOp) : (s.updEngine k f).treeKey = s.treeKey := rfl
@[simp] theorem State.updEngine_treeCounts (k : Nat) (f : EngOp → EngOp) : (s.updEngine k f).treeCounts = s.treeCounts := rfl
@[simp] theorem State.updEngine_treeBad (k : Nat) (f : EngOp → EngOp) : (s.updEngine k f).treeBad = s.treeBad := rfl
@[simp] theorem State.updEngine_contexts (k : Nat) (f : EngOp → EngOp) : (s.updEngine k f).contexts = s.contexts := rfl
@[simp] theorem State.updEngine_tlb (k : Nat) (f : EngOp → EngOp) : (s.updEngine k f).tlb = s.tlb := rfl
@[simp] theorem State.updEngine_walks (k : Nat) (f : EngOp → EngOp) : (s.updEngine k f).walks = s.walks := rfl
@[simp] theorem State.updEngine_tiles (k : Nat) (f : EngOp → EngOp) : (s.updEngine k f).tiles = s.tiles := rfl
@[simp] theorem State.updEngine_freed (k : Nat) (f : EngOp → EngOp) : (s.updEngine k f).freed = s.freed := rfl
@[simp] theorem State.updEngine_sram (k : Nat) (f : EngOp → EngOp) : (s.updEngine k f).sram = s.sram := rfl
@[simp] theorem State.updEngine_sramOwner (k : Nat) (f : EngOp → EngOp) : (s.updEngine k f).sramOwner = s.sramOwner := rfl
@[simp] theorem State.updEngine_sramBad (k : Nat) (f : EngOp → EngOp) : (s.updEngine k f).sramBad = s.sramBad := rfl
@[simp] theorem State.updEngine_pools (k : Nat) (f : EngOp → EngOp) : (s.updEngine k f).pools = s.pools := rfl
@[simp] theorem State.updEngine_bindings (k : Nat) (f : EngOp → EngOp) : (s.updEngine k f).bindings = s.bindings := rfl
@[simp] theorem State.updEngine_runs (k : Nat) (f : EngOp → EngOp) : (s.updEngine k f).runs = s.runs := rfl
@[simp] theorem State.updEngine_caches (k : Nat) (f : EngOp → EngOp) : (s.updEngine k f).caches = s.caches := rfl
@[simp] theorem State.updEngine_remap (k : Nat) (f : EngOp → EngOp) : (s.updEngine k f).remap = s.remap := rfl
@[simp] theorem State.updEngine_ifaces (k : Nat) (f : EngOp → EngOp) : (s.updEngine k f).ifaces = s.ifaces := rfl
@[simp] theorem State.updEngine_pifaces (k : Nat) (f : EngOp → EngOp) : (s.updEngine k f).pifaces = s.pifaces := rfl
@[simp] theorem State.updEngine_graphs (k : Nat) (f : EngOp → EngOp) : (s.updEngine k f).graphs = s.graphs := rfl
@[simp] theorem State.updEngine_schedSerial (k : Nat) (f : EngOp → EngOp) : (s.updEngine k f).schedSerial = s.schedSerial := rfl
@[simp] theorem State.updEngine_lastServed (k : Nat) (f : EngOp → EngOp) : (s.updEngine k f).lastServed = s.lastServed := rfl
@[simp] theorem State.updEngine_partitions (k : Nat) (f : EngOp → EngOp) : (s.updEngine k f).partitions = s.partitions := rfl
@[simp] theorem State.updEngine_sources (k : Nat) (f : EngOp → EngOp) : (s.updEngine k f).sources = s.sources := rfl
@[simp] theorem State.updEngine_log (k : Nat) (f : EngOp → EngOp) : (s.updEngine k f).log = s.log := rfl
@[simp] theorem State.updEngine_fwRecords (k : Nat) (f : EngOp → EngOp) : (s.updEngine k f).fwRecords = s.fwRecords := rfl
@[simp] theorem State.updEngine_astalls (k : Nat) (f : EngOp → EngOp) : (s.updEngine k f).astalls = s.astalls := rfl
@[simp] theorem State.updEngine_interrupts (k : Nat) (f : EngOp → EngOp) : (s.updEngine k f).interrupts = s.interrupts := rfl
@[simp] theorem State.updEngine_incs (k : Nat) (f : EngOp → EngOp) : (s.updEngine k f).incs = s.incs := rfl
@[simp] theorem State.updEngine_learned (k : Nat) (f : EngOp → EngOp) : (s.updEngine k f).learned = s.learned := rfl
@[simp] theorem State.updEngine_lateResp (k : Nat) (f : EngOp → EngOp) : (s.updEngine k f).lateResp = s.lateResp := rfl
@[simp] theorem State.updEngine_staleDrops (k : Nat) (f : EngOp → EngOp) : (s.updEngine k f).staleDrops = s.staleDrops := rfl
@[simp] theorem State.updEngine_linksDown (k : Nat) (f : EngOp → EngOp) : (s.updEngine k f).linksDown = s.linksDown := rfl
@[simp] theorem State.updEngine_throttled (k : Nat) (f : EngOp → EngOp) : (s.updEngine k f).throttled = s.throttled := rfl
@[simp] theorem State.updEngine_powerThrottle (k : Nat) (f : EngOp → EngOp) : (s.updEngine k f).powerThrottle = s.powerThrottle := rfl
@[simp] theorem State.updEngine_sensorsHot (k : Nat) (f : EngOp → EngOp) : (s.updEngine k f).sensorsHot = s.sensorsHot := rfl
@[simp] theorem State.updEngine_temps (k : Nat) (f : EngOp → EngOp) : (s.updEngine k f).temps = s.temps := rfl
@[simp] theorem State.updEngine_powers (k : Nat) (f : EngOp → EngOp) : (s.updEngine k f).powers = s.powers := rfl
@[simp] theorem State.updEngine_figures (k : Nat) (f : EngOp → EngOp) : (s.updEngine k f).figures = s.figures := rfl
@[simp] theorem State.updEngine_codeCopies (k : Nat) (f : EngOp → EngOp) : (s.updEngine k f).codeCopies = s.codeCopies := rfl
@[simp] theorem State.updEngine_package (k : Nat) (f : EngOp → EngOp) : (s.updEngine k f).package = s.package := rfl
@[simp] theorem State.updEngine_peers (k : Nat) (f : EngOp → EngOp) : (s.updEngine k f).peers = s.peers := rfl
@[simp] theorem State.updEngine_hostReply (k : Nat) (f : EngOp → EngOp) : (s.updEngine k f).hostReply = s.hostReply := rfl
@[simp] theorem State.updEngine_busy (k : Nat) (f : EngOp → EngOp) : (s.updEngine k f).busy = s.busy := rfl
@[simp] theorem State.updEngine_cxl (k : Nat) (f : EngOp → EngOp) : (s.updEngine k f).cxl = s.cxl := rfl
@[simp] theorem State.updEngine_hdm (k : Nat) (f : EngOp → EngOp) : (s.updEngine k f).hdm = s.hdm := rfl
@[simp] theorem State.updEngine_hostLines (k : Nat) (f : EngOp → EngOp) : (s.updEngine k f).hostLines = s.hostLines := rfl
@[simp] theorem State.updEngine_aer (k : Nat) (f : EngOp → EngOp) : (s.updEngine k f).aer = s.aer := rfl
@[simp] theorem State.updEngine_badFrames (k : Nat) (f : EngOp → EngOp) : (s.updEngine k f).badFrames = s.badFrames := rfl
@[simp] theorem State.updEngine_spdm (k : Nat) (f : EngOp → EngOp) : (s.updEngine k f).spdm = s.spdm := rfl
@[simp] theorem State.updEngine_numVfs (k : Nat) (f : EngOp → EngOp) : (s.updEngine k f).numVfs = s.numVfs := rfl
@[simp] theorem State.updEngine_aliasKey (k : Nat) (f : EngOp → EngOp) : (s.updEngine k f).aliasKey = s.aliasKey := rfl
@[simp] theorem State.updEngine_measures (k : Nat) (f : EngOp → EngOp) : (s.updEngine k f).measures = s.measures := rfl
@[simp] theorem State.updEngine_corrected (k : Nat) (f : EngOp → EngOp) : (s.updEngine k f).corrected = s.corrected := rfl

/-! ### dropEngine -/

@[simp] theorem State.dropEngine_agenda (k : Nat) : (s.dropEngine k).agenda = s.agenda := rfl
@[simp] theorem State.dropEngine_focus (k : Nat) : (s.dropEngine k).focus = s.focus := rfl
@[simp] theorem State.dropEngine_cur (k : Nat) : (s.dropEngine k).cur = s.cur := rfl
@[simp] theorem State.dropEngine_freeCtr (k : Nat) : (s.dropEngine k).freeCtr = s.freeCtr := rfl
@[simp] theorem State.dropEngine_timestamp (k : Nat) : (s.dropEngine k).timestamp = s.timestamp := rfl
@[simp] theorem State.dropEngine_clk (k : Nat) : (s.dropEngine k).clk = s.clk := rfl
@[simp] theorem State.dropEngine_off (k : Nat) : (s.dropEngine k).off = s.off := rfl
@[simp] theorem State.dropEngine_booted (k : Nat) : (s.dropEngine k).booted = s.booted := rfl
@[simp] theorem State.dropEngine_trained (k : Nat) : (s.dropEngine k).trained = s.trained := rfl
@[simp] theorem State.dropEngine_enabled (k : Nat) : (s.dropEngine k).enabled = s.enabled := rfl
@[simp] theorem State.dropEngine_tasks (k : Nat) : (s.dropEngine k).tasks = s.tasks := rfl
@[simp] theorem State.dropEngine_queues (k : Nat) : (s.dropEngine k).queues = s.queues := rfl
@[simp] theorem State.dropEngine_seqs (k : Nat) : (s.dropEngine k).seqs = s.seqs := rfl
@[simp] theorem State.dropEngine_accesses (k : Nat) : (s.dropEngine k).accesses = s.accesses := rfl
@[simp] theorem State.dropEngine_outReqs (k : Nat) : (s.dropEngine k).outReqs = s.outReqs := rfl
@[simp] theorem State.dropEngine_answers (k : Nat) : (s.dropEngine k).answers = s.answers := rfl
@[simp] theorem State.dropEngine_nextSerial (k : Nat) : (s.dropEngine k).nextSerial = s.nextSerial := rfl
@[simp] theorem State.dropEngine_streams (k : Nat) : (s.dropEngine k).streams = s.streams := rfl
@[simp] theorem State.dropEngine_groups (k : Nat) : (s.dropEngine k).groups = s.groups := rfl
@[simp] theorem State.dropEngine_switchedOut (k : Nat) : (s.dropEngine k).switchedOut = s.switchedOut := rfl
@[simp] theorem State.dropEngine_mem (k : Nat) : (s.dropEngine k).mem = s.mem := rfl
@[simp] theorem State.dropEngine_stale (k : Nat) : (s.dropEngine k).stale = s.stale := rfl
@[simp] theorem State.dropEngine_inFlight (k : Nat) : (s.dropEngine k).inFlight = s.inFlight := rfl
@[simp] theorem State.dropEngine_dieWrites (k : Nat) : (s.dropEngine k).dieWrites = s.dieWrites := rfl
@[simp] theorem State.dropEngine_homeSeq (k : Nat) : (s.dropEngine k).homeSeq = s.homeSeq := rfl
@[simp] theorem State.dropEngine_blocks (k : Nat) : (s.dropEngine k).blocks = s.blocks := rfl
@[simp] theorem State.dropEngine_kilns (k : Nat) : (s.dropEngine k).kilns = s.kilns := rfl
@[simp] theorem State.dropEngine_treeKey (k : Nat) : (s.dropEngine k).treeKey = s.treeKey := rfl
@[simp] theorem State.dropEngine_treeCounts (k : Nat) : (s.dropEngine k).treeCounts = s.treeCounts := rfl
@[simp] theorem State.dropEngine_treeBad (k : Nat) : (s.dropEngine k).treeBad = s.treeBad := rfl
@[simp] theorem State.dropEngine_contexts (k : Nat) : (s.dropEngine k).contexts = s.contexts := rfl
@[simp] theorem State.dropEngine_tlb (k : Nat) : (s.dropEngine k).tlb = s.tlb := rfl
@[simp] theorem State.dropEngine_walks (k : Nat) : (s.dropEngine k).walks = s.walks := rfl
@[simp] theorem State.dropEngine_tiles (k : Nat) : (s.dropEngine k).tiles = s.tiles := rfl
@[simp] theorem State.dropEngine_freed (k : Nat) : (s.dropEngine k).freed = s.freed := rfl
@[simp] theorem State.dropEngine_sram (k : Nat) : (s.dropEngine k).sram = s.sram := rfl
@[simp] theorem State.dropEngine_sramOwner (k : Nat) : (s.dropEngine k).sramOwner = s.sramOwner := rfl
@[simp] theorem State.dropEngine_sramBad (k : Nat) : (s.dropEngine k).sramBad = s.sramBad := rfl
@[simp] theorem State.dropEngine_pools (k : Nat) : (s.dropEngine k).pools = s.pools := rfl
@[simp] theorem State.dropEngine_bindings (k : Nat) : (s.dropEngine k).bindings = s.bindings := rfl
@[simp] theorem State.dropEngine_runs (k : Nat) : (s.dropEngine k).runs = s.runs := rfl
@[simp] theorem State.dropEngine_caches (k : Nat) : (s.dropEngine k).caches = s.caches := rfl
@[simp] theorem State.dropEngine_remap (k : Nat) : (s.dropEngine k).remap = s.remap := rfl
@[simp] theorem State.dropEngine_ifaces (k : Nat) : (s.dropEngine k).ifaces = s.ifaces := rfl
@[simp] theorem State.dropEngine_pifaces (k : Nat) : (s.dropEngine k).pifaces = s.pifaces := rfl
@[simp] theorem State.dropEngine_graphs (k : Nat) : (s.dropEngine k).graphs = s.graphs := rfl
@[simp] theorem State.dropEngine_schedSerial (k : Nat) : (s.dropEngine k).schedSerial = s.schedSerial := rfl
@[simp] theorem State.dropEngine_lastServed (k : Nat) : (s.dropEngine k).lastServed = s.lastServed := rfl
@[simp] theorem State.dropEngine_partitions (k : Nat) : (s.dropEngine k).partitions = s.partitions := rfl
@[simp] theorem State.dropEngine_sources (k : Nat) : (s.dropEngine k).sources = s.sources := rfl
@[simp] theorem State.dropEngine_log (k : Nat) : (s.dropEngine k).log = s.log := rfl
@[simp] theorem State.dropEngine_fwRecords (k : Nat) : (s.dropEngine k).fwRecords = s.fwRecords := rfl
@[simp] theorem State.dropEngine_astalls (k : Nat) : (s.dropEngine k).astalls = s.astalls := rfl
@[simp] theorem State.dropEngine_interrupts (k : Nat) : (s.dropEngine k).interrupts = s.interrupts := rfl
@[simp] theorem State.dropEngine_incs (k : Nat) : (s.dropEngine k).incs = s.incs := rfl
@[simp] theorem State.dropEngine_learned (k : Nat) : (s.dropEngine k).learned = s.learned := rfl
@[simp] theorem State.dropEngine_lateResp (k : Nat) : (s.dropEngine k).lateResp = s.lateResp := rfl
@[simp] theorem State.dropEngine_staleDrops (k : Nat) : (s.dropEngine k).staleDrops = s.staleDrops := rfl
@[simp] theorem State.dropEngine_linksDown (k : Nat) : (s.dropEngine k).linksDown = s.linksDown := rfl
@[simp] theorem State.dropEngine_throttled (k : Nat) : (s.dropEngine k).throttled = s.throttled := rfl
@[simp] theorem State.dropEngine_powerThrottle (k : Nat) : (s.dropEngine k).powerThrottle = s.powerThrottle := rfl
@[simp] theorem State.dropEngine_sensorsHot (k : Nat) : (s.dropEngine k).sensorsHot = s.sensorsHot := rfl
@[simp] theorem State.dropEngine_temps (k : Nat) : (s.dropEngine k).temps = s.temps := rfl
@[simp] theorem State.dropEngine_powers (k : Nat) : (s.dropEngine k).powers = s.powers := rfl
@[simp] theorem State.dropEngine_figures (k : Nat) : (s.dropEngine k).figures = s.figures := rfl
@[simp] theorem State.dropEngine_codeCopies (k : Nat) : (s.dropEngine k).codeCopies = s.codeCopies := rfl
@[simp] theorem State.dropEngine_package (k : Nat) : (s.dropEngine k).package = s.package := rfl
@[simp] theorem State.dropEngine_peers (k : Nat) : (s.dropEngine k).peers = s.peers := rfl
@[simp] theorem State.dropEngine_hostReply (k : Nat) : (s.dropEngine k).hostReply = s.hostReply := rfl
@[simp] theorem State.dropEngine_busy (k : Nat) : (s.dropEngine k).busy = s.busy := rfl
@[simp] theorem State.dropEngine_cxl (k : Nat) : (s.dropEngine k).cxl = s.cxl := rfl
@[simp] theorem State.dropEngine_hdm (k : Nat) : (s.dropEngine k).hdm = s.hdm := rfl
@[simp] theorem State.dropEngine_hostLines (k : Nat) : (s.dropEngine k).hostLines = s.hostLines := rfl
@[simp] theorem State.dropEngine_aer (k : Nat) : (s.dropEngine k).aer = s.aer := rfl
@[simp] theorem State.dropEngine_badFrames (k : Nat) : (s.dropEngine k).badFrames = s.badFrames := rfl
@[simp] theorem State.dropEngine_spdm (k : Nat) : (s.dropEngine k).spdm = s.spdm := rfl
@[simp] theorem State.dropEngine_numVfs (k : Nat) : (s.dropEngine k).numVfs = s.numVfs := rfl
@[simp] theorem State.dropEngine_aliasKey (k : Nat) : (s.dropEngine k).aliasKey = s.aliasKey := rfl
@[simp] theorem State.dropEngine_measures (k : Nat) : (s.dropEngine k).measures = s.measures := rfl
@[simp] theorem State.dropEngine_corrected (k : Nat) : (s.dropEngine k).corrected = s.corrected := rfl

/-! ### updTile -/

@[simp] theorem State.updTile_agenda (k : Nat) (f : Tile → Tile) : (s.updTile k f).agenda = s.agenda := rfl
@[simp] theorem State.updTile_focus (k : Nat) (f : Tile → Tile) : (s.updTile k f).focus = s.focus := rfl
@[simp] theorem State.updTile_cur (k : Nat) (f : Tile → Tile) : (s.updTile k f).cur = s.cur := rfl
@[simp] theorem State.updTile_freeCtr (k : Nat) (f : Tile → Tile) : (s.updTile k f).freeCtr = s.freeCtr := rfl
@[simp] theorem State.updTile_timestamp (k : Nat) (f : Tile → Tile) : (s.updTile k f).timestamp = s.timestamp := rfl
@[simp] theorem State.updTile_clk (k : Nat) (f : Tile → Tile) : (s.updTile k f).clk = s.clk := rfl
@[simp] theorem State.updTile_off (k : Nat) (f : Tile → Tile) : (s.updTile k f).off = s.off := rfl
@[simp] theorem State.updTile_booted (k : Nat) (f : Tile → Tile) : (s.updTile k f).booted = s.booted := rfl
@[simp] theorem State.updTile_trained (k : Nat) (f : Tile → Tile) : (s.updTile k f).trained = s.trained := rfl
@[simp] theorem State.updTile_enabled (k : Nat) (f : Tile → Tile) : (s.updTile k f).enabled = s.enabled := rfl
@[simp] theorem State.updTile_tasks (k : Nat) (f : Tile → Tile) : (s.updTile k f).tasks = s.tasks := rfl
@[simp] theorem State.updTile_queues (k : Nat) (f : Tile → Tile) : (s.updTile k f).queues = s.queues := rfl
@[simp] theorem State.updTile_seqs (k : Nat) (f : Tile → Tile) : (s.updTile k f).seqs = s.seqs := rfl
@[simp] theorem State.updTile_accesses (k : Nat) (f : Tile → Tile) : (s.updTile k f).accesses = s.accesses := rfl
@[simp] theorem State.updTile_outReqs (k : Nat) (f : Tile → Tile) : (s.updTile k f).outReqs = s.outReqs := rfl
@[simp] theorem State.updTile_answers (k : Nat) (f : Tile → Tile) : (s.updTile k f).answers = s.answers := rfl
@[simp] theorem State.updTile_nextSerial (k : Nat) (f : Tile → Tile) : (s.updTile k f).nextSerial = s.nextSerial := rfl
@[simp] theorem State.updTile_engines (k : Nat) (f : Tile → Tile) : (s.updTile k f).engines = s.engines := rfl
@[simp] theorem State.updTile_streams (k : Nat) (f : Tile → Tile) : (s.updTile k f).streams = s.streams := rfl
@[simp] theorem State.updTile_groups (k : Nat) (f : Tile → Tile) : (s.updTile k f).groups = s.groups := rfl
@[simp] theorem State.updTile_switchedOut (k : Nat) (f : Tile → Tile) : (s.updTile k f).switchedOut = s.switchedOut := rfl
@[simp] theorem State.updTile_mem (k : Nat) (f : Tile → Tile) : (s.updTile k f).mem = s.mem := rfl
@[simp] theorem State.updTile_stale (k : Nat) (f : Tile → Tile) : (s.updTile k f).stale = s.stale := rfl
@[simp] theorem State.updTile_inFlight (k : Nat) (f : Tile → Tile) : (s.updTile k f).inFlight = s.inFlight := rfl
@[simp] theorem State.updTile_dieWrites (k : Nat) (f : Tile → Tile) : (s.updTile k f).dieWrites = s.dieWrites := rfl
@[simp] theorem State.updTile_homeSeq (k : Nat) (f : Tile → Tile) : (s.updTile k f).homeSeq = s.homeSeq := rfl
@[simp] theorem State.updTile_blocks (k : Nat) (f : Tile → Tile) : (s.updTile k f).blocks = s.blocks := rfl
@[simp] theorem State.updTile_kilns (k : Nat) (f : Tile → Tile) : (s.updTile k f).kilns = s.kilns := rfl
@[simp] theorem State.updTile_treeKey (k : Nat) (f : Tile → Tile) : (s.updTile k f).treeKey = s.treeKey := rfl
@[simp] theorem State.updTile_treeCounts (k : Nat) (f : Tile → Tile) : (s.updTile k f).treeCounts = s.treeCounts := rfl
@[simp] theorem State.updTile_treeBad (k : Nat) (f : Tile → Tile) : (s.updTile k f).treeBad = s.treeBad := rfl
@[simp] theorem State.updTile_contexts (k : Nat) (f : Tile → Tile) : (s.updTile k f).contexts = s.contexts := rfl
@[simp] theorem State.updTile_tlb (k : Nat) (f : Tile → Tile) : (s.updTile k f).tlb = s.tlb := rfl
@[simp] theorem State.updTile_walks (k : Nat) (f : Tile → Tile) : (s.updTile k f).walks = s.walks := rfl
@[simp] theorem State.updTile_freed (k : Nat) (f : Tile → Tile) : (s.updTile k f).freed = s.freed := rfl
@[simp] theorem State.updTile_sram (k : Nat) (f : Tile → Tile) : (s.updTile k f).sram = s.sram := rfl
@[simp] theorem State.updTile_sramOwner (k : Nat) (f : Tile → Tile) : (s.updTile k f).sramOwner = s.sramOwner := rfl
@[simp] theorem State.updTile_sramBad (k : Nat) (f : Tile → Tile) : (s.updTile k f).sramBad = s.sramBad := rfl
@[simp] theorem State.updTile_pools (k : Nat) (f : Tile → Tile) : (s.updTile k f).pools = s.pools := rfl
@[simp] theorem State.updTile_bindings (k : Nat) (f : Tile → Tile) : (s.updTile k f).bindings = s.bindings := rfl
@[simp] theorem State.updTile_runs (k : Nat) (f : Tile → Tile) : (s.updTile k f).runs = s.runs := rfl
@[simp] theorem State.updTile_caches (k : Nat) (f : Tile → Tile) : (s.updTile k f).caches = s.caches := rfl
@[simp] theorem State.updTile_remap (k : Nat) (f : Tile → Tile) : (s.updTile k f).remap = s.remap := rfl
@[simp] theorem State.updTile_ifaces (k : Nat) (f : Tile → Tile) : (s.updTile k f).ifaces = s.ifaces := rfl
@[simp] theorem State.updTile_pifaces (k : Nat) (f : Tile → Tile) : (s.updTile k f).pifaces = s.pifaces := rfl
@[simp] theorem State.updTile_graphs (k : Nat) (f : Tile → Tile) : (s.updTile k f).graphs = s.graphs := rfl
@[simp] theorem State.updTile_schedSerial (k : Nat) (f : Tile → Tile) : (s.updTile k f).schedSerial = s.schedSerial := rfl
@[simp] theorem State.updTile_lastServed (k : Nat) (f : Tile → Tile) : (s.updTile k f).lastServed = s.lastServed := rfl
@[simp] theorem State.updTile_partitions (k : Nat) (f : Tile → Tile) : (s.updTile k f).partitions = s.partitions := rfl
@[simp] theorem State.updTile_sources (k : Nat) (f : Tile → Tile) : (s.updTile k f).sources = s.sources := rfl
@[simp] theorem State.updTile_log (k : Nat) (f : Tile → Tile) : (s.updTile k f).log = s.log := rfl
@[simp] theorem State.updTile_fwRecords (k : Nat) (f : Tile → Tile) : (s.updTile k f).fwRecords = s.fwRecords := rfl
@[simp] theorem State.updTile_astalls (k : Nat) (f : Tile → Tile) : (s.updTile k f).astalls = s.astalls := rfl
@[simp] theorem State.updTile_interrupts (k : Nat) (f : Tile → Tile) : (s.updTile k f).interrupts = s.interrupts := rfl
@[simp] theorem State.updTile_incs (k : Nat) (f : Tile → Tile) : (s.updTile k f).incs = s.incs := rfl
@[simp] theorem State.updTile_learned (k : Nat) (f : Tile → Tile) : (s.updTile k f).learned = s.learned := rfl
@[simp] theorem State.updTile_lateResp (k : Nat) (f : Tile → Tile) : (s.updTile k f).lateResp = s.lateResp := rfl
@[simp] theorem State.updTile_staleDrops (k : Nat) (f : Tile → Tile) : (s.updTile k f).staleDrops = s.staleDrops := rfl
@[simp] theorem State.updTile_linksDown (k : Nat) (f : Tile → Tile) : (s.updTile k f).linksDown = s.linksDown := rfl
@[simp] theorem State.updTile_throttled (k : Nat) (f : Tile → Tile) : (s.updTile k f).throttled = s.throttled := rfl
@[simp] theorem State.updTile_powerThrottle (k : Nat) (f : Tile → Tile) : (s.updTile k f).powerThrottle = s.powerThrottle := rfl
@[simp] theorem State.updTile_sensorsHot (k : Nat) (f : Tile → Tile) : (s.updTile k f).sensorsHot = s.sensorsHot := rfl
@[simp] theorem State.updTile_temps (k : Nat) (f : Tile → Tile) : (s.updTile k f).temps = s.temps := rfl
@[simp] theorem State.updTile_powers (k : Nat) (f : Tile → Tile) : (s.updTile k f).powers = s.powers := rfl
@[simp] theorem State.updTile_figures (k : Nat) (f : Tile → Tile) : (s.updTile k f).figures = s.figures := rfl
@[simp] theorem State.updTile_codeCopies (k : Nat) (f : Tile → Tile) : (s.updTile k f).codeCopies = s.codeCopies := rfl
@[simp] theorem State.updTile_package (k : Nat) (f : Tile → Tile) : (s.updTile k f).package = s.package := rfl
@[simp] theorem State.updTile_peers (k : Nat) (f : Tile → Tile) : (s.updTile k f).peers = s.peers := rfl
@[simp] theorem State.updTile_hostReply (k : Nat) (f : Tile → Tile) : (s.updTile k f).hostReply = s.hostReply := rfl
@[simp] theorem State.updTile_busy (k : Nat) (f : Tile → Tile) : (s.updTile k f).busy = s.busy := rfl
@[simp] theorem State.updTile_cxl (k : Nat) (f : Tile → Tile) : (s.updTile k f).cxl = s.cxl := rfl
@[simp] theorem State.updTile_hdm (k : Nat) (f : Tile → Tile) : (s.updTile k f).hdm = s.hdm := rfl
@[simp] theorem State.updTile_hostLines (k : Nat) (f : Tile → Tile) : (s.updTile k f).hostLines = s.hostLines := rfl
@[simp] theorem State.updTile_aer (k : Nat) (f : Tile → Tile) : (s.updTile k f).aer = s.aer := rfl
@[simp] theorem State.updTile_badFrames (k : Nat) (f : Tile → Tile) : (s.updTile k f).badFrames = s.badFrames := rfl
@[simp] theorem State.updTile_spdm (k : Nat) (f : Tile → Tile) : (s.updTile k f).spdm = s.spdm := rfl
@[simp] theorem State.updTile_numVfs (k : Nat) (f : Tile → Tile) : (s.updTile k f).numVfs = s.numVfs := rfl
@[simp] theorem State.updTile_aliasKey (k : Nat) (f : Tile → Tile) : (s.updTile k f).aliasKey = s.aliasKey := rfl
@[simp] theorem State.updTile_measures (k : Nat) (f : Tile → Tile) : (s.updTile k f).measures = s.measures := rfl
@[simp] theorem State.updTile_corrected (k : Nat) (f : Tile → Tile) : (s.updTile k f).corrected = s.corrected := rfl

/-! ### logEvent -/

@[simp] theorem State.logEvent_agenda (a b c : Nat) (lo hi : Word) : (s.logEvent a b c lo hi).agenda = s.agenda := rfl
@[simp] theorem State.logEvent_focus (a b c : Nat) (lo hi : Word) : (s.logEvent a b c lo hi).focus = s.focus := rfl
@[simp] theorem State.logEvent_cur (a b c : Nat) (lo hi : Word) : (s.logEvent a b c lo hi).cur = s.cur := rfl
@[simp] theorem State.logEvent_freeCtr (a b c : Nat) (lo hi : Word) : (s.logEvent a b c lo hi).freeCtr = s.freeCtr := rfl
@[simp] theorem State.logEvent_timestamp (a b c : Nat) (lo hi : Word) : (s.logEvent a b c lo hi).timestamp = s.timestamp := rfl
@[simp] theorem State.logEvent_clk (a b c : Nat) (lo hi : Word) : (s.logEvent a b c lo hi).clk = s.clk := rfl
@[simp] theorem State.logEvent_off (a b c : Nat) (lo hi : Word) : (s.logEvent a b c lo hi).off = s.off := rfl
@[simp] theorem State.logEvent_booted (a b c : Nat) (lo hi : Word) : (s.logEvent a b c lo hi).booted = s.booted := rfl
@[simp] theorem State.logEvent_trained (a b c : Nat) (lo hi : Word) : (s.logEvent a b c lo hi).trained = s.trained := rfl
@[simp] theorem State.logEvent_enabled (a b c : Nat) (lo hi : Word) : (s.logEvent a b c lo hi).enabled = s.enabled := rfl
@[simp] theorem State.logEvent_tasks (a b c : Nat) (lo hi : Word) : (s.logEvent a b c lo hi).tasks = s.tasks := rfl
@[simp] theorem State.logEvent_queues (a b c : Nat) (lo hi : Word) : (s.logEvent a b c lo hi).queues = s.queues := rfl
@[simp] theorem State.logEvent_seqs (a b c : Nat) (lo hi : Word) : (s.logEvent a b c lo hi).seqs = s.seqs := rfl
@[simp] theorem State.logEvent_accesses (a b c : Nat) (lo hi : Word) : (s.logEvent a b c lo hi).accesses = s.accesses := rfl
@[simp] theorem State.logEvent_outReqs (a b c : Nat) (lo hi : Word) : (s.logEvent a b c lo hi).outReqs = s.outReqs := rfl
@[simp] theorem State.logEvent_answers (a b c : Nat) (lo hi : Word) : (s.logEvent a b c lo hi).answers = s.answers := rfl
@[simp] theorem State.logEvent_nextSerial (a b c : Nat) (lo hi : Word) : (s.logEvent a b c lo hi).nextSerial = s.nextSerial := rfl
@[simp] theorem State.logEvent_engines (a b c : Nat) (lo hi : Word) : (s.logEvent a b c lo hi).engines = s.engines := rfl
@[simp] theorem State.logEvent_streams (a b c : Nat) (lo hi : Word) : (s.logEvent a b c lo hi).streams = s.streams := rfl
@[simp] theorem State.logEvent_groups (a b c : Nat) (lo hi : Word) : (s.logEvent a b c lo hi).groups = s.groups := rfl
@[simp] theorem State.logEvent_switchedOut (a b c : Nat) (lo hi : Word) : (s.logEvent a b c lo hi).switchedOut = s.switchedOut := rfl
@[simp] theorem State.logEvent_mem (a b c : Nat) (lo hi : Word) : (s.logEvent a b c lo hi).mem = s.mem := rfl
@[simp] theorem State.logEvent_stale (a b c : Nat) (lo hi : Word) : (s.logEvent a b c lo hi).stale = s.stale := rfl
@[simp] theorem State.logEvent_inFlight (a b c : Nat) (lo hi : Word) : (s.logEvent a b c lo hi).inFlight = s.inFlight := rfl
@[simp] theorem State.logEvent_dieWrites (a b c : Nat) (lo hi : Word) : (s.logEvent a b c lo hi).dieWrites = s.dieWrites := rfl
@[simp] theorem State.logEvent_homeSeq (a b c : Nat) (lo hi : Word) : (s.logEvent a b c lo hi).homeSeq = s.homeSeq := rfl
@[simp] theorem State.logEvent_blocks (a b c : Nat) (lo hi : Word) : (s.logEvent a b c lo hi).blocks = s.blocks := rfl
@[simp] theorem State.logEvent_kilns (a b c : Nat) (lo hi : Word) : (s.logEvent a b c lo hi).kilns = s.kilns := rfl
@[simp] theorem State.logEvent_treeKey (a b c : Nat) (lo hi : Word) : (s.logEvent a b c lo hi).treeKey = s.treeKey := rfl
@[simp] theorem State.logEvent_treeCounts (a b c : Nat) (lo hi : Word) : (s.logEvent a b c lo hi).treeCounts = s.treeCounts := rfl
@[simp] theorem State.logEvent_treeBad (a b c : Nat) (lo hi : Word) : (s.logEvent a b c lo hi).treeBad = s.treeBad := rfl
@[simp] theorem State.logEvent_contexts (a b c : Nat) (lo hi : Word) : (s.logEvent a b c lo hi).contexts = s.contexts := rfl
@[simp] theorem State.logEvent_tlb (a b c : Nat) (lo hi : Word) : (s.logEvent a b c lo hi).tlb = s.tlb := rfl
@[simp] theorem State.logEvent_walks (a b c : Nat) (lo hi : Word) : (s.logEvent a b c lo hi).walks = s.walks := rfl
@[simp] theorem State.logEvent_tiles (a b c : Nat) (lo hi : Word) : (s.logEvent a b c lo hi).tiles = s.tiles := rfl
@[simp] theorem State.logEvent_freed (a b c : Nat) (lo hi : Word) : (s.logEvent a b c lo hi).freed = s.freed := rfl
@[simp] theorem State.logEvent_sram (a b c : Nat) (lo hi : Word) : (s.logEvent a b c lo hi).sram = s.sram := rfl
@[simp] theorem State.logEvent_sramOwner (a b c : Nat) (lo hi : Word) : (s.logEvent a b c lo hi).sramOwner = s.sramOwner := rfl
@[simp] theorem State.logEvent_sramBad (a b c : Nat) (lo hi : Word) : (s.logEvent a b c lo hi).sramBad = s.sramBad := rfl
@[simp] theorem State.logEvent_pools (a b c : Nat) (lo hi : Word) : (s.logEvent a b c lo hi).pools = s.pools := rfl
@[simp] theorem State.logEvent_bindings (a b c : Nat) (lo hi : Word) : (s.logEvent a b c lo hi).bindings = s.bindings := rfl
@[simp] theorem State.logEvent_runs (a b c : Nat) (lo hi : Word) : (s.logEvent a b c lo hi).runs = s.runs := rfl
@[simp] theorem State.logEvent_caches (a b c : Nat) (lo hi : Word) : (s.logEvent a b c lo hi).caches = s.caches := rfl
@[simp] theorem State.logEvent_remap (a b c : Nat) (lo hi : Word) : (s.logEvent a b c lo hi).remap = s.remap := rfl
@[simp] theorem State.logEvent_ifaces (a b c : Nat) (lo hi : Word) : (s.logEvent a b c lo hi).ifaces = s.ifaces := rfl
@[simp] theorem State.logEvent_pifaces (a b c : Nat) (lo hi : Word) : (s.logEvent a b c lo hi).pifaces = s.pifaces := rfl
@[simp] theorem State.logEvent_graphs (a b c : Nat) (lo hi : Word) : (s.logEvent a b c lo hi).graphs = s.graphs := rfl
@[simp] theorem State.logEvent_schedSerial (a b c : Nat) (lo hi : Word) : (s.logEvent a b c lo hi).schedSerial = s.schedSerial := rfl
@[simp] theorem State.logEvent_lastServed (a b c : Nat) (lo hi : Word) : (s.logEvent a b c lo hi).lastServed = s.lastServed := rfl
@[simp] theorem State.logEvent_partitions (a b c : Nat) (lo hi : Word) : (s.logEvent a b c lo hi).partitions = s.partitions := rfl
@[simp] theorem State.logEvent_log (a b c : Nat) (lo hi : Word) : (s.logEvent a b c lo hi).log = s.log := rfl
@[simp] theorem State.logEvent_fwRecords (a b c : Nat) (lo hi : Word) : (s.logEvent a b c lo hi).fwRecords = s.fwRecords := rfl
@[simp] theorem State.logEvent_astalls (a b c : Nat) (lo hi : Word) : (s.logEvent a b c lo hi).astalls = s.astalls := rfl
@[simp] theorem State.logEvent_interrupts (a b c : Nat) (lo hi : Word) : (s.logEvent a b c lo hi).interrupts = s.interrupts := rfl
@[simp] theorem State.logEvent_incs (a b c : Nat) (lo hi : Word) : (s.logEvent a b c lo hi).incs = s.incs := rfl
@[simp] theorem State.logEvent_learned (a b c : Nat) (lo hi : Word) : (s.logEvent a b c lo hi).learned = s.learned := rfl
@[simp] theorem State.logEvent_lateResp (a b c : Nat) (lo hi : Word) : (s.logEvent a b c lo hi).lateResp = s.lateResp := rfl
@[simp] theorem State.logEvent_staleDrops (a b c : Nat) (lo hi : Word) : (s.logEvent a b c lo hi).staleDrops = s.staleDrops := rfl
@[simp] theorem State.logEvent_linksDown (a b c : Nat) (lo hi : Word) : (s.logEvent a b c lo hi).linksDown = s.linksDown := rfl
@[simp] theorem State.logEvent_throttled (a b c : Nat) (lo hi : Word) : (s.logEvent a b c lo hi).throttled = s.throttled := rfl
@[simp] theorem State.logEvent_powerThrottle (a b c : Nat) (lo hi : Word) : (s.logEvent a b c lo hi).powerThrottle = s.powerThrottle := rfl
@[simp] theorem State.logEvent_sensorsHot (a b c : Nat) (lo hi : Word) : (s.logEvent a b c lo hi).sensorsHot = s.sensorsHot := rfl
@[simp] theorem State.logEvent_temps (a b c : Nat) (lo hi : Word) : (s.logEvent a b c lo hi).temps = s.temps := rfl
@[simp] theorem State.logEvent_powers (a b c : Nat) (lo hi : Word) : (s.logEvent a b c lo hi).powers = s.powers := rfl
@[simp] theorem State.logEvent_figures (a b c : Nat) (lo hi : Word) : (s.logEvent a b c lo hi).figures = s.figures := rfl
@[simp] theorem State.logEvent_codeCopies (a b c : Nat) (lo hi : Word) : (s.logEvent a b c lo hi).codeCopies = s.codeCopies := rfl
@[simp] theorem State.logEvent_package (a b c : Nat) (lo hi : Word) : (s.logEvent a b c lo hi).package = s.package := rfl
@[simp] theorem State.logEvent_peers (a b c : Nat) (lo hi : Word) : (s.logEvent a b c lo hi).peers = s.peers := rfl
@[simp] theorem State.logEvent_hostReply (a b c : Nat) (lo hi : Word) : (s.logEvent a b c lo hi).hostReply = s.hostReply := rfl
@[simp] theorem State.logEvent_busy (a b c : Nat) (lo hi : Word) : (s.logEvent a b c lo hi).busy = s.busy := rfl
@[simp] theorem State.logEvent_cxl (a b c : Nat) (lo hi : Word) : (s.logEvent a b c lo hi).cxl = s.cxl := rfl
@[simp] theorem State.logEvent_hdm (a b c : Nat) (lo hi : Word) : (s.logEvent a b c lo hi).hdm = s.hdm := rfl
@[simp] theorem State.logEvent_hostLines (a b c : Nat) (lo hi : Word) : (s.logEvent a b c lo hi).hostLines = s.hostLines := rfl
@[simp] theorem State.logEvent_aer (a b c : Nat) (lo hi : Word) : (s.logEvent a b c lo hi).aer = s.aer := rfl
@[simp] theorem State.logEvent_badFrames (a b c : Nat) (lo hi : Word) : (s.logEvent a b c lo hi).badFrames = s.badFrames := rfl
@[simp] theorem State.logEvent_spdm (a b c : Nat) (lo hi : Word) : (s.logEvent a b c lo hi).spdm = s.spdm := rfl
@[simp] theorem State.logEvent_numVfs (a b c : Nat) (lo hi : Word) : (s.logEvent a b c lo hi).numVfs = s.numVfs := rfl
@[simp] theorem State.logEvent_aliasKey (a b c : Nat) (lo hi : Word) : (s.logEvent a b c lo hi).aliasKey = s.aliasKey := rfl
@[simp] theorem State.logEvent_measures (a b c : Nat) (lo hi : Word) : (s.logEvent a b c lo hi).measures = s.measures := rfl
@[simp] theorem State.logEvent_corrected (a b c : Nat) (lo hi : Word) : (s.logEvent a b c lo hi).corrected = s.corrected := rfl

end Sys2Proof.Machine
end

