-- ==== Sys2Proof/Laws/Tab.lean ====
section
/-! SUPPORT. Laws/Tab: reading a table after a write, and the components of the state kept in tables. -/
namespace Sys2Proof

theorem Tab.find_set_self {α : Type} (t : Tab α) (k : Nat) (v : α) : Tab.find (Tab.set t k v) k = some v := by
  induction t with
  | nil => simp [Tab.set, Tab.find]
  | cons h t ih =>
    obtain ⟨j, w⟩ := h
    simp only [Tab.set]
    split
    · simp [Tab.find]
    · split
      · simp [Tab.find]
      · rename_i h1 h2
        simp [Tab.find, Ne.symm h2, ih]

theorem Tab.find_set_ne {α : Type} (t : Tab α) {k j : Nat} (h : j ≠ k) (v : α) : Tab.find (Tab.set t k v) j = Tab.find t j := by
  induction t with
  | nil => simp [Tab.set, Tab.find, Ne.symm h]
  | cons x t ih =>
    obtain ⟨i, w⟩ := x
    simp only [Tab.set]
    split
    · simp [Tab.find, Ne.symm h]
    · split
      · rename_i h1 h2; subst h2; simp [Tab.find, Ne.symm h]
      · simp [Tab.find, ih]

@[simp] theorem Tab.get_set_self {α : Type} (t : Tab α) (d : α) (k : Nat) (v : α) : Tab.get (Tab.set t k v) d k = v := by
  simp [Tab.get, Tab.find_set_self]

theorem Tab.get_set_ne {α : Type} (t : Tab α) (d : α) {k j : Nat} (h : j ≠ k) (v : α) : Tab.get (Tab.set t k v) d j = Tab.get t d j := by
  simp [Tab.get, Tab.find_set_ne t h]

namespace Machine

@[simp] theorem State.task_setTask (s : State) (k : Nat) (v : Task) : (s.setTask k v).task k = v := Tab.get_set_self ..
theorem State.task_setTask_ne (s : State) {k j : Nat} (h : j ≠ k) (v : Task) : (s.setTask k v).task j = s.task j := Tab.get_set_ne _ _ h _
@[simp] theorem State.task_updTask (s : State) (k : Nat) (f : Task → Task) : (s.updTask k f).task k = f (s.task k) := Tab.get_set_self ..
theorem State.task_updTask_ne (s : State) {k j : Nat} (h : j ≠ k) (f : Task → Task) : (s.updTask k f).task j = s.task j :=
  Tab.get_set_ne _ _ h _
theorem State.task_of_tasks {s t : State} (h : t.tasks = s.tasks) (k : Nat) : t.task k = s.task k := by simp [State.task, h]
@[simp] theorem State.sequencer_setSequencer (s : State) (k : Nat) (v : Sequencer) : (s.setSequencer k v).sequencer k = v := Tab.get_set_self ..
theorem State.sequencer_setSequencer_ne (s : State) {k j : Nat} (h : j ≠ k) (v : Sequencer) :
    (s.setSequencer k v).sequencer j = s.sequencer j := Tab.get_set_ne _ _ h _
@[simp] theorem State.queue_setQueue (s : State) (k : Nat) (v : List QEntry) : (s.setQueue k v).queue k = v := Tab.get_set_self ..
theorem State.queue_setQueue_ne (s : State) {k j : Nat} (h : j ≠ k) (v : List QEntry) : (s.setQueue k v).queue j = s.queue j :=
  Tab.get_set_ne _ _ h _
@[simp] theorem State.part_setPart (s : State) (k : Nat) (v : Partition) : (s.setPart k v).part k = v := Tab.get_set_self ..
theorem State.part_setPart_ne (s : State) {k j : Nat} (h : j ≠ k) (v : Partition) : (s.setPart k v).part j = s.part j :=
  Tab.get_set_ne _ _ h _
@[simp] theorem State.pool_setPool (s : State) (d p : Nat) (v : Pool) : (s.setPool d p v).pool d p = v := Tab.get_set_self ..

/-! ### Registers (R46, R224) -/

@[simp] theorem Task.reg_zero (x : Task) : x.reg 0 = 0 := by simp [Task.reg]
@[simp] theorem Task.setReg_zero (x : Task) (v : Word) : x.setReg 0 v = x := by simp [Task.setReg]
theorem Task.reg_setReg_self (x : Task) {r : Reg} (h : r ≠ 0) (v : Word) : (x.setReg r v).reg r = v := by
  simp [Task.setReg, Task.reg, h]
theorem Task.reg_setReg_ne (x : Task) {r q : Reg} (h : q ≠ r) (v : Word) : (x.setReg r v).reg q = x.reg q := by
  unfold Task.setReg
  split
  · rfl
  · unfold Task.reg
    split
    · rfl
    · have : r.val ≠ q.val := fun e => h (Fin.ext e.symm)
      simp [Vector.getElem_set_ne, this]
@[simp] theorem Task.pred_seven (x : Task) : x.pred 7 = true := by simp [Task.pred]
@[simp] theorem Task.setPred_seven (x : Task) (v : Bool) : x.setPred 7 v = x := by simp [Task.setPred]
theorem Task.pred_setReg (x : Task) (r : Reg) (v : Word) (p : Pred) : (x.setReg r v).pred p = x.pred p := by
  unfold Task.setReg; split <;> rfl
theorem Task.pred_setPred_self (x : Task) {p : Pred} (h : p ≠ 7) (v : Bool) : (x.setPred p v).pred p = v := by
  revert h
  unfold Task.setPred Task.pred
  intro h
  simp only [if_neg h]
  have hp : p.val < 7 := by
    have h1 : p.val ≠ 7 := fun e => h (Fin.ext e)
    omega
  cases v
  · simp [hp]
  · simp [hp]
theorem Task.pred_setPred_ne (x : Task) {p q : Pred} (h : q ≠ p) (v : Bool) : (x.setPred p v).pred q = x.pred q := by
  unfold Task.setPred
  split
  · rfl
  · unfold Task.pred
    split
    · rfl
    · rename_i h1
      have hq : q.val < 7 := by
        have h2 : q.val ≠ 7 := fun e => h1 (Fin.ext e)
        omega
      have hne2 : ¬ q.val = p.val := fun e => h (Fin.ext e)
      cases v <;> simp [hq, hne2]

end Machine
end Sys2Proof
end

