-- ==== Sys2Proof/Laws/Seq.lean ====
section
/-! SUPPORT. Laws/Seq: what the shared issue and completion of a sequencer instruction can do, said once. -/
namespace Sys2Proof.Machine

/-! ### The running task -/

@[simp] theorem State.updMe_cur (s : State) (f : Task → Task) : (s.updMe f).cur = s.cur := rfl
@[simp] theorem State.me_updMe (s : State) (f : Task → Task) : (s.updMe f).me = f s.me := State.task_updTask ..
theorem State.task_updMe_ne (s : State) {k : Nat} (h : k ≠ s.cur) (f : Task → Task) : (s.updMe f).task k = s.task k :=
  State.task_updTask_ne _ h f
@[simp] theorem State.me_setR (s : State) (d : Reg) (v : Word) : (s.setR d v).me = s.me.setReg d v := State.me_updMe ..
@[simp] theorem State.setR_cur (s : State) (d : Reg) (v : Word) : (s.setR d v).cur = s.cur := rfl
@[simp] theorem Task.pc_setReg (x : Task) (d : Reg) (v : Word) : (x.setReg d v).pc = x.pc := by unfold Task.setReg; split <;> rfl
@[simp] theorem State.nextPc_setR (s : State) (d : Reg) (v : Word) : (s.setR d v).nextPc = s.me.pc + 8 := by
  simp [State.nextPc]
@[simp] theorem State.updMe_zero (s : State) (v : Word) : s.me.setReg 0 v = s.me := Task.setReg_zero _ _

/-- A register write completes the instruction. -/
theorem finish_wrote (s : State) (d : Reg) (v : Word) : (SeqRes.done (s.setR d v)).finish = .next (s.wrote d v) := by
  simp [SeqRes.finish, State.wrote]

/-! ### Issue (R223 to R226) -/

/-- A false guard only completes (R223). -/
theorem seqExec_guard_false {g : Guard} {gate : Gate} {reads writes : List Reg} {body : State → SeqRes} {s : State}
    (h : Guard.holds g s.me = false) : seqExec g gate reads writes body s = .next (s.onTo (s.me.pc + 8)) := by
  simp [seqExec, h, State.onTo, State.nextPc]

/-- An instruction that issues does what its body says. -/
theorem seqExec_issues {g : Guard} {gate : Gate} {reads writes : List Reg} {body : State → SeqRes} {s : State}
    (h : Issues g gate reads writes s) : seqExec g gate reads writes body s = (body s).finish := by
  obtain ⟨hg, hp, hl, hr, hh⟩ := h
  have hr' : reads.any (fun r => s.me.softErr.contains r.val) = false := by
    simpa using hr
  have hl' : ¬ s.clk < s.me.dueAt (reads ++ writes) := Nat.not_lt.mpr hl
  simp only [seqExec, hg, hp, hr', hh, hl']; simp

/-- All that the issue of an instruction can come to: its guard is false, it waits for accesses or for a result, it meets a register with an
error, or it does what its body says. -/
theorem seqExec_cases (g : Guard) (gate : Gate) (reads writes : List Reg) (body : State → SeqRes) (s : State) :
    seqExec g gate reads writes body s = .next (s.onTo (s.me.pc + 8))
    ∨ (∃ l, seqExec g gate reads writes body s = .next (s.block (.accesses l)))
    ∨ (∃ c, seqExec g gate reads writes body s = .next (s.block (.result c)))
    ∨ (s.me.softErr ≠ [] ∧ seqExec g gate reads writes body s = (SeqRes.fault (s.report fPOISON 1 0) s).finish)
    ∨ (Issues g gate reads writes s ∧ seqExec g gate reads writes body s = (body s).finish) := by
  by_cases hg : Guard.holds g s.me = true
  · by_cases hp : s.pendingOn s.cur (reads ++ writes) = []
    · by_cases hl : s.clk < s.me.dueAt (reads ++ writes)
      · refine .inr (.inr (.inl ⟨s.me.dueAt (reads ++ writes), ?_⟩))
        simp only [seqExec, hg, hp, hl]; simp [SeqRes.finish]
      · by_cases hr : reads.any (fun r => s.me.softErr.contains r.val) = true
        · refine .inr (.inr (.inr (.inl ⟨?_, ?_⟩)))
          · intro e; simp [e] at hr
          · simp only [seqExec, hg, hp, hr, hl]; simp
        · by_cases hh : s.heldBy s.cur gate = []
          · have hi : Issues g gate reads writes s := ⟨hg, hp, Nat.not_lt.mp hl, by simpa using hr, hh⟩
            exact .inr (.inr (.inr (.inr ⟨hi, seqExec_issues hi⟩)))
          · refine .inr (.inl ⟨s.heldBy s.cur gate, ?_⟩)
            have hh' : (s.heldBy s.cur gate).isEmpty = false := by simpa using hh
            have hr' : reads.any (fun r => s.me.softErr.contains r.val) = false := by simpa using hr
            simp only [seqExec, hg, hp, hr', hh', hl]; simp [SeqRes.finish]
    · refine .inr (.inl ⟨s.pendingOn s.cur (reads ++ writes), ?_⟩)
      have hp' : (s.pendingOn s.cur (reads ++ writes)).isEmpty = false := by simpa using hp
      simp only [seqExec, hg, hp']; simp [SeqRes.finish]
  · exact .inl (seqExec_guard_false (by simpa using hg))

end Sys2Proof.Machine
end

