-- ==== Sys2Proof/Laws/Cell.lean ====
section
/-! SUPPORT. Laws/Cell: what the turn of a compute-cell op comes to, said once: a DATA firing, a predicated-off firing, and nothing. -/
namespace Sys2Proof.Machine

/-- The end of a firing is what `Comes` says. -/
theorem commit_comes (fs : List OutF) (node : BitVec 5) (w : Work) : Comes fs node w.s0 w (w.commit fs node) := by
  unfold Comes Work.done Work.commit
  constructor <;> intro h <;> simp [h]

theorem workAt_s0 {s : State} {p : OpPlace} {w : Work} (h : s.workAt p = some w) :
    w.s0 = s ∧ w.s = s ∧ w.o = p.op ∧ w.slot = p.slot ∧ w.outs = [] ∧ w.bits = [] ∧ w.silt = false ∧ w.deps = [] := by
  have h := (Option.filter_eq_some_iff.1 h).1
  unfold State.workOf at h
  repeat' split at h
  all_goals cases h
  exact ⟨rfl, rfl, rfl, rfl, rfl, rfl, rfl, rfl⟩

theorem readRegister_good {w : Work} (h : w.op.bad = false) : w.readRegister = w := by simp [Work.readRegister, h]

/-- An op whose stage register has no uncorrectable error fires as its firing says. -/
theorem throughRegister_good {fs : List OutF} {fire : Work → Option Work} {w : Work} (h : w.op.bad = false) :
    Work.throughRegister fs fire w = fire w := by simp [Work.throughRegister, h]

/-- A turn at which the op is ready does what its firing says. -/
theorem turn_ready {fs : List OutF} {node : BitVec 5} {fire : Work → Option Work} {s : State} {w w1 : Work} (h : Ready s w) (hf : fire w = some w1) :
    w.turn fs node fire = w1.commit fs node := by
  obtain ⟨-, h2, h3, h4⟩ := h
  simp [Work.turn, h2, h3, readRegister_good h4, hf]

theorem ccTurn_ready {f : CCFrame} {fire : Work → Option Work} {s : State} {w w1 : Work} (h : Ready s w) (hf : fire w = some w1) :
    ccTurn f fire s = w1.commit [f.oa, f.ob] f.silt := by
  unfold ccTurn
  rw [h.1]
  exact turn_ready h ((throughRegister_good h.2.2.2).trans hf)

theorem ccTotal_ready {f : CCFrame} {fire : Work → Option Work} {s : State} {w w1 : Work} (h : Ready s w) (hf : fire w = some w1) :
    ccTotal f fire s = w1.commit [f.oa, f.ob] f.silt := by
  unfold ccTotal
  rw [h.1]
  exact turn_ready h (by rw [readRegister_good h.2.2.2, hf])

/-- No marker stands at any port of an op that is due. -/
theorem markerAt_none {heads : List ((PortName × Port) × Option Token)} {S : List (PortName × Port)}
    (h : ∀ x ∈ heads, ∀ t, x.2 = some t → t.isMarker = false) : markerAt heads S = none := by
  unfold markerAt
  have e : (heads.filterMap fun h => match h.2 with | some t => if t.isMarker then some (t, h.1) else none | none => none) = [] := by
    rw [List.filterMap_eq_nil_iff]
    intro x hx
    cases h2 : x.2 with
    | none => rfl
    | some t => simp [h x hx t h2]
  split
  · rfl
  · rename_i h1; have := h1.symm.trans e; cases this

theorem topStop_zero {ts : List Token} (h : ∀ t ∈ ts, t.isStop = false) : topStop ts = 0 := by
  unfold topStop
  suffices ∀ (m : BitVec 3), ts.foldl (fun m t => if t.isStop && decide (m < t.level) then t.level else m) m = m from this 0
  induction ts with
  | nil => intro m; rfl
  | cons t ts ih =>
    intro m
    simp only [List.foldl_cons, h t (by simp), Bool.false_and, Bool.false_eq_true, if_false]
    exact ih (fun x hx => h x (by simp [hx])) m

/-- The DATA firing of an op that follows R127: it uses every port, takes its predicate bit, and does what its behaviour says. -/
theorem ccFire_data {f : CCFrame} {b : Behave} {bit : Bool} {s : State} {w : Work} {a y c : Token} (h : DataDue f bit s w a y c) :
    ccFire f b w = some (if bit then b.data (w.used f) a y c else b.off (w.used f) a) := by
  obtain ⟨hr, h1, h2, h3, h9, h4, h5, h6, h7, h8⟩ := h
  have hd : ∀ p ∈ f.streams, ∃ t, w.head p.1 p.2 = some t ∧ t.kind = 0 := h2
  have hm : markerAt ((f.streams ++ f.helds).map fun p => (p, w.head p.1 p.2)) f.streams = none := by
    refine markerAt_none fun x hx t ht => ?_
    obtain ⟨p, hp, rfl⟩ := List.mem_map.1 hx
    rcases List.mem_append.1 hp with hp | hp
    · obtain ⟨u, hu, hk⟩ := h2 p hp
      simp only at ht
      rw [hu] at ht; cases ht
      simp [Token.isMarker, hk]
    · exact h4 p hp t ht
  have hl : (f.streams.filterMap fun p => w.head p.1 p.2).length = f.streams.length := by
    have : f.streams.filterMap (fun p => w.head p.1 p.2) = f.streams.map fun p => (w.head p.1 p.2).getD ⟨0, 0, 0, false, 0, [], false, 0, false⟩ := by
      rw [← List.filterMap_eq_map]
      apply List.filterMap_congr
      intro p hp
      obtain ⟨u, hu, -⟩ := h2 p hp
      simp [hu]
    rw [this, List.length_map]
  have ht : topStop (f.streams.filterMap fun p => w.head p.1 p.2) = 0 := by
    refine topStop_zero fun t ht => ?_
    obtain ⟨p, hp, he⟩ := List.mem_filterMap.1 ht
    obtain ⟨u, hu, hk⟩ := h2 p hp
    rw [hu] at he; cases he
    simp [Token.isStop, hk]
  have he : (f.ports.filter fun p => (f.streams ++ f.helds).contains p && (w.errAt p).isSome) = [] := by
    rw [List.filter_eq_nil_iff]
    intro p hp0 hp
    simp only [Bool.and_eq_true, List.contains_iff_mem, List.mem_append] at hp
    obtain ⟨hp1, hp2⟩ := hp
    unfold Work.errAt at hp2
    cases e : w.resident p.1 with
    | some r =>
      simp [e, h9 p.1 r e] at hp2
    | none =>
      have : ∃ t, w.head p.1 p.2 = some t ∧ t.kind = 0 := by
        rcases hp1 with hp1 | hp1
        · exact h2 p hp1
        · exact h3 p hp1 (by simp [e])
      obtain ⟨t, e2, k⟩ := this
      simp [e, e2, Token.isErr, k] at hp2
  have hf : (f.helds.filter fun p => (w.resident p.1).isNone).all
      (fun p => match w.head p.1 p.2 with | some t => t.isData | none => false) = true := by
    rw [List.all_eq_true]
    intro p hp
    obtain ⟨hp1, hp2⟩ := List.mem_filter.1 hp
    obtain ⟨t, e, k⟩ := h3 p hp1 (by simpa using hp2)
    simp [e, Token.isData, k]
  unfold ccFire
  simp only [h1, hm, hl, ht, h5, h6, h7, h8, ne_eq, not_true_eq_false, if_false]
  split
  · rename_i e; cases e
  · rename_i e _; have := e.symm.trans he; cases this
  · rename_i e1 e2; cases e2
    split
    · rfl
    · rename_i hn; exact absurd hf hn

/-- The turn of an op that is due for a DATA firing. -/
theorem ccExec_data {f : CCFrame} {b : Behave} {bit : Bool} {s : State} {w : Work} {a y c : Token} (h : DataDue f bit s w a y c) :
    ccExec f b s = (if bit then b.data (w.used f) a y c else b.off (w.used f) a).commit [f.oa, f.ob] f.silt :=
  ccTotal_ready h.1 (ccFire_data h)

end Sys2Proof.Machine
end

