-- ==== Sys2Proof/Laws/Crypt.lean ====
section
/-! SUPPORT. Laws/Crypt: what the key stream's operation does, said once. -/
namespace Sys2Proof.Machine

theorem gcmCrypt_length (key : BitVec 256) (iv : BitVec 96) (bs : List Byte) : (gcmCrypt key iv bs).length = bs.length := by simp [gcmCrypt]

/-- A ciphertext under a key and an IV gives its plaintext back under them. -/
theorem gcmCrypt_crypt (key : BitVec 256) (iv : BitVec 96) (bs : List Byte) : gcmCrypt key iv (gcmCrypt key iv bs) = bs := by
  apply List.ext_getElem
  · simp [gcmCrypt]
  · intro i h1 h2
    simp [gcmCrypt, BitVec.xor_assoc]

end Sys2Proof.Machine
end

