-- ==== Sys2Proof/Laws/Keeps.lean ====
section
/-! SUPPORT. Laws/Keeps: what the shared operations over tiles, groups, graphs, events and exceptions leave unchanged: memory as every die reads it, tile bytes, stores, channels, and the registers of every task. -/
namespace Sys2Proof

theorem Tab.find_map {α β : Type} (t : Tab α) (f : Nat × α → Nat × β) (g : Nat → α → β) (hf : ∀ p, f p = (p.1, g p.1 p.2)) (k : Nat) :
    Tab.find (t.map f) k = (Tab.find t k).map (g k) := by
  induction t with
  | nil => rfl
  | cons x t ih =>
    obtain ⟨j, w⟩ := x
    simp only [List.map_cons, hf, Tab.find]
    split
    · rename_i h; subst h; rfl
    · exact ih

namespace Machine

/-- What an operation that is no register write keeps of a task. -/
def KeepsTask (x y : Task) : Prop :=
  y.regs = x.regs ∧ y.preds = x.preds ∧ y.cnt = x.cnt ∧ y.entry = x.entry ∧ y.hvec = x.hvec ∧ y.safegap = x.safegap
  ∧ y.context = x.context ∧ y.epc = x.epc ∧ y.frec = x.frec ∧ y.softErr = x.softErr

/-- What such an operation keeps of the machine. -/
def Keeps (s t : State) : Prop :=
  t.mem = s.mem ∧ t.stale = s.stale ∧ t.freeCtr = s.freeCtr ∧ t.sram = s.sram ∧ t.seqs = s.seqs ∧ t.queues = s.queues ∧ t.cur = s.cur
  ∧ ∀ k, KeepsTask (s.task k) (t.task k)

theorem KeepsTask.refl (x : Task) : KeepsTask x x := ⟨rfl, rfl, rfl, rfl, rfl, rfl, rfl, rfl, rfl, rfl⟩
theorem KeepsTask.trans {x y z : Task} (h : KeepsTask x y) (k : KeepsTask y z) : KeepsTask x z := by
  unfold KeepsTask at *; simp_all
theorem Keeps.refl (s : State) : Keeps s s := ⟨rfl, rfl, rfl, rfl, rfl, rfl, rfl, fun _ => KeepsTask.refl _⟩
theorem Keeps.trans {s t u : State} (h : Keeps s t) (k : Keeps t u) : Keeps s u := by
  obtain ⟨h1, h2, h3, h4, h5, h6, h7, h8⟩ := h
  obtain ⟨k1, k2, k3, k4, k5, k6, k7, k8⟩ := k
  exact ⟨k1.trans h1, k2.trans h2, k3.trans h3, k4.trans h4, k5.trans h5, k6.trans h6, k7.trans h7, fun i => (h8 i).trans (k8 i)⟩

/-- An operation that leaves the tasks alone. -/
theorem Keeps.of_tasks {s t : State} (h1 : t.mem = s.mem) (h2 : t.stale = s.stale) (h3 : t.freeCtr = s.freeCtr) (h4 : t.sram = s.sram)
    (h5 : t.seqs = s.seqs) (h6 : t.queues = s.queues) (h7 : t.cur = s.cur) (h8 : t.tasks = s.tasks) : Keeps s t :=
  ⟨h1, h2, h3, h4, h5, h6, h7, fun k => by rw [State.task_of_tasks h8]; exact KeepsTask.refl _⟩

theorem Keeps.updTask (s : State) (k : Nat) (f : Task → Task) (h : KeepsTask (s.task k) (f (s.task k))) : Keeps s (s.updTask k f) := by
  refine ⟨rfl, rfl, rfl, rfl, rfl, rfl, rfl, fun j => ?_⟩
  by_cases e : j = k
  · subst e; rw [State.task_updTask]; exact h
  · rw [State.task_updTask_ne _ e]; exact KeepsTask.refl _

theorem Keeps.foldl {α : Type} (f : State → α → State) (h : ∀ s x, Keeps s (f s x)) (l : List α) (s : State) : Keeps s (l.foldl f s) := by
  induction l generalizing s with
  | nil => exact Keeps.refl s
  | cons x l ih => exact (h s x).trans (ih _)

theorem Keeps.logEvent (s : State) (a b c : Nat) (lo hi : Word) : Keeps s (s.logEvent a b c lo hi) := .of_tasks rfl rfl rfl rfl rfl rfl rfl rfl
theorem Keeps.setPool (s : State) (d p : Nat) (v : Pool) : Keeps s (s.setPool d p v) := .of_tasks rfl rfl rfl rfl rfl rfl rfl rfl
theorem Keeps.updTile (s : State) (u : Nat) (f : Tile → Tile) : Keeps s (s.updTile u f) := .of_tasks rfl rfl rfl rfl rfl rfl rfl rfl
theorem Keeps.updRun (s : State) (n : Nat) (f : Run → Run) : Keeps s (s.updRun n f) := .of_tasks rfl rfl rfl rfl rfl rfl rfl rfl
theorem Keeps.toFirmware (s : State) (a p : Nat) (r : FRec) : Keeps s (s.toFirmware a p r) := .of_tasks rfl rfl rfl rfl rfl rfl rfl rfl
theorem Keeps.withdraw (s : State) (d p n : Nat) : Keeps s (s.withdraw d p n) := Keeps.setPool ..
theorem Keeps.failNode (s : State) (g n r d : Nat) : Keeps s (s.failNode g n r d) := .of_tasks rfl rfl rfl rfl rfl rfl rfl rfl
theorem Keeps.leaveGroups (s : State) (a : Nat) (w : Group → Bool) : Keeps s (s.leaveGroups a w) := .of_tasks rfl rfl rfl rfl rfl rfl rfl rfl
theorem Keeps.dropWalkFault (s : State) (d a v : Nat) : Keeps s (s.dropWalkFault d a v) := .of_tasks rfl rfl rfl rfl rfl rfl rfl rfl

theorem Keeps.keepFreed (s : State) (t : Tile) : Keeps s (s.keepFreed t) := by
  unfold State.keepFreed
  dsimp only
  generalize (if t.wasFull then t.deps.filter fun n => s.inFlight.any fun r => r.serial == n else []) = deps
  split
  · exact Keeps.refl s
  · exact .of_tasks rfl rfl rfl rfl rfl rfl rfl rfl

theorem Keeps.dropDeferred (s : State) (k : Nat) : Keeps s (s.dropDeferred k) := by
  unfold State.dropDeferred
  exact (Keeps.foldl _ (fun _ _ => Keeps.toFirmware ..) _ _).trans (Keeps.updTask _ _ _ (KeepsTask.refl _))

theorem KeepsTask.wakeTile (t : Tile) (x : Task) : KeepsTask x (wakeTile t x) := by
  unfold Machine.wakeTile
  split
  · split <;> exact KeepsTask.refl _
  · exact KeepsTask.refl _

theorem Keeps.freeTile (s : State) (u : Nat) : Keeps s (s.freeTile u) := by
  unfold State.freeTile
  split
  · exact Keeps.refl s
  · rename_i t h
    have base : Keeps s { s.keepFreed t with tiles := s.tiles.filter (fun x => x.uid != u), tasks := s.tasks.map fun p => (p.1, Machine.wakeTile t p.2) } := by
      obtain ⟨h1, h2, h3, h4, h5, h6, h7, -⟩ := Keeps.keepFreed s t
      refine ⟨h1, h2, h3, h4, h5, h6, h7, fun k => ?_⟩
      simp only [State.task, Tab.get, Tab.find_map s.tasks _ (fun _ x => Machine.wakeTile t x) (fun _ => rfl)]
      cases Tab.find s.tasks k with
      | none => exact KeepsTask.refl _
      | some x => exact KeepsTask.wakeTile t x
    dsimp only
    split
    · exact base
    · split
      · split
        · exact base.trans (Keeps.updRun ..)
        · exact base.trans (Keeps.setPool ..)
      · exact base.trans (Keeps.setPool ..)

theorem Keeps.settleTile (s : State) (u : Nat) : Keeps s (s.settleTile u) := by
  unfold State.settleTile
  split
  · exact Keeps.refl s
  · split
    · exact Keeps.refl s
    · split
      · exact Keeps.freeTile s u
      · exact Keeps.refl s

theorem Keeps.ownerEndTile (s : State) (u : Nat) : Keeps s (s.ownerEndTile u) := by
  unfold State.ownerEndTile
  split
  · exact Keeps.refl s
  · split
    · split
      · exact Keeps.freeTile s u
      · exact Keeps.refl s
    · split
      · split
        · exact Keeps.freeTile s u
        · exact (Keeps.logEvent ..).trans (Keeps.freeTile ..)
      · exact Keeps.refl s
    · exact Keeps.refl s

theorem Keeps.abandonSlot (s : State) (u slot : Nat) (r : Owner) : Keeps s (s.abandonSlot u slot r) := by
  unfold State.abandonSlot
  split
  · exact Keeps.refl s
  · split
    · exact Keeps.refl s
    · exact ((Keeps.updTile ..).trans (Keeps.logEvent ..)).trans (Keeps.settleTile ..)

theorem Keeps.leftFilling (s : State) (u : Nat) : Keeps s (s.leftFilling u) := by
  unfold State.leftFilling
  split
  · exact Keeps.refl s
  · rename_i t ht
    have h := (Keeps.updTile s u fun x => { x with abandoned := [] }).trans
      (Keeps.foldl (fun x (p : Nat × Owner) => x.abandonSlot u p.1 p.2) (fun x p => Keeps.abandonSlot x u p.1 p.2) (t.abandoned ++ s.endedSlots t.owner) _)
    dsimp only
    split
    · exact h.trans (Keeps.ownerEndTile ..)
    · exact h.trans (Keeps.settleTile ..)

/-- A tile that no engine operation fills lowers no counter when it leaves FILLING (R50). -/
theorem State.filled_none (s : State) {t : Tile} (deps : List Nat) (h : t.filling = false) : s.filled t deps = s := by simp [State.filled, h]

theorem Keeps.sealTile (s : State) (u : Nat) (deps : List Nat) (hf : ∀ t, s.tileU u = some t → t.filling = false) :
    Keeps s (s.sealTile u deps) := by
  unfold State.sealTile
  split
  · exact Keeps.refl s
  · rename_i t h
    rw [State.filled_none s deps (hf t h)]
    exact (Keeps.updTile ..).trans (Keeps.leftFilling ..)

theorem Keeps.poisonTile (s : State) (u : Nat) (log : Bool) (hf : ∀ t, s.tileU u = some t → t.filling = false) :
    Keeps s (s.poisonTile u log) := by
  unfold State.poisonTile
  split
  · exact Keeps.refl s
  · rename_i t h
    rw [State.filled_none s [] (hf t h)]
    have h2 : Keeps s (if log then (s.updTile u fun x => { x with state := .poison, filling := false }).logEvent (tileSource t.die) 0xB t.partition
        (BitVec.ofNat 64 t.handle) 0 else s.updTile u fun x => { x with state := .poison, filling := false }) := by
      split
      · exact (Keeps.updTile ..).trans (Keeps.logEvent ..)
      · exact Keeps.updTile ..
    dsimp only
    split
    · exact h2.trans (Keeps.leftFilling ..)
    · exact h2.trans (Keeps.settleTile ..)

theorem KeepsTask.reachWait (u st : Nat) (x : Task) : KeepsTask x (reachWait u st x) := by
  unfold Machine.reachWait
  split
  · split <;> exact KeepsTask.refl _
  · exact KeepsTask.refl _

theorem Keeps.reached (s : State) (u st : Nat) : Keeps s (s.reached u st) := by
  refine ⟨rfl, rfl, rfl, rfl, rfl, rfl, rfl, fun k => ?_⟩
  simp only [State.reached, State.task, Tab.get, Tab.find_map s.tasks _ (fun _ x => Machine.reachWait u st x) (fun _ => rfl)]
  cases Tab.find s.tasks k with
  | none => exact KeepsTask.refl _
  | some x => exact KeepsTask.reachWait u st x

theorem Keeps.beginRead (s : State) (u : Nat) (slot : Option Nat) : Keeps s (s.beginRead u slot) := (Keeps.updTile ..).trans (Keeps.reached ..)

theorem Keeps.endRead (s : State) (u : Nat) (slot : Option Nat) : Keeps s (s.endRead u slot) := by
  unfold State.endRead
  split
  · exact Keeps.refl s
  · dsimp only
    split
    · exact ((Keeps.updTile ..).trans (Keeps.ownerEndTile ..)).trans (Keeps.settleTile ..)
    · exact (Keeps.updTile ..).trans (Keeps.settleTile ..)

theorem Keeps.readerEnd (s : State) (r : Owner) : Keeps s (s.readerEnd r) := by
  unfold State.readerEnd
  refine Keeps.trans (t := { s with bindings := _ }) (.of_tasks rfl rfl rfl rfl rfl rfl rfl rfl) ?_
  refine Keeps.foldl _ (fun x b => Keeps.foldl _ (fun y t => ?_) _ _) _ _
  split
  · exact Keeps.updTile ..
  · exact Keeps.abandonSlot ..

theorem Keeps.ownerEndOf (s : State) (t : Tile) : Keeps s (s.ownerEndOf t) := by
  unfold State.ownerEndOf
  dsimp only
  split
  · split
    · exact Keeps.updTile ..
    · split
      · exact (Keeps.updTile ..).trans (Keeps.freeTile ..)
      · exact ((Keeps.updTile ..).trans (Keeps.logEvent ..)).trans (Keeps.freeTile ..)
  · exact (Keeps.updTile ..).trans (Keeps.ownerEndTile ..)

theorem Keeps.ownerEnd (s : State) (o : Owner) : Keeps s (s.ownerEnd o) :=
  (Keeps.foldl State.ownerEndOf Keeps.ownerEndOf (s.tiles.filter fun t => t.owner == o) s).trans (.of_tasks rfl rfl rfl rfl rfl rfl rfl rfl)

theorem Keeps.cancelWait (s : State) (t : Nat) : Keeps s (s.cancelWait t) := by
  unfold State.cancelWait
  refine Keeps.trans (t := match (s.task t).waitFor with
    | some (.grant die _ id _) => s.withdraw die (s.partOf t) id
    | _ => s) ?_ (Keeps.updTask _ _ _ (KeepsTask.refl _))
  split
  · exact Keeps.withdraw ..
  · exact Keeps.refl s

/-- Stopping a task (R48) keeps every register. -/
theorem Keeps.stopTask (s : State) (t : Nat) (f : Report) : Keeps s (s.stopTask t f) := by
  unfold State.stopTask
  refine Keeps.trans ?_ (Keeps.updTask _ _ _ (KeepsTask.refl _))
  refine Keeps.trans ?_ (Keeps.readerEnd ..)
  refine Keeps.trans ?_ (Keeps.leaveGroups ..)
  have h1 : Keeps s (((s.cancelWait t).toFirmware (taskSource t) (s.partOf t) (s.taskRecord t 2 f)).dropDeferred t) :=
    ((Keeps.cancelWait ..).trans (Keeps.toFirmware ..)).trans (Keeps.dropDeferred ..)
  have h2 : Keeps s (match (s.task t).node with
      | some (g, n) => (((s.cancelWait t).toFirmware (taskSource t) (s.partOf t) (s.taskRecord t 2 f)).dropDeferred t).failNode g n 2 f.code
      | none => ((s.cancelWait t).toFirmware (taskSource t) (s.partOf t) (s.taskRecord t 2 f)).dropDeferred t) := by
    split
    · exact h1.trans (Keeps.failNode ..)
    · exact h1
  split
  · exact h2.trans (Keeps.updRun ..)
  · exact h2

/-- Taking an exception (R48, R225): a task outside its handler enters it, with EPC, the record and the pc as the entry says, and every
other register of every task is kept; a task in its handler is stopped. -/
theorem takeFault_cases (s : State) (t cls : Nat) (epc : BitVec 16) (f : Report) :
    ((s.task t).inHandler = true ∧ Keeps s (s.takeFault t cls epc f))
    ∨ ((s.task t).inHandler = false ∧ ∃ u, Keeps s u ∧ u.task t = { s.task t with waitFor := none, fwCall := none, fwReply := none }
        ∧ s.takeFault t cls epc f = u.updTask t fun x => x.enterHandler epc (s.taskRecord t cls f)) := by
  unfold State.takeFault
  by_cases h : (s.task t).inHandler = true
  · exact .inl ⟨h, by simp only [h, if_true]; exact Keeps.stopTask ..⟩
  · have h' : (s.task t).inHandler = false := by simpa using h
    refine .inr ⟨h', (s.cancelWait t).logFault (taskSource t) (s.partOf t) (s.taskRecord t cls f),
      (Keeps.cancelWait ..).trans (Keeps.logEvent ..), ?_, ?_⟩
    · have e : ((s.cancelWait t).logFault (taskSource t) (s.partOf t) (s.taskRecord t cls f)).task t = (s.cancelWait t).task t :=
        State.task_of_tasks rfl t
      rw [e]
      unfold State.cancelWait
      simp only [State.task_updTask]
      split <;> rfl
    · simp [h']

end Machine
end Sys2Proof
end

