-- ==== Sys2Proof/Laws/Mem.lean ====
section
/-! SUPPORT. Laws/Mem: every operation on a storage keeps its canonical form, and the storages at reset have it. -/
namespace Sys2Proof.Machine

theorem Memory.wfFrom_mono {m : Memory} {lo hi : Nat} (h : lo ≤ hi) (w : Memory.wfFrom hi m = true) : Memory.wfFrom lo m = true := by
  cases m with
  | nil => rfl
  | cons x t =>
    obtain ⟨a, b⟩ := x
    simp only [Memory.wfFrom, Bool.and_eq_true, decide_eq_true_eq] at w ⊢
    exact ⟨⟨by omega, w.1.2⟩, w.2⟩

theorem Memory.wfFrom_erase {m : Memory} {lo : Nat} (a : Nat) (w : Memory.wfFrom lo m = true) : Memory.wfFrom lo (m.erase a) = true := by
  induction m generalizing lo with
  | nil => rfl
  | cons x t ih =>
    obtain ⟨k, v⟩ := x
    simp only [Memory.wfFrom, Bool.and_eq_true, decide_eq_true_eq] at w
    simp only [Memory.erase]
    split
    · exact Memory.wfFrom_mono (by omega) w.2
    · simp only [Memory.wfFrom, Bool.and_eq_true, decide_eq_true_eq]
      exact ⟨w.1, ih w.2⟩

theorem Memory.wfFrom_insert {m : Memory} {lo a : Nat} {b : Byte} (hb : b ≠ Memory.unlisted) (ha : lo ≤ a)
    (w : Memory.wfFrom lo m = true) : Memory.wfFrom lo (m.insert a b) = true := by
  induction m generalizing lo with
  | nil => simp [Memory.insert, Memory.wfFrom, hb, ha]
  | cons x t ih =>
    obtain ⟨k, v⟩ := x
    simp only [Memory.wfFrom, Bool.and_eq_true, decide_eq_true_eq] at w
    simp only [Memory.insert]
    split
    · rename_i h
      simp only [Memory.wfFrom, Bool.and_eq_true, decide_eq_true_eq, bne_iff_ne]
      exact ⟨⟨ha, hb⟩, ⟨by omega, by simpa using w.1.2⟩, w.2⟩
    · split
      · rename_i h; subst h
        simp only [Memory.wfFrom, Bool.and_eq_true, decide_eq_true_eq, bne_iff_ne]
        exact ⟨⟨ha, hb⟩, w.2⟩
      · simp only [Memory.wfFrom, Bool.and_eq_true, decide_eq_true_eq]
        exact ⟨w.1, ih (by omega) w.2⟩

/-- A written byte keeps the form. -/
theorem Memory.wf_write {m : Memory} (a : Nat) (b : Byte) (w : m.wf = true) : (m.write a b).wf = true := by
  unfold Memory.write
  split
  · exact Memory.wfFrom_erase a w
  · rename_i h; exact Memory.wfFrom_insert h (Nat.zero_le a) w

/-- A run of written bytes keeps the form. -/
theorem Memory.wf_writeBytes {m : Memory} (a : Nat) (bs : List Byte) (w : m.wf = true) : (m.writeBytes a bs).wf = true := by
  induction bs generalizing m a with
  | nil => exact w
  | cons b bs ih => exact ih _ (Memory.wf_write a b w)

/-- Bytes written to a store whose addresses wrap keep the form. -/
theorem Memory.wf_writeWrap {m : Memory} (size a : Nat) (bs : List Byte) (w : m.wf = true) : (Memory.writeWrap size m a bs).wf = true := by
  induction bs generalizing m a with
  | nil => exact w
  | cons b bs ih => exact ih _ (Memory.wf_write _ b w)

theorem Memory.wfFrom_filter {m : Memory} {lo : Nat} (p : Host.Cell → Bool) (w : Memory.wfFrom lo m = true) :
    Memory.wfFrom lo (m.filter p) = true := by
  induction m generalizing lo with
  | nil => rfl
  | cons x t ih =>
    obtain ⟨k, v⟩ := x
    simp only [Memory.wfFrom, Bool.and_eq_true, decide_eq_true_eq] at w
    simp only [List.filter]
    split
    · simp only [Memory.wfFrom, Bool.and_eq_true, decide_eq_true_eq]
      exact ⟨w.1, ih w.2⟩
    · exact Memory.wfFrom_mono (by omega) (ih w.2)

/-- Clearing a range keeps the form. -/
theorem Memory.wf_zero {m : Memory} (a n : Nat) (w : m.wf = true) : (m.zero a n).wf = true := Memory.wfFrom_filter _ w

/-- Package memory at reset has the form. -/
theorem State.reset_mem_wf : State.reset.mem.wf = true := rfl

/-- Tile storage at reset has the form. -/
theorem State.reset_sram_wf : State.reset.sram.wf = true := rfl

/-- The stores of a sequencer at reset have the form. -/
theorem Sequencer.reset_wf : Sequencer.reset.istore.wf = true ∧ Sequencer.reset.dstore.wf = true := ⟨rfl, rfl⟩

/-- The form without the bound, for induction: what is not listed below an address. -/
theorem Memory.read_below {m : Memory} {lo x : Nat} (w : Memory.wfFrom lo m = true) (h : x < lo) : Memory.read m x = Memory.unlisted := by
  induction m generalizing lo with
  | nil => rfl
  | cons y t ih =>
    obtain ⟨k, v⟩ := y
    simp only [Memory.wfFrom, Bool.and_eq_true, decide_eq_true_eq] at w
    simp only [Memory.read]
    rw [if_neg (by omega)]
    exact ih w.2 (by omega)

end Sys2Proof.Machine
end

