-- ==== Sys2Proof/Tests/Slice0.lean ====
section
/-! SUPPORT. Tests/Slice0: decoding tests, refusals of ill-formed terms, and states that meet the hypotheses of the statements. -/
namespace Sys2Proof.Tests
open Sys2Proof.Machine

set_option Elab.async false
/-- R108 to R112: words of the alu family, bit by bit from the encoding tables. -/
theorem test_decode_alu :
    decodeSeq 0x02708800FFFFFFFF = .ok (.addImm ⟨false, 7⟩ 1 2 (-1))
    ∧ decodeSeq 0x017190A100000000 = .ok (.sub ⟨false, 7⟩ 3 4 5)
    ∧ decodeSeq 0x01A190AF00000000 = .ok (.sar ⟨true, 2⟩ 3 4 5)
    ∧ decodeSeq 0x0171901400000000 = .ok (.clz ⟨false, 7⟩ 3 4)
    ∧ decodeSeq 0x0271901600000008 = .ok (.sextImm ⟨false, 7⟩ 3 4 8) := by
  refine ⟨?_, ?_, ?_, ?_, ?_⟩ <;> decide +kernel

/-- R108 to R112: words of the constants family, bit by bit from the encoding tables. -/
theorem test_decode_constants :
    decodeSeq 0x0475100000000002 = .ok (.lui ⟨false, 7⟩ 10 4 2)
    ∧ decodeSeq 0x0570886600000000 = .ok (.sel ⟨false, 7⟩ 1 2 3 6) := by
  refine ⟨?_, ?_⟩ <;> decide +kernel

/-- R108 to R112: words of the predicates family, bit by bit from the encoding tables. -/
theorem test_decode_predicates :
    decodeSeq 0x0870886900000000 = .ok (.setp ⟨false, 7⟩ .gen 1 2 3)
    ∧ decodeSeq 0x0A70886800000000 = .ok (.plog ⟨false, 7⟩ 1 2 3 0b1000) := by
  refine ⟨?_, ?_⟩ <;> decide +kernel

/-- R108 to R112: words of the control family, bit by bit from the encoding tables. -/
theorem test_decode_control :
    decodeSeq 0x1010000000000020 = .ok (.br ⟨false, 1⟩ 0x20)
    ∧ decodeSeq 0x1170240000000000 = .ok (.brx ⟨false, 7⟩ 9)
    ∧ decodeSeq 0x12700000FFFFFFF8 = .ok (.call ⟨false, 7⟩ (-8))
    ∧ decodeSeq 0x1370000000000000 = .ok (.ret ⟨false, 7⟩)
    ∧ decodeSeq 0x14738000FFFFFFF0 = .ok (.loop ⟨false, 7⟩ 7 (-16))
    ∧ decodeSeq 0x1570000000000000 = .ok (.tend ⟨false, 7⟩)
    ∧ decodeSeq 0x1670000000000000 = .ok (.yield ⟨false, 7⟩)
    ∧ decodeSeq 0x1770000000000000 = .ok (.nop ⟨false, 7⟩) := by
  refine ⟨?_, ?_, ?_, ?_, ?_, ?_, ?_, ?_⟩ <;> decide +kernel

/-- R108 to R112: words of the channels family, bit by bit from the encoding tables. -/
theorem test_decode_channels :
    decodeSeq 0x1870000000000000 = .ok (.waitch ⟨false, 7⟩)
    ∧ decodeSeq 0x1971900000000000 = .ok (.recv ⟨false, 7⟩ 3 4)
    ∧ decodeSeq 0x1A9002E300020000 = .ok (.sendqReg ⟨true, 1⟩ (.stop 1) 0 23)
    ∧ decodeSeq 0x1A70140800008123 = .ok (.sendq ⟨false, 7⟩ .safe 5 0x8123) := by
  refine ⟨?_, ?_, ?_, ?_⟩ <;> decide +kernel

/-- R108 to R112: words of the store family, bit by bit from the encoding tables. -/
theorem test_decode_store :
    decodeSeq 0x20708805FFFFFFFC = .ok (.ld ⟨false, 7⟩ .hs 1 2 (-4))
    ∧ decodeSeq 0x2170880300000010 = .ok (.st ⟨false, 7⟩ .d 1 2 16) := by
  refine ⟨?_, ?_⟩ <;> decide +kernel

/-- R108 to R112: words of the global family, bit by bit from the encoding tables. -/
theorem test_decode_global :
    decodeSeq 0x28708B8600000000 = .ok (.ldg ⟨false, 7⟩ .ws .ord .sys 1 2 0)
    ∧ decodeSeq 0x2970894000000001 = .ok (.stg ⟨false, 7⟩ .b .rel .die 1 2 1)
    ∧ decodeSeq 0x2A7088792000001B = .ok (.atomgCas ⟨false, 7⟩ .d .ar .sys 1 2 3 4)
    ∧ decodeSeq 0x2A70886700000008 = .ok (.atomgXor ⟨false, 7⟩ .w .rlx .die 1 2 3) := by
  refine ⟨?_, ?_, ?_, ?_⟩ <;> decide +kernel

/-- R108 to R112: words of the tiles family, bit by bit from the encoding tables. -/
theorem test_decode_tiles :
    decodeSeq 0x3072980100000000 = .ok (.tallocReg ⟨false, 7⟩ 5 6)
    ∧ decodeSeq 0x3170140000000000 = .ok (.tseal ⟨false, 7⟩ 5)
    ∧ decodeSeq 0x3272140000000000 = .ok (.tstat ⟨false, 7⟩ 4 5)
    ∧ decodeSeq 0x3370200200000000 = .ok (.tload ⟨false, 7⟩ .w 0 8 0 0)
    ∧ decodeSeq 0x3470944100000006 = .ok (.tstore ⟨false, 7⟩ .h 1 5 2 6)
    ∧ decodeSeq 0x3576900000001048 = .ok (.txfer ⟨false, 7⟩ 13 4 ⟨false, 1, 0, 0, true, 1, 0⟩) := by
  refine ⟨?_, ?_, ?_, ?_, ?_, ?_⟩ <;> decide +kernel

/-- R108 to R112: words of the engines family, bit by bit from the encoding tables. -/
theorem test_decode_engines :
    decodeSeq 0x39700442180800C7 = .ok (.draws ⟨false, 7⟩ 1 2 3 2 0x800C7)
    ∧ decodeSeq 0x3A70146010000002 = .ok (.send ⟨false, 7⟩ 5 3 2 0 false .dev)
    ∧ decodeSeq 0x3B70044018000001 = .ok (.copym ⟨false, 7⟩ 1 2 3 .die) := by
  refine ⟨?_, ?_, ?_⟩ <;> decide +kernel

/-- R108 to R112: words of the runs family, bit by bit from the encoding tables. -/
theorem test_decode_runs :
    decodeSeq 0x4070880000000000 = .ok (.run ⟨false, 7⟩ 1 2)
    ∧ decodeSeq 0x4170080100000000 = .ok (.rstopNow ⟨false, 7⟩ 2)
    ∧ decodeSeq 0x4270086000000000 = .ok (.rswap ⟨false, 7⟩ 2 3)
    ∧ decodeSeq 0x4370080000000000 = .ok (.resume ⟨false, 7⟩ 2)
    ∧ decodeSeq 0x4470080000000000 = .ok (.glaunch ⟨false, 7⟩ 2) := by
  refine ⟨?_, ?_, ?_, ?_, ?_⟩ <;> decide +kernel

/-- R108 to R112: words of the waits family, bit by bit from the encoding tables. -/
theorem test_decode_waits :
    decodeSeq 0x487000003FFF83FF = .ok (.wait ⟨false, 7⟩ ⟨31, 31, 31, 0, 31, 31⟩)
    ∧ decodeSeq 0x4970080000000004 = .ok (.waitt ⟨false, 7⟩ 2 4)
    ∧ decodeSeq 0x4A70000600000000 = .ok (.fenceRel ⟨false, 7⟩ .dev)
    ∧ decodeSeq 0x4A70000F00000000 = .ok (.fenceOrd ⟨false, 7⟩ .sys) := by
  refine ⟨?_, ?_, ?_, ?_⟩ <;> decide +kernel

/-- R108 to R112: words of the groups family, bit by bit from the encoding tables. -/
theorem test_decode_groups :
    decodeSeq 0x4B70080000000000 = .ok (.gjoin ⟨false, 7⟩ 2)
    ∧ decodeSeq 0x4C70080000000000 = .ok (.gleave ⟨false, 7⟩ 2)
    ∧ decodeSeq 0x4D70880000000000 = .ok (.garr ⟨false, 7⟩ 1 2)
    ∧ decodeSeq 0x4E70044000000000 = .ok (.gwait ⟨false, 7⟩ 1 2) := by
  refine ⟨?_, ?_, ?_, ?_⟩ <;> decide +kernel

/-- R108 to R112: words of the system family, bit by bit from the encoding tables. -/
theorem test_decode_system :
    decodeSeq 0x5070100300000007 = .ok (.safept ⟨false, 7⟩ 3 3 (some 0x20))
    ∧ decodeSeq 0x51700000FFFFFFFF = .ok (.trap ⟨false, 7⟩ 0xFFFFFFFF)
    ∧ decodeSeq 0x5270000000000000 = .ok (.eret ⟨false, 7⟩)
    ∧ decodeSeq 0x537088000000ABCD = .ok (.fwcall ⟨false, 7⟩ 1 2 0xABCD)
    ∧ decodeSeq 0x5470800000000000 = .ok (.rdts ⟨false, 7⟩ 1)
    ∧ decodeSeq 0x5570800B00000000 = .ok (.crd ⟨false, 7⟩ 1 .spcount)
    ∧ decodeSeq 0x5670040300000000 = .ok (.cwr ⟨false, 7⟩ .safegap 1)
    ∧ decodeSeq 0x5770044100000000 = .ok (.cinvCode ⟨false, 7⟩ 1 2)
    ∧ decodeSeq 0x587004000000FFF8 = .ok (.iload ⟨false, 7⟩ 1 0x1FFF) := by
  refine ⟨?_, ?_, ?_, ?_, ?_, ?_, ?_, ?_, ?_⟩ <;> decide +kernel

/-- R109 and the rules it gathers: a zero word, an unlisted major, a branch offset not a multiple of 8, LOOP of S0, a field that must be zero, scope RUN, sign with D, ALU code 24, condition 10, SENDQ kind 2, STOP level 0, TXFER die 6, WAITT state 5, reserved tile mode, a predicate field above 7, control register 12, CWR of FREC0 are rejected. -/
theorem test_rejects :
    ([0x0000000000000000, 0x0670000000000000, 0x1070000000000004, 0x1470000000000008, 0x1570800000000000, 0x2870882000000000,
      0x2070880700000000, 0x0170887800000000, 0x0870886A00000000, 0x1A70044500000000, 0x1A70044300000000, 0x3570880000000006,
      0x4970040000000005, 0x3070800000060000, 0x0974040000000000, 0x5570800C00000000, 0x5670040400000000] : List (BitVec 64)).all (fun w => match decodeSeq w with | .error _ => true | .ok _ => false) = true := by
  decide +kernel

/-- R143 and the manual's worked example of CVT. -/
theorem test_decode_convert : decodeFrame 0x1100202000000FC0003F00006200FE00FCFE001000000000000000000000000B = .ok (.op ⟨.cc, 2, 0⟩ (.cvt { cell := 2, stage := 0, ty := .f32, a := ⟨.pa 0, 0, false, false, false, 0⟩, b := ⟨.unused, 0, false, false, false, 0⟩, c := ⟨.unused, 0, false, false, false, 0⟩, oa := ⟨.st 1, .forward⟩, ob := ⟨.none, .forward⟩, pin := .none, psense := false, pout := .none, rm := .rne, sat := false, stats := false, silt := 0, level := 1, flags := 0, imm := 0, ext := 0xB })) := by decide +kernel

/-- the worked example of one MMAQ frame. -/
theorem test_decode_matrix : decodeFrame 0x10A080AC00000040003F00000400FE00FCFE002000000000000000000000003E = .ok (.op ⟨.cc, 1, 2⟩ (.mmaq { cell := 1, stage := 2, ty := .e4m3, a := ⟨.pa 0, 0, false, false, false, 0⟩, b := ⟨.pa 1, 0, false, false, false, 0⟩, c := ⟨.unused, 0, false, false, false, 0⟩, oa := ⟨.pa 2, .forward⟩, ob := ⟨.none, .forward⟩, pin := .none, psense := false, pout := .none, rm := .rne, sat := false, stats := false, silt := 0, level := 2, flags := 0, imm := 0, ext := 0x3E })) := by decide +kernel

/-- the worked example of LDS. -/
theorem test_decode_loadStationary : decodeFrame 0x1000803A00000840003F00004400FE00FCFE0021000000000000000000000030 = .ok (.op ⟨.cc, 0, 0⟩ (.lds { cell := 0, stage := 0, ty := .q4, a := ⟨.sl 0, 0, false, false, false, 0⟩, b := ⟨.sl 1, 0, false, false, false, 0⟩, c := ⟨.unused, 0, false, false, false, 0⟩, oa := ⟨.sl 2, .forward⟩, ob := ⟨.none, .forward⟩, pin := .none, psense := false, pout := .none, rm := .rne, sat := false, stats := false, silt := 0, level := 2, flags := 1, imm := 0, ext := 0x30 })) := by decide +kernel

/-- the worked example of the scale stage. -/
theorem test_decode_multiply : decodeFrame 0x101000D30000007FC03F00006400FE00FCFE0040000000000000000000000000 = .ok (.op ⟨.cc, 0, 1⟩ (.ccMul { cell := 0, stage := 1, ty := .i32, a := ⟨.st 0, 0, false, false, false, 0⟩, b := ⟨.pa 1, 255, false, false, false, 0⟩, c := ⟨.unused, 0, false, false, false, 0⟩, oa := ⟨.st 2, .forward⟩, ob := ⟨.none, .forward⟩, pin := .none, psense := false, pout := .none, rm := .rne, sat := false, stats := false, silt := 0, level := 4, flags := 0, imm := 0, ext := 0 })) := by decide +kernel

/-- the worked example of the scan stage. -/
theorem test_decode_scan : decodeFrame 0x100028E000000FC0003F00000000FE00FCFE0030000000000000000000000000 = .ok (.op ⟨.cc, 0, 0⟩ (.scan { cell := 0, stage := 0, ty := .f32, a := ⟨.pa 0, 0, false, false, false, 0⟩, b := ⟨.unused, 0, false, false, false, 0⟩, c := ⟨.unused, 0, false, false, false, 0⟩, oa := ⟨.pa 0, .forward⟩, ob := ⟨.none, .forward⟩, pin := .none, psense := false, pout := .none, rm := .rne, sat := false, stats := false, silt := 0, level := 3, flags := 0, imm := 0, ext := 0 })) := by decide +kernel

/-- R102. -/
theorem test_decode_switch : decodeFrame 0x3080E01FFFFFFFFFC10020000FE00FE00FE00FE00FE00FE00FE0008000200000 = .ok (.op ⟨.sw, 1, 0⟩ (.selx { index := 1, ty := .b32, ins := ((Vector.replicate 8 .unused).set 0 (.pa 0)).set 1 (.pa 1), idx := ⟨.pa 2, 0, false, false, false, 0⟩, outs := (Vector.replicate 8 ⟨.none, .forward⟩).set 0 ⟨.pa 4, .forward⟩, flags := 0, level := 1 })) := by decide +kernel

/-- R103. -/
theorem test_decode_predicateNode : decodeFrame 0x41805003F430811FFFFF4A400000000000000000000000000000000000000000 = .ok (.op ⟨.pn, 3, 0⟩ (.plogic { index := 3, in0 := .pp 2, sense0 := false, in1 := .pl 1, sense1 := true, in2 := .none, sense2 := false, table := 0b1000, out0 := .pl 5, out1 := .none, out2 := .none, out3 := .none, level := 1, pattern := 0, plen := 0 })) := by decide +kernel

/-- R104. -/
theorem test_decode_siltNode : decodeFrame 0x50805443F8C48D14480000000000000000000000000000000000000000000000 = .ok (.op ⟨.sn, 1, 0⟩ (.snsink { index := 1, dst := .none, inputs := 3, handle := 0x12345, mode := false, row := 9 })) := by decide +kernel

/-- R92. -/
theorem test_decode_head : decodeFrame 0x00000054C8020800100000000EF56DF778300000000000000000000000000000 = .ok (.hd ⟨5, 2, 3, false, false, true, 0x41, 2, 1, 0xDEADBEEF, 6⟩) := by decide +kernel

/-- R90: the end frame, and a frame of a reserved class. -/
theorem test_decode_last : decodeFrame 0xF000000000000000000000000000000000000000000000000000000000000000 = .ok .last ∧ decodeFrame 0x6000000000000000000000000000000000000000000000000000000000000000 = .error .badAddress := by
  refine ⟨?_, ?_⟩ <;> decide +kernel

/-- A port that names a pass channel, and one that names nothing. -/
def pA : Port := ⟨.pa 0, 0, false, false, false, 0⟩
/-- See `pA`. -/
def pU : Port := ⟨.unused, 0, false, false, false, 0⟩

/-- A well-formed stage frame of an integer op of A and B. -/
def ccf : CCFrame :=
  { cell := 0, stage := 0, ty := .i32, a := pA, b := ⟨.pa 1, 0, false, false, false, 0⟩, c := pU, oa := ⟨.pa 2, .forward⟩, ob := ⟨.none, .forward⟩, pin := .none, psense := false
    pout := .none, rm := .rne, sat := false, stats := false, silt := 0, level := 1, flags := 0, imm := 0, ext := 0 }

/-- A well-formed access frame. -/
def mcf : MCFrame :=
  { cell := 0, ty := .b32, handle := 1, fromC := false, a := pA, b := ⟨.pa 1, 0, false, false, false, 0⟩, c := pU, oa := ⟨.pa 2, .forward⟩, ob := ⟨.none, .forward⟩, pin := .none
    psense := false, pout := .none, consume := false, level := 1, scope := .die, subop := 0, sat := false, sealEnd := false, silt := 0, stats := false, imm := 0 }

/-- A well-formed generator frame. -/
def agf : AGFrame := { cell := 0, mode := .affine, dims := 1, d0 := ⟨2, 64, 1, false, false⟩, d1 := ⟨0, 0, 0, false, false⟩, d2 := ⟨0, 0, 0, false, false⟩, d3 := ⟨0, 0, 0, false, false⟩, base := 0 }

/-- A well-formed switch frame with two inputs and two outputs. -/
def swf : SWFrame :=
  { index := 0, ty := .b32, ins := ((Vector.replicate 8 .unused).set 0 (.pa 0)).set 1 (.pa 1), idx := ⟨.pa 2, 0, false, false, false, 0⟩
    outs := ((Vector.replicate 8 ⟨.none, .forward⟩).set 0 ⟨.pa 4, .forward⟩).set 1 ⟨.pa 5, .forward⟩, flags := 0, level := 1 }

/-- A well-formed predicate-node frame. -/
def pnf : PNFrame :=
  { index := 0, in0 := .pp 0, sense0 := false, in1 := .none, sense1 := false, in2 := .none, sense2 := false, table := 2, out0 := .pl 0, out1 := .none, out2 := .none, out3 := .none
    level := 1, pattern := 0, plen := 1 }

/-- A well-formed Silt-node frame. -/
def snf : SNFrame := { index := 0, dst := .q 1, inputs := 1, handle := 0, mode := true, row := 0 }

/-- R95: the lane field without broadcast, an odd lane for a 64-bit type, a modifier for a type that has none, a hold count on a constant. -/
theorem test_wf_port : (pA.wf .i32) = true ∧ ([Port.wf ⟨.pa 0, 0, false, false, false, 1⟩ .i32, Port.wf ⟨.pa 0, 0, false, false, true, 1⟩ .i64, Port.wf ⟨.pa 0, 0, true, false, false, 0⟩ .b32, Port.wf ⟨.pa 0, 0, false, true, false, 0⟩ .e4m3, Port.wf ⟨.imm, 2, false, false, false, 0⟩ .i32] : List Bool).all (fun x => !x) = true := by decide

/-- R94: each port's form, op level 0, a Silt node without statistics, a Silt node above 7. -/
theorem test_wf_stage : ccf.wf = true ∧ ([CCFrame.wf { ccf with a := ⟨.imm, 2, false, false, false, 0⟩ }, CCFrame.wf { ccf with b := ⟨.imm, 2, false, false, false, 0⟩ }, CCFrame.wf { ccf with c := ⟨.imm, 2, false, false, false, 0⟩ }, CCFrame.wf { ccf with level := 0 }, CCFrame.wf { ccf with silt := 1 }, CCFrame.wf { ccf with stats := true, silt := 8 }] : List Bool).all (fun x => !x) = true := by decide

/-- R99: each port's form, stage sources and destinations, stage predicates, a fixed handle beside port C's, op level 0, the Silt node. -/
theorem test_wf_access : mcf.wf = true ∧ ([MCFrame.wf { mcf with a := ⟨.imm, 2, false, false, false, 0⟩ }, MCFrame.wf { mcf with b := ⟨.imm, 2, false, false, false, 0⟩ }, MCFrame.wf { mcf with c := ⟨.imm, 2, false, false, false, 0⟩ }, MCFrame.wf { mcf with a := ⟨.st 0, 0, false, false, false, 0⟩ }, MCFrame.wf { mcf with b := ⟨.st 0, 0, false, false, false, 0⟩ }, MCFrame.wf { mcf with c := ⟨.st 0, 0, false, false, false, 0⟩ }, MCFrame.wf { mcf with oa := ⟨.st 0, .forward⟩ }, MCFrame.wf { mcf with ob := ⟨.st 0, .forward⟩ }, MCFrame.wf { mcf with pin := .ps 0 }, MCFrame.wf { mcf with pout := .ps 0 }, MCFrame.wf { mcf with fromC := true }, MCFrame.wf { mcf with level := 0 }, MCFrame.wf { mcf with silt := 8 }, MCFrame.wf { mcf with stats := true, silt := 8 }] : List Bool).all (fun x => !x) = true := by decide

/-- R101: dimensions 0 exactly in mode off, and the fields of the dimensions not used. -/
theorem test_wf_generator : agf.wf = true ∧ ([AGFrame.wf { agf with dims := 0 }, AGFrame.wf { agf with mode := .off }, AGFrame.wf { agf with d1 := ⟨1, 0, 0, false, false⟩ }, AGFrame.wf { agf with d2 := ⟨0, 4, 0, false, false⟩ }, AGFrame.wf { agf with d3 := ⟨0, 0, 1, false, false⟩ }, AGFrame.wf { agf with d3 := ⟨0, 0, 0, true, false⟩ }, AGFrame.wf { agf with mode := .off, dims := 0 }] : List Bool).all (fun x => !x) = true := by decide

/-- R102, R218: inputs, the index port's form, modifiers and sources, op level 0. -/
theorem test_wf_switch : swf.wf = true ∧ ([SWFrame.wf { swf with ins := swf.ins.set 0 .imm }, SWFrame.wf { swf with ins := swf.ins.set 0 (.st 0) }, SWFrame.wf { swf with idx := ⟨.pa 2, 0, false, false, false, 3⟩ }, SWFrame.wf { swf with ty := .i32, idx := ⟨.pa 2, 0, true, false, false, 0⟩ }, SWFrame.wf { swf with ty := .i32, idx := ⟨.pa 2, 0, false, true, false, 0⟩ }, SWFrame.wf { swf with idx := ⟨.imm, 0, false, false, false, 0⟩ }, SWFrame.wf { swf with idx := ⟨.st 1, 0, false, false, false, 0⟩ }, SWFrame.wf { swf with level := 0 }] : List Bool).all (fun x => !x) = true := by decide

/-- R169: stage edges as inputs and outputs, a sense on an unused input, op level 0. -/
theorem test_wf_node : pnf.wf = true ∧ ([PNFrame.wf { pnf with in0 := .ps 0 }, PNFrame.wf { pnf with in1 := .ps 0 }, PNFrame.wf { pnf with in2 := .ps 0 }, PNFrame.wf { pnf with sense1 := true }, PNFrame.wf { pnf with sense2 := true }, PNFrame.wf { pnf with out0 := .ps 0 }, PNFrame.wf { pnf with out1 := .ps 0 }, PNFrame.wf { pnf with out2 := .ps 0 }, PNFrame.wf { pnf with out3 := .ps 0 }, PNFrame.wf { pnf with level := 0 }] : List Bool).all (fun x => !x) = true := by decide

/-- R104, R109, R112, R113, R236: no inputs; offsets; endpoints; descriptors; the reserved mode of a transfer; LOOP of S0. -/
theorem test_wf_words : (snf.wf && Instr.wf (.br ⟨false, 7⟩ 8) && Instr.wf (.sendq ⟨false, 7⟩ .data 1 0x82C8)) = true ∧ ([SNFrame.wf { snf with inputs := 0 }, Instr.wf (.br ⟨false, 7⟩ 4), Instr.wf (.call ⟨false, 7⟩ 1), Instr.wf (.loop ⟨false, 7⟩ 0 8), Instr.wf (.loop ⟨false, 7⟩ 1 2), Instr.wf (.sendq ⟨false, 7⟩ .data 1 0x8010), Instr.wf (.sendq ⟨false, 7⟩ .data 1 0x8300), Instr.wf (.sendq ⟨false, 7⟩ .data 1 0x8400), Instr.wf (.talloc ⟨false, 7⟩ 1 0x60000), Instr.wf (.draw ⟨false, 7⟩ 1 2 3 0x60000), Instr.wf (.draws ⟨false, 7⟩ 1 2 3 0 0x400), Instr.wf (.txfer ⟨false, 7⟩ 1 2 ⟨false, 1, 3, 0, false, 1, 0⟩)] : List Bool).all (fun x => !x) = true := by decide
/-! ### States for the witnesses -/

/-- Unguarded. -/
def gd : Guard := ⟨false, 7⟩

/-- A page of context 5 on a die, mapped 2 MiB up, shared and with every permission. -/
def page (die n : Nat) : TlbEntry :=
  { die := die, asid := 5, page := n, base := 4096 * n, size := 4096, pa := 2 ^ 21 + 4096 * n, format := 0, read := true, write := true, atomic := true
    shared := true, cls := 0, side := 0, fault := none }

/-- Partition 2, ACTIVE, with rings 0 and 1 and one shared unit of memory; its pool on die 0 has room; context 5 has pages 0 and 1 on die 0 and
page 0 for the graph scheduler; slot 0 of ring 0 is RUNNABLE in that context, with handler address 0x100, S1 = 64 and S2 = 5. -/
def base : State :=
  { State.reset with
    tasks := [(0, { Task.reset with status := .runnable, context := 5, hvec := 0x100, regs := (Task.reset.regs.set 1 64).set 2 5 })]
    partitions := [(2, { Partition.reset with state := .active, rings := [0, 1], units := [(1, true)], contexts := [5], defaultCtx := 5 })]
    pools := [(2, { Pool.reset with res := 1000, lim := 2000, quota := 1000 })]
    tlb := [page 0 0, page 0 1, page 6 0] }

/-- The registers of slot 0 set. -/
def withRegs (l : List (Reg × Word)) : State := base.updTask 0 fun x => l.foldl (fun y p => y.setReg p.1 p.2) x

/-- An instruction that its registers and its gate let through issues. -/
theorem issues_of {g : Guard} {gate : Gate} {rs ws : List Reg} {s : State}
    (h : (Guard.holds g s.me && (s.pendingOn s.cur (rs ++ ws)).isEmpty && decide (s.me.dueAt (rs ++ ws) ≤ s.clk) && rs.all (fun r => !s.me.softErr.contains r.val)
      && (s.heldBy s.cur gate).isEmpty) = true) :
    Issues g gate rs ws s := by
  simp only [Bool.and_eq_true, List.isEmpty_iff, List.all_eq_true, Bool.not_eq_true', List.contains_eq_mem, decide_eq_false_iff_not, decide_eq_true_eq] at h
  exact ⟨h.1.1.1.1, h.1.1.1.2, h.1.1.2, h.1.2, h.2⟩

/-- The memories are in canonical form. -/
theorem form_of {s : State} (h : (s.mem.wf && s.sram.wf && s.seqs.all fun q => q.2.istore.wf && q.2.dstore.wf) = true) : MemoryForm s := by
  simp only [Bool.and_eq_true, List.all_eq_true] at h
  exact ⟨h.1.1, h.1.2, h.2⟩

/-! ### The hypotheses of the statements can be met -/

/-- FalseGuardOnlyAdvances. -/
theorem wit_falseGuard : encodeSeq (.add ⟨true, 7⟩ 3 1 2) = some 0x01F18440_00000000 ∧ Guard.holds (seqFields 0x01F1844000000000).guard base.me = false := by
  refine ⟨by decide +kernel, by decide +kernel⟩

/-- AluAndConstantsComplete and PredicatesComplete: with a destination, and with S0 as the destination. -/
theorem wit_alu : Issues gd .free [1, 2] [3] base ∧ Issues gd .free [1] [0] base ∧ Issues gd .free [] [31] base ∧ Issues gd .free [1, 2] [] base :=
  by unfold Issues; and_intros <;> decide +kernel

/-- BranchesCompleteOrTrap: targets that are and are not multiples of 8, in a register and in S31, and LOOP at 1, at 0 and above. -/
theorem wit_branches : Issues gd .free [1] [] base ∧ (base.r 1).toNat % 8 = 0 ∧ Issues gd .free [2] [] base ∧ (base.r 2).toNat % 8 ≠ 0
    ∧ Issues gd .free [31] [] base ∧ (base.r 31).toNat % 8 = 0 ∧ Issues gd .free [31] [] (withRegs [(31, 4)]) ∧ ((withRegs [(31, 4)]).r 31).toNat % 8 ≠ 0
    ∧ Issues gd .free [2] [2] base ∧ base.r 2 ≠ 1 ∧ Issues gd .free [2] [2] (withRegs [(2, 1)]) ∧ (withRegs [(2, 1)]).r 2 = 1 ∧ base.r 3 = 0 :=
  by unfold Issues; and_intros <;> decide +kernel

/-- NopYieldTendComplete. -/
theorem wit_nop : Issues gd .free [] [] base := issues_of (by decide)

/-- RegisterFrame. -/
theorem wit_frame : writesOf (.add gd 3 1 2) = some (3, 7) ∧ ∃ t, exec (.add gd 3 1 2) base = .next t := ⟨rfl, _, rfl⟩

/-- A channel of slot 0 that holds one entry, and one that is full. -/
def queued (n : Nat) : State := base.setQueue 0 (List.replicate n ⟨0, 0, false, 9, []⟩)

/-- ChannelReadsComplete: with an entry and without. -/
theorem wit_channel : (queued 1).queue (queued 1).cur = [⟨0, 0, false, 9, []⟩] ∧ (queued 1).applied (queued 1).myDie [] = true
    ∧ Issues gd .free [] [3, 4] (queued 1) ∧ base.queue base.cur = [] ∧ Issues gd .free [] [3, 4] base :=
  ⟨by decide, by decide, issues_of (by decide), by decide, issues_of (by decide)⟩

/-- SendqDelivers: an endpoint with room, a full one, a disabled one, a reserved one and one outside the partition. -/
theorem wit_sendq : base.me.waitFor = none ∧ Issues gd .free [1] [] base ∧ Issues gd .free [1, 2] [] base ∧ base.accessesOf base.cur = []
    ∧ ({ base with accesses := [⟨7, 0, 0, 0, .load .d 3, .rlx, .dev, 2, 5, 64, [(2 ^ 21 + 64, 8, true)], [0], 0, [], [], none⟩] } : State).accessesOf base.cur ≠ []
    ∧ endpointOf 0x8000 = some ⟨true, 0, 0⟩ ∧ base.ringPart 0 = some base.myPart ∧ (base.queue 0).length < 32 ∧ 32 ≤ ((queued 32).queue 0).length
    ∧ endpointOf 0x0000 = some ⟨false, 0, 0⟩ ∧ endpointOf 0x8010 = none ∧ endpointOf 0x8080 = some ⟨true, 4, 0⟩ ∧ base.ringPart 4 ≠ some base.myPart :=
  by unfold Issues; and_intros <;> decide +kernel

/-- DataStoreAccesses: at the first byte, and at an access that wraps. -/
theorem wit_dataStore : Issues gd .free [1] [3] base ∧ (base.sequencer (taskRing base.cur)).dataBad (dataAddr (base.r 1) 0) (LoadSize.bytes .d) = false
    ∧ Issues gd .free [1, 2] [] base ∧ dataAddr (base.r 1) (-65) = 131071 ∧ MemoryForm base :=
  ⟨issues_of (by decide), by decide, issues_of (by decide), by decide, by decide, by decide, by decide⟩

/-- GlobalAccessesIssueOrTrap: parts that translate, an unmapped page, a page that may not be read, and a walk that failed. -/
theorem wit_issue : base.translateParts 0 2 5 ⟨true, false, false⟩ (partsOf 64 8) = .ok [(2 ^ 21 + 64, 8, true)] [0]
    ∧ base.translateParts base.myDie base.myPart base.myAsid ⟨false, true, false⟩ (partsOf (base.r 1 + BitVec.signExtend 64 (0 : BitVec 32)).toNat 8) = .ok [(2 ^ 21 + 64, 8, true)] [0]
    ∧ base.translateParts base.myDie base.myPart base.myAsid ⟨true, true, true⟩ (partsOf 64 8) = .ok [(2 ^ 21 + 64, 8, true)] [0]
    ∧ base.me.cnt.ld.toNat < 255 ∧ Issues gd .store [1, 2, 0] [3] base
    ∧ base.translateParts base.myDie base.myPart base.myAsid ⟨true, false, false⟩ (partsOf 8192 8) = .miss [2]
    ∧ ({ base with tlb := [{ page 0 0 with read := false }] } : State).translateParts 0 2 5 ⟨true, false, false⟩ (partsOf 64 8) = .bad fPERM 1 64
    ∧ ({ base with tlb := [{ page 0 0 with fault := some fXLATE }] } : State).translateParts 0 2 5 ⟨true, false, false⟩ (partsOf 64 8) = .bad fXLATE 7 64 := by
  refine ⟨rfl, rfl, rfl, by decide, issues_of (by decide), rfl, rfl, rfl⟩

/-- A load, a store or an atomic of slot 0 at address 64 that is on its way. -/
def accessing (op : GOp) : State := { base with accesses := [⟨7, 0, 0, 0, op, .rlx, .dev, 2, 5, 64, [(2 ^ 21 + 64, 8, true)], [0], 0, [(0, 0)], [], none⟩] }

/-- GlobalAccessCompletes. -/
theorem wit_completes : ∀ op ∈ [GOp.load .d 3, .load .b 0, .store .d 3 5, .atom 9 .d 5 6 3, .atom 0 .d 5 0 3],
    MemoryForm (accessing op) ∧ (∃ a, (accessing op).accesses = [a] ∧ a.serial = 7 ∧ a.op = op ∧ a.written = none ∧ a.got = [] ∧ a.order = .rlx
      ∧ a.parts = [(2 ^ 21 + 64, 8, true)] ∧ taskDie a.task < 6 ∧ (accessing op).mayPerform a = true)
    ∧ (accessing op).blockFault true (2 ^ 21 + 64) = none ∧ ∀ i < 8, paHbm (2 ^ 21 + 64 + i) = true := by
  simp only [List.mem_cons, List.not_mem_nil, or_false, forall_eq_or_imp, forall_eq]
  refine ⟨?_, ?_, ?_, ?_, ?_⟩
  all_goals exact ⟨form_of (by decide), ⟨_, rfl, rfl, rfl, rfl, rfl, rfl, rfl, by decide, by decide⟩, by decide, by decide⟩

/-- GlobalAccessCompletes: an LDG, STG and ATOMG of an aligned address, and a store of the ordered class that has been written. -/
theorem wit_twoSteps : MemoryForm base ∧ base.myDie < 6 ∧ base.accessesOf base.cur = [] ∧ base.accesses = [] ∧ base.inFlight = [] ∧ base.blockFault true (2 ^ 21 + 64) = none
    ∧ base.knownInc 0 (base.homeOf (2 ^ 21 + 64)) = base.inc (base.homeOf (2 ^ 21 + 64)) ∧ (∀ i < 8, paHbm (2 ^ 21 + 64 + i) = true)
    ∧ Issues gd .free [1] [3] base ∧ Issues gd .store [1, 2] [] base ∧ Issues gd .store [1, 2, 0] [3] base ∧ base.r 1 + BitVec.signExtend 64 (0 : BitVec 32) = 64
    ∧ base.me.cnt.ld.toNat < 255 ∧ base.me.cnt.st.toNat < 255
    ∧ (∀ n ∈ [(⟨true, false, false⟩ : Need), ⟨false, true, false⟩, ⟨true, true, true⟩], base.translate 0 2 5 64 n = .ok (2 ^ 21 + 64) (page 0 0))
    ∧ base.upToDate 0 (2 ^ 21 + 64) 8 = true
    ∧ (∃ a : GAccess, ({ base with accesses := [⟨7, 0, 0, 0, .store .d 3 5, .ord, .dev, 2, 5, 64, [], [], 0, [], [], some 4⟩] } : State).accesses.find? (fun b => b.serial == 7) = some a
        ∧ a.written = some 4 ∧ a.op = .store .d 3 5) := by
  refine ⟨form_of (by decide), by decide, by decide, rfl, rfl, by decide +kernel, by decide +kernel, by decide, issues_of (by decide), issues_of (by decide), issues_of (by decide),
    by decide, by decide, by decide, by decide +kernel, by decide +kernel, _, rfl, rfl, rfl⟩

/-- Two writes on their way to die 1, the second ordered after the first. -/
def sending : State := { base with inFlight := [⟨1, 0, 1, [], 2 ^ 21, [none, some 2], none, none⟩, ⟨2, 0, 1, [1], 2 ^ 21 + 8, [some 3], none, none⟩] }

/-- RemoteWriteApplies: a write that may be applied and one that may not. -/
theorem wit_remote : (∃ r, sending.inFlight.find? (fun r => r.dst == 1 && r.serial == 1) = some r ∧ sending.canApply r = true
      ∧ (∀ y ∈ sending.stale, y.die = 1 → y.pa = 2 ^ 21 + 1 → y.serial < 1)
      ∧ r.covers (2 ^ 21 + 1) = true ∧ r.covers (2 ^ 21) = false
      ∧ ∀ q ∈ sending.inFlight, q.dst = 1 → 1 < q.serial → q.covers (2 ^ 21 + 1) = false)
    ∧ ∃ r, sending.inFlight.find? (fun r => r.dst == 1 && r.serial == 2) = some r ∧ sending.canApply r = false := by
  refine ⟨⟨_, rfl, by decide, by decide, by decide, by decide, by decide⟩, _, rfl, by decide⟩

/-- TallocMakesTileOrWaits: one row granted at once, a pinned tile, a reserved mode, an invalid format, and a pool that has no room. -/
theorem wit_talloc : Issues gd .system [] [3] base ∧ Issues gd .system [1] [3] (withRegs [(1, 0x80000)])
    ∧ ((withRegs [(1, 0x80000)]).r 1).extractLsb' 0 27 = 0x80000
    ∧ base.me.waitFor = none ∧ base.myPart < 16
    ∧ [(0x80000 : BitVec 27), 0x40000].all (fun desc => countOk (descOf desc).mode (descOf desc).count && shapeOk (descOf desc).k (descOf desc).format
      && base.grantNow base.myDie base.myPart (descOf desc).hb true (granulesOf (descOf desc).rows (descOf desc).k (descOf desc).format)) = true
    ∧ countOk (descOf 0x60000).mode (descOf 0x60000).count = false ∧ countOk (descOf 0).mode (descOf 0).count = false
    ∧ countOk (descOf 0x83C00).mode (descOf 0x83C00).count = true ∧ shapeOk (descOf 0x83C00).k (descOf 0x83C00).format = false
    ∧ Issues gd .system [] [3] { base with pools := [] } ∧ ({ base with pools := [] } : State).grantNow 0 2 (descOf 0x80000).hb true 1 = false
    ∧ (descOf 0x80000).hb = false ∧ granulesOf (descOf 0x80000).rows (descOf 0x80000).k (descOf 0x80000).format = 1 := by
  unfold Issues; and_intros <;> decide +kernel

/-- A tile of one row, k = 1, format I8 in the granule 5 of die 0, with handle 64. -/
def tl (st : TileState) : Tile :=
  { uid := 11, die := 0, handle := 64, partition := 2, state := st, mode := .anonymous, reads := 2, inProg := 0, rmask := 0, done := 0, rows := 1, k := 1
    format := 0, hb := false, filling := false, valid := 1, owner := .activation 0, storage := [5], funded := none, slotsIn := [], doomed := false
    wasFull := false, wasDrain := false, abandoned := [], deps := [], bad := false }

/-- A state with a tile, charged to its pool. -/
def tiled (x : Tile) : State := { base with tiles := [x], pools := [(2, { Pool.reset with res := 1000, lim := 2000, quota := 1000, held := 1 })] }

/-- TileInstructionsComplete: each of its clauses, and an access at the last byte. -/
theorem wit_tiles : (tiled (tl .filling)).tile (tiled (tl .filling)).myDie (tiled (tl .filling)).myPart (handleOf ((tiled (tl .filling)).r 1)) = some (tl .filling)
    ∧ Issues gd .release [1] [] (tiled (tl .filling)) ∧ (tiled (tl .filling)).endedSlots (tl .filling).owner = []
    ∧ Issues gd .system [1] [3] (tiled (tl .filling)) ∧ Issues gd .system [1, 0] [3] (tiled (tl .full))
    ∧ tileOff ((tiled (tl .full)).r 0) 63 + 1 ≤ (tl .full).dataBytes ∧ (tiled (tl .full)).tileBad (tl .full) 0 63 1 = false
    ∧ (tl .full).bad = false ∧ (tiled (tl .full)).unseen 0 (tl .full) = false ∧ (tiled (tl .full)).movedBytes = []
    ∧ nextPart 63 1 0 = (63, 1, true) ∧ nextPart 4 8 0 = (4, 4, false) ∧ nextPart 4 8 4 = (8, 4, true) ∧ tileOff ((tiled (tl .full)).r 0) 4 = 4
    ∧ (0 < (tl .filling).reads ∧ ∀ y ∈ (tiled (tl .filling)).tiles, y.uid = (tl .filling).uid → y = tl .filling)
    ∧ Issues gd .tileWrite [1, 0, 2] [] (tiled (tl .filling)) ∧ (tiled (tl .filling)).hbBad (tl .filling) 0 63 1 = false
    ∧ Issues gd .system [2] [3] (tiled (tl .full)) ∧ (tiled (tl .full)).tile 0 2 (handleOf ((tiled (tl .full)).r 2)) = none
    ∧ (tl .full).reads < 256 ∧ 1 ≤ (tl .full).k ∧ (tl .full).rows ≤ 64 := by
  unfold Issues; and_intros <;> decide +kernel

/-- TileRefusals: no tile, bytes past the data area, a tile being filled, one of poison and one that is full. -/
theorem wit_tileRefusals : base.tile base.myDie base.myPart 64 = none ∧ Issues gd .system [1, 0] [3] base ∧ Issues gd .tileWrite [1, 0, 2] [] base
    ∧ Issues gd .release [1] [] base ∧ (tl .full).dataBytes < tileOff 0 64 + 1 ∧ tileOff 0 63 + 1 ≤ (tl .full).dataBytes ∧ (tl .full).bad = false
    ∧ (∀ st ∈ [TileState.filling, .full, .draining, .poison], (tiled (tl st)).tile 0 2 64 = some (tl st))
    ∧ (∀ st ∈ [TileState.filling, .full, .draining, .poison], Issues gd .system [1, 0] [3] (tiled (tl st)))
    ∧ (∀ st ∈ [TileState.filling, .full, .draining, .poison], Issues gd .tileWrite [1, 0, 2] [] (tiled (tl st)))
    ∧ (∀ st ∈ [TileState.filling, .full, .draining, .poison], Issues gd .release [1] [] (tiled (tl st))) := by
  unfold Issues; and_intros <;> decide +kernel

/-- TileReadsAndStorage: a run of bytes at the end of a tile, reads that leave some, the last read, and a pinned tile. -/
theorem wit_tileReads : MemoryForm (tiled (tl .full)) ∧ (tl .full).storage.Nodup ∧ (∀ u ∈ (tl .full).storage, u < 262144)
    ∧ 60 + [1, 2, 3, (4 : Byte)].length ≤ (tl .full).dataBytes ∧ (tl .full).dataBytes ≤ 2048 * (tl .full).storage.length
    ∧ (tiled (tl .full)).tileU 11 = some (tl .full) ∧ 2 ≤ (tl .full).reads
    ∧ (tiled { tl .full with reads := 1 }).tileU 11 = some { tl .full with reads := 1 }
    ∧ (tiled { tl .full with mode := .pinned, reads := 255 }).tileU 11 = some { tl .full with mode := .pinned, reads := 255 } := by
  unfold MemoryForm; and_intros <;> decide +kernel

/-! A view record of 128 elements of I8 at page 1, at address 64, with S1 naming it and its coordinates in S0. -/

/-- Bytes at address 64 of the context. -/
def bytesAt64 (bs : List Byte) : State := { base with mem := Memory.writeBytes [] (2 ^ 21 + 64) bs }

/-- The record's bytes. -/
def viewBytes64 : List Byte :=
  leBytes 8 4096 ++ leBytes 4 128 ++ List.replicate 12 0 ++ leBytes 8 1 ++ List.replicate 24 0 ++ leBytes 4 0 ++ leBytes 4 1

/-- The view it is. -/
def view64 : View := ⟨4096, #v[128, 0, 0, 0], #v[1, 0, 0, 0], 0, 1⟩

/-- EnginesStart: DRAW, DRAWS of none and of 255 tiles, SEND and COPYM. -/
theorem wit_engines : ViewAt 1 0 (bytesAt64 viewBytes64) view64 ∧ Issues gd .system [1, 0] [3] (bytesAt64 viewBytes64) ∧ drawDescOk 0x80000 = true
    ∧ (bytesAt64 viewBytes64).translate 0 2 5 view64.base ⟨true, false, false⟩ = .ok (2 ^ 21 + 4096) (page 0 1)
    ∧ shapeOk (descOf 0x80000).k (page 0 1).format = true
    ∧ (bytesAt64 viewBytes64).grantNow 0 2 (descOf 0x80000).hb true (granulesOf (descOf 0x80000).rows (descOf 0x80000).k (page 0 1).format) = true
    ∧ (bytesAt64 viewBytes64).me.cnt.dr.toNat + 255 ≤ 255 ∧ Issues gd .system [1, 0, 2] [] (bytesAt64 viewBytes64)
    ∧ (bytesAt64 viewBytes64).deliver 2 (((bytesAt64 viewBytes64).r 2).extractLsb' 0 16) ⟨0, 0, false, 0, []⟩ ≠ .perm
    ∧ ((bytesAt64 viewBytes64).r 2).toNat < 2 ^ 40 := by
  unfold Issues
  exact ⟨⟨by decide +kernel, ⟨viewBytes64, by decide +kernel, by decide +kernel⟩, by decide +kernel⟩, by decide +kernel⟩

/-- EnginesStart: TXFER of a tile and of a handle that names none. -/
theorem wit_txfer : Issues gd .system [1] [3] (tiled (tl .full)) ∧ Issues gd .system [2] [3] (tiled (tl .full)) ∧ countOk 0 1 = true
    ∧ (tiled (tl .full)).tile 0 2 (handleOf ((tiled (tl .full)).r 1)) = some (tl .full) ∧ (tiled (tl .full)).me.cnt.dr.toNat < 255
    ∧ (tiled (tl .full)).grantNow 0 2 false true (granulesOf (tl .full).rows (tl .full).k (tl .full).format) = true
    ∧ (tiled (tl .full)).tile 0 2 (handleOf ((tiled (tl .full)).r 2)) = none := by
  unfold Issues; and_intros <;> decide +kernel

/-- An engine operation of slot 0, with its stream bound. -/
def engOp (k : EngKind) : EngOp :=
  { serial := 9, opId := 0, task := some 0, act := 0, node := none, part := 2, asid := 5, die := 0, owner := .activation 0, kind := k, held := none
    reading := none, readDone := false, request := none, funded := none, format := 0, left := [], writes := [], sides := [], answers := [] }

/-- A state with the operation, and with tiles. -/
def running (l : List Tile) (e : EngOp) : State := { base with tiles := l, engines := [e], streams := [⟨1, 0, some 0, .engine 9, false, false, 0, 1⟩] }

/-- The value that a reading gave. -/
def valueOf {α : Type} : EngR α → Option α
  | .ok a => some a
  | _ => none

/-- It is what the reading answered. -/
theorem ok_of {α : Type} {r : EngR α} {a : α} (h : valueOf r = some a) : r = .ok a := by
  cases r <;> simp [valueOf] at h ⊢; exact h

/-- Two readings that are decided to be the same value. -/
theorem both_of {α β : Type} {r : EngR α} {f : α → EngR β} {p : α → Bool} {q : β → Bool}
    (h : (match r with | .ok a => p a && (match f a with | .ok b => q b | _ => false) | _ => false) = true) : ∃ a b, r = .ok a ∧ p a = true ∧ f a = .ok b ∧ q b = true := by
  split at h
  · rename_i a
    simp only [Bool.and_eq_true] at h
    obtain ⟨h1, h2⟩ := h
    split at h2
    · rename_i b hb; exact ⟨a, b, rfl, h1, hb, h2⟩
    · cases h2
  · cases h

/-- The tile that an engine fills. -/
def filled : Tile := { tl .filling with filling := true, valid := 0 }

/-- The DRAW of one row, with what its requests have brought. -/
def drawOp (a : List OutAnswer) : EngOp := { engOp (.draw view64 0 11) with answers := a }

/-- What the one request of the row brings. -/
def brought64 : OutAnswer := ⟨4096, 64, false, 0, List.replicate 64 1⟩

/-- The DRAW whose one request has been answered. -/
def drawn : EngOp := drawOp [brought64]

/-- EngineStepsComplete: the fill, with its one request still to be made, and answered. -/
theorem wit_draw : (∀ l ∈ [[], [brought64]], (running [filled] (drawOp l)).engine 9 = some (drawOp l)
      ∧ (running [filled] (drawOp l)).mayServe (.engine 9) = true ∧ (running [filled] (drawOp l)).tileU 11 = some filled
      ∧ (running [filled] (drawOp l)).endedSlots (.activation 0) = [] ∧ (running [filled] (drawOp l)).hbBad filled 0 0 64 = false)
    ∧ (∃ rows l, (running [filled] drawn).fillRead drawn filled view64 0 = .ok rows ∧ (drawn.todo (fillReqs rows)).isEmpty = true
      ∧ EngR.each drawn.rowOf rows = .ok l ∧ ((l.map Prod.fst == [0]) && l.all fun q =>
          q.2.2.1.length == elemBytes q.2.1 (fmtWidth 0) && q.2.2.2.length == 4 * rowGroups 0 q.2.1) = true)
    ∧ (MemoryForm (running [filled] drawn) ∧ filled.storage.Nodup ∧ shapeOk filled.k filled.format = true
      ∧ unitsOf filled.dataBytes + unitsOf (sideBytes filled.rows filled.k filled.format) ≤ filled.storage.length)
    ∧ (running [filled] (drawOp [])).fillRead (drawOp []) filled view64 0 = .ok [⟨0, 64, [⟨4096, 2 ^ 21 + 4096, 64, page 0 1⟩], []⟩]
    ∧ (drawOp []).todo (fillReqs [⟨0, 64, [⟨4096, 2 ^ 21 + 4096, 64, page 0 1⟩], []⟩]) = [Span.read ⟨4096, 2 ^ 21 + 4096, 64, page 0 1⟩]
    ∧ MemoryForm (running [filled] (drawOp [])) ∧ (∀ j < 64, paHbm (2 ^ 21 + 4096 + j) = true) ∧ base.knownInc 0 (base.homeOf (2 ^ 21 + 4096)) = base.inc (base.homeOf (2 ^ 21 + 4096))
    ∧ (running [filled] (drawOp [])).blockFault true (2 ^ 21 + 4096) = none := by
  refine ⟨by decide +kernel, both_of (p := fun rows => (drawn.todo (fillReqs rows)).isEmpty) (by decide +kernel), ⟨form_of (by decide +kernel), ?_⟩, ok_of (by decide +kernel), ?_⟩
  · decide +kernel
  · exact ⟨by decide +kernel, form_of (by decide +kernel), by decide +kernel⟩

/-- The tile that a copy reads, and the one that it fills. -/
def source11 : Tile := { tl .draining with inProg := 1 }
/-- See `source11`. -/
def target12 : Tile := { tl .filling with uid := 12, handle := 65, filling := true, valid := 0, storage := [6] }

/-- A TXFER, before its read has begun and after, with these pieces left. -/
def txOp (rd : Option ReadInProg) (l : List (Nat × Nat × Nat)) : EngOp := { engOp (.txfer 11 12 none 64) with reading := rd, left := l }

/-- EngineStepsComplete: a TXFER to begin, with a piece left, and with none. -/
theorem wit_copyTile : (running [tl .full, target12] (txOp none [])).tileU 11 = some (tl .full) ∧ base.readRefused (tl .full) none = false
    ∧ source11.pieces = [(0, 0, 64)]
    ∧ (∀ l ∈ [[], source11.pieces], (running [source11, target12] (txOp (some ⟨11, none⟩) l)).engine 9 = some (txOp (some ⟨11, none⟩) l)
      ∧ (running [source11, target12] (txOp (some ⟨11, none⟩) l)).tileU 11 = some source11 ∧ (running [source11, target12] (txOp (some ⟨11, none⟩) l)).tileU 12 = some target12
      ∧ ((running [source11, target12] (txOp (some ⟨11, none⟩) l)).engines.find? fun z => z.kind.fills 12) = some (txOp (some ⟨11, none⟩) l))
    ∧ (running [source11, target12] (txOp (some ⟨11, none⟩) [])).mayServe (.engine 9) = true ∧ base.applied 0 source11.deps = true ∧ base.endedSlots target12.owner = []
    ∧ (∀ p ∈ source11.pieces, base.tileBad source11 p.1 p.2.1 p.2.2 = false ∧ base.hbBad target12 p.1 p.2.1 p.2.2 = false
      ∧ p.1 + unitsOf (p.2.1 + p.2.2) ≤ target12.storage.length) := by
  and_intros <;> decide +kernel

/-- The operation of a SEND. -/
def sendOp (rd : Option ReadInProg) (done : Bool) (w : List (Nat × List Byte × Bool)) (a : List OutAnswer) : EngOp :=
  { engOp (.send 64 view64 0 none .dev) with reading := rd, readDone := done, writes := w, answers := a }

/-- A SEND, at its start, with its read begun, and with one run of bytes left to write or written. -/
def sends (rd : Option ReadInProg) (done : Bool) (w : List (Nat × List Byte × Bool)) (a : List OutAnswer) : State := running [tl .full] (sendOp rd done w a)

/-- EngineStepsComplete: the steps of a SEND. -/
theorem wit_send : (sends none false [] []).mayServe (.engine 9) = true ∧ (sends none false [] []).tile 0 2 64 = some (tl .full)
    ∧ (sends none false [] []).readRefused (tl .full) none = false ∧ (sends (some ⟨11, none⟩) false [] []).tileU 11 = some (tl .full)
    ∧ (sends (some ⟨11, none⟩) false [] []).tileBad (tl .full) 0 0 64 = false
    ∧ (sends (some ⟨11, none⟩) false [] []).tileBad (tl .full) (unitsOf 64) 0 (sideBytes 1 1 0) = false
    ∧ (sends (some ⟨11, none⟩) false [] []).sendLayout (sendOp (some ⟨11, none⟩) false [] []) (tl .full) view64 = .ok ()
    ∧ (valueOf (EngR.each ((sends (some ⟨11, none⟩) false [] []).sendRow (sendOp (some ⟨11, none⟩) false [] []) (tl .full))
        ((geoRows view64 0 1 1 (fmtWidth 0)).filter fun r => (tl .full).valid.getLsbD r.1))).map (·.isEmpty) = some false
    ∧ (∀ a ∈ [[], [(⟨4096, 1, true, 0, []⟩ : OutAnswer)]],
        valueOf ((sends none true [(4096, [7], false)] a).sendReqs (sendOp none true [(4096, [7], false)] a)) = some [⟨⟨4096, 2 ^ 21 + 4096, 1, page 0 1⟩, some [7], false, false⟩]
        ∧ ((sendOp none true [(4096, [7], false)] a).todo [⟨⟨4096, 2 ^ 21 + 4096, 1, page 0 1⟩, some [7], false, false⟩]).length = 1 - a.length
        ∧ (sendOp none true [(4096, [7], false)] a).failures [⟨⟨4096, 2 ^ 21 + 4096, 1, page 0 1⟩, some [7], false, false⟩] = []) := by
  and_intros <;> first | exact ok_of (by decide +kernel) | decide +kernel

/-- The operation of a copy of 8 bytes of memory, held or not. -/
def copyOp (h : Option HeldReq) (a : List OutAnswer) : EngOp := { engOp (.copym 4096 64 8 .dev) with held := h, answers := a }

/-- A state with it. -/
def copies (h : Option HeldReq) (a : List OutAnswer) : State := running [] (copyOp h a)

/-- The piece of the copy. -/
def piece8 : CopyPiece := ⟨⟨64, 2 ^ 21 + 64, 8, page 0 0⟩, ⟨4096, 2 ^ 21 + 4096, 8, page 0 1⟩, 0, 0, 8⟩

/-- What its read and its write bring. -/
def copied : List OutAnswer := [⟨64, 8, false, 0, List.replicate 8 3⟩, ⟨4096, 8, true, 0, []⟩]

/-- EngineStepsComplete: COPYM with its read to be made, its write to be made, and both made; and a held request. -/
theorem wit_copym : (copies none []).mayServe (.engine 9) = true
    ∧ (∀ n ∈ [0, 1, 2], valueOf ((copies none (copied.take n)).copyAll (copyOp none (copied.take n)) 4096 64 8) = some [piece8]
      ∧ ((copyOp none (copied.take n)).todo ((copies none (copied.take n)).copyReqs (copyOp none (copied.take n)) 4096 8 [piece8]))
          = ([piece8.src.read, ⟨piece8.dst, some (List.replicate 8 3), false, false⟩].drop n).take 1
      ∧ (copyOp none (copied.take n)).failures ((copies none (copied.take n)).copyReqs (copyOp none (copied.take n)) 4096 8 [piece8]) = [])
    ∧ copiedBytes (copyOp none copied) [piece8] = some (List.replicate 8 3) ∧ (copies none []).blockFault true (2 ^ 21 + 4096) = none
    ∧ (copies (some ⟨fXLATE, 4096⟩) []).engine 9 = some (copyOp (some ⟨fXLATE, 4096⟩) []) := by
  and_intros <;> decide +kernel

/-- A DRAWS of no tiles left, or with its last tile filled, to channel Q0 of ring 0. -/
def drawsOp (l : List (Nat × Nat)) (f : Bool) : EngOp := engOp (.draws ⟨view64, 0, 0, 0x80000, 1, 1, l, f, 0x8000, none⟩)

/-- The same for a binding of a run that has ended. -/
def drawsLate : EngOp := engOp (.draws ⟨view64, 0, 0, 0x80000, 1, 1, [(11, 64)], true, 0x8008, some 5⟩)

/-- EngineStepsComplete: the end of a DRAWS, a delivery, and a tile that is discarded. -/
theorem wit_drawsEnd : (running [] (drawsOp [] false)).engine 9 = some (drawsOp [] false) ∧ (running [] (drawsOp [(11, 64)] true)).engine 9 = some (drawsOp [(11, 64)] true)
    ∧ endpointOf 0x8000 = some ⟨true, 0, 0⟩ ∧ base.ringPart 0 = some 2 ∧ ((running [] (drawsOp [] false)).queue 0).length < 32
    ∧ (running [] drawsLate).engine 9 = some drawsLate ∧ (running [] drawsLate).runLives 5 = false := by
  and_intros <;> decide +kernel

/-- A run record that passes: one virtual stripe on one ring, nothing bound, no rebuild stub. -/
def runRecord : List Byte :=
  leBytes 8 0 ++ leBytes 2 1 ++ leBytes 2 0 ++ [1, 0, 0, 0] ++ List.replicate (192 - 16) 0 ++ leBytes 8 1 ++ List.replicate 56 0

/-- The partition of the task CREATED. -/
def created2 : State := base.setPart 2 { (base.part 2) with state := .created }

/-- RunAndGlaunch: a record that passes, one that does not, addresses that are and are not multiples of 64 and of 128, and a full queue. -/
theorem wit_run : Issues gd .release [1] [3] (bytesAt64 runRecord) ∧ ((bytesAt64 runRecord).r 1).toNat % 64 = 0
    ∧ (bytesAt64 runRecord).readV 0 2 5 (.task 0) 64 256 = .ok runRecord ∧ (bytesAt64 runRecord).runRecOk 2 false runRecord = true
    ∧ base.readV 0 2 5 (.task 0) 64 256 = .ok (List.replicate 256 0) ∧ base.runRecOk 2 false (List.replicate 256 0) = false ∧ (base.r 2).toNat % 64 ≠ 0
    ∧ Issues gd .release [2] [3] base ∧ Issues gd .release [0] [] base ∧ (base.r 0).toNat % 128 = 0 ∧ (Tab.get base.pifaces Iface.reset 2).fifo.length < 16
    ∧ Issues gd .release [1] [] base ∧ (base.r 1).toNat % 128 ≠ 0 ∧ (base.part base.myPart).state ≠ .created
    ∧ Issues gd .release [0] [] created2 ∧ (created2.part created2.myPart).state = .created
    ∧ Issues gd .release [0] [] { base with pifaces := [(2, { Iface.reset with fifo := List.replicate 16 ⟨0, 5, []⟩ })] } := by
  unfold Issues; and_intros <;> decide +kernel

/-- A run of partition 2 on ring 0, with these stripes. -/
def aRun (l : Tab Stripe) : Run :=
  { Run.init 20 (opIdent 0 0 0 0 3) 2 (.task 0 0) (.run 20) RunRec.bare 0 5 [] with phase := .running, rings := [0], phys := [0], stripes := l }

/-- A state with a run, its identifier in S1. -/
def withRun (r : Run) : State := { withRegs [(1, opIdent 0 0 0 0 3)] with runs := [r] }

/-- A stripe with one op that does nothing. -/
def oneStripe : Stripe := Stripe.make 0 0 (Image.single ⟨.cc, 0, 0⟩ (.pass ccf)) false false false (fun _ => []) (fun _ => [])

/-- A word names a run. -/
theorem named_of {s : State} {w : Word} {r : Run} (h : (match s.named w with | .run r => some r | _ => none) = some r) : s.named w = .run r := by
  revert h; cases s.named w <;> simp

/-- RunControlsComplete: a run that has configured nothing, one that has, and identifiers that are malformed, of another partition, and of nothing. -/
theorem wit_runControls : (withRun (aRun [])).named ((withRun (aRun [])).r 1) = .run (aRun []) ∧ Issues gd .system [1] [] (withRun (aRun []))
    ∧ (withRun (aRun [])).run 20 = some (aRun []) ∧ (aRun []).started = false ∧ (aRun [(0, oneStripe)]).started = true
    ∧ (withRun (aRun [(0, oneStripe)])).named ((withRun (aRun [(0, oneStripe)])).r 1) = .run (aRun [(0, oneStripe)])
    ∧ Issues gd .system [1, 0] [] (withRun (aRun [(0, oneStripe)])) ∧ ((withRun (aRun [])).r 0).toNat % 32 = 0 ∧ ((withRun (aRun [])).r 1).getLsbD 62 = false
    ∧ ((withRegs [(1, 2 ^ 63)]).r 1).getLsbD 63 = true ∧ ((withRegs [(1, 2 ^ 35)]).r 1).extractLsb' 32 4 ≠ 0
    ∧ (withRun { aRun [] with partition := 3 }).named ((withRun { aRun [] with partition := 3 }).r 1) = .other ∧ base.named (base.r 1) = .nothing := by
  refine ⟨named_of (by decide +kernel), by unfold Issues; decide +kernel, rfl, by decide +kernel, by decide +kernel, named_of (by decide +kernel),
    by unfold Issues; decide +kernel, by decide +kernel, by decide +kernel, by decide +kernel, by decide +kernel, rfl, rfl⟩

/-- Slot 0 changed. -/
def slot0 (f : Task → Task) : State := base.updTask 0 f

/-- A run of the task has ended, and a write that its end released is on its way to the task's die. -/
def unseenEnd : State := { slot0 fun x => { x with acq := [4] } with inFlight := [⟨4, 1, 0, [], 2 ^ 21, [some 1], none, none⟩] }

/-- A tile sealed elsewhere, with a write that its seal released on its way to the task's die. -/
def unseenTile : State := { tiled { tl .full with deps := [4] } with inFlight := [⟨4, 1, 0, [], 2 ^ 21, [some 1], none, none⟩] }

/-- WaitsComplete: counters at their fields, one above, and the tiles that WAITT meets. -/
theorem wit_waits : base.me.cnt.ld.toNat ≤ (0 : BitVec 5).toNat ∧ base.applied base.myDie base.me.acq = true
    ∧ Issues gd .free [] [] (slot0 fun x => { x with cnt := ⟨31, 0, 0, 0, 0, 31⟩ }) ∧ (30 : BitVec 5).toNat < (31 : BitVec 8).toNat
    ∧ (31 : BitVec 5) = 31 ∧ Issues gd .free [] [] unseenEnd ∧ unseenEnd.applied unseenEnd.myDie unseenEnd.me.acq = false
    ∧ Issues gd .free [1] [] base ∧ base.tile 0 2 (handleOf (base.r 1)) = none
    ∧ Issues gd .free [1] [] unseenTile ∧ unseenTile.tile 0 2 64 = some { tl .full with deps := [4] } ∧ unseenTile.applied unseenTile.myDie [4] = false
    ∧ base.applied base.myDie (tl .full).deps = true
    ∧ (∀ st ∈ [TileState.filling, .full, .draining, .poison], Issues gd .free [1] [] (tiled (tl st)) ∧ (tiled (tl st)).tile 0 2 64 = some (tl st)
      ∧ (tiled (tl st)).tileU 11 = some (tl st)) := by
  unfold Issues; and_intros <;> decide +kernel

/-- FencesOrder: with a load out, with a store out, with nothing, and with a write on its way. -/
theorem wit_fences : Issues gd .free [] [] (accessing (.load .d 3)) ∧ (∃ x ∈ (accessing (.load .d 3)).accesses, x.task = (accessing (.load .d 3)).cur ∧ x.dest ≠ none)
    ∧ Issues gd .free [] [] (accessing (.store .d 3 5)) ∧ (∀ x ∈ (accessing (.store .d 3 5)).accesses, x.task = (accessing (.store .d 3 5)).cur → x.dest = none)
    ∧ base.waitOver base.cur (.fence .sys) = true
    ∧ Issues gd .free [] [] { base with inFlight := [⟨1, 0, 1, [], 2 ^ 21, [some 1], none, some 2⟩] } ∧ base.myPart = 2
    ∧ (∃ r ∈ [(⟨1, 0, 1, [], 2 ^ 21, [some 1], some 0, none⟩ : RemoteWrite)], r.task = some base.cur ∧ scopeCovers (base.modeOf base.myAsid) .dev base.myDie r.dst = true) := by
  unfold Issues; and_intros <;> decide +kernel

/-- A group of key 64 with these members. -/
def grouped (l : List Nat) : State := { base with groups := [⟨0, 2, 64, l, [], 7⟩] }

/-- GroupsComplete: no group, one with room, one without, one that the task is in, alone and with another. -/
theorem wit_groups : keyOf (base.r 1) = 64 ∧ base.group 0 2 64 = none ∧ Issues gd .system [1] [] base ∧ (base.groups.filter fun x => x.die == 0).length < 256
    ∧ (grouped [9]).group 0 2 64 = some ⟨0, 2, 64, [9], [], 7⟩ ∧ (grouped [9]).me.activation ∉ [9] ∧ Issues gd .system [1] [] (grouped [9])
    ∧ 32 ≤ (List.range' 1 32).length ∧ (grouped (List.range' 1 32)).me.activation ∉ List.range' 1 32 ∧ Issues gd .system [1] [] (grouped (List.range' 1 32))
    ∧ (grouped [0]).me.activation ∈ [0] ∧ Issues gd .release [1] [3] (grouped [0]) ∧ Issues gd .release [1] [3] (grouped [9]) ∧ Issues gd .system [1, 2] [] (grouped [0])
    ∧ keyOf ((grouped [0]).r 2) ≠ 7 ∧ keyOf (((grouped [0]).setR 2 7).r 2) = 7 ∧ Issues gd .system [1, 2] [] ((grouped [0]).setR 2 7)
    ∧ (∀ m ∈ [0], m = (grouped [0]).me.activation ∨ m ∈ ([] : List Nat)) ∧ (∃ m ∈ [0, 9], m ≠ (grouped [0, 9]).me.activation ∧ m ∉ ([] : List Nat)) := by
  unfold Issues; and_intros <;> decide +kernel

/-- TrapAndReturn and ExceptionEntry: outside a handler, and in one, to return as RUNNABLE and as IDLE. -/
theorem wit_trap : Issues gd .free [] [] base ∧ base.me.inHandler = false
    ∧ (∀ e ∈ [TaskStatus.runnable, .idle], Issues gd .free [] [] (slot0 fun x => { x with status := .handler, inHandler := true, estat := e })
      ∧ (slot0 fun x => { x with status := .handler, inHandler := true, estat := e }).me.inHandler = true
      ∧ (slot0 fun x => { x with status := .handler, inHandler := true, estat := e }).me.stubRun = none
      ∧ (slot0 fun x => { x with status := .handler, inHandler := true, estat := e }).me.stubDue = none) := by
  unfold Issues; and_intros <;> decide +kernel

/-- ControlRegistersComplete. -/
theorem wit_control : Issues gd .free [] [3] base ∧ Issues gd .free [1] [] base := by unfold Issues; decide +kernel

/-- SafePointsAndFirmwareCalls: no switch pending, one with every counter 0 and one without, and a call with and without its reply. -/
theorem wit_safept : base.me.switchReq ≠ some .switchOut
    ∧ Issues gd .free [] [] (slot0 fun x => { x with switchReq := some .switchOut }) ∧ (slot0 fun x => { x with switchReq := some .switchOut }).me.cnt = ⟨0, 0, 0, 0, 0, 0⟩
    ∧ Issues gd .free [] [] (slot0 fun x => { x with switchReq := some .switchOut, cnt := ⟨1, 0, 0, 0, 0, 0⟩ })
    ∧ Issues gd .release [1] [3] base ∧ base.me.fwReply = none ∧ Issues gd .release [1] [3] (slot0 fun x => { x with fwReply := some 5 }) := by
  unfold Issues; and_intros <;> decide +kernel

/-- A code image of one word. -/
def code1 : List Byte := leBytes 4 8 ++ leBytes 4 (crc32c (leBytes 8 0x10)).toNat ++ List.replicate 8 0 ++ leBytes 8 0x10

/-- CodeAndCachesComplete: ILOAD of one word to the end of the store, at its first turn, with its header read, and with its body to be read whole
or a block at a time. -/
theorem wit_iload : Issues gd .free [1] [] (bytesAt64 code1) ∧ Issues gd .free [1, 2] [] base ∧ (bytesAt64 code1).codeCopies = [] ∧ (bytesAt64 code1).movedBytes = []
    ∧ (bytesAt64 code1).drawNat.2.readV 0 2 5 (.task 0) 64 16 = .ok (code1.take 16) ∧ (bytesAt64 code1).drawNat.2.readV 0 2 5 (.task 0) 80 8 = .ok (code1.drop 16)
    ∧ fieldAt (code1.take 16) 0 4 = 8 ∧ 16 + 8 - (code1.take 16).length = 8 ∧ min 8 (2048 - (64 + 16) % 2048) = 8
    ∧ fieldAt (code1.take 16) 8 8 = 0 ∧ 8 * (8191 : BitVec 13).toNat + 8 ≤ 65536 ∧ (crc32c (code1.drop 16)).toNat = fieldAt code1 4 4
    ∧ ((bytesAt64 code1).sequencer 0).istore.wf = true := by
  unfold Issues; and_intros <;> decide +kernel

/-- Half a code image of two words, read by an earlier turn. -/
def midLoad : State := { bytesAt64 code1 with tasks := [(0, { (bytesAt64 code1).task 0 with waitFor := some (.parts (code1.take 16)) })] }

/-- CodeAndCachesComplete: an ILOAD that a turn has begun. -/
theorem wit_iloadOn : Issues gd .free [1] [] midLoad ∧ midLoad.movedBytes = code1.take 16 ∧ code1.take 16 ≠ []
    ∧ midLoad.drawNat.2.readV 0 2 5 (.task 0) 80 8 = .ok (code1.drop 16) := by
  unfold Issues; and_intros <;> decide +kernel

/-- The header of a code image of 4,096 bytes, whose body begins on a block. -/
def bigLoad : State := { withRegs [(1, 2032)] with mem := Memory.writeBytes [] (2 ^ 21 + 2032) (leBytes 4 4096) }

/-- How many bytes a read gave. -/
def lengthOf : VRead → Option Nat
  | .ok bs => some bs.length
  | _ => none

set_option maxRecDepth 100000 in
/-- CodeAndCachesComplete: an ILOAD of two blocks, of which a turn reads both or, where the free value has it, the first. -/
theorem wit_iloadPart : Issues gd .free [1] [] bigLoad ∧ bigLoad.codeCopies = [] ∧ bigLoad.movedBytes = []
    ∧ bigLoad.drawNat.2.readV 0 2 5 (.task 0) 2032 16 = .ok (leBytes 4 4096 ++ List.replicate 12 0)
    ∧ (∀ n ∈ [2048, 4096], lengthOf (bigLoad.drawNat.2.readV 0 2 5 (.task 0) 2048 n) = some n) ∧ min 4096 (2048 - (2032 + 16) % 2048) = 2048 := by
  unfold Issues; and_intros <;> decide +kernel

/-- SlotStepsComplete: a slot to activate, one to unblock, a deferred fault, a safe-point gap and a context to put back. -/
theorem wit_slots : (queued 1).queue 1 = [] ∧ ((base.setQueue 1 [⟨0, 0, false, 9, []⟩]).task 1).status = .idle ∧ ((base.setQueue 1 [⟨0, 0, false, 9, []⟩]).task 1).parked = false
    ∧ (base.setQueue 1 [⟨0, 0, false, 9, []⟩]).queue 1 ≠ []
    ∧ ((slot0 fun x => { x with status := .blocked, waitFor := some (.accesses []) }).waitOver 0 (.accesses []) = true)
    ∧ ((slot0 fun x => { x with deferred := [⟨fXLATE, 1, 2, 64, 0⟩] }).task 0).inHandler = false
    ∧ ((slot0 fun x => { x with deferred := [⟨fXLATE, 1, 2, 64, 0⟩] }).task 0).midway = false
    ∧ ((slot0 fun x => { x with safegap := 4, spcount := 4 }).task 0).safegap.toNat ≤ ((slot0 fun x => { x with safegap := 4, spcount := 4 }).task 0).spcount.toNat
    ∧ (∀ stub ∈ [none, some (0x80 : BitVec 16)], ({ slot0 (fun x => { x with status := .idle }) with
        switchedOut := [⟨0, 8, 0, 0, Vector.replicate 32 0, 0, [], stub, 0, 0, none, 5⟩] } : State).switchedOut.find? (fun c => c.task == 0)
          = some ⟨0, 8, 0, 0, Vector.replicate 32 0, 0, [], stub, 0, 0, none, 5⟩) := by
  and_intros
  all_goals first
    | decide +kernel
    | exact fun _ _ => rfl

/-! ### Ops at their turn -/

/-- Whether no resident token of an op holds an error. -/
def soundB (w : Work) : Bool := [PortName.a, .b, .c].all fun n => match w.resident n with | some h => !h.tok.bad | none => true

/-- None does. -/
theorem sound_of {w : Work} (h : soundB w = true) : ∀ n x, w.resident n = some x → x.tok.bad = false := by
  intro n x hx
  have := List.all_eq_true.1 h n (by cases n <;> simp)
  rw [hx] at this
  simpa using this

/-- A stripe of virtual stripe 1 with one op and these tokens and bits in its channels. -/
def stripeOf (a : OpAddr) (i : Instr) (toks : Nat → List Token) (bits : List Bool) : Stripe :=
  Stripe.make 0 1 (Image.single a i) false false false (fun c => match c with | .pa n => toks n | _ => []) (fun _ => bits.map fun b => ⟨b, []⟩)

/-- A run whose last virtual stripe that is, its op to move. -/
def atOp (a : OpAddr) (i : Instr) (toks : Nat → List Token) (bits : List Bool) (g : OpState → OpState) : State :=
  { base with
    runs := [{ aRun [(0, { stripeOf a i toks bits with ops := [(a, g OpState.init)] })] with recd := { RunRec.bare with v := 2 } }, { aRun [] with serial := 21, opId := 99 }]
    focus := ⟨20, 0, a⟩ }

/-- A DATA token of 32-bit elements. -/
def dat (l : List Nat) : Token := dataTok 0xFFFF (packElems 32 l)

/-- Whether the op at the focus is due for a DATA firing, with more that its `Work` must meet. -/
def dueB (f : CCFrame) (bit : Bool) (s : State) (p : Work → Bool) : Bool :=
  match s.workAt s.focus with
  | none => false
  | some w =>
    w.op.outq.isEmpty && !w.op.parked w.run && !w.op.bad && soundB w && w.op.resolving.isNone
    && (f.streams.all fun p => match w.head p.1 p.2 with | some t => t.kind == 0 | none => false)
    && (f.helds.all fun p => (w.resident p.1).isSome || (match w.head p.1 p.2 with | some t => t.kind == 0 | none => false))
    && (f.helds.all fun p => match w.head p.1 p.2 with | some t => !t.isMarker | none => true)
    && (w.predBit f.pin f.psense == some bit) && (w.portTok f.ty f.imm .a f.a).isSome && (w.portTok f.ty f.imm .b f.b).isSome
    && (w.portTok f.ty f.imm .c f.c).isSome && p w

/-- It is due. -/
theorem due_of {f : CCFrame} {bit : Bool} {s : State} {p : Work → Bool} (h : dueB f bit s p = true) :
    ∃ w a y c, DataDue f bit s w a y c ∧ p w = true := by
  unfold dueB at h
  split at h
  · cases h
  · rename_i w hw
    simp only [Bool.and_eq_true, List.isEmpty_iff, Bool.not_eq_true', Option.isNone_iff_eq_none, List.all_eq_true, beq_iff_eq, Bool.or_eq_true] at h
    obtain ⟨⟨⟨⟨⟨⟨⟨⟨⟨⟨⟨⟨h1, h2⟩, hb⟩, hs⟩, h3⟩, h4⟩, h5⟩, h6⟩, h7⟩, h8⟩, h9⟩, h10⟩, h11⟩ := h
    obtain ⟨a, ha⟩ := Option.isSome_iff_exists.1 h8
    obtain ⟨y, hy⟩ := Option.isSome_iff_exists.1 h9
    obtain ⟨c, hc⟩ := Option.isSome_iff_exists.1 h10
    refine ⟨w, a, y, c, ⟨⟨hw, h1, h2, hb⟩, h3, fun q hq => ?_, fun q hq hr => ?_, sound_of hs, fun q hq t ht => ?_, h7, ha, hy, hc⟩, h11⟩
    · have := h4 q hq
      split at this
      · rename_i t ht; exact ⟨t, ht, by simpa using this⟩
      · cases this
    · have := h5 q hq
      rw [hr] at this
      rcases this with this | this
      · cases this
      · split at this
        · rename_i t ht; exact ⟨t, ht, by simpa using this⟩
        · cases this
    · have := h6 q hq
      rw [ht] at this
      simpa using this

/-- Whether the op at the focus has its turn, with more that its `Work` must meet. -/
def readyB (s : State) (p : Work → Bool) : Bool :=
  match s.workAt s.focus with
  | none => false
  | some w => w.op.outq.isEmpty && !w.op.parked w.run && !w.op.bad && p w

/-- It has. -/
theorem ready_of {s : State} {p : Work → Bool} (h : readyB s p = true) : ∃ w, Ready s w ∧ p w = true := by
  unfold readyB at h
  split at h
  · cases h
  · rename_i w hw
    simp only [Bool.and_eq_true, List.isEmpty_iff, Bool.not_eq_true'] at h
    exact ⟨w, ⟨hw, h.1.1.1, h.1.1.2, h.1.2⟩, h.2⟩

/-- Whether a memory cell's op is due, with more that its `Work` must meet. -/
def mcDueB (f : MCFrame) (s : State) (p : Work → Bool) : Bool :=
  match s.workAt s.focus with
  | none => false
  | some w =>
    w.op.heldReq.isNone && !w.op.parked w.run && w.op.resolving.isNone && !w.op.bad && w.op.mcq.all (fun x => !x.more) && soundB w && f.helds.isEmpty
    && (f.streams.all fun p => match w.head p.1 p.2 with | some t => t.kind == 0 | none => false)
    && (w.predBit f.pin f.psense == some true) && p w

/-- It is. -/
theorem mcDue_of {f : MCFrame} {s : State} {p : Work → Bool} (h : mcDueB f s p = true) : ∃ w, McDue f true s w ∧ p w = true := by
  unfold mcDueB at h
  split at h
  · cases h
  · rename_i w hw
    simp only [Bool.and_eq_true, List.isEmpty_iff, Bool.not_eq_true', Option.isNone_iff_eq_none, List.all_eq_true, beq_iff_eq] at h
    obtain ⟨⟨⟨⟨⟨⟨⟨⟨⟨h1, h2⟩, h3⟩, hb⟩, hm⟩, hs⟩, h4⟩, h5⟩, h6⟩, h7⟩ := h
    refine ⟨w, ⟨hw, h1, h2, h3, hb, hm, sound_of hs, fun q hq => ?_, by simp [h4], by simp [h4], h6⟩, h7⟩
    have := h5 q hq
    split at this
    · rename_i t ht; exact ⟨t, ht, by simpa using this⟩
    · cases this

/-- The address of the compute-cell op, the memory-cell op and the switch op. -/
def ccA : OpAddr := ⟨.cc, 0, 0⟩
/-- See `ccA`. -/
def mcA : OpAddr := ⟨.mc, 0, 0⟩
/-- See `ccA`. -/
def swA : OpAddr := ⟨.sw, 0, 0⟩

/-- DATA at PA0 and PA1. -/
def two (n : Nat) : List Token := if n = 0 then [dat [7]] else if n = 1 then [dat [2, 5]] else []

/-- ElementOpsComplete, FloatAndConversionOpsComplete, LaneOpsAndReductionsComplete, PredicateOpsComplete: two stream ports with DATA; FiringProcedure: a bit of 0. -/
theorem wit_due : (∃ w a y c, DataDue ccf true (atOp ccA (.ccAdd ccf) two [] id) w a y c ∧ (w.op.held.isEmpty && w.op.carry.isNone) = true)
    ∧ (ccf.flags.extractLsb' 0 3).toNat < 6
    ∧ (∃ w a y c, DataDue { ccf with ty := .f32, stats := true } true (atOp ccA (.fadd { ccf with ty := .f32, stats := true }) two [] id) w a y c ∧ true = true)
    ∧ (∃ w a y c, DataDue { ccf with ext := 8 } true (atOp ccA (.cvt { ccf with ext := 8 }) two [] id) w a y c ∧ true = true)
    ∧ tyOfCode (({ ccf with ext := 8 } : CCFrame).ext.extractLsb' 0 4) = some .f32
    ∧ (∃ w a y c, DataDue { ccf with pin := .pl 0 } false (atOp ccA (.ccAdd { ccf with pin := .pl 0 }) two [false] id) w a y c ∧ w.op.held.isEmpty = true)
    ∧ (∃ w a y c, DataDue { ccf with b := ⟨.pa 1, 3, false, false, false, 0⟩ } true (atOp ccA (.ccAdd { ccf with b := ⟨.pa 1, 3, false, false, false, 0⟩ }) two [] id) w a y c ∧ true = true) :=
  ⟨due_of (by decide +kernel), by decide, due_of (by decide +kernel), due_of (by decide +kernel), by decide, due_of (by decide +kernel), due_of (by decide +kernel)⟩

/-- FloatSpecialValues: patterns that are and are not a NaN. -/
theorem wit_nan : (Ty.f32.floatOf 0x7FC00000).isNan = true ∧ (Ty.f32.floatOf 0).isNan = false ∧ Ty.f32 ∈ [Ty.f32, .f16, .bf16, .e4m3, .e5m2] := by decide +kernel

/-- LaneOpsAndReductionsComplete: PACK and UNPK with two parts, at the first and at the last. -/
theorem wit_pack : ∀ k ∈ [0, 1], ∃ w, Ready (atOp ccA (.pack { ccf with ext := 1 }) two [] fun x => { x with part := k }) w
    ∧ ((match w.portTok .i32 0 .a ccf.a with | some t => t.kind == 0 | none => false) && w.op.part == k && w.op.erred.isNone) = true := by
  simp only [List.mem_cons, List.not_mem_nil, or_false, forall_eq_or_imp, forall_eq]
  exact ⟨ready_of (by decide +kernel), ready_of (by decide +kernel)⟩

/-- PredicateOpsComplete: a node with a bit, at its first copy and at its last. -/
theorem wit_node : ∀ k ∈ [0, 1], ∃ w, Ready (atOp ⟨.pn, 0, 0⟩ (.pdup pnf) two [true] fun x => { x with count := BitVec.ofNat 32 k }) w
    ∧ ((pnIn w 0 pnf.in0 pnf.sense0 == some true) && (pnIn w 1 pnf.in1 pnf.sense1).isSome && (pnIn w 2 pnf.in2 pnf.sense2).isSome && w.op.count.toNat == k) = true := by
  simp only [List.mem_cons, List.not_mem_nil, or_false, forall_eq_or_imp, forall_eq]
  exact ⟨ready_of (by decide +kernel), ready_of (by decide +kernel)⟩

/-- StreamOpsComplete: DATA at both ports, with a bit and without; GEN and REPL ready; a STOP of the op's own level; LEVDN at its k; STOPAT before and after its first. -/
theorem wit_streams : (∃ w, Ready (atOp ccA (.steer { ccf with pin := .pl 0 }) two [true] id) w ∧ ((w.predBit (.pl 0) false == some true) && w.op.resolving.isNone
      && (w.head .a ccf.a).isSome && (w.head .b ccf.b).isSome) = true)
    ∧ (∃ w a y c, DataDue ccf true (atOp ccA (.gen ccf) two [] id) w a y c ∧ (ccReady ccf w).isSome = true)
    ∧ (∃ w a y c, DataDue { ccf with ext := 2 } true (atOp ccA (.repl { ccf with ext := 2 }) two [] fun x => { x with count := 1 }) w a y c ∧ decide (w.op.count.toNat + 1 = 2) = true)
    ∧ (∃ w, Ready (atOp ccA (.levup { ccf with ext := 1 }) (fun _ => [stopTok 1 Ride.none]) [] id) w
      ∧ (match w.head .a ccf.a with | some t => t.kind == 1 && t.level == ccf.level | none => false) = true)
    ∧ (∃ w, Ready (atOp ccA (.levdn { ccf with ext := 2 }) two [] fun x => { x with count := 2 }) w ∧ decide (2 ≤ w.op.count.toNat) = true)
    ∧ (∃ w a y c, DataDue ccf true (atOp ccA (.stopat ccf) two [] id) w a y c ∧ (!w.op.flag) = true)
    ∧ (∃ w a y c, DataDue ccf true (atOp ccA (.stopat ccf) two [] fun x => { x with flag := true }) w a y c ∧ w.op.flag = true) :=
  ⟨ready_of (by decide +kernel), due_of (by decide +kernel), due_of (by decide +kernel), ready_of (by decide +kernel), ready_of (by decide +kernel),
    due_of (by decide +kernel), due_of (by decide +kernel)⟩

/-- FiringProcedure: one stream port with a STOP below the op's level, a marker and an ERR; two with a STOP and DATA. -/
theorem wit_firing : (∀ t ∈ [stopTok 1 Ride.none, planeTok, errTok 0 0 0 0 1], ∃ w, Ready (atOp ccA (.pass { ccf with b := pU, level := 2 }) (fun _ => [t]) [] id) w
      ∧ ((w.head .a ccf.a == some t) && (w.predBit .none false == some true) && w.op.held.isEmpty && w.op.resolving.isNone) = true)
    ∧ CCFrame.streams { ccf with b := pU, level := 2 } = [(.a, pA)] ∧ CCFrame.helds { ccf with b := pU, level := 2 } = [] ∧ ccf.streams = [(.a, pA), (.b, ccf.b)]
    ∧ ccf.helds = [] ∧ ∃ w, Ready (atOp ccA (.ccAdd ccf) (fun n => if n = 0 then [stopTok 1 Ride.none] else [dat [1]]) [] id) w
      ∧ ((w.head .a ccf.a == some (stopTok 1 Ride.none)) && (w.head .b ccf.b == some (dat [1])) && w.op.held.isEmpty && w.op.resolving.isNone) = true := by
  simp only [List.mem_cons, List.not_mem_nil, or_false, forall_eq_or_imp, forall_eq]
  exact ⟨⟨ready_of (by decide +kernel), ready_of (by decide +kernel), ready_of (by decide +kernel)⟩, by decide, by decide, by decide, by decide, ready_of (by decide +kernel)⟩

/-- A state whose op is a Silt node in this state. -/
def atNode (n : SnNode) : State :=
  { base with
    runs := [aRun [(0, { stripeOf ⟨.sn, 0, 0⟩ (.snadd snf) (fun _ => []) [] with ops := [(⟨.sn, 0, 0⟩, OpState.init)], sns := [(0, n)] })]]
    focus := ⟨20, 0, ⟨.sn, 0, 0⟩⟩ }

/-- SiltNodesComplete: nothing to send, something to send with room and without, and EVT tokens within four of the oldest and beyond. -/
theorem wit_silt : (∀ l ∈ [[], [(5 : Word)]], ∃ w, Ready (atNode { SnNode.init with outq := l }) w
      ∧ ((w.st.sn 0 == { SnNode.init with outq := l }) && decide (((atNode { SnNode.init with outq := l }).queue (w.qTask 1)).length < 32)) = true)
    ∧ ((3 : Word) <<< 48).getLsbD 34 = false ∧ (((3 : Word) <<< 48).extractLsb' 48 16 - (0 : BitVec 16)).toNat < 4
    ∧ 4 ≤ (((4 : Word) <<< 48).extractLsb' 48 16 - (0 : BitVec 16)).toNat := by
  refine ⟨?_, by decide, by decide, by decide⟩
  simp only [List.mem_cons, List.not_mem_nil, or_false, forall_eq_or_imp, forall_eq]
  exact ⟨ready_of (by decide +kernel), ready_of (by decide +kernel)⟩

/-- MatrixOpsComplete: an I8 op alone in its cell. -/
theorem wit_matrix : ∃ w a y c, DataDue { ccf with ty := .i8 } true (atOp ccA (.mma { ccf with ty := .i8 }) two [] id) w a y c
    ∧ (!w.yields && decide (w.unit.fill < 64) && (w.head .a ccf.a).isSome && decide (w.op.row < 64) && decide (w.op.col < 4) && (weightTy { ccf with ty := .i8 } == .i8)) = true :=
  due_of (by decide +kernel)

/-- The op of a memory cell with the tile of handle 1. -/
def atMc (i : Instr) (x : Tile) (g : OpState → OpState) : State := { atOp mcA i (fun n => if n = 0 then [dat [0]] else [dat [2, 5]]) [] g with tiles := [{ x with handle := 1 }] }

/-- TileCellOpsComplete, UpdateGlobalAndFifoOpsComplete and CellAgentsAndBindingsComplete: a read and a write of a tile, its last token, and an update. -/
theorem wit_mc : (∃ w, McDue mcf true (atMc (.trd mcf) (tl .full) id) w ∧ ((atMc (.trd mcf) (tl .full) id).tile w.die w.run.partition 1 == some { tl .full with handle := 1 }
      && w.mayPass mcf && w.gen.isNone && !(atMc (.trd mcf) (tl .full) id).tileBad { tl .full with handle := 1 } 0 0 64 && w.op.count == 0) = true)
    ∧ (∃ w, McDue mcf true (atMc (.twr mcf) (tl .filling) id) w ∧ ((atMc (.twr mcf) (tl .filling) id).tile w.die w.run.partition 1 == some { tl .filling with handle := 1 }
      && w.gen.isNone && decide (w.op.col < 1) && decide (w.op.row < 1) && decide (w.op.busyTo ≤ (atMc (.twr mcf) (tl .filling) id).clk) && w.op.recent.isEmpty) = true)
    ∧ (∃ w, McDue mcf true (atMc (.lut mcf) (tl .full) fun x => { x with bank := some [1, 2] }) w ∧ (w.op.bank == some [1, 2]) = true)
    ∧ (∃ w, McDue mcf true (atMc (.lut mcf) (tl .full) id) w ∧ w.op.bank.isNone = true) :=
  by and_intros <;> exact mcDue_of (by decide +kernel)

/-- A request to global memory by the memory cell's op, its stream bound. -/
def atGlobal (i : Instr) : State := { atMc i (tl .full) id with streams := [⟨1, 0, some 0, .cell 20 0 0, false, false, 0, 1⟩], tlb := [{ page 0 0 with format := 4 }] }

/-- The frame of an access whose elements are I32. -/
def mcw : MCFrame := { mcf with ty := .i32 }

/-- Whether the last read of a FIFO's ring has room for its token at both outputs, and makes the cell fit. -/
def fifoOutB (w : Work) : Bool :=
  let y := dat [0]
  let w2 := Work.outPut [mcf.oa, mcf.ob] (Work.outPut [mcf.oa, mcf.ob] w (0, y)) (1, y)
  w.outRoom [mcf.oa, mcf.ob] (0, y) && w.outRoom [mcf.oa, mcf.ob] (1, y) && Work.fitsAll { w2 with op := { w2.op with ring := [], rptr := 0 } }

/-- UpdateGlobalAndFifoOpsComplete: ATOM, LREQ and SREQ at address 0, and FIFO with a token at port B, with one held, and with neither. -/
theorem wit_global : (∀ i ∈ [Instr.atom mcw, .lreq mcw, .sreq mcw], ∃ w, McDue mcw true (atGlobal i) w
      ∧ ((atGlobal i).mayServe (.cell w.run.serial w.slot w.o.index) && (atGlobal i).applied w.die (w.portDeps mcw) && fmtValid 4 && (fmtTy 4 == some .i32)
        && ((atGlobal i).streams.any fun z => z.who == .cell w.run.serial w.slot w.o.index)
        && ((atGlobal i).knownInc w.die ((atGlobal i).homeOf (2 ^ 21)) == (atGlobal i).inc ((atGlobal i).homeOf (2 ^ 21)))
        && ((atGlobal i).blockFault true (2 ^ 21) == none) && (List.range 64).all (fun j => paHbm (2 ^ 21 + j)) && (Work.gva mcw (off64 (w.tok mcw .a pA)) / 64 * 64 == 0)
        && ((atGlobal i).translate w.die w.run.partition w.run.asid 0 ⟨true, true, true⟩ == .ok (2 ^ 21) { page 0 0 with format := 4 }) && (atGlobal i).upToDate w.die (2 ^ 21) 4) = true)
    ∧ (∃ w, Ready (atMc (.fifo { mcf with a := pU }) (tl .filling) id) w
      ∧ (w.op.ring.isEmpty && (w.headAt mcf.b.src (.port w.o .b) == some (dat [2, 5])) && w.op.heldReq.isNone && decide (0 < (tl .filling).rows * (tl .filling).k)) = true)
    ∧ (∃ w, Ready (atMc (.fifo { mcf with a := pU }) (tl .filling) fun x => { x with ring := [dat [0]] }) w
      ∧ ((w.op.ring == [dat [0]]) && fifoOutB w && !(atMc (.fifo { mcf with a := pU }) (tl .filling) id).tileBad { tl .filling with handle := 1 } 0 0 64 && w.op.heldReq.isNone) = true)
    ∧ (∃ w, Ready { atOp mcA (.fifo { mcf with a := pU }) (fun _ => []) [] id with tiles := [{ tl .filling with handle := 1 }] } w
      ∧ (w.op.ring.isEmpty && (w.queue mcf.b.src (.port w.o .b)).isEmpty && w.op.heldReq.isNone) = true) := by
  simp only [List.mem_cons, List.not_mem_nil, or_false, forall_eq_or_imp, forall_eq]
  exact ⟨⟨mcDue_of (by decide +kernel), mcDue_of (by decide +kernel), mcDue_of (by decide +kernel)⟩, ready_of (by decide +kernel), ready_of (by decide +kernel),
    ready_of (by decide +kernel)⟩

/-- A switch op with this index token and DATA at inputs 0 and 1. -/
def atSwitch (i : Instr) (k : Nat) : State := atOp swA i (fun n => if n = 2 then [dat [k]] else [dat [9]]) [] id

/-- What SwitchOpsComplete asks of every switch. -/
def switchB (k : Nat) (w : Work) : Bool :=
  (w.idxTok swf == some (dat [k])) && (swMarker swf w).isNone && w.op.resolving.isNone && (w.inHead (1, .pa 1) == some (dat [9])) && (w.inHead (0, .pa 0) == some (dat [9]))
    && (swf.used == [(0, .pa 0), (1, .pa 1)]) && (swf.outUsed == [0, 1])

/-- SwitchOpsComplete: an index that names a used input and output, for which SELX, DIST, ARB and JOIN have room, one that names neither, and a
JOIN and an ARB of one input with nothing at it. -/
theorem wit_switch : (∀ i ∈ [Instr.selx swf, .dist swf, .arb swf, .join swf], ∃ w, Ready (atSwitch i 1) w ∧ (switchB 1 w
      && Work.canCommit swf.outs.toList 0 (((w.takeIdx swf).inPop (1, .pa 1)).emitAll swf (dat [9]))
      && Work.canCommit swf.outs.toList 0 (((w.takeIdx swf).inPop (0, .pa 0)).emit 1 (dat [9]))
      && Work.canCommit swf.outs.toList 0 ((Work.inPop { w with op := { w.op with part := 1 } } (0, .pa 0)).emitAll swf (dat [9]))
      && Work.canCommit swf.outs.toList 0 ((swf.used.foldl (fun z x => z.inPop x) w).emitAll swf (dat [9]))) = true)
    ∧ (∃ w, Ready (atSwitch (.dist swf) 7) w ∧ switchB 7 w = true) := by
  simp only [List.mem_cons, List.not_mem_nil, or_false, forall_eq_or_imp, forall_eq]
  and_intros <;> exact ready_of (by decide +kernel)

/-! ### Cells, bindings and runs -/

/-- A frame whose port A is held. -/
def heldf : CCFrame := { ccf with a := ⟨.pa 0, 3, false, false, false, 0⟩ }

/-- CellAgentsAndBindingsComplete: a STOP at a held port and at an index port, an answer that may leave, and a copy of a tile. -/
theorem wit_agents : (∃ w, Ready (atOp ccA (.ccAdd heldf) (fun _ => [stopTok 1 Ride.none]) [] id) w
      ∧ ((Instr.portOf (.ccAdd heldf) .a == some heldf.a) && (heldf.a.kind == .held) && (w.head .a heldf.a == some (stopTok 1 Ride.none))
        && ((atOp ccA (.ccAdd heldf) (fun _ => [stopTok 1 Ride.none]) [] id).opInstr ⟨20, 0, ccA⟩ == some (.ccAdd heldf))) = true)
    ∧ (∃ w, Ready (atOp swA (.selx swf) (fun _ => [stopTok 1 Ride.none]) [] id) w ∧ (w.headAt swf.idx.src (.index w.o) == some (stopTok 1 Ride.none)) = true)
    ∧ (∃ w, Ready (atMc (.trd { mcf with oa := mcf.ob }) (tl .full) fun x => { x with mcq := [⟨some (dat [1]), some (dat [1]), none, false, none, none, []⟩] }) w
      ∧ ((w.op.mcq == [⟨some (dat [1]), some (dat [1]), none, false, none, none, []⟩]) && w.outRoom [mcf.ob, mcf.ob] (0, dat [1]) && w.outRoom [mcf.ob, mcf.ob] (1, dat [1])
        && (let w1 := [((0 : Nat), dat [1]), (1, dat [1])].foldl (Work.outPut [mcf.ob, mcf.ob]) w; Work.fitsAll { w1 with op := { w1.op with mcq := [] } })) = true)
    ∧ (∃ w, Ready (atMc (.lut mcf) (tl .full) id) w ∧ (w.op.bank.isNone && w.op.heldReq.isNone && !(atMc (.lut mcf) (tl .full) id).tileBad { tl .full with handle := 1 } 0 0 64) = true) :=
  by and_intros <;> exact ready_of (by decide +kernel)

/-- A running run of partition 2 on ring 0, of a record. -/
def runOf (rec : RunRec) (f : Run → Run) : Run :=
  f { Run.init 20 (opIdent 0 0 0 0 3) 2 (.task 0 0) (.run 20) rec 0 5 [] with phase := .running, rings := [0], phys := [0] }

/-- A state with it, and with a tile of handle 1. -/
def runState (r : Run) (st : TileState) : State := { base with runs := [r], tiles := [{ tl st with handle := 1 }] }

/-- A stripe of virtual stripe 1 that reads PA0 and PP0. -/
def reader1 : Stripe := stripeOf ccA (.ccAdd { ccf with b := pU, pin := .pp 0 }) (fun _ => []) []

/-- CellAgentsAndBindingsComplete: seam FIFOs with room in the channel they feed. -/
theorem wit_seams : ∀ r ∈ [runOf RunRec.bare fun r => { r with stripes := [(0, reader1)], seams := [⟨1, .pa 0, [dat [1]], [], [], 0, [false]⟩, ⟨1, .pp 0, [], [⟨true, []⟩], [], 0, []⟩] }],
    (runState r .full).run 20 = some r ∧ r.stripes.find? (fun p => p.2.vs == 1 && !p.2.restoring && !r.retiredK.contains p.2.k) = some (0, reader1)
    ∧ r.seam 1 (.pa 0) = some ⟨1, .pa 0, [dat [1]], [], [], 0, [false]⟩ ∧ r.seam 1 (.pp 0) = some ⟨1, .pp 0, [], [⟨true, []⟩], [], 0, []⟩
    ∧ (∀ c, reader1.chan (.pa 0) = some c → c.hasRoom = true) ∧ ∀ c, reader1.pchan (.pp 0) = some c → c.hasRoom = true := by
  simp only [List.mem_cons, List.not_mem_nil, or_false, forall_eq]
  refine ⟨rfl, by decide +kernel, by decide +kernel, by decide +kernel, fun c h => ?_, fun c h => ?_⟩
  · cases h; decide +kernel
  · cases h; decide +kernel

/-- Bindings: input FIFO 0 to the tile of handle 1, output FIFO 0 to it or to channel Q1 of ring 0; the fault endpoint is Q2. -/
def bound (kind : Nat) : RunRec :=
  { RunRec.bare with
    ifb := RunRec.bare.ifb.set 0 (BitVec.ofNat 64 (2 ^ 56 + 1)), faultEp := 0x8002
    ofb := RunRec.bare.ofb.set 0 (if kind = 1 then BitVec.ofNat 64 (2 ^ 56 + 1) else BitVec.ofNat 64 (2 * 2 ^ 56 + 0x8001)) }

/-- A run with these bindings, and a token in output FIFO 0. -/
def boundRun (kind : Nat) : Run :=
  runOf (bound kind) fun r => { r with outs := r.outs.set 0 ⟨[dat [4]], 0, 0, none⟩, records := [(⟨1, 2, 3, 4⟩, 3)] }

/-- CellAgentsAndBindingsComplete: a TILE binding that reads, outputs to a queue and to a tile in FILLING and not, and the last word of a record. -/
theorem wit_bindings : bindKind (bound 1).ifb[0] = 1 ∧ ((bound 1).ifb[0]).getLsbD 20 = false ∧ (boundRun 1).ins[0].closed = false ∧ (boundRun 1).ins[0].held = none
    ∧ (boundRun 1).ins[0].room = true ∧ (boundRun 1).ins[0].cut = false ∧ (boundRun 1).ins[0].begun = none
    ∧ (runState (boundRun 1) .full).tile (boundRun 1).die 2 ((bound 1).ifb[0].extractLsb' 0 20).toNat = some { tl .full with handle := 1 }
    ∧ (runState (boundRun 1) .full).applied 0 [] = true ∧ (boundRun 1).ins[0].col < 1 ∧ (tl .full).valid.getLsbD (boundRun 1).ins[0].row = true
    ∧ (runState (boundRun 1) .full).tileBad { tl .full with handle := 1 } 0 0 64 = false
    ∧ bindKind (bound 2).ofb[0] = 2 ∧ endpointOf ((bound 2).ofb[0].extractLsb' 0 16) = some ⟨true, 0, 1⟩ ∧ ((runState (boundRun 2) .full).queue 1).length < 32
    ∧ bindKind (bound 1).ofb[0] = 1 ∧ (runState (boundRun 1) .filling).tile 0 2 ((bound 1).ofb[0].extractLsb' 0 20).toNat = some { tl .filling with handle := 1 }
    ∧ (boundRun 1).outs[0].row < 1 ∧ (boundRun 1).outs[0].held = none ∧ endpointOf (bound 1).faultEp = some ⟨true, 0, 2⟩ ∧ base.ringPart 0 = some 2 := by
  and_intros <;> decide +kernel

/-- A stripe image of no op: an HD frame, a DT frame and an end frame. -/
def imageHd (crc : BitVec 32) : HDFrame := ⟨0, 0, 0, true, true, false, 0, 0, 0, crc, 3⟩
/-- Its bytes with a check value. -/
def imageWith (crc : BitVec 32) : List Byte := leBytes 32 (imageHd crc).bits.toNat ++ leBytes 32 (7 * 2 ^ 252) ++ leBytes 32 (15 * 2 ^ 252)
/-- Its bytes. -/
def imageBytes : List Byte := imageWith (crc32c (imageWith 0))
/-- What it is. -/
def image0 : Image := ⟨imageHd (crc32c (imageWith 0)), List.replicate 48 2, [], []⟩

/-- A run whose directory is at an address and whose one image 32 bytes after it has these bytes. -/
def scrollingAt (va : Nat) (bs : List Byte) : State :=
  { base with mem := Memory.writeBytes [] (2 ^ 21 + va) (leBytes 8 (3 * 2 ^ 32 + 32) ++ List.replicate 24 0 ++ bs)
              runs := [runOf RunRec.bare fun r => { r with images := BitVec.ofNat 64 va }] }

/-- What was fetched: the directory entry and the image, a part, or a refusal. -/
def fetched : Fetch ((Nat × Nat) × Image) → Option (Option ((Nat × Nat) × Image))
  | .ok a => some (some a)
  | .bad _ => some none
  | _ => none

/-- It is what the fetch answered. -/
theorem fetched_ok {r : Fetch ((Nat × Nat) × Image)} {a : (Nat × Nat) × Image} (h : fetched r = some (some a)) : r = .ok a := by
  cases r <;> simp [fetched] at h ⊢; exact h
/-- It was refused. -/
theorem fetched_bad {r : Fetch ((Nat × Nat) × Image)} (h : fetched r = some none) : ∃ c, r = .bad c := by
  cases r <;> simp [fetched] at h ⊢

/-- The value a reading of bytes or of an entry gave. -/
def gave {α : Type} : Fetch α → Option α
  | .ok a => some a
  | _ => none
/-- It gave that. -/
theorem gave_of {α : Type} {r : Fetch α} {a : α} (h : gave r = some a) : r = .ok a := by
  cases r <;> simp [gave] at h ⊢; exact h

/-- What a check of a whole image answers. -/
def checked (rec : RunRec) (vs : Nat) (e : Nat × Nat) (bs : List Byte) : Fetch ((Nat × Nat) × Image) :=
  match acceptImage rec vs e.2 bs with
  | .ok im => .ok (e, im)
  | .error c => .bad c

/-- An image within one block is read whole, whatever the free value is. -/
theorem fetchImage_whole {s : State} {r : Run} {die vs : Nat} {images : Word} {dir : Tab (Nat × Nat)} {e : Nat × Nat} {bs : List Byte}
    (he : s.dirEntry r die vs images dir = .ok e) (hf : r.fetch = none) (hl : 32 * e.2 ≤ 2048 - e.1 % 2048) (hb : s.scrollRead r die e.1 (32 * e.2) = .ok bs) :
    s.fetchImage r die vs images dir = checked r.recd vs e bs := by
  unfold State.fetchImage
  rw [he]
  simp only [Fetch.andThen, hf, List.length_nil, Nat.sub_zero, Nat.add_zero, min_eq_left hl, ite_self, hb, List.nil_append, lt_irrefl, if_false, checked]
  <;> cases acceptImage r.recd vs e.2 bs <;> rfl

/-- An image that goes on in another block is read by parts where the free value has it so. -/
theorem fetchImage_part {s : State} {r : Run} {die vs : Nat} {images : Word} {dir : Tab (Nat × Nat)} {e : Nat × Nat} {bs : List Byte}
    (he : s.dirEntry r die vs images dir = .ok e) (hf : r.fetch = none) (hl : 2048 - e.1 % 2048 < 32 * e.2) (ho : Config.freeNat s.freeCtr % 2 ≠ 0)
    (hb : s.scrollRead r die e.1 (2048 - e.1 % 2048) = .ok bs) : s.fetchImage r die vs images dir = .part e.1 bs := by
  unfold State.fetchImage
  rw [he]
  simp [Fetch.andThen, hf, ho, min_eq_right (le_of_lt hl), hb, hl]

/-- The run of `scrollingAt`. -/
def scrollRun (va : Nat) : Run := runOf RunRec.bare fun r => { r with images := BitVec.ofNat 64 va }

set_option maxRecDepth 20000 in
/-- ScrollComplete: STRIPE_IMAGE_ACCEPT of an image that passes, of one whose check value does not match, and of one that goes on in another block. -/
theorem wit_images : (scrollingAt 64 imageBytes).run 20 = some (scrollRun 64) ∧ (scrollRun 64).scrolls = true ∧ (scrollRun 64).wants 0 = some 0 ∧ (scrollRun 64).dueConfig = some 0
    ∧ (scrollingAt 64 imageBytes).applied 0 (scrollRun 64).deps = true
    ∧ (scrollingAt 64 imageBytes).fetchImage (scrollRun 64) 0 0 ((scrollRun 64).imageSource 0).1 ((scrollRun 64).imageSource 0).2.1 = .ok ((96, 3), image0)
    ∧ (∃ c, (scrollingAt 64 (imageWith 1)).fetchImage (scrollRun 64) 0 0 ((scrollRun 64).imageSource 0).1 ((scrollRun 64).imageSource 0).2.1 = .bad c)
    ∧ (Config.freeNat 0 % 2 ≠ 0 → (scrollingAt 1984 imageBytes).fetchImage (scrollRun 1984) 0 0 ((scrollRun 1984).imageSource 0).1 ((scrollRun 1984).imageSource 0).2.1
        = .part 2016 (imageBytes.take 32)) := by
  refine ⟨rfl, by decide, by decide +kernel, by decide +kernel, by decide +kernel, ?_, ?_, fun h => ?_⟩
  · rw [fetchImage_whole (e := (96, 3)) (bs := imageBytes) (gave_of (by decide +kernel)) rfl (by decide) (gave_of (by decide +kernel))]
    exact fetched_ok (by decide +kernel)
  · rw [fetchImage_whole (e := (96, 3)) (bs := imageWith 1) (gave_of (by decide +kernel)) rfl (by decide) (gave_of (by decide +kernel))]
    exact fetched_bad (by decide +kernel)
  · exact fetchImage_part (e := (2016, 3)) (gave_of (by decide +kernel)) rfl (by decide) h (gave_of (by decide +kernel))

set_option maxRecDepth 20000 in
/-- ScrollComplete: STRIPE_CONFIGURE, with the image in the ring's cache. -/
theorem wit_configure : ∀ r, r = runOf RunRec.bare (fun r => { r with images := 64, dir := [(0, (96, 3))] }) →
    r.dueConfig = some 0 ∧ Tab.find (r.imageSource 0).2.1 0 = some (96, 3) ∧ r.resuming = .no ∧ r.retiredK.contains 0 = false ∧ r.scrolls = true
    ∧ ({ base with runs := [r], caches := [(0, [⟨2, 5, 96, 3, image0, false⟩])] } : State).cached 0 r 0 (96, 3) = some image0
    ∧ ({ base with runs := [r], caches := [(0, [⟨2, 5, 96, 3, image0, false⟩])] } : State).placeTaken r 0 = false := by
  rintro r rfl
  exact ⟨by decide, by decide, by decide, by decide, by decide, by decide +kernel, by decide +kernel⟩

/-- A stripe in slot k of a run of two virtual stripes on one slot, with a STOP of the round level consumed. -/
def gone : Stripe :=
  { stripeOf ccA (.ccAdd ccf) (fun _ => []) [] with ops := [(ccA, { OpState.init with stopSeen := 1, flagSeen := true, swapSeen := true })] }

/-- ScrollComplete: STRIPE_RETIRE of a run that scrolls, SLOT_RELEASE of one that is marked, IMAGE_SWAP and STATE_RESTORE. -/
theorem wit_leave : gone.image.hd.stateful = false ∧ gone.retires (runOf { RunRec.bare with v := 2, pmax := 2, round := 1 } fun r => { r with p := 1 }) = true
    ∧ (gone.leaving false).seamed = [] ∧ (gone.leaving true).seamed = []
    ∧ gone.released (runOf RunRec.bare fun r => { r with marking := some (.slice none) }) = true
    ∧ gone.idle = true ∧ gone.passedSwap = true ∧ gone.swapped = false
    ∧ (runOf RunRec.bare fun r => { r with stripes := [(0, { gone with restoring := true })] }).portFree 0 gone.k = true ∧ base.outReqs = []
    ∧ gave (State.scrollRead { base with stale := [] } (runOf RunRec.bare id) 0 64 0) = some (regionBytes 7 0) := by
  and_intros <;> decide +kernel

/-- A run with one stripe of the image and a swap to the directory at 64 asked for, its image read or not yet. -/
def swapping (l : Tab (Nat × Nat)) : Run :=
  runOf RunRec.bare fun r =>
    { r with stripes := [(0, Stripe.make 0 0 image0 false false false (fun _ => []) (fun _ => []))], pending := some ⟨64, false, l⟩ }

/-- A state with it, its new image at 96, and in the ring's cache once it has been read. -/
def swapState (bs : List Byte) (l : Tab (Nat × Nat)) : State :=
  { scrollingAt 64 bs with runs := [swapping l], caches := if l.isEmpty then [] else [(0, [⟨2, 5, 96, 3, image0, false⟩])] }

set_option maxRecDepth 20000 in
/-- ScrollComplete: RSWAP_PREPARE of an image that is read and agrees with the resident stripe, of one that is refused, and of a swap whose every image
has been read; IMAGE_SWAP has that image. -/
theorem wit_prepare : (∀ l ∈ [[], [(0, (96, 3))]], ∀ x ∈ (swapping l).stripes, x.2.restoring = false)
    ∧ (swapState imageBytes []).swapImage (swapping []) ⟨64, false, []⟩ 0 (Stripe.make 0 0 image0 false false false (fun _ => []) (fun _ => [])) = none
    ∧ ((swapState imageBytes []).fetchImage (swapping []) 0 0 64 [] = .ok ((96, 3), image0) ∧ swapMatches image0.hd image0.hd = true)
    ∧ (∃ c, (swapState (imageWith 1) []).fetchImage (swapping []) 0 0 64 [] = .bad c)
    ∧ (swapState imageBytes [(0, (96, 3))]).swapImage (swapping [(0, (96, 3))]) ⟨64, false, [(0, (96, 3))]⟩ 0
        (Stripe.make 0 0 image0 false false false (fun _ => []) (fun _ => [])) = some ((96, 3), image0) := by
  refine ⟨by decide +kernel, by decide +kernel, ⟨?_, by decide +kernel⟩, ?_, by decide +kernel⟩
  · rw [fetchImage_whole (e := (96, 3)) (bs := imageBytes) (gave_of (by decide +kernel)) rfl (by decide) (gave_of (by decide +kernel))]
    exact fetched_ok (by decide +kernel)
  · rw [fetchImage_whole (e := (96, 3)) (bs := imageWith 1) (gave_of (by decide +kernel)) rfl (by decide) (gave_of (by decide +kernel))]
    exact fetched_bad (by decide +kernel)

/-- RunLifeComplete: a launched run with rings to be had, and placements that hardware refuses. -/
theorem wit_admit : ∀ r, r = runOf RunRec.bare (fun r => { r with phase := .launched }) → (runState r .full).placeOk r [0] = true ∧ (runState r .full).ringsFree 20 [0] = true
    ∧ (∀ g ∈ [0], (runState r .full).applied (ringDie g) r.deps = true) ∧ (runState r .full).awaitsGang 20 = false ∧ (runState r .full).placeOk r [0, 1] = false
    ∧ (runState r .full).placeOk r [5] = false := by
  rintro r rfl
  exact ⟨by decide +kernel, by decide +kernel, by decide +kernel, by decide +kernel, by decide +kernel, by decide +kernel⟩

/-- A stub for task 0 of ring 0. -/
def stubbed : State := runState (runOf { RunRec.bare with stub := 0 } fun r => { r with resuming := .stub }) .full

/-- A run marked at clk 0. -/
def markedRun (m : Marking) : Run := runOf RunRec.bare fun r => { r with marking := some m }

/-- RunLifeComplete: a complete run, one past its SAFEGAP, one at quiet, one that may be marked, one that lies on two dies, and the marked ones. -/
theorem wit_life : (runOf RunRec.bare fun r => { r with nextK := 1 }).endCause = some 0 ∧ base.asksOutside 20 = false ∧ endpointOf RunRec.bare.doneEp = some ⟨false, 0, 0⟩
    ∧ (∃ g ∈ (runOf { RunRec.bare with safegap := 4 } fun r => { r with gaps := [(0, 5)] }).gaps, 4 < g.2)
    ∧ (runOf RunRec.bare fun r => { r with nextK := 1, quietClk := 128 }).flight = 0 ∧ 2 * (runOf RunRec.bare id).window ≤ 128
    ∧ (runOf { RunRec.bare with safe := 1 } id).marks = true ∧ (runOf { RunRec.bare with safe := 1 } id).dies.length ≤ 1
    ∧ 1 < (runOf { RunRec.bare with safe := 1 } fun r => { r with rings := [3, 4], phys := [3, 4] }).dies.length
    ∧ (runState (runOf RunRec.bare id) .full).targetsOk (runOf RunRec.bare id) [1] = true
    ∧ (runOf RunRec.bare fun r => { r with nextK := 1, marking := some (.gang none 10) }).scrolls = true
    ∧ (match (runState (runOf RunRec.bare fun r => { r with nextK := 1, marking := some (.gang none 10) }) .full).suspend
        (runOf RunRec.bare fun r => { r with nextK := 1, marking := some (.gang none 10) }) [] with | .done _ => true | .later _ => false) = true
    ∧ (runState (runOf RunRec.bare fun r => { r with phase := .suspended }) .full).placeOk (runOf RunRec.bare fun r => { r with phase := .suspended }) [1] = true
    ∧ (runState (runOf RunRec.bare fun r => { r with phase := .suspended }) .full).ringsFree 20 [1] = true
    ∧ (runOf { RunRec.bare with stub := 0 } fun r => { r with resuming := .stub }).stubTask = some 0 ∧ (stubbed.task 0).status = .runnable ∧ (stubbed.task 0).inHandler = false
    ∧ (∀ x ∈ stubbed.tasks, x.2.stubRun ≠ some 20 ∧ x.2.stubDue = none) ∧ 38 ∉ base.sensorsHot ∧ 10 * base.figures.migrateC ≤ 950
    ∧ 38 ∈ ({ base with sensorsHot := [38] } : State).sensorsHot ∧ 949 < 10 * base.figures.migrateC
    ∧ (runState (runOf RunRec.bare fun r => { r with nextK := 1, quietClk := 128 }) .full).saving 20 = false
    ∧ (∀ m ∈ [Marking.gang none 10, .migration [1] 10], (markedRun m).marking = some m ∧ (markedRun m).markClk + 10 < ({ runState (markedRun m) .full with clk := 11 } : State).clk
      ∧ (markedRun m).stopping = .no ∧ (markedRun m).resuming = .no) := by
  and_intros <;> decide +kernel

/-! ### Pools, Kiln, graphs and the package -/

/-- A state whose pool has one request of n granules waiting. -/
def asking (n : Nat) : State :=
  { base with pools := [(2, { Pool.reset with res := 1000, lim := 2000, quota := 1000, queue := [⟨7, .task 0, n, false, false, 0, false⟩] })], clk := 2 ^ 32 }

/-- A state with context 5, its tables in host memory, in which a walk of page 7 is queued. -/
def walking : State :=
  { base with contexts := [(5, ⟨2, .one, 2 ^ 51, 2 ^ 51 + 4096, Vector.replicate 8 0⟩)], walks := [(0, 5, 7)] }

/-- PoolsAndTranslationsComplete: a request that fits and one that does not, figures that do and do not, a stream to bind, a walk, and contexts. -/
theorem wit_pools : waiting ((asking 5).pool 0 2).queue = [⟨7, .task 0, 5, false, false, 0, false⟩] ∧ (asking 5).fits 0 2 false false 5 = true
    ∧ (asking 5000).fits 0 2 false false 5000 = false ∧ ((List.range 16).map fun i => if i = 2 then 262144 else (base.pool 0 i).res).sum ≤ 262144
    ∧ 262144 < ((List.range 16).map fun i => if i = 2 then 262145 else (base.pool 0 i).res).sum
    ∧ ((((asking 5).pool 0 2).queue ++ ((asking 5).pool 0 2).hbQueue).find? (fun y => y.id == 7 && !y.granted && !y.stalled)).isSome = true
    ∧ 0 + (asking 5).figures.astallClk ≤ (asking 5).clk ∧ base.clk < 0 + base.figures.astallClk
    ∧ ({ base with streams := [⟨1, 0, none, .engine 9, false, false, 0, 1⟩] } : State).freeStreamer 0 = some 0
    ∧ (∀ s ∈ [walking, { walking with contexts := [] }], (0, 5, 7) ∈ s.walks) ∧ walking.walk 0 5 7 = .out (2 ^ 51) 32
    ∧ ({ walking with contexts := [] } : State).walk 0 5 7 = .entry (failedTlb 0 5 7 fXLATE)
    ∧ (∀ a ∈ base.accesses, a.asid = 5 → a.parts = []) ∧ (∃ a ∈ (accessing (.load .d 3)).accesses, a.asid = 5 ∧ a.parts ≠ [])
    ∧ (base.part 2).state = .active ∧ Tab.find base.contexts 9 = none ∧ (∀ q ∈ base.partitions, q.1 ≠ 2 → 9 ∉ q.2.contexts)
    ∧ Tab.find ({ base with contexts := [(9, ⟨2, .one, 0, 0, Vector.replicate 8 0⟩)] } : State).contexts 9 ≠ none := by
  and_intros <;> decide +kernel

/-- A state with unit 1 sealed for partition 2 under generations 2 and 3, of which 3 is current, and its first block cached and modified. -/
def sealing (g : BitVec 16) (v : BitVec 32) : State :=
  { base with
    partitions := [(2, { Partition.reset with state := .active, rings := [0, 1], units := [(1, false)], contexts := [5], defaultCtx := 5 })]
    contexts := [(5, ⟨2, .six, 0, 0, Vector.replicate 8 0⟩)], kilns := [(2, ⟨some 5, 3, [(2, 1), (3, 1)], 0⟩)], blocks := [(1024, { Block.reset with gen := g, version := v, cached := true, dirty := true })] }

/-- KilnComplete: a block under the current generation, at a version that may rise and at the last one, and under another; a rotation, a range of
one block, a sweep, a generation that no block carries, and a CREATED partition. -/
theorem wit_kiln : (sealing 3 7).unitOwner (2048 * 1024) = some 2 ∧ (sealing 3 7).unitShared (2048 * 1024) = false ∧ (sealing 3 7).homeOf (2048 * 1024) = 0
    ∧ (Tab.get (sealing 3 7).blocks Block.reset 1024).lineBad = false ∧ (∀ k ∈ treePath 1024, Tab.get (sealing 3 7).treeCounts 0 k ≠ 2 ^ 48 - 1) ∧ ((sealing 3 7).kiln 0 2).live ≠ [] ∧ ((sealing 3 7).kiln 0 2).current = 3
    ∧ (Tab.get (sealing 3 0xFFFFFFFF).blocks Block.reset 1024).version = 0xFFFFFFFF ∧ (Tab.get (sealing 2 7).blocks Block.reset 1024).gen ≠ 3
    ∧ ((sealing 3 7).kiln 0 2).key = some 5 ∧ ((sealing 3 7).kiln 0 2).isLive 4 = false
    ∧ (sealing 3 7).blockOf 0 2 (2 ^ 21 / 2048 + 0) = true ∧ 2 ^ 21 % 2048 = 0 ∧ (∀ q ∈ (sealing 3 7).blocks, q.2.stalled = false)
    ∧ (sealing 2 7).blockFault false (2048 * 1024) = none ∧ (sealing 3 7).sealedBlocks 0 2 ≠ []
    ∧ (sealing 3 7).sealedBlocks 0 2 = (List.range 1024).map (fun i => 1024 + i) := by
  and_intros <;> decide +kernel

/-- KilnComplete: KILN_RETIRE of a generation that no block carries and of one that some does; KILN_GENERATED_KEY. -/
theorem wit_retire : (∀ b ∈ (sealing 3 7).sealedBlocks 0 2, (Tab.get (sealing 3 7).blocks Block.reset b).gen ≠ 2)
    ∧ (∃ b ∈ (sealing 2 7).sealedBlocks 0 2, (Tab.get (sealing 2 7).blocks Block.reset b).gen = 2) ∧ ((sealing 2 7).kiln 0 2).current ≠ 2
    ∧ (({ base with partitions := [(2, { Partition.reset with state := .created })] } : State).part 2).state = .created := by
  refine ⟨by decide +kernel, ⟨1024, by decide +kernel, by decide +kernel⟩, by decide +kernel, by decide +kernel⟩

/-- A graph of partition 2 with these nodes. -/
def graphOf (l : List Node) : Graph := ⟨4, some 3, 2, 5, 128, 0, false, 0, 0, l, false, 0, 0, 0, 0, false⟩

/-- A node of a kind, with the first two bytes of its body, in a state. -/
def nodeK (kind lo : Nat) (st : NodeStatus) : Node :=
  ⟨kind, 0, [], [], leBytes 2 lo ++ List.replicate 70 0, 1, true, st, 0, 0, false, false, 0, false, false, []⟩

/-- A state with the graph, and with interface 3 bound to partition 2. -/
def graphed (l : List Graph) (p : List Pending) : State :=
  { base with graphs := l, ifaces := [(3, { Iface.reset with binding := BitVec.ofNat 64 (2 ^ 63 + 2 * 2 ^ 30 + 5 * 2 ^ 14), part := 2, asid := 5, fifo := p })] }

/-- GraphsComplete: launches that are taken and dropped, and a graph to cancel. -/
theorem wit_launch : (graphed [] []).pageLive 3 = true ∧ ((graphed [] []).part ((graphed [] []).iface 3).part).state = .active ∧ ((graphed [] []).iface 3).fifo.length < 16
    ∧ 16 ≤ ((graphed [] (List.replicate 16 ⟨0, 5, []⟩)).iface 3).fifo.length
    ∧ (graphed [graphOf []] []).graphs.find? (fun g => g.iface == some 3 && g.va == 128 && !g.cancelled) = some (graphOf [])
    ∧ (graphed [graphOf []] []).graph 4 = some (graphOf []) := by
  and_intros <;> decide +kernel

/-- The header of a graph of one node, and that node, an END. -/
def oneEnd : List Byte := (leBytes 2 1 ++ List.replicate 126 0) ++ ([7] ++ List.replicate 127 0)

/-- A state in which it stands at 128 and waits at interface 3. -/
def waitingGraph (bs : List Byte) : State := { graphed [] [⟨128, 5, []⟩] with mem := Memory.writeBytes [] (2 ^ 21 + 128) bs }

/-- GraphsComplete: GRAPH_ACCEPT of a graph that passes and of one of no nodes. -/
theorem wit_accept : ((waitingGraph oneEnd).iface 3).fifo = [⟨128, 5, []⟩] ∧ (waitingGraph oneEnd).readV 6 2 5 (ifaceWho 3) 128 128 = .ok (oneEnd.take 128)
    ∧ badHeader (oneEnd.take 128) = [] ∧ (waitingGraph oneEnd).readV 6 2 5 (ifaceWho 3) 256 128 = .ok (oneEnd.drop 128) ∧ fieldAt (oneEnd.take 128) 0 2 = 1
    ∧ (match (waitingGraph oneEnd).checkGraph 2 [oneEnd.drop 128] with | .ok l => l.length | .error _ => 0) = 1
    ∧ (waitingGraph []).readV 6 2 5 (ifaceWho 3) 128 128 = .ok (List.replicate 128 0) ∧ badHeader (List.replicate 128 0) ≠ [] ∧ fieldAt (List.replicate 128 0) 8 8 = 0 := by
  and_intros <;> decide +kernel

/-- The node that a dispatch would take first. -/
def firstOf (s : State) : Option (Nat × Nat) := (firstReady (s.dispatchable 2)).map fun x => (x.node.kind, x.node.task)

/-- The machine after parking, as NODE_DISPATCH looks at it: a graph of one ready node. -/
def readied (n : Node) : State := (graphed [graphOf [n]] []).park 2

/-- GraphsComplete: NODE_DISPATCH of a COND, a COPY, a TASK and a RUN node, and of one whose operand names no tile. -/
theorem wit_dispatch : (∀ k ∈ [4, 3, 2, 1], (readied (nodeK k 0x8001 .ready)).turnOf 2 = true ∧ (firstOf (readied (nodeK k 0x8001 .ready))).map Prod.fst = some k)
    ∧ (readied (nodeK 2 0x8001 .ready)).ringPart (taskRing (nodeK 2 0x8001 .ready).task) = some 2
    ∧ (match ((readied (nodeK 1 0 .ready)).countTurn 2).startRun ⟨graphOf [nodeK 1 0 .ready], 0, nodeK 1 0 .ready⟩ with | .done _ => true | .later _ => false) = true
    ∧ (graphed [] []).operandOk 2 7 = false ∧ ({ nodeK 4 0 .ready with operands := [7] } : Node).operands.all ((graphed [] []).operandOk 2) = false := by
  and_intros <;> decide +kernel

/-- A LOOP node over node 1, with no limit of iterations. -/
def loopNode (c : Byte) : Node :=
  { nodeK 5 0 .dispatched with body := List.replicate 24 0 ++ [c, 0] ++ leBytes 2 1 ++ leBytes 2 1 ++ List.replicate 42 0, succ := [1] }

/-- GraphsComplete: NODE_EVALUATE of COND, SWITCH and LOOP nodes, with a LOOP's condition false and true, and NODE_COMPLETE of a node whose agent has ended
and of END. -/
theorem wit_nodes : (∀ k ∈ [4, 6, 5], (graphed [graphOf [nodeK k 0 .dispatched]] []).graph 4 = some (graphOf [nodeK k 0 .dispatched])
      ∧ (graphOf [nodeK k 0 .dispatched]).nodes[0]? = some (nodeK k 0 .dispatched) ∧ (nodeK k 0 .dispatched).field 0x38 8 = 0)
    ∧ (graphed [] []).readV 6 2 5 (.graph 4 0) 0 8 = .ok (List.replicate 8 0) ∧ (loopNode 1).holds 0 = false ∧ (loopNode 0).holds 0 = true
    ∧ (loopNode 0).field 0x56 2 = 0 ∧ (0 : Nat) < (loopNode 0).field 0x52 2 ∧ (loopNode 0).field 0x52 2 ≤ (loopNode 0).field 0x54 2
    ∧ (loopNode 0).field 0x54 2 < (graphOf [loopNode 0, nodeK 1 0 .complete]).nodes.length
    ∧ (graphed [] []).agentOver { nodeK 1 0 .dispatched with ended := true } = true ∧ (nodeK 7 0 .ready).kind = 7
    ∧ (graphOf [loopNode 0, { nodeK 1 0 .waiting with count := 1 }]).nodes[1]? = some { nodeK 1 0 .waiting with count := 1 } := by
  and_intros <;> decide +kernel

/-- A source with one event. -/
def withEvent (t : Nat) (b : Bool) : State := { base with timestamp := 5, sources := [(1, ⟨[⟨BitVec.ofNat 64 t, 1, 1, 0, 0, 0, 0, b⟩], 0⟩)] }

/-- PackageComplete: an event that has passed, with an error and without, and one that has not, a late response, a run that crosses a link, and what
the die resets meet. -/
theorem wit_package : (∀ t ∈ [(0 : Nat), 9], ∀ b ∈ [false, true], (Tab.get (withEvent t b).sources ⟨[], 0⟩ 1).buffer = [⟨BitVec.ofNat 64 t, 1, 1, 0, 0, 0, 0, b⟩]
      ∧ (withEvent t b).passed ⟨BitVec.ofNat 64 t, 1, 1, 0, 0, 0, 0, b⟩ = decide (t = 0))
    ∧ base.dirtyBlocks 0 = [] ∧ (∀ a ∈ (accessing (.load .d 3)).accesses, taskDie a.task = 0)
    ∧ ({ base with lateResp := [(1, 7, 3)] } : State).lateResp.find? (fun x => x.1 == 1 && x.2.1 == 7) = some (1, 7, 3) ∧ (3 : BitVec 8) ≠ base.inc 1
    ∧ (runOf RunRec.bare fun r => { r with rings := [3, 4], phys := [3, 4] }).crosses 0 = true ∧ 0 ∉ base.linksDown ∧ 0 ∉ base.throttled
    ∧ 0 ∈ ({ base with throttled := [0] } : State).throttled ∧ base.figures.powerCapMW < 5500001 := by
  and_intros <;> decide +kernel

/-- A grant of ring 5 and unit 9. -/
def grant5 : PartGrant := ⟨[5], [(9, true)], [(1, 4, 8)], [(1, 8)], [], 1, 1, [11], 11, [2], none, []⟩

/-- PartitionsComplete: a grant, partitions to destroy and to free, an idle ring to move, a function of an interface, and bindings. -/
theorem wit_partitions : base.booted = true ∧ (base.part 3).state = .free ∧ base.grantOk grant5 = true
    ∧ (({ base with partitions := [(2, { Partition.reset with state := .ending })] } : State).part 2).state = .ending
    ∧ ({ base with partitions := [(2, { Partition.reset with state := .ending })] } : State).drained 2 = true
    ∧ 9 ∈ base.enabled ∧ base.ringPart 9 ≠ some 2 ∧ base.ringOut 9 = false ∧ (∀ r ∈ base.runs, 9 ∉ r.holds) ∧ (∀ x ∈ base.tasks, taskRing x.1 = 9 → x.2.status = .idle)
    ∧ Tab.find (graphed [] []).ifaces 3 = some ((graphed [] []).iface 3) ∧ ((graphed [] []).iface 3).binding.getLsbD 63 = true
    ∧ (((graphed [] []).iface 3).binding.extractLsb' 54 9).toNat = 0 ∧ (graphed [] []).bindingOk ((graphed [] []).iface 3).binding = true
    ∧ (graphed [] []).bindingFits 3 ((graphed [] []).iface 3).binding = true ∧ (graphed [] []).bindingFits 1027 ((graphed [] []).iface 3).binding = false
    ∧ (graphed [] []).trained = true ∧ bindFunction ((graphed [] []).iface 3).binding = 0
    ∧ (∀ x ∈ (graphed [] []).ifaces, x = (3, (graphed [] []).iface 3)) ∧ (∀ x ∈ (graphed [] []).ifaces, x.1 % 1024 ≠ 16384 / 4096)
    ∧ (graphed [] []).ifaceLive 3 = false ∧ (graphed [graphOf []] []).ifaceLive 3 = true ∧ 256 + base.numVfs[1] ≤ 256
    ∧ 256 + base.numVfs[0] ≤ 256 ∧ 256 < 257 + base.numVfs[0] := by
  and_intros <;> decide +kernel

/-- A load from host memory of slot 0. -/
def hostLoad : GAccess := ⟨7, 0, 0, 0, .load .d 3, .rlx, .dev, 2, 5, 64, [(2 ^ 51, 8, true)], [0], 0, [], [], none⟩

/-- That load, and a stream with peer package 6 whose window is the first 64 KiB of unit 1. -/
def linked (u : List SentFrame) : State :=
  { base with
    partitions := [(2, { Partition.reset with state := .active, rings := [0, 1], units := [(1, true)], contexts := [5], defaultCtx := 5, window := some (2 ^ 21, 65536) })]
    accesses := [hostLoad], outReqs := [⟨30, 0, 2, .access 7, 64, 2 ^ 51, 8, .read, 0, none⟩]
    peers := [(streamKey 2 6, ⟨0, 0, 0, u, 0, []⟩)], blocks := [(1024, { Block.reset with cached := true })] }

/-- A frame of that peer. -/
def frame6 (acked : BitVec 32) (p : List Byte) : SoFrame := ⟨2, 6, 0, 0, acked, 0, p, 0⟩
/-- As it comes: sealed under the pair's key. -/
def sealed6 (p : List Byte) (kind n : Nat) : SoFrame := soProtect (frame6 0xFFFFFFFE p) 0 kind n
/-- A frame that has not been acknowledged. -/
def sent0 : SentFrame := ⟨2, frame6 0 [], 8, none, 1⟩

/-- A sealed frame for this package is taken, with its payload in the clear. -/
theorem opened {s : State} {f : SoFrame} {q : SoStream} {w : Nat × Nat} {kind n : Nat} (hq : Tab.find s.peers (streamKey f.partition f.source) = some q)
    (hw : (s.part f.partition).window = some w) (hd : f.dest = s.package) (hl : s.partLive f.partition = true) :
    ∃ g, s.openFrame (soProtect f q.key kind n) kind n = some (g, w) ∧ g.payload = f.payload ∧ g.offset = f.offset := by
  refine ⟨{ f with tag := (soProtect f q.key kind n).tag }, ?_, rfl, rfl⟩
  have hh : soHeader (soProtect f q.key kind n) kind n = soHeader f kind n := rfl
  have hp : gcmCrypt q.key (Config.frameIv (soHeader f kind n)) (soProtect f q.key kind n).payload = f.payload := gcmCrypt_crypt ..
  have hv : soVerify (soProtect f q.key kind n) q.key kind n = some { f with tag := (soProtect f q.key kind n).tag } := by
    unfold soVerify
    simp only [hh, hp]
    exact if_pos rfl
  unfold State.openFrame
  simp only [show (soProtect f q.key kind n).partition = f.partition from rfl, show (soProtect f q.key kind n).source = f.source from rfl,
    show (soProtect f q.key kind n).dest = f.dest from rfl, hq, hw, hd, hl, and_self, if_true, hv, Option.map_some]

/-- HostLinkComplete: frames of each kind that are taken, of an empty payload and of two bytes, and one of a stream that there is not. -/
theorem wit_frames : (∀ kind n, ∃ g, (linked []).openFrame (sealed6 [] kind n) kind n = some (g, (2 ^ 21, 65536)) ∧ g.payload = [] ∧ g.offset = 0)
    ∧ (∀ kind n, ∃ g, (linked [sent0]).openFrame (sealed6 [1, 2] kind n) kind n = some (g, (2 ^ 21, 65536)) ∧ g.payload = [1, 2] ∧ g.offset = 0)
    ∧ (sealed6 [1, 2] 1 2).payload.length = 2 ∧ ∀ kind, base.openFrame (frame6 0 []) kind 0 = none :=
  ⟨fun _ _ => opened (q := ⟨0, 0, 0, [], 0, []⟩) rfl rfl rfl (by decide +kernel), fun _ _ => opened (q := ⟨0, 0, 0, [sent0], 0, []⟩) rfl rfl rfl (by decide +kernel),
    gcmCrypt_length .., fun _ => rfl⟩

/-- HostLinkComplete: an answer from the host, shared memory, frames in order, with what they do and do not acknowledge, and a frame that fails. -/
theorem wit_hosts : (linked []).outReqs.find? (fun o => o.serial == 30 && paSpace o.pa == 2) = some ⟨30, 0, 2, .access 7, 64, 2 ^ 51, 8, .read, 0, none⟩
    ∧ (linked []).accesses.find? (fun a => a.serial == 7) = some hostLoad
    ∧ base.cxl.toList.contains true = true ∧ ({ base with cxl := Vector.replicate 2 false } : State).cxl.toList.contains true = false
    ∧ base.decoded ((base.unitOwner (2 ^ 21)).getD 0) 1 = some [⟨0, 2, 1, 1⟩]
    ∧ ({ base with hdm := List.replicate 8 ⟨0, 2, 9, 1⟩ ++ List.replicate 8 ⟨1, 2, 9, 1⟩ } : State).decoded 2 1 = none
    ∧ base.trained = true ∧ base.unitShared (2 ^ 21) = true ∧ base.physOk true (2 ^ 21) 2048 = true ∧ base.unitShared 0 = false
    ∧ (Tab.find (linked [sent0]).peers (streamKey 2 6)).isSome = true ∧ covered 0xFFFFFFFF sent0.frame.seqNo = false ∧ covered 0 sent0.frame.seqNo = true ∧ sent0.kind ≠ 1 ∧ 0 < base.figures.maxRetries
    ∧ (linked []).physOk false (2 ^ 21) 8 = true ∧ (linked []).blockFault false (2 ^ 21) = none ∧ base.outReqs = [] := by
  and_intros <;> decide +kernel

/-- A responder whose handshake is finished, on function 2 of a CREATED partition. -/
def attested : State :=
  { base with
    partitions := [(2, { Partition.reset with state := .created, functions := [2] })], spdm := [(2, ⟨true, some 9, true, 0, 0, none⟩)] }

/-- SpdmResponderComplete: a responder before and after negotiation, with a session, and the delivery of a key. -/
theorem wit_spdm : (base.spdmOf 2).negotiated = false ∧ (attested.spdmOf 2).negotiated = true ∧ (attested.spdmOf 2).session ≠ none
    ∧ attested.keyTarget 2 Config.odvexRegistry (List.replicate 32 1) (Config.gcmTag 9 (Config.spdmIv 9 false 0) [] (List.replicate 32 1)) = some 2
    ∧ base.keyTarget 2 0 [] 0 = none := by
  refine ⟨by decide +kernel, by decide +kernel, by decide +kernel, ?_, by decide +kernel⟩
  have h : (attested.spdmOf 2).hears (List.replicate 32 1) (Config.gcmTag 9 (Config.spdmIv 9 false 0) [] (List.replicate 32 1)) = true := by
    show (true && (Config.gcmTag 9 (Config.spdmIv 9 false 0) [] (List.replicate 32 1) == Config.gcmTag 9 (Config.spdmIv 9 false 0) [] (List.replicate 32 1))) = true
    rw [beq_self_eq_true, Bool.and_self]
  unfold State.keyTarget
  rw [beq_self_eq_true, h]
  decide +kernel

/-! ### Their other clauses -/

/-- A run record whose input FIFO 0 is bound to a queue. -/
def queueBound : RunRec := { RunRec.bare with ifb := RunRec.bare.ifb.set 0 (BitVec.ofNat 64 (2 ^ 57)) }

/-- A run with it on ring 0 of a state, its binding changed. -/
def queueRun (f : InBind → InBind) : Run := runOf queueBound fun r => { r with ins := r.ins.set 0 (f r.ins[0]) }

/-- SendqDelivers, at an IF endpoint: no run on the ring, a binding that is not to a queue, one that has closed, one that is full and one with room. -/
theorem wit_sendqBinding : endpointOf 0x8008 = some ⟨true, 0, 8 + (0 : Fin 8).val⟩ ∧ base.runOnRing 0 = none
    ∧ (runState (runOf RunRec.bare id) .full).runOnRing 0 = some (runOf RunRec.bare id) ∧ (runState (runOf RunRec.bare id) .full).run 20 = some (runOf RunRec.bare id)
    ∧ bindKind RunRec.bare.ifb[0] ≠ 2 ∧ bindKind queueBound.ifb[0] = 2
    ∧ (runState (queueRun fun i => { i with closed := true }) .full).runOnRing 0 = some (queueRun fun i => { i with closed := true })
    ∧ (queueRun fun i => { i with closed := true }).ins[0].closed = true
    ∧ (queueRun fun i => { i with kept := List.replicate 32 (dat [1]) }).ins[0].room = false
    ∧ (runState (queueRun fun i => { i with kept := List.replicate 32 (dat [1]) }) .full).runOnRing 0 = some (queueRun fun i => { i with kept := List.replicate 32 (dat [1]) })
    ∧ (runState (queueRun id) .full).runOnRing 0 = some (queueRun id) ∧ (queueRun id).ins[0].room = true ∧ (queueRun id).ins[0].closed = false
    ∧ (runState (queueRun id) .full).accessesOf 0 = [] ∧ (runState (queueRun id) .full).knows (runState (queueRun id) .full).myDie (ringDie 0)
    ∧ (queueRun id).serial = 20 ∧ Issues gd .free [1] [] (runState (queueRun id) .full) := by
  refine ⟨rfl, rfl, rfl, rfl, by decide +kernel, by decide +kernel, rfl, by decide +kernel, by decide +kernel, rfl, rfl, by decide +kernel, by decide +kernel, rfl, .inl rfl, rfl, issues_of (by decide +kernel)⟩

/-- GlobalAccessesIssueOrTrap: the same of a store and of an atomic. -/
theorem wit_traps : base.translateParts 0 2 5 ⟨false, true, false⟩ (partsOf 8192 8) = .miss [2] ∧ base.translateParts 0 2 5 ⟨true, true, true⟩ (partsOf 8192 8) = .miss [2]
    ∧ ({ base with tlb := [{ page 0 0 with write := false }] } : State).translateParts 0 2 5 ⟨false, true, false⟩ (partsOf 64 8) = .bad fPERM 2 64
    ∧ ({ base with tlb := [{ page 0 0 with atomic := false }] } : State).translateParts 0 2 5 ⟨true, true, true⟩ (partsOf 64 8) = .bad fPERM 3 64
    ∧ (withRegs [(1, 8192)]).translateParts 0 2 5 ⟨false, true, false⟩ (partsOf ((withRegs [(1, 8192)]).r 1 + BitVec.signExtend 64 (0 : BitVec 32)).toNat 8) = .miss [2]
    ∧ Issues gd .store [1, 2] [] (withRegs [(1, 8192)]) ∧ Issues gd .store [1, 2, 0] [3] (withRegs [(1, 8192)]) :=
  ⟨rfl, rfl, rfl, rfl, rfl, issues_of (by decide), issues_of (by decide)⟩

/-- TallocMakesTileOrWaits, with the descriptor in S1: a reserved mode, an invalid format, and a pool that has no room. -/
theorem wit_tallocReg : Issues gd .system [1] [3] (withRegs [(1, 0x60000)]) ∧ ((withRegs [(1, 0x60000)]).r 1).extractLsb' 0 27 = 0x60000
    ∧ Issues gd .system [1] [3] (withRegs [(1, 0x83C00)]) ∧ ((withRegs [(1, 0x83C00)]).r 1).extractLsb' 0 27 = 0x83C00
    ∧ Issues gd .system [1] [3] { withRegs [(1, 0x80000)] with pools := [] } ∧ ({ withRegs [(1, 0x80000)] with pools := [] } : State).me.waitFor = none
    ∧ (({ withRegs [(1, 0x80000)] with pools := [] } : State).r 1).extractLsb' 0 27 = 0x80000
    ∧ ({ withRegs [(1, 0x80000)] with pools := [] } : State).grantNow 0 2 (descOf 0x80000).hb true 1 = false :=
  ⟨issues_of (by decide), by decide, issues_of (by decide), by decide, issues_of (by decide), rfl, by decide, by decide +kernel⟩

/-- A tile of handle 64 was freed, and a write that its seal released is on its way to the task's die. -/
def unseenFree : State :=
  { base with freed := [(handleKey 0 2 64, [4])], inFlight := [⟨4, 1, 0, [], 2 ^ 21, [some 1], none, none⟩] }

/-- TileInstructionsComplete and WaitsComplete: a freed tile whose seal has not reached the die, one whose seal has, and a sealed tile that has not. -/
theorem wit_unseen : base.tile 0 2 64 = none ∧ unseenFree.tile 0 2 64 = none ∧ unseenFree.freeSeen 0 0 64 = false ∧ base.freeSeen base.cur base.myDie 64 = true
    ∧ Issues gd .system [1] [3] unseenFree ∧ Issues gd .free [1] [] unseenFree ∧ handleOf (unseenFree.r 1) = 64
    ∧ unseenTile.unseen 0 { tl .full with deps := [4] } = true ∧ (tiled (tl .full)).unseen 0 (tl .full) = false := by
  unfold Issues; and_intros <;> decide +kernel

/-- A word names an engine operation. -/
theorem engine_of {s : State} {w : Word} {e : EngOp} (h : (match s.named w with | .engine x => some x | _ => none) = some e) : s.named w = .engine e := by
  revert h; cases s.named w <;> simp

/-- A COPYM whose identifier S1 holds, with a held request or none. -/
def namedCopy (h : Option HeldReq) : EngOp := { copyOp h [] with opId := opIdent 1 0 0 0 3 }

/-- A state with it. -/
def copying (h : Option HeldReq) : State := { withRegs [(1, opIdent 1 0 0 0 3)] with engines := [namedCopy h] }

/-- RunControlsComplete: an engine operation that holds a request, and one that holds none. -/
theorem wit_engineControls : Issues gd .system [1] [] (copying none) ∧ (copying none).named ((copying none).r 1) = .engine (namedCopy none)
    ∧ (copying none).engine (namedCopy none).serial = some (namedCopy none) ∧ (namedCopy none).held = none
    ∧ Issues gd .system [1] [] (copying (some ⟨fXLATE, 64⟩)) ∧ (copying (some ⟨fXLATE, 64⟩)).named ((copying (some ⟨fXLATE, 64⟩)).r 1) = .engine (namedCopy (some ⟨fXLATE, 64⟩))
    ∧ (copying (some ⟨fXLATE, 64⟩)).engine (namedCopy (some ⟨fXLATE, 64⟩)).serial = some (namedCopy (some ⟨fXLATE, 64⟩)) ∧ (namedCopy (some ⟨fXLATE, 64⟩)).held ≠ none :=
  ⟨issues_of (by decide), engine_of (by decide +kernel), rfl, rfl, issues_of (by decide), engine_of (by decide +kernel), rfl, nofun⟩

/-- CodeAndCachesComplete: an ILOAD that has read its image and has words to write. -/
theorem wit_iloadWords : ∀ s : State, s = slot0 (fun x => { x with waitFor := some (.words [(16, leBytes 8 1), (24, leBytes 8 2)]) }) →
    Issues gd .store [1] [] s ∧ s.me.waitFor = some (.words [(16, leBytes 8 1), (24, leBytes 8 2)])
    ∧ (∀ p ∈ [((16 : Nat), leBytes 8 1), (24, leBytes 8 2)], p.2.length = 8) ∧ (s.sequencer (taskRing s.cur)).istore.wf = true := by
  rintro _ rfl
  unfold Issues; and_intros <;> decide +kernel

/-- FloatSpecialValues: one and two as finite values, their sum, product and quotient not zero. -/
theorem wit_rounds : (FV.fin false 1 0).exact = 1 ∧ (FV.fin false 1 1).exact = 2 ∧ (1 : ℚ) + 2 ≠ 0 ∧ (1 : ℚ) * 2 ≠ 0 ∧ (1 : ℚ) * 2 + 2 ≠ 0 ∧ Ty.f32.floatOf 0x3F800000 = .fin false (2 ^ 23) (-23)
    ∧ (FV.nan true).isNan = true ∧ (0 : Nat) < 1 := by
  refine ⟨?_, ?_, ?_⟩
  · simp [FV.exact]
  · simp [FV.exact]
  · refine ⟨by norm_num, by norm_num, by norm_num, ?_, rfl, by decide⟩
    decide +kernel

/-- A frame whose port A streams and whose port B is held. -/
def sideHeld : CCFrame := { ccf with b := ⟨.pa 1, 3, false, false, false, 0⟩ }

/-- Whether both input channels of an op begin with these tokens, with nothing parked and a bit of 1. -/
def headsB (f : CCFrame) (x y : Token) (w : Work) : Bool :=
  (w.head .a f.a == some x) && (w.head .b f.b == some y) && w.op.resolving.isNone && (w.predBit f.pin f.psense == some true)

/-- A state with an ADD whose two channels hold these tokens. -/
def adding (f : CCFrame) (x y : Token) : State := atOp ccA (.ccAdd f) (fun n => if n = 0 then [x] else if n = 1 then [y] else []) [] id

/-- FiringProcedure, of two ports: STOPs of one level at or above the op's and below it, STOPs of two levels, two markers, one marker, an ERR at
the first or the second; and of a held port beside a stream port: a STOP with a DATA, an ERR or a marker to be held. -/
theorem wit_twoPorts :
    (∀ p ∈ [(stopTok 1 Ride.none, stopTok 1 Ride.none), (stopTok 1 Ride.none, stopTok 2 Ride.none), (planeTok, planeTok), (planeTok, dat [1]), (dat [1], planeTok),
      (errTok 0 0 0 0 1, dat [1]), (dat [1], errTok 0 0 0 0 1)], ∃ w, Ready (adding ccf p.1 p.2) w ∧ headsB ccf p.1 p.2 w = true)
    ∧ (∃ w, Ready (adding { ccf with level := 2 } (stopTok 1 Ride.none) (stopTok 1 Ride.none)) w ∧ headsB { ccf with level := 2 } (stopTok 1 Ride.none) (stopTok 1 Ride.none) w = true)
    ∧ sideHeld.streams = [(.a, sideHeld.a)] ∧ sideHeld.helds = [(.b, sideHeld.b)]
    ∧ (∀ t ∈ [dat [1], errTok 0 0 0 0 1, planeTok], ∃ w, Ready (adding sideHeld (stopTok 1 Ride.none) t) w
      ∧ (headsB sideHeld (stopTok 1 Ride.none) t w && (w.resident .b).isNone) = true)
    ∧ (∃ w, Ready (adding sideHeld (dat [1]) (errTok 0 0 0 0 1)) w ∧ (headsB sideHeld (dat [1]) (errTok 0 0 0 0 1) w && (w.errAt (.b, sideHeld.b)).isSome && (w.errAt (.a, sideHeld.a)).isNone) = true) := by
  simp only [List.mem_cons, List.not_mem_nil, or_false, forall_eq_or_imp, forall_eq]
  and_intros
  all_goals first
    | exact ready_of (by decide +kernel)
    | decide +kernel

/-- An SNADD on the stripe of this place in its run, a word waiting, with other nodes, stripes and seam FIFOs as given. -/
def adder (f : SNFrame) (v vs : Nat) (g : Run → Run) : State :=
  { base with
    runs := [g { aRun [(0, { stripeOf ⟨.sn, 0, 0⟩ (.snadd f) (fun _ => []) [] with vs := vs, sns := [(0, { SnNode.init with outq := [5] })] })] with
      recd := { RunRec.bare with v := v }, p := 1 }]
    focus := ⟨20, 0, ⟨.sn, 0, 0⟩⟩ }

/-- A stripe of virtual stripe 1 whose node 2 holds these words. -/
def fullNode (n : Nat) : Stripe := { oneStripe with k := 1, vs := 1, sns := [(2, { SnNode.init with queue := List.replicate n 7 })] }

/-- Where the words of a node that is due go. -/
def onwardB (s : State) (p : Work → Bool) : Bool := readyB s fun w => (w.st.sn 0).outq == [5] && p w

/-- A tile of 64 bytes with a handle that an SNSINK of mode 0 names, in this state, and the node with a total to write. -/
def sinking (st : TileState) : State :=
  { base with
    tiles := [{ tl st with handle := 1 }]
    runs := [aRun [(0, { stripeOf ⟨.sn, 0, 0⟩ (.snsink { snf with mode := false, handle := 1 }) (fun _ => []) [] with sns := [(0, { SnNode.init with outq := [5] })] })]]
    focus := ⟨20, 0, ⟨.sn, 0, 0⟩⟩ }

/-- SiltNodesComplete: another node of the stripe, with room and full; a node of the next stripe when it is configured, when it is not, and when its
seam FIFO may not grow; and a tile in FILLING and one that is not. -/
theorem wit_siltOut : (∃ w, Ready (adder { snf with dst := .here 2 } 1 0 id) w ∧ ((w.st.sn 2).queue.length < 16))
    ∧ onwardB (adder { snf with dst := .next 2 } 2 0 fun r => { r with p := 2, stripes := r.stripes ++ [(1, fullNode 3)] }) (fun w => w.onward (.sn 2) == .direct 1 (fullNode 3)) = true
    ∧ onwardB (adder { snf with dst := .next 2 } 2 0 fun r => { r with p := 2, stripes := r.stripes ++ [(1, fullNode 16)] }) (fun w => w.onward (.sn 2) == .direct 1 (fullNode 16)) = true
    ∧ onwardB (adder { snf with dst := .next 2 } 2 0 id) (fun w => w.onward (.sn 2) == .seam && w.s.seamRoom w.run.serial w.nextVs (.sn 2)) = true
    ∧ onwardB { adder { snf with dst := .next 2 } 2 0 id with pools := [] } (fun w => w.onward (.sn 2) == .seam && !w.s.seamRoom w.run.serial w.nextVs (.sn 2)) = true
    ∧ onwardB (adder { snf with dst := .next 2 } 2 0 fun r => { r with p := 2 }) (fun w => w.onward (.sn 2) == .wait) = true
    ∧ onwardB (sinking .filling) (fun w => (w.s.tile w.die w.run.partition 1 == some { tl .filling with handle := 1 }) && !(w.st.sn 0).stalled
      && !(sinking .filling).hbBad { tl .filling with handle := 1 } 0 0 64) = true
    ∧ onwardB (sinking .full) (fun w => w.s.tile w.die w.run.partition 1 == some { tl .full with handle := 1 }) = true
    ∧ onwardB { sinking .full with tiles := [] } (fun w => w.s.tile w.die w.run.partition 1 == none) = true := by
  refine ⟨?_, ?_⟩
  · obtain ⟨w, h, g⟩ := ready_of (s := adder { snf with dst := .here 2 } 1 0 id) (p := fun w => decide ((w.st.sn 2).queue.length < 16)) (by decide +kernel)
    exact ⟨w, h, by simpa using g⟩
  · and_intros <;> decide +kernel

/-- What TileCellOpsComplete and UpdateGlobalAndFifoOpsComplete ask of an op that moves a lane a turn, at its first lane and at its last. -/
def lanesB (i : Instr) (n : Nat) (last : Bool) (w : Work) : Bool :=
  (w.s.tile w.die w.run.partition 1 == some { tl .filling with handle := 1 }) && !(atMc i (tl .filling) id).tileBad { tl .filling with handle := 1 } 0 0 64
    && ((((w.laneAddrs (w.tok mcf .a mcf.a) n).filter fun q => decide (w.op.col ≤ q.1)).length == 1) == last)

/-- TileCellOpsComplete and UpdateGlobalAndFifoOpsComplete: SCAT, RMWA and TAS at their first lane and at their last. -/
theorem wit_lanes : (∀ i ∈ [Instr.scat mcf, .rmwa mcf, .tas mcf], ∃ w, McDue mcf true (atMc i (tl .filling) id) w ∧ lanesB i 4 false w = true)
    ∧ ∀ i ∈ [Instr.scat mcf, .rmwa mcf, .tas mcf], ∃ w,
      McDue mcf true (atMc i (tl .filling) fun x => { x with col := 15, agIdx := some [], vals := List.replicate 16 0 }) w ∧ (lanesB i 4 true w && w.op.within) = true := by
  simp only [List.mem_cons, List.not_mem_nil, or_false, forall_eq_or_imp, forall_eq]
  and_intros <;> exact mcDue_of (by decide +kernel)

/-- SwitchOpsComplete: an index of SELX that names no input, and one that names an input not used. -/
theorem wit_selectNone : ∀ k ∈ [9, 3], ∃ w, Ready (atSwitch (.selx swf) k) w ∧ (switchB k w && (swf.used.all fun q => q.1 != k)) = true := by
  simp only [List.mem_cons, List.not_mem_nil, or_false, forall_eq_or_imp, forall_eq]
  and_intros <;> exact ready_of (by decide +kernel)

/-! ### Steps -/

/-- A word at the pc of slot 0, and ring 0 to move. -/
def fetching (w : Nat) : State := (base.withFetchWord 64 w)

/-- RejectedWordsTrap and StepRunsDecoded: a turn of a sequencer with a word that is rejected and with one that is not, of an op, and of another agent. -/
theorem wit_steps : ∀ w ∈ [0, 0x0120844000000000], (fetching w).agenda = [⟨0, 0, .seq 0⟩] ∧ (fetching w).off = false ∧ 0 ∈ (fetching w).enabled
    ∧ ({ ((fetching w).elapse 0 0) with agenda := [] } : State).pickSlot 0 = some 0
    ∧ ((fetching w).sequencer 0).order.find? (fun j => ((fetching w).task (8 * 0 + j)).status == .runnable || ((fetching w).task (8 * 0 + j)).status == .handler) = some 0
    ∧ ((fetching w).task 0).midway = false ∧ ((fetching w).task 0).deferred = [] ∧ ((fetching w).task 0).safegap = 0 ∧ ((fetching w).task 0).pc.toNat / 8 ∉ ((fetching w).sequencer 0).ibad
    ∧ ((fetching w).sequencer 0).fetch ((fetching w).task 0).pc = BitVec.ofNat 64 w
    ∧ (∃ r, decodeSeq (BitVec.ofNat 64 0) = .error r) ∧ (∃ i, decodeSeq (BitVec.ofNat 64 0x0120844000000000) = .ok i) := by
  simp only [List.mem_cons, List.not_mem_nil, or_false, forall_eq_or_imp, forall_eq]
  and_intros
  all_goals first
    | decide +kernel
    | exact ⟨_, rfl⟩

/-- StepRunsDecoded: an op and another agent. -/
theorem wit_turns : (base.withFetchWord 256 (ccf.bits 0).toNat).agenda.length = 1 ∧ (atOp ccA (.ccAdd ccf) two [] id).configBad ⟨20, 0, ccA⟩ = false
    ∧ (atOp ccA (.ccAdd ccf) two [] id).opInstr ⟨20, 0, ccA⟩ = some (.ccAdd ccf) ∧ encode (.packageReset [] [] []) = none := by decide +kernel

/-- EveryStepKeepsMemoryForm and StorageReadsBack. -/
theorem wit_form : MemoryForm State.reset ∧ MemoryForm base ∧ Safe (fetching 0x0120844000000000) ∧ Memory.wf ([⟨3, 1⟩] : Memory) = true := by
  refine ⟨form_of (by decide +kernel), form_of (by decide +kernel), ⟨_, rfl⟩, by decide +kernel⟩

end Sys2Proof.Tests
end

section
/-! PROOF. Byte storage in canonical form is storage (O59): what each write leaves at every address, and extensionality. -/
namespace Sys2Proof.Machine

theorem Memory.wfFrom_cons {lo k : Nat} {v : Byte} {t : Memory} :
    Memory.wfFrom lo ((k, v) :: t) = true ↔ lo ≤ k ∧ v ≠ Memory.unlisted ∧ Memory.wfFrom (k + 1) t = true := by
  simp [Memory.wfFrom, and_assoc]

theorem Memory.read_erase {m : Memory} {lo : Nat} (a x : Nat) (w : Memory.wfFrom lo m = true) :
    (m.erase a).read x = if x = a then Memory.unlisted else m.read x := by
  induction m generalizing lo with
  | nil => simp [Memory.erase, Memory.read]
  | cons c t ih =>
    obtain ⟨k, v⟩ := c
    obtain ⟨-, -, ht⟩ := Memory.wfFrom_cons.1 w
    by_cases hk : k = a
    · by_cases hx : x = a
      · simp [Memory.erase, hk, hx, Memory.read_below ht (show a < k + 1 by omega)]
      · simp [Memory.erase, Memory.read, hk, hx, Ne.symm hx]
    · by_cases hx : k = x
      · simp [Memory.erase, Memory.read, hk, ← hx]
      · simp [Memory.erase, Memory.read, hk, hx, ih ht]

theorem Memory.read_insert (m : Memory) (a : Nat) (b : Byte) (x : Nat) : (m.insert a b).read x = if x = a then b else m.read x := by
  induction m with
  | nil => simp [Memory.insert, Memory.read, eq_comm]
  | cons c t ih =>
    obtain ⟨k, v⟩ := c
    rcases lt_trichotomy a k with hk | hk | hk
    · simp [Memory.insert, Memory.read, hk, eq_comm (a := x)]
    · by_cases hx : x = a <;> simp [Memory.insert, Memory.read, ← hk, hx, eq_comm (a := a)]
    · by_cases hx : k = x
      · simp [Memory.insert, Memory.read, Nat.lt_asymm hk, ← hx, hk.ne, hk.ne']
      · simp [Memory.insert, Memory.read, Nat.lt_asymm hk, hk.ne', hx, ih]

/-- A written byte reads back and every other byte is as before. -/
theorem Memory.read_write {m : Memory} (a : Nat) (b : Byte) (x : Nat) (w : m.wf = true) :
    (m.write a b).read x = if x = a then b else m.read x := by
  unfold Memory.write
  split
  case isTrue hb => rw [hb, Memory.read_erase a x w]
  case isFalse => exact Memory.read_insert m a b x

/-- A run of written bytes reads back and every byte outside the run is as before. -/
theorem Memory.read_writeBytes {m : Memory} (a : Nat) (bs : List Byte) (x : Nat) (w : m.wf = true) :
    (m.writeBytes a bs).read x = if a ≤ x ∧ x < a + bs.length then bs.getD (x - a) 0 else m.read x := by
  induction bs generalizing m a with
  | nil => simp [Memory.writeBytes]
  | cons b bs ih =>
    rw [Memory.writeBytes, ih _ (Memory.wf_write a b w), Memory.read_write a b x w, List.length_cons]
    rcases lt_trichotomy x a with hx | rfl | hx
    · simp [show ¬ a + 1 ≤ x by omega, show ¬ a ≤ x by omega, hx.ne]
    · simp
    · obtain ⟨n, rfl⟩ := Nat.exists_eq_add_of_lt hx
      simp [show a + n + 1 - (a + 1) = n by omega, show a + n + 1 - a = n + 1 by omega, show a + n + 1 < a + 1 + bs.length ↔ n < bs.length by omega,
        show a + n + 1 < a + (bs.length + 1) ↔ n < bs.length by omega, show a ≤ a + n + 1 by omega, show a + 1 ≤ a + n + 1 by omega,
        hx.ne']

/-- Bytes written to a store whose addresses wrap leave every other byte as before. -/
theorem Memory.read_writeWrap_of_ne {m : Memory} (size a : Nat) (bs : List Byte) (x : Nat) (w : m.wf = true)
    (hx : ∀ i < bs.length, x ≠ (a + i) % size) : (Memory.writeWrap size m a bs).read x = m.read x := by
  induction bs generalizing m a with
  | nil => rfl
  | cons b bs ih =>
    have rest : ∀ i < bs.length, x ≠ (a + 1 + i) % size := fun i hi => by
      simpa only [show a + 1 + i = a + (i + 1) by omega] using hx (i + 1) (Nat.succ_lt_succ hi)
    have first : x ≠ a % size := hx 0 (Nat.succ_pos _)
    rw [Memory.writeWrap, ih _ (Memory.wf_write _ b w) rest, Memory.read_write _ b x w, if_neg first]

/-- No two of a run of addresses, at most as long as the store, are the same. -/
theorem add_mod_ne {size a i j : Nat} (hij : i < j) (hj : j < i + size) : (a + i) % size ≠ (a + j) % size := fun e => by
  have h : size ∣ (a + j) - (a + i) := (Nat.modEq_iff_dvd' (by omega)).1 e
  have := Nat.le_of_dvd (by omega) h
  omega

/-- Bytes written to a store whose addresses wrap read back, where the store is large enough to hold them. -/
theorem Memory.read_writeWrap {m : Memory} (size a : Nat) (bs : List Byte) (w : m.wf = true) (hs : bs.length ≤ size) (i : Nat) (hi : i < bs.length) :
    (Memory.writeWrap size m a bs).read ((a + i) % size) = bs.getD i 0 := by
  induction bs generalizing m a i with
  | nil => cases hi
  | cons b bs ih =>
    have hw := Memory.wf_write (a % size) b w
    rw [List.length_cons] at hs hi
    cases i with
    | zero =>
      have later : ∀ j < bs.length, (a + 0) % size ≠ (a + 1 + j) % size := fun j hj => by
        simpa only [Nat.add_assoc] using add_mod_ne (a := a) (show 0 < 1 + j by omega) (by omega)
      rw [Memory.writeWrap, Memory.read_writeWrap_of_ne size _ bs _ hw later, Memory.read_write _ b _ w]
      simp
    | succ i =>
      have := ih (a + 1) hw (by omega) i (by omega)
      rwa [show a + 1 + i = a + (i + 1) by omega] at this

theorem Memory.read_filter {m : Memory} {lo : Nat} (p : Nat → Bool) (x : Nat) (w : Memory.wfFrom lo m = true) :
    Memory.read (m.filter fun c => p c.1) x = if p x then m.read x else Memory.unlisted := by
  induction m generalizing lo with
  | nil => simp [Memory.read]
  | cons c t ih =>
    obtain ⟨k, v⟩ := c
    obtain ⟨-, -, ht⟩ := Memory.wfFrom_cons.1 w
    by_cases hk : k = x
    · cases hp : p x
      · simp [hk, hp, ih ht]
      · simp [hk, hp, Memory.read]
    · cases hp : p k <;> simp [hp, hk, Memory.read, ih ht]

/-- Clearing a range makes its bytes read zero and leaves the rest. -/
theorem Memory.read_zero {m : Memory} (a n x : Nat) (w : m.wf = true) :
    (m.zero a n).read x = if a ≤ x ∧ x < a + n then 0 else m.read x := by
  rw [Memory.zero, Memory.read_filter (fun k => !(decide (a ≤ k) && decide (k < a + n))) x w]
  by_cases hx : a ≤ x ∧ x < a + n <;> simp [hx, Memory.unlisted]

/-- Two storages in canonical form that read alike are the same data: by the lower of their first addresses. -/
theorem Memory.eq_of_read_eq {m k : Memory} {lo : Nat} (wm : Memory.wfFrom lo m = true) (wk : Memory.wfFrom lo k = true)
    (h : ∀ x, m.read x = k.read x) : m = k := by
  induction m generalizing lo k with
  | nil =>
    cases k with
    | nil => rfl
    | cons d u =>
      obtain ⟨-, hv, -⟩ := Memory.wfFrom_cons.1 wk
      exact absurd (by simpa [Memory.read] using (h d.1).symm) hv
  | cons c t ih =>
    obtain ⟨a, v⟩ := c
    obtain ⟨-, hv, ht⟩ := Memory.wfFrom_cons.1 wm
    cases k with
    | nil => exact absurd (by simpa [Memory.read] using h a) hv
    | cons d u =>
      obtain ⟨b, z⟩ := d
      obtain ⟨-, hz, hu⟩ := Memory.wfFrom_cons.1 wk
      rcases lt_trichotomy a b with hab | rfl | hab
      · have := h a
        rw [Memory.read, if_pos rfl, Memory.read, if_neg hab.ne', Memory.read_below hu (by omega)] at this
        exact absurd this hv
      · have hvz : v = z := by simpa [Memory.read] using h a
        have tails : ∀ x, Memory.read t x = Memory.read u x := fun x => by
          by_cases hx : a = x
          · rw [Memory.read_below ht (by omega), Memory.read_below hu (by omega)]
          · simpa [Memory.read, hx] using h x
        rw [hvz, ih ht hu tails]
      · have := h b
        rw [Memory.read, if_neg hab.ne', Memory.read_below ht (by omega), Memory.read, if_pos rfl] at this
        exact absurd this.symm hz

/-- Settles O59: each clause is the read law of its operation; the last is extensionality. -/
theorem storageReadsBack : Obligations.StorageReadsBack := by
  unfold Obligations.StorageReadsBack
  refine ⟨fun m a b x w => Memory.read_write a b x w, fun m a bs x w => Memory.read_writeBytes a bs x w, fun m size a bs w hs => ⟨?_, ?_⟩,
    fun m a n x w => Memory.read_zero a n x w, fun m k wm wk h => Memory.eq_of_read_eq wm wk h⟩
  · exact fun i hi => Memory.read_writeWrap size a bs w hs i hi
  · exact fun x hx => Memory.read_writeWrap_of_ne size a bs x w hx

end Sys2Proof.Machine
end

section
/-! PROOF. What faults, lost requests and the ends of readers, owners and tasks leave of a state (O49, O60). -/
namespace Sys2Proof.Machine

/-! ### What a fault leaves of the package -/

theorem Memory.wf_writeSome {m : Memory} (a : Nat) (bs : List (Option Byte)) (w : m.wf = true) : (m.writeSome a bs).wf = true := by
  induction bs generalizing m a with
  | nil => exact w
  | cons b bs ih =>
    cases b with
    | none => exact ih _ w
    | some b => exact ih _ (Memory.wf_write a b w)

/-- A run was stopped by a fault: it stops now with cause 3 and has nothing configured. -/
def Run.halted (r : Run) : Prop := r.stopping = .now 3 ∧ r.stripes = []

/-- A run stands where it stood: its phase and its rings are as they were, and a halted one is still halted. -/
def Run.Stays (r r1 : Run) : Prop :=
  r1.serial = r.serial ∧ r1.phase = r.phase ∧ r1.phys = r.phys ∧ (r.halted → r1.halted)

/-- What a fault leaves of the package: the dies keep their incarnations and the links stay as they are, no die has a tile that had none, every run
stands where it stood, memories in canonical form are still so, and a task at reset stays there unless it is one of `T`, those at fault.
It speaks of the fields alone, so a change of other fields keeps it by definition. -/
def Steady (T : Set Nat) (s0 s : State) : Prop :=
  s.incs = s0.incs ∧ s.linksDown = s0.linksDown ∧ (∀ x ∈ s.tiles, ∃ y ∈ s0.tiles, y.die = x.die)
  ∧ List.Forall₂ Run.Stays s0.runs s.runs ∧ (MemoryForm s0 → MemoryForm s)
  ∧ ∀ k ∉ T, s0.task k = Task.reset → s.task k = Task.reset

theorem Run.Stays.refl (r : Run) : r.Stays r := ⟨rfl, rfl, rfl, id⟩

theorem Run.Stays.trans {r r1 r2 : Run} (h : r.Stays r1) (h1 : r1.Stays r2) : r.Stays r2 := by
  obtain ⟨serial, phase, phys, halted⟩ := h
  obtain ⟨serial1, phase1, phys1, halted1⟩ := h1
  exact ⟨serial1.trans serial, phase1.trans phase, phys1.trans phys, halted1 ∘ halted⟩

variable {T : Set Nat} {s0 s : State} {w : Work}

theorem Steady.refl (T : Set Nat) (s : State) : Steady T s s :=
  ⟨rfl, rfl, fun x hx => ⟨x, hx, rfl⟩, List.forall₂_same.mpr fun r _ => .refl r, id, fun _ _ => id⟩

theorem Steady.incs (h : Steady T s0 s) : s.incs = s0.incs := h.1
theorem Steady.linksDown (h : Steady T s0 s) : s.linksDown = s0.linksDown := h.2.1
theorem Steady.tiles (h : Steady T s0 s) : ∀ x ∈ s.tiles, ∃ y ∈ s0.tiles, y.die = x.die := h.2.2.1
theorem Steady.runs (h : Steady T s0 s) : List.Forall₂ Run.Stays s0.runs s.runs := h.2.2.2.1
theorem Steady.form (h : Steady T s0 s) : MemoryForm s0 → MemoryForm s := h.2.2.2.2.1
theorem Steady.task {k : Nat} (h : Steady T s0 s) (hk : k ∉ T) : s0.task k = Task.reset → s.task k = Task.reset := h.2.2.2.2.2 k hk

theorem Steady.ite {c : Prop} [Decidable c] {t : State} (hs : Steady T s0 s) (ht : Steady T s0 t) : Steady T s0 (if c then s else t) := by
  split <;> assumption

theorem Steady.foldl {α : Type} {f : State → α → State} {l : List α} (h : Steady T s0 s)
    (hf : ∀ {t : State} {x : α}, Steady T s0 t → Steady T s0 (f t x)) : Steady T s0 (l.foldl f s) :=
  List.foldlRecOn l f h fun _ ht _ _ => hf ht

theorem Steady.setTask {t : Nat} {v : Task} (h : Steady T s0 s) (ht : t ∈ T) : Steady T s0 (s.setTask t v) := by
  refine ⟨h.incs, h.linksDown, h.tiles, h.runs, h.form, fun k hk hr => ?_⟩
  rw [State.task_setTask_ne s (fun (e : k = t) => hk (e ▸ ht)) v]
  exact h.task hk hr

theorem Steady.updTask {t : Nat} {f : Task → Task} (h : Steady T s0 s) (ht : t ∈ T) : Steady T s0 (s.updTask t f) := h.setTask ht

theorem Steady.setPool {die p : Nat} {v : Pool} (h : Steady T s0 s) : Steady T s0 (s.setPool die p v) := h
theorem Steady.setBlock {block : Nat} {b : Block} (h : Steady T s0 s) : Steady T s0 (s.setBlock block b) := h
theorem Steady.updGraph {n : Nat} {f : Graph → Graph} (h : Steady T s0 s) : Steady T s0 (s.updGraph n f) := h
theorem Steady.updEngine {n : Nat} {f : EngOp → EngOp} (h : Steady T s0 s) : Steady T s0 (s.updEngine n f) := h
theorem Steady.dropEngine {n : Nat} (h : Steady T s0 s) : Steady T s0 (s.dropEngine n) := h
theorem Steady.closeStream {who : StreamOf} (h : Steady T s0 s) : Steady T s0 (s.closeStream who) := h
theorem Steady.drawNat (h : Steady T s0 s) : Steady T s0 s.drawNat.2 := h
theorem Steady.logEvent {source code part : Nat} {lo hi : Word} (h : Steady T s0 s) : Steady T s0 (s.logEvent source code part lo hi) := h
theorem Steady.leaveGroups {t : Nat} {which : Group → Bool} (h : Steady T s0 s) : Steady T s0 (s.leaveGroups t which) := h
theorem Steady.dropWalkFault {die asid va : Nat} (h : Steady T s0 s) : Steady T s0 (s.dropWalkFault die asid va) := h

/-- A change of a run that keeps its place. -/
theorem Steady.updRun {n : Nat} {f : Run → Run} (h : Steady T s0 s) (hf : ∀ r : Run, r.Stays (f r) := by exact fun _ => ⟨rfl, rfl, rfl, id⟩) :
    Steady T s0 (s.updRun n f) := by
  refine ⟨h.incs, h.linksDown, h.tiles, ?_, h.form, fun _ => h.task⟩
  refine List.forall₂_map_right_iff.mpr (h.runs.imp fun r r1 hr => hr.trans ?_)
  split
  · exact hf r1
  · exact .refl r1

/-- A change of a tile that keeps its die. -/
theorem Steady.updTile {u : Nat} {f : Tile → Tile} (h : Steady T s0 s) (hf : ∀ t, (f t).die = t.die := by exact fun _ => rfl) :
    Steady T s0 (s.updTile u f) := by
  refine ⟨h.incs, h.linksDown, fun x hx => ?_, h.runs, h.form, fun _ => h.task⟩
  obtain ⟨t, ht, rfl⟩ := List.mem_map.mp hx
  obtain ⟨y, hy, die⟩ := h.tiles t ht
  refine ⟨y, hy, ?_⟩
  split
  · exact die.trans (hf t).symm
  · exact die

theorem Steady.withTiles {l : List Tile} {tasks : Tab Task} (h : Steady T s0 s) (hl : ∀ x ∈ l, ∃ y ∈ s0.tiles, y.die = x.die)
    (hr : ∀ k, s.task k = Task.reset → Tab.get tasks Task.reset k = Task.reset) : Steady T s0 { s with tiles := l, tasks := tasks } :=
  ⟨h.incs, h.linksDown, hl, h.runs, h.form, fun k hk h0 => hr k (h.task hk h0)⟩

/-- A change of every task that leaves one at reset as it is. -/
theorem task_map_reset {f : Task → Task} {k : Nat} (hf : f Task.reset = Task.reset) (h : s.task k = Task.reset) :
    Tab.get (s.tasks.map fun p => (p.1, f p.2)) Task.reset k = Task.reset := by
  unfold State.task Tab.get at h
  unfold Tab.get
  rw [Tab.find_map s.tasks _ (fun _ => f) fun _ => rfl]
  cases e : Tab.find s.tasks k with
  | none => rfl
  | some x =>
    rw [e] at h
    exact (congrArg f h).trans hf

theorem Steady.updStripe {n slot : Nat} {f : Stripe → Stripe} (h : Steady T s0 s) : Steady T s0 (s.updStripe n slot f) := by
  refine h.updRun fun r => ⟨rfl, rfl, rfl, fun ⟨stopping, stripes⟩ => ⟨stopping, ?_⟩⟩
  show Tab.upd r.stripes slot f = []
  rw [stripes]
  rfl

theorem Steady.withMem {m : Memory} (h : Steady T s0 s) (hm : s.mem.wf = true → m.wf = true) : Steady T s0 { s with mem := m } :=
  ⟨h.incs, h.linksDown, h.tiles, h.runs, fun h0 => ⟨hm (h.form h0).1, (h.form h0).2⟩, fun _ => h.task⟩

theorem Steady.withdraw {die p id : Nat} (h : Steady T s0 s) : Steady T s0 (s.withdraw die p id) := h.setPool

theorem Steady.cancelWait {t : Nat} (h : Steady T s0 s) (ht : t ∈ T) : Steady T s0 (s.cancelWait t) := by
  unfold State.cancelWait
  dsimp only
  refine Steady.updTask ?_ ht
  split
  · exact h.withdraw
  · exact h

theorem Steady.logFault {source part : Nat} {r : FRec} (h : Steady T s0 s) : Steady T s0 (s.logFault source part r) := h.logEvent

theorem Steady.toFirmware {source part : Nat} {r : FRec} (h : Steady T s0 s) : Steady T s0 (s.toFirmware source part r) := h

theorem Steady.dropDeferred {t : Nat} (h : Steady T s0 s) (ht : t ∈ T) : Steady T s0 (s.dropDeferred t) :=
  (h.foldl fun h1 => h1.toFirmware).updTask ht

theorem Steady.updNode {g n : Nat} {f : Node → Node} (h : Steady T s0 s) : Steady T s0 (s.updNode g n f) := h.updGraph

theorem Steady.runRecord {n : Nat} {rec : FRec} (h : Steady T s0 s) : Steady T s0 (s.runRecord n rec) := by
  unfold State.runRecord
  split
  · exact h
  dsimp only
  split
  · exact h.logFault.updRun
  · exact h.logFault

theorem Steady.failNode {g n reason detail : Nat} (h : Steady T s0 s) : Steady T s0 (s.failNode g n reason detail) := h.updNode.updGraph

theorem Steady.keepFreed {t : Tile} (h : Steady T s0 s) : Steady T s0 (s.keepFreed t) := by
  unfold State.keepFreed
  dsimp only
  split <;> split <;> exact h

theorem State.task_keepFreed (s : State) (t : Tile) (k : Nat) : (s.keepFreed t).task k = s.task k := by
  unfold State.keepFreed
  dsimp only
  split <;> split <;> rfl

theorem Steady.freeTile {u : Nat} (h : Steady T s0 s) : Steady T s0 (s.freeTile u) := by
  unfold State.freeTile
  split
  · exact h
  rename_i t _
  extract_lets kept dropped pool
  have hd : Steady T s0 dropped := by
    refine h.keepFreed.withTiles (fun x hx => h.tiles x (List.mem_of_mem_filter hx)) fun k hr => ?_
    exact task_map_reset rfl (s.task_keepFreed t k ▸ hr)
  split
  · exact hd
  split
  · split
    · exact hd.updRun
    · exact hd.setPool
  · exact hd.setPool

theorem Steady.settleTile {u : Nat} (h : Steady T s0 s) : Steady T s0 (s.settleTile u) := by
  unfold State.settleTile
  split
  · exact h
  split
  · exact h
  split
  · exact h.freeTile
  · exact h

theorem Steady.ownerEndTile {u : Nat} (h : Steady T s0 s) : Steady T s0 (s.ownerEndTile u) := by
  unfold State.ownerEndTile
  split
  · exact h
  split
  · split
    · exact h.freeTile
    · exact h
  · split
    · refine Steady.freeTile ?_
      split
      · exact h
      · exact h.logEvent
    · exact h
  · exact h

theorem Steady.ownerEndOf {t : Tile} (h : Steady T s0 s) : Steady T s0 (s.ownerEndOf t) := by
  unfold State.ownerEndOf
  dsimp only
  split
  · split
    · exact h.updTile
    split
    · exact h.updTile.freeTile
    · exact h.updTile.logEvent.freeTile
  · exact h.updTile.ownerEndTile

theorem Steady.ownerEnd {o : Owner} (h : Steady T s0 s) : Steady T s0 (s.ownerEnd o) := h.foldl fun h1 => h1.ownerEndOf

theorem Steady.endRead {u : Nat} {slot : Option Nat} (h : Steady T s0 s) : Steady T s0 (s.endRead u slot) := by
  unfold State.endRead
  split
  · exact h
  dsimp only
  split
  · exact h.updTile.ownerEndTile.settleTile
  · exact h.updTile.settleTile

theorem Steady.abandonSlot {u slot : Nat} {reader : Owner} (h : Steady T s0 s) : Steady T s0 (s.abandonSlot u slot reader) := by
  unfold State.abandonSlot
  split
  · exact h
  split
  · exact h
  · exact h.updTile.logEvent.settleTile

theorem Steady.readerEnd {reader : Owner} (h : Steady T s0 s) : Steady T s0 (s.readerEnd reader) := by
  unfold State.readerEnd
  dsimp only
  refine Steady.foldl h fun h1 => ?_
  refine Steady.foldl h1 fun h2 => ?_
  split
  · exact h2.updTile
  · exact h2.abandonSlot

theorem Steady.stopTask {t : Nat} {f : Report} (h : Steady T s0 s) (ht : t ∈ T) : Steady T s0 (s.stopTask t f) := by
  unfold State.stopTask
  extract_lets x s1 s2 s3 s4
  have h1 : Steady T s0 s1 := ((h.cancelWait ht).toFirmware).dropDeferred ht
  have h2 : Steady T s0 s2 := by
    show Steady T s0 (match x.node with | some (g, n) => s1.failNode g n 2 f.code | none => s1)
    split
    · exact h1.failNode
    · exact h1
  have h3 : Steady T s0 s3 := by
    show Steady T s0 (match x.stubRun with | some r => s2.updRun r _ | none => s2)
    split
    · exact h2.updRun fun _ => ⟨rfl, rfl, rfl, fun hr => ⟨rfl, hr.2⟩⟩
    · exact h2
  exact h3.leaveGroups.readerEnd.updTask ht

theorem Steady.takeFault {t cls : Nat} {epc : BitVec 16} {f : Report} (h : Steady T s0 s) (ht : t ∈ T) : Steady T s0 (s.takeFault t cls epc f) := by
  unfold State.takeFault
  split
  · exact h.stopTask ht
  · exact ((h.cancelWait ht).logFault).updTask ht

theorem Steady.deferFault {t act : Nat} {d : Deferred} (h : Steady T s0 s) (ht : t ∈ T) : Steady T s0 (s.deferFault t act d) := by
  unfold State.deferFault
  dsimp only
  split
  · exact h.toFirmware
  split
  · exact h.stopTask ht
  · exact h.stopTask ht
  · exact h.takeFault ht
  · exact h.updTask ht

theorem Steady.sealBlock {block part : Nat} (h : Steady T s0 s) : Steady T s0 (s.sealBlock block part) := by
  unfold State.sealBlock
  dsimp only
  split
  · exact h
  split
  · exact h
  · exact h.setBlock.logEvent

theorem Steady.writeBack {block : Nat} (h : Steady T s0 s) : Steady T s0 (s.writeBack block) := by
  unfold State.writeBack
  dsimp only
  split
  · exact h
  split
  · exact h.setBlock
  split
  · exact h.setBlock
  split
  · exact h.setBlock
  split
  · exact h
  · exact h.sealBlock

theorem Steady.evict {pa : Nat} (h : Steady T s0 s) : Steady T s0 (s.evict pa) := by
  unfold State.evict
  extract_lets own share
  split
  · exact h
  dsimp only
  split
  · exact h.drawNat
  · exact h.drawNat.writeBack.ite h.drawNat.setBlock

theorem Steady.dirtyBlock {pa : Nat} (h : Steady T s0 s) : Steady T s0 (s.dirtyBlock pa) := by
  unfold State.dirtyBlock
  dsimp only
  refine Steady.setBlock ?_
  split
  · exact h
  · exact h.evict

theorem Steady.storeSome {die : Nat} {task : Option Nat} {ord : Nat → Option Nat} {deps : Nat → List Nat} {shared : Bool} {pa : Nat}
    {bs : List (Option Byte)} (h : Steady T s0 s) : Steady T s0 (s.storeSome die task ord deps shared pa bs) := by
  have hw := h.withMem (Memory.wf_writeSome pa bs)
  unfold State.storeSome
  split
  · exact h
  dsimp only
  split
  · exact hw
  · exact Steady.dirtyBlock hw

theorem Steady.store {die : Nat} {task : Option Nat} {ord : Nat → Option Nat} {deps : Nat → List Nat} {shared : Bool} {pa : Nat}
    {bs : List Byte} (h : Steady T s0 s) : Steady T s0 (s.store die task ord deps shared pa bs) := h.storeSome

theorem Steady.resetTask {t : Nat} (h : Steady T s0 s) (ht : t ∈ T) : Steady T s0 (s.resetTask t) := by
  unfold State.resetTask
  extract_lets x s1
  have stopped : Steady T s0 s1 := h.ite (h.stopTask ht)
  exact (stopped.ite stopped.ownerEnd).setTask ht

theorem Steady.lowerCnt {t : Nat} {k : Cnt} (h : Steady .univ s0 s) : Steady .univ s0 (s.lowerCnt t k) := h.updTask trivial

theorem Steady.dropAccess {a : GAccess} (h : Steady .univ s0 s) : Steady .univ s0 (s.dropAccess a) := Steady.updTask h trivial

theorem Steady.failAccess {a : GAccess} {code : Nat} (h : Steady .univ s0 s) : Steady .univ s0 (s.failAccess a code) :=
  h.dropAccess.lowerCnt.deferFault trivial

theorem Steady.resetAccess {a : GAccess} (h : Steady .univ s0 s) : Steady .univ s0 (s.resetAccess a) := by
  unfold State.resetAccess
  dsimp only
  refine Steady.failAccess ?_
  split
  · exact h.drawNat
  · exact h.drawNat
  · split
    · exact h.drawNat
    · exact h.drawNat.store
  · split
    · exact h.drawNat
    split
    · exact h.drawNat.store
    · exact h.drawNat

theorem Steady.engBring {e : EngOp} {r : EngReq} {code : Nat} {bs : List Byte} (h : Steady .univ s0 s) : Steady .univ s0 (s.engBring e r code bs) :=
  h.updEngine

theorem Steady.engWrite {e : EngOp} {r : EngReq} {bs : List Byte} (h : Steady .univ s0 s) : Steady .univ s0 (s.engWrite e r bs) := h.store

theorem Steady.engLose {e : EngOp} {which : EngReq → Bool} (h : Steady .univ s0 s) : Steady .univ s0 (s.engLose e which) := by
  unfold State.engLose
  refine Steady.foldl h fun h1 => ?_
  dsimp only
  split
  · exact h1.drawNat
  refine Steady.engBring ?_
  split
  · split
    · exact h1.drawNat.engWrite
    · exact h1.drawNat
  · exact h1.drawNat

theorem Steady.engEnd {e : EngOp} (h : Steady .univ s0 s) : Steady .univ s0 (s.engEnd e) := by
  unfold State.engEnd
  dsimp only
  split
  · exact h.dropEngine.closeStream.updNode
  · exact h.dropEngine.closeStream

theorem Steady.engLower {e : EngOp} {k : Cnt} (h : Steady .univ s0 s) : Steady .univ s0 (s.engLower e k) := by
  unfold State.engLower
  split
  · exact h.lowerCnt
  · exact h

theorem Steady.setDrawing {e : EngOp} {d : Drawing} (h : Steady .univ s0 s) : Steady .univ s0 (s.setDrawing e d) := h.updEngine

theorem Steady.filled {t : Tile} {deps : List Nat} (h : Steady .univ s0 s) : Steady .univ s0 (s.filled t deps) := by
  unfold State.filled
  split
  · split
    · exact h.lowerCnt.updTask trivial
    · exact h
  · exact h

theorem Steady.leftFilling {u : Nat} (h : Steady .univ s0 s) : Steady .univ s0 (s.leftFilling u) := by
  unfold State.leftFilling
  split
  · exact h
  dsimp only
  split
  · exact (h.updTile.foldl fun h1 => h1.abandonSlot).ownerEndTile
  · exact (h.updTile.foldl fun h1 => h1.abandonSlot).settleTile

theorem Steady.poisonTile {u : Nat} {log : Bool} (h : Steady .univ s0 s) : Steady .univ s0 (s.poisonTile u log) := by
  unfold State.poisonTile
  split
  · exact h
  extract_lets s1 s2
  have poisoned : Steady .univ s0 s1 := h.filled.updTile
  have logged : Steady .univ s0 s2 := poisoned.logEvent.ite poisoned
  exact logged.leftFilling.ite logged.settleTile

theorem Steady.spoil {uid : Nat} (h : Steady .univ s0 s) : Steady .univ s0 (s.spoil uid) := by
  unfold State.spoil
  split
  · split
    · exact h.poisonTile
    · exact h
  · exact h

theorem Steady.unrequest {e : EngOp} {d : Drawing} (h : Steady .univ s0 s) : Steady .univ s0 (s.unrequest e d) := by
  unfold State.unrequest
  split
  · exact h
  dsimp only
  split
  · split
    · exact h.withdraw.updRun
    · exact h.withdraw.setPool
  · exact h.withdraw

theorem Steady.abandon {e : EngOp} (h : Steady .univ s0 s) : Steady .univ s0 (s.abandon e) := by
  unfold State.abandon
  split
  · exact h.spoil.engEnd
  · exact .updEngine (.setDrawing (.foldl (.foldl h.unrequest fun h1 => h1.spoil) fun h1 => h1.engLower))
  · refine .engEnd (.engLower ?_)
    split
    · exact h.endRead.engLower
    split
    · exact h
    · exact h.engLower
  · exact h.engLower.engEnd
  · refine .engEnd (.spoil ?_)
    split
    · exact h.endRead
    · exact h

theorem Steady.loseEngine {e : EngOp} (h : Steady .univ s0 s) : Steady .univ s0 (s.loseEngine e) := by
  unfold State.loseEngine
  extract_lets s1
  have failed : Steady .univ s0 s1 := by
    show Steady .univ s0 (match e.node with | some (g, n) => s.failNode g n 3 fDIERESET | none => s)
    split
    · exact h.failNode
    · exact h
  split
  · split
    · exact failed.abandon.engEnd
    · exact failed.abandon
  · exact failed

theorem Steady.engReport {e : EngOp} {cls code access va : Nat} (h : Steady .univ s0 s) : Steady .univ s0 (s.engReport e cls code access va) := by
  unfold State.engReport
  split
  · exact h.deferFault trivial
  split
  · exact h.failNode
  · exact h

theorem Steady.txferFails {e : EngOp} {tile : Nat} {code : Option Nat} {va : Nat} (h : Steady .univ s0 s) :
    Steady .univ s0 (s.txferFails e tile code va) := by
  unfold State.txferFails
  dsimp only
  refine Steady.engEnd ?_
  split
  · exact h.spoil.engReport
  · exact h.spoil

theorem Steady.loseTxfer {e : EngOp} {tile va : Nat} (h : Steady .univ s0 s) : Steady .univ s0 (s.loseTxfer e tile va) := by
  unfold State.loseTxfer
  refine Steady.txferFails ?_
  split
  · exact h.endRead
  · exact h

theorem Steady.resetEngine {die : Nat} {lose : Bool} {tiles : List Nat} {e : EngOp} (h : Steady .univ s0 s) :
    Steady .univ s0 (State.resetEngine die lose tiles s e) := by
  unfold State.resetEngine
  split
  · exact h.loseEngine
  split
  · split
    · exact h.loseTxfer
    · exact h
  · split
    · exact h.engLose
    · exact h

theorem Steady.endAccess {a : GAccess} (h : Steady .univ s0 s) : Steady .univ s0 (s.endAccess a) := by
  unfold State.endAccess
  dsimp only
  split
  · exact h.dropAccess.lowerCnt.updTask trivial
  · exact h.dropAccess.lowerCnt.updTask trivial
  · exact h.dropAccess.lowerCnt

theorem Steady.partDone {a : GAccess} {serial : Nat} (h : Steady .univ s0 s) : Steady .univ s0 (s.partDone a serial) := by
  unfold State.partDone
  split
  · exact h
  split
  · exact h
  · exact h.endAccess

theorem Steady.answerAccess {o : OutAcc} {a : GAccess} {code : Nat} {bs : List Byte} (h : Steady .univ s0 s) :
    Steady .univ s0 (s.answerAccess o a code bs) := by
  unfold State.answerAccess
  split
  · exact h.failAccess
  split
  · exact h
  · split <;> exact h.partDone

theorem Steady.logTagfail {part pa : Nat} (h : Steady .univ s0 s) : Steady .univ s0 (s.logTagfail part pa) := h.logEvent

theorem Steady.logBlock {code part pa : Nat} (h : Steady .univ s0 s) : Steady .univ s0 (s.logBlock code part pa) := by
  unfold State.logBlock
  split
  · exact h.logTagfail
  split
  · exact h
  · exact h.logEvent

theorem Steady.count {on : Bool} {e : Ev} (h : Steady .univ s0 w.s) : Steady .univ s0 (w.count on e).s := by
  unfold Work.count
  split <;> exact h

theorem Steady.err {code : Nat} (h : Steady .univ s0 w.s) : Steady .univ s0 (w.err code).2.s := by
  unfold Work.err
  split
  · exact h.drawNat
  · exact h

theorem Steady.failed {code access va : Nat} (h : Steady .univ s0 w.s) : Steady .univ s0 (w.failed code access va).2.s := by
  unfold Work.failed
  dsimp only
  split
  · exact h.err
  · exact h.err.runRecord

theorem Steady.loseItem {hit : Asked → Bool} {x : McItem} (h : Steady .univ s0 w.s) : Steady .univ s0 (w.loseItem hit x).2.s := by
  unfold Work.loseItem
  split
  · exact h
  split
  · exact h
  dsimp only
  split
  · exact h.drawNat
  · exact Steady.failed h.drawNat

theorem Steady.loseItems {hit : Asked → Bool} {l : List McItem} (h : Steady .univ s0 w.s) : Steady .univ s0 (Work.loseItems hit l w).2.s := by
  induction l generalizing w with
  | nil => exact h
  | cons x l ih => exact ih h.loseItem

theorem Steady.storeWork (h : Steady .univ s0 w.s) : Steady .univ s0 w.store := h.updStripe

theorem Steady.answerCell {o : OutAcc} {p : OpPlace} {code : Nat} {bs : List Byte} (h : Steady .univ s0 s) :
    Steady .univ s0 (s.answerCell o p code bs) := by
  unfold State.answerCell
  split
  · rename_i w f e _
    have hw : Steady .univ s0 w.s := (workAt_s0 e).2.1 ▸ h
    extract_lets mine counted
    have hc : Steady .univ s0 counted.s := by
      show Steady .univ s0 (Work.s (match o.op with | .atom g b c => if code = 0 then w.count _ _ else w | _ => w))
      split
      · split
        · exact hw.count
        · exact hw
      · exact hw
    split
    · exact h
    extract_lets access mask deps
    split
    rename_i t w1 e1
    have answered : Steady .univ s0 w1.s := by
      split at e1
      · obtain ⟨-, rfl⟩ := Prod.mk.inj e1
        exact hc
      · obtain ⟨-, rfl⟩ := Prod.mk.inj e1
        split
        · exact hw.failed.logBlock
        · exact hw.failed
    refine Steady.storeWork ?_
    exact answered
  · exact h

theorem Steady.engHold {e : EngOp} {code access va : Nat} (h : Steady .univ s0 s) : Steady .univ s0 (s.engHold e code access va) := by
  unfold State.engHold
  dsimp only
  split
  · exact h.dropWalkFault.updEngine.engReport
  · exact h.dropWalkFault.engReport.engEnd

theorem Steady.answerEngine {o : OutAcc} {e : EngOp} {code : Nat} {bs : List Byte} (h : Steady .univ s0 s) :
    Steady .univ s0 (s.answerEngine o e code bs) := by
  unfold State.answerEngine
  dsimp only
  split
  · exact h.engHold
  · exact h.updEngine

theorem Steady.answerReader {o : OutAcc} {code : Nat} {bs : List Byte} (h : Steady .univ s0 s) : Steady .univ s0 (s.answerReader o code bs) := by
  unfold State.answerReader
  split
  · exact h.logBlock
  · split <;> exact h

theorem Steady.sendFrame {part peer kind length : Nat} {offset : BitVec 64} {payload : List Byte} {serial : Option Nat} (h : Steady .univ s0 s) :
    Steady .univ s0 (s.sendFrame part peer kind length offset payload serial) := by
  unfold State.sendFrame
  split <;> exact h

theorem Steady.sendWrite {part pa : Nat} {bs : List (Option Byte)} {serial : Option Nat} (h : Steady .univ s0 s) :
    Steady .univ s0 (s.sendWrite part pa bs serial) := by
  unfold State.sendWrite
  split
  · exact h
  dsimp only
  split
  · exact h
  · exact (h.foldl fun h1 => h1.sendFrame).sendFrame

theorem Steady.finishOut {o : OutAcc} {code : Nat} {bs : List Byte} (h : Steady .univ s0 s) : Steady .univ s0 (s.finishOut o code bs) := by
  unfold State.finishOut
  extract_lets s1 s2
  have written : Steady .univ s0 s2 := by
    show Steady .univ s0 (match (if code = 0 then o.op.update bs else none) with | some d => s1.sendWrite _ _ (d.map some) none | none => s1)
    split
    · exact Steady.sendWrite h
    · exact h
  split
  · split
    · exact written.answerAccess
    · exact written
  · split
    · exact written.answerEngine
    · exact written
  · exact written.answerCell
  all_goals exact written.answerReader

theorem workOf_s {p : OpPlace} (e : s.workOf p = some w) : w.s = s := by
  unfold State.workOf at e
  split at e
  · cases e
  split at e
  · cases e
  split at e
  · cases e
  · cases e
    rfl

theorem Steady.loseAnswers {hit : Nat → Asked → Bool} (h : Steady .univ s0 s) : Steady .univ s0 (s.loseAnswers hit) := by
  refine h.foldl fun h1 => ?_
  split
  · exact h1
  · rename_i e
    refine Steady.storeWork ?_
    exact Steady.loseItems (workOf_s e ▸ h1)

theorem Steady.freely {α : Type} {f : State → α → State} {l : List α} (h : Steady .univ s0 s)
    (hf : ∀ {t : State} {x : α}, Steady .univ s0 t → Steady .univ s0 (f t x)) : Steady .univ s0 (State.freely f l s) := by
  refine h.foldl fun h1 => ?_
  exact Steady.ite h1.drawNat (hf h1.drawNat)

theorem Steady.dropFlight {link : Nat} (h : Steady .univ s0 s) : Steady .univ s0 (s.dropFlight link) := by
  unfold State.dropFlight
  extract_lets on s1 s2 s3 s4 s5
  have h1 : Steady .univ s0 s1 := h.freely fun h => h.resetAccess
  have h2 : Steady .univ s0 s2 := by
    refine h1.freely fun h => ?_
    split
    · exact h.loseTxfer
    · exact h
  have h3 : Steady .univ s0 s3 := h2.foldl fun h => h.engLose
  have h5 : Steady .univ s0 s5 := h3.loseAnswers.freely fun h => h.finishOut
  exact h5.freely fun h => h.takeFault trivial

end Sys2Proof.Machine
end

section
/-! PROOF. What O60 carries through the meanings of the instructions: the form of what each kind of function computes. -/
namespace Sys2Proof.Machine

/-! ### The form carried by what the meanings compute -/

/-- An op at work whose machine, before its turn and as it now stands, has its memories in canonical form. -/
abbrev WorkForm (w : Work) : Prop := MemoryForm w.s0 ∧ MemoryForm w.s

/-- An optional value, where there is one, satisfies a predicate. -/
def OptForm {α : Type} (P : α → Prop) : Option α → Prop
  | some a => P a
  | none => True

/-- An attempt satisfies a predicate where it succeeds, and where it does not it leaves an op whose machine has the form. -/
def TryForm {α : Type} (P : α → Prop) : Except Work α → Prop
  | .ok a => P a
  | .error w => WorkForm w

theorem OptForm.get {α : Type} {P : α → Prop} {o : Option α} {a : α} (h : OptForm P o) (e : o = some a) : P a := by
  subst e
  exact h

theorem OptForm.map {α β : Type} {P : α → Prop} {Q : β → Prop} {f : α → β} {o : Option α}
    (h : OptForm P o) (hf : ∀ {a : α}, P a → Q (f a)) :
    OptForm Q (o.map f) := by
  cases o with
  | none => trivial
  | some a => exact hf h

theorem TryForm.bind {α β : Type} {P : α → Prop} {Q : β → Prop} {x : Except Work α} {f : α → Except Work β} (h : TryForm P x)
    (hf : ∀ {a : α}, P a → TryForm Q (f a)) : TryForm Q (x.bind f) := by
  cases x with
  | error w => exact h
  | ok a => exact hf h

theorem TryForm.map {α β : Type} {P : α → Prop} {Q : β → Prop} {x : Except Work α} {f : α → β} (h : TryForm P x)
    (hf : ∀ {a : α}, P a → Q (f a)) : TryForm Q (x.map f) := by
  cases x with
  | error w => exact h
  | ok a => exact hf h

/-- A sequencer instruction's result has the form in every way to end. -/
def ResForm : SeqRes → Prop
  | .done s | .goto _ s | .wait _ s | .fault _ s | .take _ _ s | .leave s | .more _ s => MemoryForm s

/-- An outcome's next state, where there is one, has the form. -/
def OutForm : Out → Prop
  | .next s => MemoryForm s
  | .fault _ | .refused _ => True

/-- A firing keeps the form. -/
abbrev FireForm (fire : Work → Option Work) : Prop := ∀ {w : Work}, WorkForm w → OptForm WorkForm (fire w)

/-- What a delivery leaves, where it was made, has the form. -/
def DeliveryForm : Delivery → Prop
  | .done s => MemoryForm s
  | .full | .none | .perm => True

/-- What a transfer leaves, done or not, has the form. -/
def TransferForm : Transfer → Prop
  | .done s | .later s => MemoryForm s

/-- A global request leaves an op whose machine has the form in every way to end. -/
def GResForm : GRes → Prop
  | .ok w _ _ | .err w _ | .wait w => WorkForm w

theorem DeliveryForm.get {d : Delivery} {s : State} (h : DeliveryForm d) (e : d = .done s) : MemoryForm s := by
  subst e
  exact h

theorem TransferForm.get {x : Transfer} {s : State} (h : TransferForm x) (e : x = .done s) : MemoryForm s := by
  subst e
  exact h

theorem TransferForm.later {x : Transfer} {s : State} (h : TransferForm x) (e : x = .later s) : MemoryForm s := by
  subst e
  exact h

theorem GResForm.get {x : GRes} {w : Work} {pa : Nat} {t : TlbEntry} (h : GResForm x) (e : x = .ok w pa t) : WorkForm w := by
  subst e
  exact h

theorem GResForm.err {x : GRes} {w : Work} {t : Token} (h : GResForm x) (e : x = .err w t) : WorkForm w := by
  subst e
  exact h

theorem GResForm.wait {x : GRes} {w : Work} (h : GResForm x) (e : x = .wait w) : WorkForm w := by
  subst e
  exact h

theorem TryForm.get {α : Type} {P : α → Prop} {x : Except Work α} {a : α} (h : TryForm P x) (e : x = .ok a) : P a := by
  subst e
  exact h

theorem TryForm.err {α : Type} {P : α → Prop} {x : Except Work α} {w : Work} (h : TryForm P x) (e : x = .error w) : WorkForm w := by
  subst e
  exact h

theorem MemoryForm.ofSnd {α : Type} {p : α × State} {a : α} {s : State} (h : MemoryForm p.2) (e : p = (a, s)) : MemoryForm s := by
  subst e
  exact h

theorem MemoryForm.ofFst {α : Type} {p : State × α} {a : α} {s : State} (h : MemoryForm p.1) (e : p = (s, a)) : MemoryForm s := by
  subst e
  exact h

theorem WorkForm.ofSnd {α : Type} {p : α × Work} {a : α} {w : Work} (h : WorkForm p.2) (e : p = (a, w)) : WorkForm w := by
  subst e
  exact h

/-- The behaviour of a compute-cell op keeps the form. -/
structure BehaveForm (b : Behave) : Prop where
  data : ∀ {w : Work} {x y z : Token}, WorkForm w → WorkForm (b.data w x y z)
  off : ∀ {w : Work} {x : Token}, WorkForm w → WorkForm (b.off w x)
  err : ∀ {w : Work} {x : Token}, WorkForm w → WorkForm (b.err w x)
  fin : ∀ {w : Work}, WorkForm w → WorkForm (b.fin w)

/-- The behaviour of a memory-cell op keeps the form. -/
structure McBehaveForm (b : McBehave) : Prop where
  data : ∀ {w : Work}, WorkForm w → TryForm WorkForm (b.data w)
  off : ∀ {w : Work}, WorkForm w → WorkForm (b.off w)
  stop : ∀ {l : BitVec 3} {w : Work}, WorkForm w → TryForm WorkForm (b.stop l w)
  mark : ∀ {w : Work}, WorkForm w → WorkForm (b.mark w)
  err : ∀ {w : Work} {x : Token}, WorkForm w → WorkForm (b.err w x)

theorem WorkForm.old {w : Work} (h : WorkForm w) : MemoryForm w.s0 := h.1
theorem WorkForm.now {w : Work} (h : WorkForm w) : MemoryForm w.s := h.2

theorem MemoryForm.mem {s : State} (h : MemoryForm s) : s.mem.wf = true := h.1
theorem MemoryForm.sram {s : State} (h : MemoryForm s) : s.sram.wf = true := h.2.1
theorem MemoryForm.seqs {s : State} (h : MemoryForm s) : ∀ q ∈ s.seqs, q.2.istore.wf = true ∧ q.2.dstore.wf = true := h.2.2

theorem MemoryForm.ite {c : Prop} [Decidable c] {s t : State} (hs : MemoryForm s) (ht : MemoryForm t) : MemoryForm (if c then s else t) := by
  split <;> assumption

theorem WorkForm.ite {c : Prop} [Decidable c] {v w : Work} (hv : WorkForm v) (hw : WorkForm w) : WorkForm (if c then v else w) := by
  split <;> assumption

theorem OutForm.ite {c : Prop} [Decidable c] {o u : Out} (ho : OutForm o) (hu : OutForm u) : OutForm (if c then o else u) := by
  split <;> assumption

theorem TryForm.ite {c : Prop} [Decidable c] {α : Type} {P : α → Prop} {x y : Except Work α} (hx : TryForm P x) (hy : TryForm P y) :
    TryForm P (if c then x else y) := by
  split <;> assumption

theorem MemoryForm.foldl {α : Type} {f : State → α → State} {l : List α} {s : State} (h : MemoryForm s)
    (hf : ∀ {t : State} {x : α}, MemoryForm t → MemoryForm (f t x)) : MemoryForm (l.foldl f s) :=
  List.foldlRecOn l f h fun _ ht _ _ => hf ht

theorem WorkForm.foldl {α : Type} {f : Work → α → Work} {l : List α} {w : Work} (h : WorkForm w)
    (hf : ∀ {v : Work} {x : α}, WorkForm v → WorkForm (f v x)) : WorkForm (l.foldl f w) :=
  List.foldlRecOn l f h fun _ hv _ _ => hf hv

end Sys2Proof.Machine
end

section
/-! PROOF. The form kept by the functions of Machine/Ops: the operations on the state. -/
namespace Sys2Proof.Machine

variable {s : State} {w : Work}

theorem MemoryForm.setTask {t : Nat} {v : Task} (h : MemoryForm s) : MemoryForm (s.setTask t v) := h
theorem MemoryForm.updTask {t : Nat} {f : Task → Task} (h : MemoryForm s) : MemoryForm (s.updTask t f) := h.setTask

theorem Tab.find_mem {α : Type} {t : Tab α} {k : Nat} {v : α} (h : Tab.find t k = some v) : (k, v) ∈ t := by
  induction t with
  | nil => cases h
  | cons x t ih =>
    obtain ⟨j, u⟩ := x
    rw [Tab.find] at h
    split at h
    · rename_i hj
      simp_all
    · exact List.mem_cons_of_mem _ (ih h)

theorem Tab.mem_set {α : Type} {t : Tab α} {k : Nat} {v : α} {q : Nat × α} (h : q ∈ Tab.set t k v) : q = (k, v) ∨ q ∈ t := by
  induction t with
  | nil => simpa [Tab.set] using h
  | cons x t ih =>
    rw [Tab.set] at h
    split at h
    · simpa using h
    · split at h
      · exact (List.mem_cons.1 h).imp_right (List.mem_cons_of_mem _)
      · rcases List.mem_cons.1 h with h | h
        · exact .inr (h ▸ List.mem_cons_self)
        · exact (ih h).imp_right (List.mem_cons_of_mem _)

theorem MemoryForm.sequencer (h : MemoryForm s) (r : Nat) : (s.sequencer r).istore.wf = true ∧ (s.sequencer r).dstore.wf = true := by
  unfold State.sequencer Tab.get
  cases hf : Tab.find s.seqs r with
  | none => exact Sequencer.reset_wf
  | some q => exact h.2.2 _ (Tab.find_mem hf)

theorem MemoryForm.setSequencer {r : Nat} {v : Sequencer} (h : MemoryForm s) (hi : v.istore.wf = true) (hd : v.dstore.wf = true) :
    MemoryForm (s.setSequencer r v) := by
  obtain ⟨hm, hs, hq⟩ := h
  refine ⟨hm, hs, fun q hmem => ?_⟩
  rcases Tab.mem_set hmem with rfl | hmem
  · exact ⟨hi, hd⟩
  · exact hq q hmem

theorem MemoryForm.setQueue {t : Nat} {q : List QEntry} (h : MemoryForm s) : MemoryForm (s.setQueue t q) := h
theorem MemoryForm.setPart {p : Nat} {v : Partition} (h : MemoryForm s) : MemoryForm (s.setPart p v) := h
theorem MemoryForm.setPool {die p : Nat} {v : Pool} (h : MemoryForm s) : MemoryForm (s.setPool die p v) := h
theorem MemoryForm.updRun {n : Nat} {f : Run → Run} (h : MemoryForm s) : MemoryForm (s.updRun n f) := h
theorem MemoryForm.updGraph {n : Nat} {f : Graph → Graph} (h : MemoryForm s) : MemoryForm (s.updGraph n f) := h
theorem MemoryForm.updNode {g n : Nat} {f : Node → Node} (h : MemoryForm s) : MemoryForm (s.updNode g n f) := h.updGraph
theorem MemoryForm.updEngine {n : Nat} {f : EngOp → EngOp} (h : MemoryForm s) : MemoryForm (s.updEngine n f) := h
theorem MemoryForm.fresh (h : MemoryForm s) : MemoryForm s.fresh.2 := h
theorem MemoryForm.drawNat (h : MemoryForm s) : MemoryForm s.drawNat.2 := h
theorem MemoryForm.raiseCnt {t : Nat} {k : Cnt} {n : Nat} (h : MemoryForm s) : MemoryForm (s.raiseCnt t k n) := h.updTask
theorem MemoryForm.lowerCnt {t : Nat} {k : Cnt} (h : MemoryForm s) : MemoryForm (s.lowerCnt t k) := h.updTask
theorem MemoryForm.logEvent {source code part : Nat} {lo hi : Word} (h : MemoryForm s) : MemoryForm (s.logEvent source code part lo hi) := h
theorem MemoryForm.logFault {source part : Nat} {r : FRec} (h : MemoryForm s) : MemoryForm (s.logFault source part r) := h.logEvent
theorem MemoryForm.toFirmware {source part : Nat} {r : FRec} (h : MemoryForm s) : MemoryForm (s.toFirmware source part r) := h
theorem MemoryForm.updTile {u : Nat} {f : Tile → Tile} (h : MemoryForm s) : MemoryForm (s.updTile u f) := h
theorem MemoryForm.reached {u st : Nat} (h : MemoryForm s) : MemoryForm (s.reached u st) := h
theorem MemoryForm.freeTile {u : Nat} (h : MemoryForm s) : MemoryForm (s.freeTile u) := (Steady.refl .univ s).freeTile.form h
theorem MemoryForm.leftFilling {u : Nat} (h : MemoryForm s) : MemoryForm (s.leftFilling u) := (Steady.refl .univ s).leftFilling.form h
theorem MemoryForm.filled {t : Tile} {deps : List Nat} (h : MemoryForm s) : MemoryForm (s.filled t deps) := (Steady.refl .univ s).filled.form h

theorem MemoryForm.sealTile {u : Nat} {deps : List Nat} (h : MemoryForm s) : MemoryForm (s.sealTile u deps) := by
  unfold State.sealTile
  split
  · exact h
  · exact h.filled.updTile.leftFilling

theorem MemoryForm.poisonTile {u : Nat} {log : Bool} (h : MemoryForm s) : MemoryForm (s.poisonTile u log) := (Steady.refl .univ s).poisonTile.form h

theorem MemoryForm.readEntry {die part handle : Nat} (h : MemoryForm s) : MemoryForm (s.readEntry die part handle) := by
  unfold State.readEntry
  split
  · exact h
  split
  · exact h.updTile.poisonTile
  · exact h

theorem MemoryForm.bind {o : Owner} {k : Nat} {reader : Owner} (h : MemoryForm s) : MemoryForm (s.bind o k reader) := by
  unfold State.bind
  split
  · split <;> exact h
  · exact h

theorem MemoryForm.beginRead {u : Nat} {slot : Option Nat} (h : MemoryForm s) : MemoryForm (s.beginRead u slot) := h.updTile.reached
theorem MemoryForm.endRead {u : Nat} {slot : Option Nat} (h : MemoryForm s) : MemoryForm (s.endRead u slot) := (Steady.refl .univ s).endRead.form h
theorem MemoryForm.readerEnd {reader : Owner} (h : MemoryForm s) : MemoryForm (s.readerEnd reader) := (Steady.refl .univ s).readerEnd.form h
theorem MemoryForm.ownerEndOf {t : Tile} (h : MemoryForm s) : MemoryForm (s.ownerEndOf t) := (Steady.refl .univ s).ownerEndOf.form h
theorem MemoryForm.ownerEnd {o : Owner} (h : MemoryForm s) : MemoryForm (s.ownerEnd o) := h.foldl fun h1 => h1.ownerEndOf
theorem MemoryForm.leaveGroups {t : Nat} {which : Group → Bool} (h : MemoryForm s) : MemoryForm (s.leaveGroups t which) := h
theorem MemoryForm.failNode {g n reason detail : Nat} (h : MemoryForm s) : MemoryForm (s.failNode g n reason detail) := h.updNode.updGraph
theorem MemoryForm.cancelWait {t : Nat} (h : MemoryForm s) : MemoryForm (s.cancelWait t) := ((Steady.refl .univ s).cancelWait trivial).form h
theorem MemoryForm.dropDeferred {t : Nat} (h : MemoryForm s) : MemoryForm (s.dropDeferred t) := h.foldl fun h1 => h1
theorem MemoryForm.stopTask {t : Nat} {f : Report} (h : MemoryForm s) : MemoryForm (s.stopTask t f) := ((Steady.refl .univ s).stopTask trivial).form h
theorem MemoryForm.takeFault {t cls : Nat} {epc : BitVec 16} {f : Report} (h : MemoryForm s) : MemoryForm (s.takeFault t cls epc f) :=
  ((Steady.refl .univ s).takeFault trivial).form h
theorem MemoryForm.pushQ {t : Nat} {e : QEntry} (h : MemoryForm s) : MemoryForm (s.pushQ t e) := h.setQueue.updTask

theorem MemoryForm.deliver {part : Nat} {ep : BitVec 16} {e : QEntry} (h : MemoryForm s) : DeliveryForm (s.deliver part ep e) := by
  unfold State.deliver
  split
  · trivial
  split
  · trivial
  split
  · trivial
  split
  · dsimp only
    split
    · exact h.pushQ
    · trivial
  · split
    · trivial
    split
    · trivial
    split
    · trivial
    split
    · dsimp only
      split
      · trivial
      split
      · exact h.updRun
      · trivial
    · trivial

theorem MemoryForm.runRecord {n : Nat} {rec : FRec} (h : MemoryForm s) : MemoryForm (s.runRecord n rec) := (Steady.refl .univ s).runRecord.form h

theorem MemoryForm.runFault {n cls access code va : Nat} (h : MemoryForm s) : MemoryForm (s.runFault n cls access code va) := by
  unfold State.runFault
  split
  · exact h
  · exact h.runRecord

theorem MemoryForm.endRunSoon {n cause : Nat} (h : MemoryForm s) : MemoryForm (s.endRunSoon n cause) := h.updRun

end Sys2Proof.Machine
end

section
/-! PROOF. The form kept by the functions of Machine/GMem: global memory. -/
namespace Sys2Proof.Machine

variable {s : State} {w : Work}

theorem MemoryForm.dropWalkFault {die asid va : Nat} (h : MemoryForm s) : MemoryForm (s.dropWalkFault die asid va) := h
theorem MemoryForm.queueWalks {die asid : Nat} {pages : List Nat} (h : MemoryForm s) : MemoryForm (s.queueWalks die asid pages) := h

theorem MemoryForm.aim {die home : Nat} (h : MemoryForm s) : MemoryForm (s.aim die home).2 := by
  unfold State.aim
  split
  · exact h
  · dsimp only
    split <;> exact h.drawNat

theorem MemoryForm.aimAll {die : Nat} {hs : List Nat} (h : MemoryForm s) : MemoryForm (State.aimAll die hs s).2 := by
  induction hs generalizing s with
  | nil => exact h
  | cons x hs ih => exact ih h.aim

theorem MemoryForm.misses {die home : Nat} (h : MemoryForm s) : MemoryForm (s.misses die home).2 := by
  unfold State.misses
  dsimp only
  split
  · exact h
  · exact h.aim

theorem MemoryForm.missesAny {die : Nat} {hs : List Nat} (h : MemoryForm s) : MemoryForm (s.missesAny die hs).2 := by
  induction hs generalizing s with
  | nil => exact h
  | cons x hs ih =>
    have h1 : MemoryForm (s.misses die x).2 := h.misses
    unfold State.missesAny
    split
    · rename_i e
      rwa [e] at h1
    · rename_i e
      rw [e] at h1
      exact ih h1

theorem MemoryForm.setBlock {block : Nat} {b : Block} (h : MemoryForm s) : MemoryForm (s.setBlock block b) := h
theorem MemoryForm.sealBlock {block part : Nat} (h : MemoryForm s) : MemoryForm (s.sealBlock block part) := (Steady.refl .univ s).sealBlock.form h
theorem MemoryForm.writeBack {block : Nat} (h : MemoryForm s) : MemoryForm (s.writeBack block) := (Steady.refl .univ s).writeBack.form h
theorem MemoryForm.evict {pa : Nat} (h : MemoryForm s) : MemoryForm (s.evict pa) := (Steady.refl .univ s).evict.form h

theorem MemoryForm.cacheBlock {shared : Bool} {pa : Nat} (h : MemoryForm s) : MemoryForm (s.cacheBlock shared pa) := by
  unfold State.cacheBlock
  dsimp only
  split
  · exact h
  refine MemoryForm.setBlock ?_
  split
  · exact h
  · exact h.evict

theorem MemoryForm.dirtyBlock {pa : Nat} (h : MemoryForm s) : MemoryForm (s.dirtyBlock pa) := (Steady.refl .univ s).dirtyBlock.form h

theorem MemoryForm.leaveBlock {cls : BitVec 2} {shared : Bool} {pa : Nat} (h : MemoryForm s) : MemoryForm (s.leaveBlock cls shared pa) := by
  unfold State.leaveBlock
  dsimp only
  split
  · exact h
  split
  · exact h.writeBack
  · exact h.setBlock

theorem MemoryForm.touchBlock {e : TlbEntry} {pa : Nat} (h : MemoryForm s) : MemoryForm (s.touchBlock e pa) := h.cacheBlock.leaveBlock
theorem MemoryForm.logBlock {code part pa : Nat} (h : MemoryForm s) : MemoryForm (s.logBlock code part pa) := (Steady.refl .univ s).logBlock.form h
theorem MemoryForm.withMem {m : Memory} (h : MemoryForm s) (hm : m.wf = true) : MemoryForm { s with mem := m } := ⟨hm, h.2⟩
theorem MemoryForm.withSram {m : Memory} (h : MemoryForm s) (hm : m.wf = true) : MemoryForm { s with sram := m } := ⟨h.1, hm, h.2.2⟩

theorem MemoryForm.storeSome {die : Nat} {task : Option Nat} {ord : Nat → Option Nat} {deps : Nat → List Nat} {shared : Bool} {pa : Nat}
    {bs : List (Option Byte)} (h : MemoryForm s) : MemoryForm (s.storeSome die task ord deps shared pa bs) := (Steady.refl .univ s).storeSome.form h

theorem MemoryForm.store {die : Nat} {task : Option Nat} {ord : Nat → Option Nat} {deps : Nat → List Nat} {shared : Bool} {pa : Nat} {bs : List Byte} (h : MemoryForm s) :
    MemoryForm (s.store die task ord deps shared pa bs) := h.storeSome

theorem MemoryForm.applyRemote {r : RemoteWrite} (h : MemoryForm s) : MemoryForm (s.applyRemote r) := h

theorem MemoryForm.sendFrame {part peer kind length : Nat} {offset : BitVec 64} {payload : List Byte} {serial : Option Nat} (h : MemoryForm s) :
    MemoryForm (s.sendFrame part peer kind length offset payload serial) := (Steady.refl .univ s).sendFrame.form h

theorem MemoryForm.sendWrite {part pa : Nat} {bs : List (Option Byte)} {serial : Option Nat} (h : MemoryForm s) :
    MemoryForm (s.sendWrite part pa bs serial) := (Steady.refl .univ s).sendWrite.form h

theorem MemoryForm.hostLine {pa len : Nat} {op : OutOp} (h : MemoryForm s) : MemoryForm (s.hostLine pa len op).2 := by
  unfold State.hostLine
  split
  · dsimp only
    split <;> exact h.drawNat
  · exact h

theorem MemoryForm.askOutside {s0 : State} {die part asid : Nat} {who : OutWho} {va pa len : Nat} {op : OutOp} (h : MemoryForm s0) :
    MemoryForm (s0.askOutside die part asid who va pa len op) := by
  unfold State.askOutside
  dsimp only
  split
  · exact MemoryForm.sendWrite (.fresh (.hostLine h))
  split
  · exact MemoryForm.sendFrame (.fresh (.hostLine h))
  · exact h.hostLine.fresh

theorem MemoryForm.askOnce {die part asid : Nat} {who : OutWho} {va pa len : Nat} {op : OutOp} (h : MemoryForm s) :
    MemoryForm (s.askOnce die part asid who va pa len op) := by
  unfold State.askOnce
  split
  · exact h
  · exact h.askOutside

theorem MemoryForm.forget {who : OutWho} (h : MemoryForm s) : MemoryForm (s.forget who) := h
theorem MemoryForm.touchWalk {die asid page : Nat} (h : MemoryForm s) : MemoryForm (s.touchWalk die asid page) := h.foldl fun h1 => h1.cacheBlock

theorem MemoryForm.touchPieces {die part asid fuel va n : Nat} (h : MemoryForm s) :
    MemoryForm (State.touchPieces die part asid fuel va n s) := by
  induction fuel generalizing s va n with
  | zero => exact h
  | succ fuel ih =>
    unfold State.touchPieces
    split
    · exact h
    refine ih ?_
    split
    · exact h.touchBlock
    · exact h

theorem MemoryForm.touchV {die part asid va n : Nat} (h : MemoryForm s) : MemoryForm (s.touchV die part asid va n) := h.touchPieces

theorem MemoryForm.vwrite {die part asid : Nat} {who : OutWho} {deps : Nat → List Nat} {fuel va : Nat} {bs : List Byte} (h : MemoryForm s) :
    MemoryForm (s.vwrite die part asid who deps fuel va bs) := by
  induction fuel generalizing s va bs with
  | zero => exact h
  | succ fuel ih =>
    unfold State.vwrite
    split
    · exact h
    refine ih ?_
    split
    · split
      · exact h.askOutside
      split
      · exact h
      · exact h.cacheBlock.store.leaveBlock
    · exact h

end Sys2Proof.Machine
end

section
/-! PROOF. The form kept by the functions of Machine/SeqFlow: a sequencer's instructions. -/
namespace Sys2Proof.Machine

variable {s : State} {w : Work}

theorem MemoryForm.updMe {f : Task → Task} (h : MemoryForm s) : MemoryForm (s.updMe f) := h.updTask
theorem MemoryForm.setR {r : Reg} {v : Word} (h : MemoryForm s) : MemoryForm (s.setR r v) := h.updMe
theorem MemoryForm.block {w : WaitFor} (h : MemoryForm s) : MemoryForm (s.block w) := h.updMe
theorem MemoryForm.complete {npc : BitVec 16} (h : MemoryForm s) : MemoryForm (s.complete npc) := h.updMe

theorem ResForm.finish {r : SeqRes} (h : ResForm r) : OutForm r.finish := by
  cases r with
  | done s => exact MemoryForm.complete h
  | goto pc s => exact MemoryForm.complete h
  | wait w s => exact MemoryForm.block h
  | fault f s => exact MemoryForm.takeFault h
  | take epc f s => exact MemoryForm.takeFault h
  | leave s => exact MemoryForm.updMe h
  | more w s => exact MemoryForm.updMe h

theorem seqExec_form {g : Guard} {gate : Gate} {reads writes : List Reg} {body : State → SeqRes} (h : MemoryForm s)
    (hb : ResForm (body s)) : OutForm (seqExec g gate reads writes body s) := by
  rcases seqExec_cases g gate reads writes body s with e | ⟨l, e⟩ | ⟨c, e⟩ | ⟨-, e⟩ | ⟨-, e⟩ <;> rw [e]
  · exact MemoryForm.updMe h
  · exact h.block
  · exact h.block
  · exact ResForm.finish (r := .fault _ s) h
  · exact hb.finish

theorem MemoryForm.noteBlock {die part asid code va : Nat} (h : MemoryForm s) : MemoryForm (s.noteBlock die part asid code va) := by
  unfold State.noteBlock
  split
  · split
    · exact h.logBlock
    · exact h
  · exact h

theorem readBytes_form {va n : Nat} {k : List Byte → State → SeqRes} (h : MemoryForm s)
    (hk : ∀ {bs : List Byte} {t : State}, MemoryForm t → ResForm (k bs t)) : ResForm (readBytes va n s k) := by
  unfold readBytes
  dsimp only
  split
  · exact h.queueWalks
  · exact h.askOnce
  · exact h.noteBlock.dropWalkFault.forget
  · exact hk h.touchV

theorem withBytes_form {va n : Nat} {k : List Byte → State → SeqRes} (h : MemoryForm s)
    (hk : ∀ {bs : List Byte} {t : State}, MemoryForm t → ResForm (k bs t)) : ResForm (withBytes va n s k) :=
  readBytes_form h fun h1 => hk h1.forget

theorem await_form {c : WaitFor} {k : State → SeqRes} (h : MemoryForm s) (hk : ResForm (k s)) : ResForm (await c s k) := by
  unfold await
  split
  · exact hk
  · exact h

theorem MemoryForm.deferFault {t act : Nat} {d : Deferred} (h : MemoryForm s) : MemoryForm (s.deferFault t act d) :=
  ((Steady.refl .univ s).deferFault trivial).form h

theorem MemoryForm.rotate {ring k : Nat} (h : MemoryForm s) : MemoryForm (s.rotate ring k) :=
  h.setSequencer (h.sequencer ring).1 (h.sequencer ring).2

end Sys2Proof.Machine
end

section
/-! PROOF. The form kept by the functions of Machine/Tiles: tiles and pools. -/
namespace Sys2Proof.Machine

variable {s : State} {w : Work}

theorem MemoryForm.setUnitByte {t : Tile} {u off : Nat} {b : Byte} (h : MemoryForm s) : MemoryForm (s.setUnitByte t u off b) := by
  unfold State.setUnitByte
  split
  · exact h
  split
  · exact h.withMem (Memory.wf_write _ _ h.1)
  · exact h.withSram (Memory.wf_write _ _ h.2.1)

theorem MemoryForm.setTileBytes {t : Tile} {base x : Nat} {bs : List Byte} (h : MemoryForm s) : MemoryForm (s.setTileBytes t base x bs) := by
  induction bs generalizing s x with
  | nil => exact h
  | cons b bs ih => exact ih h.setUnitByte

theorem MemoryForm.setTileArea {t : Tile} {base x : Nat} {bs : List Byte} (h : MemoryForm s) : MemoryForm (s.setTileArea t base x bs) := by
  unfold State.setTileArea
  dsimp only
  split
  · exact h.setTileBytes.foldl fun h1 => h1.dirtyBlock
  · split <;> exact h.setTileBytes

theorem MemoryForm.touchTile {t : Tile} {base x n : Nat} (h : MemoryForm s) : MemoryForm (s.touchTile t base x n) := by
  unfold State.touchTile
  split
  · exact h.foldl fun h1 => h1.cacheBlock
  · exact h

theorem MemoryForm.setTileData {t : Tile} {x : Nat} {bs : List Byte} (h : MemoryForm s) : MemoryForm (s.setTileData t x bs) := h.setTileArea
theorem MemoryForm.setTileSide {t : Tile} {y : Nat} {bs : List Byte} (h : MemoryForm s) : MemoryForm (s.setTileSide t y bs) := h.setTileArea

theorem MemoryForm.tileFails {t : Tile} {base x n : Nat} (h : MemoryForm s) : MemoryForm (s.tileFails t base x n) := by
  unfold State.tileFails
  split
  · dsimp only
    split
    · exact h.logBlock.poisonTile
    · exact h.poisonTile
  · exact h.poisonTile

theorem MemoryForm.charge {die p n : Nat} (h : MemoryForm s) : MemoryForm (s.charge die p n) := h.setPool
theorem MemoryForm.enqueue {die p : Nat} {hb : Bool} {r : PoolReq} (h : MemoryForm s) : MemoryForm (s.enqueue die p hb r) := h.setPool
theorem MemoryForm.takeRequest {die p id : Nat} (h : MemoryForm s) : MemoryForm (s.takeRequest die p id) := h.setPool

theorem MemoryForm.ownGranule {die p g : Nat} (h : MemoryForm s) : MemoryForm (s.ownGranule die p g) := by
  unfold State.ownGranule
  dsimp only
  split
  · exact h
  · exact h.withSram (Memory.wf_zero _ _ h.2.1)

theorem MemoryForm.chooseUnits {die p n : Nat} {hb : Bool} (h : MemoryForm s) : MemoryForm (s.chooseUnits die p hb n).2 := by
  unfold State.chooseUnits
  cases hb with
  | true => exact h
  | false => exact MemoryForm.foldl h fun h1 => h1.ownGranule

theorem MemoryForm.makeTile {die part : Nat} {d : Desc} {owner : Owner} {filling : Bool} {funded : Option Nat} (h : MemoryForm s) :
    MemoryForm (s.makeTile die part d owner filling funded).2.2 :=
  MemoryForm.chooseUnits (n := granulesOf d.rows d.k d.format) (hb := d.hb) (die := die) (p := part) h

theorem allocThen_form {die part n : Nat} {hb : Bool} {src : Option GrantFor} {k : State → SeqRes} (h : MemoryForm s)
    (hk : ∀ {t : State}, MemoryForm t → ResForm (k t)) : ResForm (allocThen die part hb n src s k) := by
  unfold allocThen
  split
  · exact await_form h (hk h.takeRequest)
  split
  · refine hk ?_
    split
    · exact h
    · exact h.charge
  · exact h.fresh.enqueue

theorem tallocWith_form {d : Reg} {desc : BitVec 27} (h : MemoryForm s) : ResForm (tallocWith d desc s) := by
  unfold tallocWith
  dsimp only
  split
  · exact h
  split
  · exact h
  · exact allocThen_form h fun h1 => h1.makeTile.setR

theorem execTseal_form {g : Guard} {a : Reg} (h : MemoryForm s) : OutForm (execTseal g a s) := by
  unfold execTseal
  refine seqExec_form h ?_
  dsimp only
  split
  · exact h.readEntry
  split
  · exact h.readEntry.sealTile
  · exact h.readEntry

theorem execTstat_form {g : Guard} {d a : Reg} (h : MemoryForm s) : OutForm (execTstat g d a s) := by
  unfold execTstat
  refine seqExec_form h ?_
  dsimp only
  split
  · split
    · exact h.readEntry
    · exact h.readEntry.setR
  · split
    · exact h.readEntry.setR
    · exact h.readEntry

theorem execTload_form {g : Guard} {sz : LoadSize} {d a b : Reg} {imm : BitVec 32} (h : MemoryForm s) :
    OutForm (execTload g sz d a b imm s) := by
  unfold execTload
  refine seqExec_form h ?_
  dsimp only
  split
  · exact h.readEntry
  split
  · exact h.readEntry
  split
  · exact h.readEntry
  · exact h.readEntry
  · split
    · exact h.readEntry
    split
    · exact h.readEntry.tileFails
    split
    · exact h.readEntry.touchTile.setR
    · exact h.readEntry.touchTile

theorem execTstore_form {g : Guard} {sz : Size} {d a b : Reg} {imm : BitVec 32} (h : MemoryForm s) : OutForm (execTstore g sz d a b imm s) := by
  unfold execTstore
  refine seqExec_form h ?_
  dsimp only
  split
  · exact h.readEntry
  split
  · exact h.readEntry
  split
  · split
    · exact h.readEntry.tileFails
    · split <;> exact h.readEntry.setTileData.updTile
  · exact h.readEntry

theorem MemoryForm.grantHead {die p : Nat} {hb : Bool} (h : MemoryForm s) : MemoryForm (s.grantHead die p hb) := by
  unfold State.grantHead
  dsimp only
  split
  · exact h
  split
  · exact h.setPool
  · exact h

theorem execPoolFiguresSet_form {die partition res lim quota : Nat} (h : MemoryForm s) :
    OutForm (execPoolFiguresSet die partition res lim quota s) := by
  unfold execPoolFiguresSet
  dsimp only
  split
  · exact h.setPool
  · exact h

theorem execAstall_form {die partition request : Nat} (h : MemoryForm s) : OutForm (execAstall die partition request s) := by
  unfold execAstall
  dsimp only
  split
  · exact h
  · split <;> exact h

end Sys2Proof.Machine
end

section
/-! PROOF. The form kept by the functions of Machine/Engine: streamers, views and engines. -/
namespace Sys2Proof.Machine

variable {s : State} {w : Work}

theorem MemoryForm.openStream {die : Nat} {who : StreamOf} (h : MemoryForm s) : MemoryForm (s.openStream die who) := h
theorem MemoryForm.updStream {who : StreamOf} {f : Stream → Stream} (h : MemoryForm s) : MemoryForm (s.updStream who f) := h
theorem MemoryForm.present {who : StreamOf} (h : MemoryForm s) : MemoryForm (s.present who) := h.updStream

theorem MemoryForm.served {who : StreamOf} (h : MemoryForm s) : MemoryForm (s.served who) := by
  unfold State.served
  split <;> exact h

theorem execStreamerBind_form {die : Nat} (h : MemoryForm s) : OutForm (execStreamerBind die s) := by
  unfold execStreamerBind
  split <;> exact h

theorem withView_form {a coords : Word} {k : View → State → SeqRes} (h :
    MemoryForm s) (hk : ∀ {y : View} {z : State}, MemoryForm z → ResForm (k y z)) :
    ResForm (withView a coords s k) := by
  unfold withView
  split
  · exact h
  refine withBytes_form h fun h1 => ?_
  split
  · exact h1
  split
  · exact hk h1
  · exact h1

theorem MemoryForm.engBring {e : EngOp} {r : EngReq} {code : Nat} {bs : List Byte} (h : MemoryForm s) : MemoryForm (s.engBring e r code bs) :=
  h.updEngine
theorem MemoryForm.renewBlock {pa : Nat} (h : MemoryForm s) : MemoryForm (s.renewBlock pa) := h.setBlock
theorem MemoryForm.engWrite {e : EngOp} {r : EngReq} {bs : List Byte} (h : MemoryForm s) : MemoryForm (s.engWrite e r bs) := h.store

theorem MemoryForm.engPerform {e : EngOp} {r : EngReq} (h : MemoryForm s) : MemoryForm (State.engPerform e s r) := by
  unfold State.engPerform
  refine h.askOnce.ite ?_
  split
  rename_i i s1 e1
  have aimed : MemoryForm s1 := h.aim.ofSnd e1
  refine aimed.engBring.ite ?_
  extract_lets s2
  have cached : MemoryForm s2 := aimed.renewBlock.ite aimed.cacheBlock
  refine MemoryForm.leaveBlock ?_
  split
  · exact cached.engBring
  split
  · exact cached.engBring
  · exact cached.engWrite.engBring

theorem MemoryForm.engAsk {e : EngOp} {rs : List EngReq} (h : MemoryForm s) : MemoryForm (s.engAsk e rs) := by
  unfold State.engAsk
  split
  · exact h.present
  · dsimp only
    exact (h.drawNat.foldl fun h1 => h1.engPerform).served

theorem MemoryForm.engReport {e : EngOp} {cls code access va : Nat} (h : MemoryForm s) : MemoryForm (s.engReport e cls code access va) :=
  (Steady.refl .univ s).engReport.form h
theorem MemoryForm.engLower {e : EngOp} {k : Cnt} (h : MemoryForm s) : MemoryForm (s.engLower e k) := (Steady.refl .univ s).engLower.form h
theorem MemoryForm.engEnd {e : EngOp} (h : MemoryForm s) : MemoryForm (s.engEnd e) := (Steady.refl .univ s).engEnd.form h
theorem MemoryForm.engHold {e : EngOp} {code access va : Nat} (h : MemoryForm s) : MemoryForm (s.engHold e code access va) :=
  (Steady.refl .univ s).engHold.form h
theorem MemoryForm.engMiss {e : EngOp} {pages : List Nat} (h : MemoryForm s) : MemoryForm (s.engMiss e pages) := h.queueWalks

theorem MemoryForm.newIdent {kind slot : Nat} (h : MemoryForm s) : MemoryForm (s.newIdent kind slot).2 :=
  h.setSequencer (h.sequencer _).1 (h.sequencer _).2

theorem MemoryForm.startEngine {kind : EngKind} {format : BitVec 6} (h : MemoryForm s) : MemoryForm (s.startEngine kind format).2 :=
  MemoryForm.newIdent (kind := 1) (slot := taskSlot s.cur) h

theorem MemoryForm.beginTaskRead {t : Tile} {slot : Option Nat} {act : Nat} (h : MemoryForm s) : MemoryForm (s.beginTaskRead t slot act) := by
  unfold State.beginTaskRead
  dsimp only
  refine MemoryForm.beginRead ?_
  split
  · split
    · exact h.bind
    · exact h
  · exact h

theorem drawAlloc_form {d b : Reg} {desc : BitVec 27} {v : View} {f : BitVec 6} (h : MemoryForm s) :
    ResForm (execDraw.drawAlloc d b desc v f s) := by
  unfold execDraw.drawAlloc
  refine allocThen_form h fun h1 => ?_
  exact MemoryForm.setR (.raiseCnt (.startEngine (.makeTile h1)))

theorem execDraw_form {g : Guard} {d a b : Reg} {desc : BitVec 27} (h : MemoryForm s) : OutForm (execDraw g d a b desc s) := by
  unfold execDraw
  refine seqExec_form h ?_
  split
  · exact drawAlloc_form h
  split
  · exact h
  refine withView_form h fun h1 => ?_
  split
  · exact h1.queueWalks
  · exact h1.dropWalkFault
  · dsimp only
    split
    · exact h1
    · exact await_form h1 (drawAlloc_form h1)

theorem MemoryForm.fillWrite {t : Tile} {v : View} {rows : List (Nat × Nat × List Byte × List Byte)} (h : MemoryForm s) :
    MemoryForm (s.fillWrite t v rows) := by
  unfold State.fillWrite
  extract_lets w e blank s1 s2 mask s3 _ s4
  have blanked : MemoryForm s1 := MemoryForm.setTileSide (.foldl h fun h1 => h1.setTileData)
  have written : MemoryForm s2 := blanked.foldl fun h1 => h1.setTileData.ite h1.setTileData.setTileSide
  have valid : MemoryForm s3 := written.updTile
  have counted : MemoryForm s4 := valid.setPart.ite valid
  exact h.tileFails.ite counted.sealTile

theorem MemoryForm.readUid {uid : Nat} (h : MemoryForm s) : MemoryForm (s.readUid uid) := by
  unfold State.readUid
  split
  · exact h.readEntry
  · exact h

theorem MemoryForm.fillStep {s0 : State} {e : EngOp} {uid : Nat} {v : View} {coords : Word} (h : MemoryForm s0) :
    MemoryForm (s0.fillStep e uid v coords).1 := by
  unfold State.fillStep
  dsimp only
  split
  · exact h.readUid
  split
  · exact h.readUid
  split
  · exact h.readUid.engMiss
  · exact h.readUid.engHold
  · exact h.readUid
  · split
    · exact h.readUid.engAsk
    split
    · exact h.readUid.fillWrite
    · split
      · exact h.readUid.logBlock.poisonTile.engReport
      · exact h.readUid.logBlock.poisonTile
    · exact h.readUid

theorem execDrawComplete_form {serial : Nat} (h : MemoryForm s) : OutForm (execDrawComplete serial s) := by
  unfold execDrawComplete
  split
  · exact h
  split
  · split
    · exact h
    · exact MemoryForm.ite h.fillStep.engEnd h.fillStep
  · exact h

theorem execDraws_form {g : Guard} {a b c : Reg} {dim : Fin 4} {desc : BitVec 27} (h : MemoryForm s) :
    OutForm (execDraws g a b c dim desc s) := by
  unfold execDraws
  refine seqExec_form h ?_
  extract_lets m ep
  refine iteInduction (motive := ResForm) (fun _ => h) fun _ => iteInduction (fun _ => h) fun _ => withView_form h fun h1 => ?_
  split
  · exact h1
  · exact await_form h1 h1.startEngine.raiseCnt

theorem MemoryForm.setDrawing {e : EngOp} {d : Drawing} (h : MemoryForm s) : MemoryForm (s.setDrawing e d) := h.updEngine

theorem MemoryForm.drawsDeliver {e : EngOp} {d : Drawing} {x : QEntry} (h : MemoryForm s) : DeliveryForm (s.drawsDeliver e d x) := by
  unfold State.drawsDeliver
  split
  · exact h.deliver
  split
  · trivial
  split
  · trivial
  split
  · exact h.deliver
  · trivial

theorem MemoryForm.drawsMake {e : EngOp} {d : Drawing} {x : Desc} {funded : Option Nat} (h : MemoryForm s) :
    MemoryForm (s.drawsMake e d x funded) := by
  unfold State.drawsMake
  exact .updEngine (.setDrawing (.makeTile h))

theorem MemoryForm.takeReserve {die : Nat} {run : Option Nat} {n : Nat} (h : MemoryForm s) :
    OptForm (fun p => MemoryForm p.2) (s.takeReserve die run n) := by
  unfold State.takeReserve
  split
  · trivial
  split
  · trivial
  split
  · exact h.updRun
  · trivial

theorem MemoryForm.drawsRequest {e : EngOp} {d : Drawing} {x : Desc} (h : MemoryForm s) : MemoryForm (s.drawsRequest e d x) := by
  unfold State.drawsRequest
  dsimp only
  split
  · rename_i r s1 e1
    have h1 : MemoryForm s1 := by
      split at e1
      · cases e1
      · exact h.takeReserve.get e1
    split
    · exact h1.drawsMake
    · exact .updEngine (.enqueue h1.fresh)
  · split
    · refine MemoryForm.drawsMake ?_
      split
      · exact h
      · exact h.charge
    · exact .updEngine (.enqueue h.fresh)

theorem MemoryForm.drawsAlloc {e : EngOp} {d : Drawing} (h : MemoryForm s) : MemoryForm (s.drawsAlloc e d) := by
  unfold State.drawsAlloc
  split
  · split
    · exact h.takeRequest.drawsMake
    · exact h
  · split
    · exact h.engMiss
    · exact h.engHold
    · dsimp only
      split
      · exact h.engHold
      · exact h.drawsRequest

theorem MemoryForm.drawsHead {e : EngOp} {d : Drawing} {uid handle : Nat} {rest : List (Nat × Nat)} (h : MemoryForm s) :
    MemoryForm (s.drawsHead e d uid handle rest) := by
  have h1 : MemoryForm (if d.filled then (s, true) else s.fillStep e uid d.view (coordsOf d.coords d.dim (d.next - d.tiles.length))).1 := by
    split
    · exact h
    · exact h.fillStep
  unfold State.drawsHead
  dsimp only
  generalize (if d.filled then (s, true) else s.fillStep e uid d.view (coordsOf d.coords d.dim (d.next - d.tiles.length))) = p at h1 ⊢
  split
  · exact h1
  split
  · exact h1.updEngine.setDrawing
  · rename_i e1
    exact (h1.updEngine.drawsDeliver.get e1).setDrawing
  · exact h1.updEngine.setDrawing

theorem execDrawsTileComplete_form {serial : Nat} (h : MemoryForm s) : OutForm (execDrawsTileComplete serial s) := by
  unfold execDrawsTileComplete
  split
  · exact h
  split
  · refine OutForm.ite h ?_
    extract_lets room more
    have drawn := h.drawNat
    dsimp only
    split
    · split
      · exact MemoryForm.ite drawn.drawsAlloc drawn
      split
      · exact drawn
      · rename_i e
        exact (drawn.drawsDeliver.get e).engEnd
      · exact drawn.engEnd
    · split
      · exact drawn.drawsAlloc
      · exact drawn.drawsHead
  · exact h

theorem execSend_form {g : Guard} {a b c : Reg} {slot : Fin 8} {valid : Bool} {sc : SScope} (h : MemoryForm s) :
    OutForm (execSend g a b c slot valid sc s) := by
  unfold execSend
  refine seqExec_form h ?_
  refine withView_form h fun h1 => ?_
  refine await_form h1 ?_
  dsimp only
  exact h1.startEngine.raiseCnt.raiseCnt

theorem MemoryForm.sendFails {e : EngOp} {code handle : Nat} (h : MemoryForm s) : MemoryForm (s.sendFails e code handle) :=
  h.engLower.engLower.engReport.engEnd

theorem execSendReadDone_form {serial : Nat} (h : MemoryForm s) : OutForm (execSendReadDone serial s) := by
  unfold execSendReadDone
  split
  · exact h
  split
  · split
    · exact h
    split
    · dsimp only
      split
      · exact h.readEntry.sendFails
      split
      · exact h.readEntry
      split
      · exact h.readEntry.sendFails
      · exact h.readEntry.beginTaskRead.updEngine
    · split
      · exact h.sendFails
      dsimp only
      split
      · exact h.touchTile.touchTile.endRead.sendFails
      split
      · exact h.touchTile.touchTile.tileFails.endRead.sendFails
      split
      · exact h.touchTile.touchTile.engMiss
      · exact h.touchTile.touchTile.engHold
      · exact h.touchTile.touchTile.engHold
      · split
        · exact h.touchTile.touchTile.endRead.engLower.engLower.engEnd
        · exact h.touchTile.touchTile.endRead.engLower.updEngine
  · exact h

theorem MemoryForm.reportBlocks {e : EngOp} {bad : List (Nat × Nat × Nat × Nat)} (h : MemoryForm s) : MemoryForm (s.reportBlocks e bad) :=
  h.foldl fun h1 => h1.logBlock.engReport

theorem execSendWritesVisible_form {serial : Nat} (h : MemoryForm s) : OutForm (execSendWritesVisible serial s) := by
  unfold execSendWritesVisible
  split
  · exact h
  split
  · split
    · exact h
    split
    · exact h.engMiss
    · exact h.engHold
    · exact h.engHold
    · split
      · exact h.engAsk
      · exact h.engLower.reportBlocks.engEnd
  · exact h

theorem execCopym_form {g : Guard} {a b c : Reg} {sc : SScope} (h : MemoryForm s) : OutForm (execCopym g a b c sc s) := by
  unfold execCopym
  refine seqExec_form h ?_
  split
  · exact h
  refine await_form h ?_
  dsimp only
  exact h.startEngine.raiseCnt

theorem execCopymComplete_form {serial : Nat} (h : MemoryForm s) : OutForm (execCopymComplete serial s) := by
  unfold execCopymComplete
  split
  · exact h
  split
  · split
    · exact h
    split
    · exact h.engMiss
    · exact h.engHold
    · exact h.engHold
    · dsimp only
      split
      · exact h.engAsk
      · exact h.engLower.reportBlocks.engEnd
  · exact h

theorem txferFinish_form {d : Reg} {x : TxWord} {rows k : Nat} {format : BitVec 6} {src hn : Nat} {slot : Option Nat} (h : MemoryForm s) :
    ResForm (execTxfer.finish d x rows k format src hn slot s) := by
  unfold execTxfer.finish
  refine allocThen_form h fun h1 => ?_
  exact MemoryForm.setR (.raiseCnt (.startEngine (.makeTile h1)))

theorem execTxfer_form {g : Guard} {d a : Reg} {x : TxWord} (h : MemoryForm s) : OutForm (execTxfer g d a x s) := by
  unfold execTxfer
  refine seqExec_form h ?_
  dsimp only
  split
  · exact h
  split
  · exact txferFinish_form h
  split
  all_goals
    rename_i e
    have missed := h.missesAny.ofSnd e
  · exact missed
  · split
    · exact missed.readEntry
    · exact await_form missed.readEntry (txferFinish_form missed.readEntry)

theorem MemoryForm.txferFails {e : EngOp} {tile : Nat} {code : Option Nat} {va : Nat} (h : MemoryForm s) :
    MemoryForm (s.txferFails e tile code va) := (Steady.refl .univ s).txferFails.form h

theorem MemoryForm.copyPiece {src dst : Tile} {p : Nat × Nat × Nat} (h : MemoryForm s) : MemoryForm (s.copyPiece src dst p) := h.touchTile.setTileArea

theorem MemoryForm.txferSpoils {e : EngOp} {rd : ReadInProg} {tile : Nat} {code : Option Nat} {va : Nat} (h : MemoryForm s) :
    MemoryForm (s.txferSpoils e rd tile code va) := h.endRead.txferFails

theorem MemoryForm.txferTurn {e : EngOp} {rd : ReadInProg} {t u : Tile} {va : Nat} (h : MemoryForm s) : MemoryForm (s.txferTurn e rd t u va) := by
  unfold State.txferTurn
  split
  · exact h.present
  dsimp only
  split
  · exact h.drawNat
  split
  · rename_i e1
    exact (h.drawNat.missesAny.ofSnd e1).txferSpoils
  · rename_i e1
    have h1 := h.drawNat.missesAny.ofSnd e1
    split
    · exact h1.tileFails.txferSpoils
    split
    · exact h1.tileFails.endRead.engEnd
    · exact h1.copyPiece.served.updEngine

theorem execTxferComplete_form {serial : Nat} (h : MemoryForm s) : OutForm (execTxferComplete serial s) := by
  unfold execTxferComplete
  split
  · exact h
  split
  · extract_lets s1
    have read : MemoryForm s1 := h.readUid.readUid
    split
    · exact h
    split
    · split
      · exact read.txferFails
      split
      all_goals
        rename_i e
        have met := read.misses.ofSnd e
      · exact met.txferFails
      · split
        · exact met
        split
        · exact met.txferFails
        · exact met.beginTaskRead.updEngine
    · split
      · split
        · exact read.txferSpoils
        split
        · exact read.endRead.engEnd
        split
        · exact read
        split
        · exact read.txferTurn
        · exact read.updTile.endRead.sealTile.engEnd
      · exact read.txferFails
  · exact h

theorem MemoryForm.abandon {e : EngOp} (h : MemoryForm s) : MemoryForm (s.abandon e) := (Steady.refl .univ s).abandon.form h
theorem MemoryForm.replay {e : EngOp} (h : MemoryForm s) : MemoryForm (s.replay e) := h.updEngine

theorem execHeldRequestFirmwareRelease_form {serial : Nat} {resume : Bool} (h : MemoryForm s) :
    OutForm (execHeldRequestFirmwareRelease serial resume s) := by
  unfold execHeldRequestFirmwareRelease
  split
  · exact h
  split
  · exact h
  split
  · exact h.replay
  · exact h.abandon

end Sys2Proof.Machine
end

section
/-! PROOF. The form kept by the functions of Machine/RunOps: a run. -/
namespace Sys2Proof.Machine

variable {s : State} {w : Work}

theorem MemoryForm.elapse {clk ticks : Nat} (h : MemoryForm s) : MemoryForm (s.elapse clk ticks) := h

end Sys2Proof.Machine
end

section
/-! PROOF. The form kept by the functions of Machine/Launch: a launch. -/
namespace Sys2Proof.Machine

variable {s : State} {w : Work}

theorem MemoryForm.launch {ident : Word} {part : Nat} {launcher : Launcher} {owner : Owner} {rec : RunRec} {slots : BitVec 8} {asid : Nat} {deps : List Nat} (h : MemoryForm s) :
    MemoryForm (s.launch ident part launcher owner rec slots asid deps).2 := by
  unfold State.launch
  refine MemoryForm.foldl h fun h1 => ?_
  split
  · exact h1.bind
  · exact h1

theorem MemoryForm.unconfigure {n : Nat} (h : MemoryForm s) : MemoryForm (s.unconfigure n) := by
  unfold State.unconfigure
  split
  · exact h
  · exact h.foldl fun h1 => h1.endRead

theorem MemoryForm.stopNow {n cause : Nat} (h : MemoryForm s) : MemoryForm (s.stopNow n cause) := by
  unfold State.stopNow
  split
  · exact h
  split
  · exact h
  · exact h.unconfigure.updRun

end Sys2Proof.Machine
end

section
/-! PROOF. The form kept by the functions of Machine/Operands: an op at work. -/
namespace Sys2Proof.Machine

variable {s : State} {w : Work}

theorem MemoryForm.readToken {vs : Nat} {t : Token} (h : MemoryForm s) : MemoryForm (s.readToken vs t).2 := by
  unfold State.readToken
  split <;> exact h

theorem MemoryForm.updStripe {n slot : Nat} {f : Stripe → Stripe} (h : MemoryForm s) : MemoryForm (s.updStripe n slot f) := h.updRun

theorem MemoryForm.workAt {p : OpPlace} (h : MemoryForm s) : OptForm WorkForm (s.workAt p) := by
  cases e : s.workAt p with
  | none => trivial
  | some w =>
    obtain ⟨h0, h1, -⟩ := workAt_s0 e
    exact ⟨h0 ▸ h, h1 ▸ h⟩

theorem WorkForm.err {code : Nat} (h : WorkForm w) : WorkForm (w.err code).2 := by
  unfold Work.err
  split
  · exact ⟨h.old, h.now⟩
  · exact h

theorem WorkForm.after {deps : List Nat} (h : WorkForm w) : WorkForm (w.after deps) := h

theorem WorkForm.pop {src : Src} {r : Reader} (h : WorkForm w) : WorkForm (w.pop src r) := by
  unfold Work.pop
  extract_lets v
  have after : WorkForm v := h.after
  split
  · exact after
  · split
    · split
      · exact after
      · exact after
    · exact after
  · exact after

theorem WorkForm.take {n : PortName} {p : Port} (h : WorkForm w) : WorkForm (w.take n p) := by
  unfold Work.take
  split
  · exact h
  · exact h
  · exact h.pop
  · split
    · dsimp only
      split
      · exact h.after
      · exact h
    · split
      · exact h
      · dsimp only
        split <;> exact h.pop

theorem WorkForm.dropErr {p : PortName × Port} (h : WorkForm w) : WorkForm (w.dropErr p) := by
  unfold Work.dropErr
  split
  · exact h
  · exact h.pop

theorem WorkForm.release (h : WorkForm w) : WorkForm w.release := h

theorem WorkForm.ppop {src : PSrc} {r : Reader} (h : WorkForm w) : WorkForm (w.ppop src r) := by
  unfold Work.ppop
  dsimp only
  split
  · exact h.after
  · exact ⟨h.old, h.now⟩

theorem WorkForm.takePred {src : PSrc} (h : WorkForm w) : WorkForm (w.takePred src) := by
  unfold Work.takePred
  split
  · exact h
  · exact h.ppop

theorem MemoryForm.seamGrow {n vs : Nat} {ch : SeamCh} (h : MemoryForm s) : MemoryForm (s.seamGrow n vs ch) := by
  unfold State.seamGrow
  split
  · exact h
  dsimp only
  split
  · exact h
  split
  · split
    · exact h.takeRequest.updRun
    · exact h
  · split
    · exact h.updRun
    split
    · exact h.charge.updRun
    · exact h

theorem MemoryForm.seamAsk {n vs : Nat} {ch : SeamCh} (h : MemoryForm s) : MemoryForm (s.seamAsk n vs ch) := by
  unfold State.seamAsk
  split
  · exact h
  · split <;> exact h

theorem MemoryForm.seamPut {n vs : Nat} {ch : SeamCh} {f : Seam → Seam} (h : MemoryForm s) : MemoryForm (s.seamPut n vs ch f) := h.updRun

theorem WorkForm.absorb {t : Token} (h : WorkForm w) : WorkForm (w.absorb t) := by
  unfold Work.absorb
  split
  · exact ⟨h.old, h.now.runRecord⟩
  split
  · exact ⟨h.old, h.now.logEvent⟩
  · exact h

theorem WorkForm.put {d : Dst} {t : Token} (h : WorkForm w) : WorkForm (w.put d t) := by
  unfold Work.put
  dsimp only
  split
  · exact h
  · exact ⟨h.old, h.now.updStripe⟩
  · exact ⟨h.old, h.now.updStripe⟩
  · split
    · exact h.absorb
    · exact ⟨h.absorb.old, h.absorb.now.pushQ⟩
  · split
    · split
      · split
        · exact h
        · exact ⟨h.old, h.now.updRun⟩
      · exact h
    · split
      · exact ⟨h.old, h.now.updStripe⟩
      · exact ⟨h.old, h.now.seamGrow.seamPut⟩
      · exact h

theorem WorkForm.pput {d : PDst} {b : Bool} (h : WorkForm w) : WorkForm (w.pput d b) := by
  unfold Work.pput
  split
  · exact h
  · exact ⟨h.old, h.now.updStripe⟩
  · exact ⟨h.old, h.now.updStripe⟩
  · exact ⟨h.old, h.now.pushQ⟩
  · split
    · exact ⟨h.old, h.now.updStripe⟩
    · exact ⟨h.old, h.now.seamPut⟩
    · exact h

theorem WorkForm.siltEmit {node : BitVec 5} (h : WorkForm w) : WorkForm (w.siltEmit node) := ⟨h.old, h.now⟩

theorem WorkForm.count {on : Bool} {e : Ev} (h : WorkForm w) : WorkForm (w.count on e) := by
  unfold Work.count
  split <;> exact h

theorem WorkForm.countMis {on : Bool} (h : WorkForm w) : WorkForm (w.countMis on) := by
  unfold Work.countMis
  split <;> exact h

theorem WorkForm.countOob {on : Bool} {n : Nat} (h : WorkForm w) : WorkForm (w.countOob on n) := by
  unfold Work.countOob
  split <;> exact h

theorem WorkForm.emit {i : Nat} {t : Token} (h : WorkForm w) : WorkForm (w.emit i t) := h
theorem WorkForm.emit2 {t : Token} (h : WorkForm w) : WorkForm (w.emit2 t) := h.emit.emit
theorem WorkForm.bit {d : PDst} {b : Bool} (h : WorkForm w) : WorkForm (w.bit d b) := h

theorem WorkForm.outPut {fs : List OutF} {x : Nat × Token} (h : WorkForm w) : WorkForm (Work.outPut fs w x) := by
  unfold Work.outPut
  split
  · exact h
  · exact h.put

theorem WorkForm.store (h : WorkForm w) : MemoryForm w.store := h.now

theorem MemoryForm.asks {fs : List OutF} {l : List (Nat × Token)} (h : MemoryForm s) : MemoryForm (w.asks fs l s) :=
  List.foldlRecOn (motive := fun p : State × State => MemoryForm p.2) _ _ h fun p hp ch _ => by
    split
    · exact hp
    · exact hp.seamAsk

theorem WorkForm.written {fs : List OutF} {node : BitVec 5} (h : WorkForm w) : WorkForm (Work.written fs node w) := by
  unfold Work.written
  dsimp only
  refine WorkForm.foldl ?_ fun h1 => ?_
  · refine WorkForm.foldl ?_ fun h1 => ?_
    · split
      · exact h.siltEmit
      · exact h
    · exact h1.outPut
  · exact h1.pput

theorem WorkForm.commit {fs : List OutF} {node : BitVec 5} (h : WorkForm w) : OutForm (Work.commit fs node w) := by
  unfold Work.commit
  split
  · exact h.written.store
  · exact h.old.asks

theorem WorkForm.flush {fs : List OutF} (h : WorkForm w) : OutForm (w.flush fs) := by
  unfold Work.flush
  dsimp only
  split
  · exact .asks (WorkForm.store (WorkForm.foldl h fun h1 => h1.outPut))
  · exact h.old.asks

theorem WorkForm.readRegister (h : WorkForm w) : WorkForm w.readRegister := by
  unfold Work.readRegister
  split <;> exact h

theorem WorkForm.throughRegister {fs : List OutF} {fire : Work → Option Work} (h : WorkForm w) (hf : FireForm fire) :
    OptForm WorkForm (w.throughRegister fs fire) := by
  unfold Work.throughRegister
  split
  · refine OptForm.map (hf h) fun _ => ?_
    exact .foldl (WorkForm.err h) fun h1 => h1
  · exact hf h

theorem WorkForm.turn {fs : List OutF} {node : BitVec 5} {fire : Work → Option Work} (h : WorkForm w) (hf : FireForm fire) :
    OutForm (w.turn fs node fire) := by
  unfold Work.turn
  split
  · exact h.flush
  split
  · exact h.old
  split
  · exact h.old
  · rename_i e
    exact ((hf h).get e).commit

theorem BehaveForm.plain {data : Work → Token → Token → Token → Work} (hd : ∀ {w : Work} {a b c : Token}, WorkForm w → WorkForm (data w a b c)) :
    BehaveForm (.plain data) :=
  ⟨hd, fun h => h, fun h => h, fun h => h⟩

theorem WorkForm.popAll {ps : List (PortName × Port)} (h : WorkForm w) : WorkForm (w.popAll ps) := h.foldl fun h1 => h1.pop
theorem WorkForm.passStop {level : BitVec 3} {r : Ride} (h : WorkForm w) : WorkForm (w.passStop level r) := h

theorem WorkForm.passMarker {t : Token} (h : WorkForm w) : WorkForm (w.passMarker t) := by
  unfold Work.passMarker
  split <;> exact h

theorem WorkForm.endSeq {f : CCFrame} {b : Behave} (h : WorkForm w) (hb : BehaveForm b) : OptForm WorkForm (w.endSeq f b) := by
  unfold Work.endSeq
  dsimp only
  split
  · exact hb.fin (WorkForm.release h.popAll)
  · trivial

theorem WorkForm.stopOut {f : CCFrame} {b : Behave} {level : BitVec 3} {r : Ride} (h : WorkForm w) (hb : BehaveForm b) :
    OptForm WorkForm (w.stopOut f b level r) := by
  unfold Work.stopOut
  refine OptForm.map (P := WorkForm) ?_ fun h1 => h1.emit2
  split
  · exact h.passStop.endSeq hb
  · exact h.passStop

theorem WorkForm.discard {lev : BitVec 3} {src : Src} {r : Reader} {fuel : Nat} {x : Work × Ride} (h : WorkForm x.1) :
    WorkForm (Work.discard lev src r fuel x).1.1 := by
  induction fuel generalizing x with
  | zero => exact h
  | succ fuel ih =>
    obtain ⟨w, sl⟩ := x
    unfold Work.discard
    split
    · exact h
    split
    · exact h
    · exact ih (WorkForm.pop h)

theorem WorkForm.discardAll {ps : List (Src × Reader)} {lev : BitVec 3} {x : (Work × Ride) × Bool} (h : WorkForm x.1.1) :
    WorkForm (ps.foldl (fun (a : (Work × Ride) × Bool) p =>
      let (b, ok) := Work.discard lev p.1 p.2 ((a.1.1.queue p.1 p.2).length + 1) a.1
      (b, a.2 && ok)) x).1.1 :=
  List.foldlRecOn (motive := fun a : (Work × Ride) × Bool => WorkForm a.1.1) _ _ h fun _ ha _ _ => WorkForm.discard ha

theorem WorkForm.resolve {ps : List (Src × Reader)} {fuel : Nat} {lev : BitVec 3} {x : Work × Ride} (h : WorkForm x.1) :
    WorkForm (Work.resolve ps fuel lev x).1.1 := by
  induction fuel generalizing lev x with
  | zero => exact h
  | succ fuel ih =>
    have hy := WorkForm.discardAll (ps := ps) (lev := lev) (x := (x, true)) h
    unfold Work.resolve
    dsimp only
    split
    · exact hy
    split
    · exact hy
    refine ih (List.foldlRecOn (motive := fun a : Work × Ride => WorkForm a.1) _ _ hy fun a ha p _ => ?_)
    split
    · split
      · exact ha.pop
      · exact ha
    · exact ha

theorem WorkForm.resolveStep {ps : List (Src × Reader)} {lev : BitVec 3} {sl : Ride} {stop : BitVec 3 → Ride → Work → Option Work}
    (h : WorkForm w) (hs : ∀ {l : BitVec 3} {r : Ride} {v : Work}, WorkForm v → OptForm WorkForm (stop l r v)) :
    OptForm WorkForm (w.resolveStep ps lev sl stop) := by
  have h1 := WorkForm.resolve (ps := ps) (fuel := 8) (lev := lev) (x := (w, sl)) h
  unfold Work.resolveStep
  dsimp only
  split
  · exact hs (WorkForm.foldl h1 fun h2 => h2.pop)
  · exact h1

theorem ccFire_form {f : CCFrame} {b : Behave} (h : WorkForm w) (hb : BehaveForm b) : OptForm WorkForm (ccFire f b w) := by
  unfold ccFire
  dsimp only
  split
  · split
    · rename_i e
      exact (h.resolveStep fun h1 => h1.stopOut hb).get e
    · split
      · exact h.popAll.passMarker.emit2
      · trivial
  · split
    · exact h.popAll.passMarker.emit2
    split
    · trivial
    split
    · split
      · exact h.popAll.stopOut hb
      · exact WorkForm.countMis (.emit2 h.err)
    · split
      · trivial
      · split
        · trivial
        · exact hb.err (.takePred (.foldl h.popAll fun h1 => h1.dropErr))
      · split
        · split
          · have h1 : WorkForm ((f.ports.foldl (fun x p => x.take p.1 p.2) w).takePred f.pin) := .takePred (.foldl h fun h1 => h1.take)
            split
            · exact hb.data h1
            · exact hb.off h1
          · trivial
        · trivial

theorem ccTurn_form {f : CCFrame} {fire : Work → Option Work} (h : MemoryForm s) (hf : FireForm fire) : OutForm (ccTurn f fire s) := by
  unfold ccTurn
  split
  · exact h
  · rename_i e
    exact (h.workAt.get e).turn fun h1 => h1.throughRegister hf

theorem ccTotal_form {f : CCFrame} {fire : Work → Option Work} (h : MemoryForm s) (hf : FireForm fire) : OutForm (ccTotal f fire s) := by
  unfold ccTotal
  split
  · exact h
  · rename_i e
    exact (h.workAt.get e).turn fun h1 => hf h1.readRegister

theorem ccExec_form {f : CCFrame} {b : Behave} (h : MemoryForm s) (hb : BehaveForm b) : OutForm (ccExec f b s) :=
  ccTotal_form h fun h1 => ccFire_form h1 hb

end Sys2Proof.Machine
end

section
/-! PROOF. The form kept by the functions of Machine/CellArith: the turn of a compute cell. -/
namespace Sys2Proof.Machine

variable {s : State} {w : Work}

theorem elementwise_form {f : CCFrame} {g : Nat → Nat → Nat → Nat × Ev} : BehaveForm (elementwise f g) := BehaveForm.plain fun h => .emit2 (.count h)
theorem intFin_form {f : CCFrame} {g : Int → Int → Int → Int} : BehaveForm (intFin f g) := elementwise_form
theorem onPattern_form {f : CCFrame} {g : Nat → Nat → Nat} : BehaveForm (onPattern f g) := elementwise_form
theorem cmpMask_form {f : CCFrame} {flt : Bool} : BehaveForm (cmpMask f flt) := elementwise_form
theorem cmpPred_form {f : CCFrame} {flt : Bool} : BehaveForm (cmpPred f flt) := ⟨fun h => h.count, fun h => h, fun h => h, fun h => h⟩
theorem floatOp_form {f : CCFrame} {g : FV → FV → FV → Nat × Ev} : BehaveForm (floatOp f g) := elementwise_form
theorem convert_form {f : CCFrame} {u : Ty} {g : Token → Nat → Nat × Ev} : BehaveForm (convert f u g) := BehaveForm.plain fun h => .emit2 (.count h)

theorem packFire_form {f : CCFrame} (h : WorkForm w) : OptForm WorkForm (packFire f w) := by
  unfold packFire
  split
  · trivial
  dsimp only
  split
  · split <;> exact h.pop
  split
  · exact h
  · exact ccFire_form h (BehaveForm.plain fun h1 => .emit2 h1)

theorem unpkFire_form {f : CCFrame} (h : WorkForm w) : OptForm WorkForm (unpkFire f w) := by
  unfold unpkFire
  split
  · trivial
  split
  · dsimp only
    split
    · exact h.pop
    · exact h
  · exact ccFire_form h (BehaveForm.plain fun h1 => .emit2 h1)

theorem moveLanes_form {f : CCFrame} {src : Token → Nat → Nat} : BehaveForm (moveLanes f src) := BehaveForm.plain fun h => .emit2 h

theorem scanBehave_form {f : CCFrame} : BehaveForm (scanBehave f) := by
  unfold scanBehave
  dsimp only
  refine ⟨fun h => ?_, fun h => h.emit2, fun h => h.emit2, fun h => h⟩
  refine WorkForm.emit2 ?_
  refine WorkForm.count ?_
  split <;> exact h

end Sys2Proof.Machine
end

section
/-! PROOF. The form kept by the functions of Machine/CellStream: stream ops and nodes. -/
namespace Sys2Proof.Machine

variable {s : State} {w : Work}

theorem passOn_form : BehaveForm passOn := BehaveForm.plain fun h => .emit2 h

theorem steerFire_form {f : CCFrame} (h : WorkForm w) : OptForm WorkForm (steerFire f w) := by
  unfold steerFire
  split
  · trivial
  split
  · split
    · exact h.take.takePred.emit
    · trivial
  · exact ccFire_form h passOn_form

theorem execFilt_form {f : CCFrame} (h : MemoryForm s) : OutForm (execFilt f s) := by
  unfold execFilt
  refine ccExec_form h ?_
  refine BehaveForm.plain fun h1 => ?_
  dsimp only
  split
  · exact h1
  · exact h1.emit2

theorem takeFrom_form {f : CCFrame} {n : PortName} {p : Port} {t : Token} (h : WorkForm w) : OptForm WorkForm (takeFrom f n p t w) := by
  unfold takeFrom
  dsimp only
  split
  · exact h.pop.stopOut passOn_form
  · exact h.pop.emit2

theorem bothParked_form {f : CCFrame} {x y : Token} (h : WorkForm w) : OptForm WorkForm (bothParked f x y w) := by
  unfold bothParked
  split
  · exact h.pop.pop.stopOut passOn_form
  · split <;> exact takeFrom_form h

theorem mergeFire_form {f : CCFrame} {passStops : Bool} {choose : Work → Bool → Bool → Option Token → Option Token → Option Work}
    (hk : ∀ {v : Work} {ta tb : Bool} {ha hb : Option Token}, WorkForm v → OptForm WorkForm (choose v ta tb ha hb)) (h : WorkForm w) :
    OptForm WorkForm (mergeFire f passStops choose w) := by
  unfold mergeFire
  dsimp only
  split
  · split
    · exact h.pop.passMarker.emit2
    split
    · split
      · exact h.pop.passMarker.emit2
      split
      · trivial
      · exact hk h
    · split
      · split
        · exact bothParked_form h
        split
        · trivial
        · exact hk h
      · split
        · exact hk h
        split
        · trivial
        · exact hk h
  · split
    · exact h.pop.passMarker.emit2
    split
    · trivial
    · exact hk h
  · trivial

theorem mergeChoose_form {f : CCFrame} {ta tb : Bool} {ha hb : Option Token} (h : WorkForm w) :
    OptForm WorkForm (mergeChoose f w ta tb ha hb) := by
  unfold mergeChoose
  extract_lets take
  have taken {a : Bool} {v : Work} (h1 : WorkForm v) : OptForm WorkForm (take a v) := by
    show OptForm WorkForm (match (if a then ha else hb) with | some t => _ | none => none)
    split
    · exact iteInduction (motive := OptForm WorkForm) (fun _ => takeFrom_form h1) fun _ => takeFrom_form h1
    · trivial
  split
  · exact taken h
  split
  · trivial
  · refine iteInduction (motive := OptForm WorkForm) (fun _ => taken h.takePred) fun _ => iteInduction (fun _ => ?_) fun _ => trivial
    exact h.takePred.err.emit2.countMis

theorem cmergeChoose_form {f : CCFrame} {ta tb : Bool} {ha hb : Option Token} (h : WorkForm w) :
    OptForm WorkForm (cmergeChoose f w ta tb ha hb) := by
  unfold cmergeChoose
  dsimp only
  split
  · trivial
  · split <;> exact takeFrom_form h

theorem emitTotal_form {f : CCFrame} {t : Token} (h : WorkForm w) : WorkForm (emitTotal f w t) := by
  unfold emitTotal
  split
  · exact h.emit
  · exact h.emit2

theorem accBehave_form {f : CCFrame} : BehaveForm (accBehave f) := by
  unfold accBehave
  refine ⟨fun h => ?_, fun h => h.emit2, fun h => ?_, fun h => emitTotal_form h⟩
  · dsimp only
    split
    · exact WorkForm.emit (.count h)
    · exact WorkForm.count h
  · dsimp only
    split <;> exact h

theorem raiseCount_form {f : CCFrame} {n : Nat} (h : WorkForm w) : WorkForm (raiseCount f w n) := by
  unfold raiseCount
  dsimp only
  split
  · exact WorkForm.count h
  · exact h

theorem countBehave_form {f : CCFrame} : BehaveForm (countBehave f) := by
  unfold countBehave
  dsimp only
  refine ⟨fun h => ?_, fun h => h.emit2, fun h => ?_, fun h => emitTotal_form h⟩
  · dsimp only
    split
    · exact (raiseCount_form h).emit
    · exact raiseCount_form h
  · dsimp only
    split <;> exact raiseCount_form h

theorem WorkForm.takeAll {f : CCFrame} (h : WorkForm w) : WorkForm (Work.takeAll f w) := h.foldl fun h1 => h1.take

theorem genFire_form {f : CCFrame} (h : WorkForm w) : OptForm WorkForm (genFire f w) := by
  unfold genFire
  split
  · dsimp only
    split
    · exact WorkForm.emit2 (.count h)
    · exact h.takeAll
  · exact ccFire_form h ⟨fun h1 => h1.emit2, fun h1 => h1.emit2, fun h1 => h1.emit2.emit2, fun h1 => h1⟩

theorem WorkForm.emitIf {c : Bool} {t : Token} (h : WorkForm w) : WorkForm (if c then w.emit2 t else w) := by
  split <;> exact h

theorem replFire_form {f : CCFrame} (h : WorkForm w) : OptForm WorkForm (replFire f w) := by
  have h1 : WorkForm (w.takeAll f) := h.takeAll
  unfold replFire
  dsimp only
  split
  · refine iteInduction (motive := OptForm WorkForm) (fun _ => h1.emitIf) fun _ => iteInduction (fun _ => h) fun _ => ?_
    refine WorkForm.emitIf ?_
    exact h1
  · exact ccFire_form h ⟨fun h2 => h2.emit2, fun h2 => h2.emit2, fun h2 => h2.emit2.emitIf, fun h2 => h2⟩

theorem levupFire_form {f : CCFrame} (h : WorkForm w) : OptForm WorkForm (levupFire f w) := by
  unfold levupFire
  split
  · trivial
  split
  · exact h.pop
  · exact ccFire_form h passOn_form

theorem levdnFire_form {f : CCFrame} (h : WorkForm w) : OptForm WorkForm (levdnFire f w) := by
  unfold levdnFire
  split
  · trivial
  split
  · exact h
  · exact ccFire_form h ⟨fun h1 => h1, fun h1 => h1, fun h1 => h1, fun h1 => h1⟩

theorem stopatBehave_form {f : CCFrame} : BehaveForm (stopatBehave f) := by
  unfold stopatBehave
  refine ⟨fun h => ?_, fun h => ?_, fun h => ?_, fun h => h⟩
  · dsimp only
    split
    · exact h
    · split <;> exact h
  · dsimp only
    split
    · exact h
    · exact h.emit2
  · dsimp only
    split
    · exact h
    · exact h.emit2

theorem sinkFire_form {f : CCFrame} (h : WorkForm w) : OptForm WorkForm (sinkFire f w) := by
  unfold sinkFire
  split
  · trivial
  dsimp only
  split
  · exact h.pop
  · exact h.pop.passMarker.absorb

theorem pnPop_form {i : Nat} {src : PSrc} (h : WorkForm w) : WorkForm (pnPop w i src) := by
  unfold pnPop
  split
  · exact h
  · exact h.ppop

theorem pnWrite_form {f : PNFrame} {b : Bool} (h : WorkForm w) : WorkForm (pnWrite f b w) := h.bit.bit.bit.bit

theorem pnTurn_form {fire : Work → Option Work} (h : MemoryForm s) (hf : FireForm fire) : OutForm (pnTurn fire s) := by
  unfold pnTurn
  split
  · exact h
  · rename_i e
    exact (h.workAt.get e).turn fun h1 => h1.throughRegister hf

theorem execPlogic_form {f : PNFrame} (h : MemoryForm s) : OutForm (execPlogic f s) := by
  unfold execPlogic
  refine pnTurn_form h fun h1 => ?_
  split
  · exact pnWrite_form (pnPop_form (pnPop_form (pnPop_form h1)))
  · trivial

theorem execPdup_form {f : PNFrame} (h : MemoryForm s) : OutForm (execPdup f s) := by
  unfold execPdup
  refine pnTurn_form h fun h1 => ?_
  split
  · trivial
  dsimp only
  split
  · exact pnWrite_form (pnPop_form h1)
  · exact h1

theorem execPgen_form {f : PNFrame} (h : MemoryForm s) : OutForm (execPgen f s) := by
  unfold execPgen
  refine pnTurn_form h fun h1 => ?_
  split
  · trivial
  · exact pnWrite_form (pnPop_form h1)

theorem WorkForm.updNode {f : SNFrame} {g : SnNode → SnNode} (h : WorkForm w) : MemoryForm (w.updNode f g) := h.now

theorem snFlush_form {f : SNFrame} {t : Word} (h : WorkForm w) : OutForm (snFlush f t w) := by
  unfold snFlush
  dsimp only
  split
  · exact h.updNode
  · split
    · exact WorkForm.updNode ⟨h.old, h.now.updStripe⟩
    · exact h.old
  · split
    · split
      · exact WorkForm.updNode ⟨h.old, h.now.updStripe⟩
      · exact h.old
    · split
      · exact WorkForm.updNode ⟨h.old, h.now.seamGrow.seamPut⟩
      · exact h.old.seamAsk
    · exact h.old
  · split
    · exact WorkForm.updNode ⟨h.old, h.now.pushQ⟩
    · exact h.old

theorem snTurn_form {f : SNFrame} {whenDone : SnNode → SnNode} {flush : Word → Work → Out} (h : MemoryForm s)
    (hf : ∀ {t : Word} {v : Work}, WorkForm v → OutForm (flush t v)) : OutForm (snTurn f whenDone flush s) := by
  unfold snTurn
  split
  · exact h
  rename_i e
  have hw := h.workAt.get e
  dsimp only
  split
  · exact hf hw
  · exact hw.updNode

theorem snWrite_form {f : SNFrame} {q : Word} (h : WorkForm w) : OutForm (snWrite f q w) := by
  unfold snWrite
  dsimp only
  split
  · exact h.old
  split
  · exact h.updNode.runRecord
  split
  · exact h.old.readEntry
  split
  · split
    · exact h.now.tileFails
    · exact WorkForm.updNode ⟨h.old, h.now.setTileData.updTile⟩
  · exact h.updNode.runRecord

theorem execSnsink_form {f : SNFrame} (h : MemoryForm s) : OutForm (execSnsink f s) := by
  unfold execSnsink
  refine snTurn_form h fun h1 => ?_
  split
  · exact snFlush_form h1
  · exact snWrite_form h1

end Sys2Proof.Machine
end

section
/-! PROOF. The form kept by the functions of Machine/SeqMem: a sequencer's memory accesses. -/
namespace Sys2Proof.Machine

variable {s : State} {w : Work}

theorem execRecv_form {g : Guard} {d e : Reg} (h : MemoryForm s) : OutForm (execRecv g d e s) := by
  unfold execRecv
  refine seqExec_form h ?_
  refine await_form h ?_
  split
  · exact h
  · exact h.setQueue.setR.setR

theorem sendNow_form {k : SendKind} {x : Word} {ep : BitVec 16} {run : Option Nat} (h : MemoryForm s) : ResForm (sendNow k x ep run s) := by
  unfold sendNow
  split
  · split
    · exact h
    split
    · rename_i e
      exact h.misses.ofSnd e
    · rename_i e
      have h1 := h.misses.ofSnd e
      split
      · rename_i e1
        exact h1.deliver.get e1
      · exact h1
  · exact h

theorem sendTo_form {k : SendKind} {w : Word} {ep : BitVec 16} (h : MemoryForm s) : ResForm (sendTo k w ep s) := by
  unfold sendTo
  split
  · exact sendNow_form h
  split
  · exact h
  · exact h
  · exact sendNow_form h

theorem execLd_form {g : Guard} {sz : LoadSize} {d a : Reg} {imm : BitVec 32} (h : MemoryForm s) : OutForm (execLd g sz d a imm s) := by
  unfold execLd
  refine seqExec_form h ?_
  dsimp only
  split
  · exact h
  · exact h.setR

theorem execSt_form {g : Guard} {sz : Size} {d a : Reg} {imm : BitVec 32} (h : MemoryForm s) : OutForm (execSt g sz d a imm s) := by
  obtain ⟨hi, hd⟩ := h.sequencer (taskRing s.cur)
  refine seqExec_form h ?_
  exact h.setSequencer hi (Memory.wf_writeWrap _ _ _ hd)

theorem issueAccess_form {op : GOp} {order : Order} {scope : SScope} {va : Word} {n : Nat} {need : Need} {info : Nat} {k : Cnt} (h : MemoryForm s) :
    ResForm (issueAccess op order scope va n need info k s) := by
  unfold issueAccess
  split
  · exact h.dropWalkFault
  · exact h.queueWalks
  · exact await_form h (.raiseCnt (.aimAll h))

theorem atomg_form {code : Nat} {g : Guard} {sz : ASize} {o : Order} {sc : SScope} {d a b c : Reg} (h : MemoryForm s) :
    OutForm (atomg code g sz o sc d a b c s) := seqExec_form h (issueAccess_form h)

theorem MemoryForm.dropAccess {a : GAccess} (h : MemoryForm s) : MemoryForm (s.dropAccess a) := MemoryForm.updTask h
theorem MemoryForm.failAccess {a : GAccess} {code : Nat} (h : MemoryForm s) : MemoryForm (s.failAccess a code) := h.dropAccess.lowerCnt.deferFault
theorem MemoryForm.endAccess {a : GAccess} (h : MemoryForm s) : MemoryForm (s.endAccess a) := (Steady.refl .univ s).endAccess.form h
theorem MemoryForm.partDone {a : GAccess} {serial : Nat} (h : MemoryForm s) : MemoryForm (s.partDone a serial) :=
  (Steady.refl .univ s).partDone.form h

theorem MemoryForm.performPart {a : GAccess} {pa n : Nat} {shared : Bool} {rest : List (Nat × Nat × Bool)} (h : MemoryForm s) :
    MemoryForm (s.performPart a pa n shared rest) := by
  unfold State.performPart
  dsimp only
  split
  · exact h.logBlock.failAccess
  refine MemoryForm.leaveBlock ?_
  split
  · exact h.cacheBlock.partDone
  · exact h.cacheBlock.store.partDone
  · split
    · exact h.cacheBlock.store.partDone
    · exact h.cacheBlock.partDone

theorem execGlobalAccessComplete_form {serial : Nat} (h : MemoryForm s) : OutForm (execGlobalAccessComplete serial s) := by
  unfold execGlobalAccessComplete
  split
  · exact h
  split
  · split
    · exact h
    · exact h.endAccess
  · split
    · exact h.endAccess
    split
    · exact h
    split
    · exact h.failAccess
    split
    · exact h.performPart
    · exact h.askOnce

theorem execRemoteWriteApply_form {die serial : Nat} (h : MemoryForm s) : OutForm (execRemoteWriteApply die serial s) := by
  unfold execRemoteWriteApply
  split
  · exact h
  split
  · exact h.applyRemote
  · exact h

end Sys2Proof.Machine
end

section
/-! PROOF. The form kept by the functions of Machine/MemCell: memory cells. -/
namespace Sys2Proof.Machine

variable {s : State} {w : Work}

theorem WorkForm.back (h : WorkForm w) : WorkForm w.back := ⟨h.old, h.old⟩
theorem WorkForm.stay (h : WorkForm w) : TryForm WorkForm w.stay := h.back
theorem WorkForm.hold {code access va : Nat} (h : WorkForm w) : TryForm WorkForm (w.hold code access va) := ⟨h.back.old, h.back.now.runRecord⟩

theorem TryForm.out {x : McR} (h : TryForm WorkForm x) : WorkForm x.out := by
  cases x <;> exact h

theorem WorkForm.gather {f : MCFrame} (h : WorkForm w) : WorkForm (Work.gather f w) := h
theorem WorkForm.queueItem {x : McItem} (h : WorkForm w) : WorkForm (w.queueItem x) := h
theorem WorkForm.asking {a : Asked} (h : WorkForm w) : WorkForm (Work.asking a w) := h
theorem WorkForm.respond {f : MCFrame} {t : Token} (h : WorkForm w) : WorkForm (Work.respond f w t) := h.queueItem
theorem WorkForm.ack {f : MCFrame} {t : Token} (h : WorkForm w) : WorkForm (Work.ack f w t) := h.queueItem
theorem WorkForm.takeMc {f : MCFrame} (h : WorkForm w) : WorkForm (Work.takeMc f w) := (h.foldl fun h1 => h1.take).takePred

theorem WorkForm.endMc {f : MCFrame} (h : WorkForm w) : TryForm WorkForm (Work.endMc f w) := by
  unfold Work.endMc
  dsimp only
  split
  · exact h.release
  split
  · exact h.release.siltEmit
  · exact h.stay

theorem WorkForm.queueStop {f : MCFrame} {deps : List Nat} {t : Token} (h : WorkForm w) : WorkForm (Work.queueStop f w deps t) := WorkForm.queueItem h

theorem WorkForm.ownStop {f : MCFrame} {level : BitVec 3} (h : WorkForm w) : TryForm WorkForm (Work.ownStop f w level) := by
  unfold Work.ownStop
  dsimp only
  refine iteInduction (motive := TryForm WorkForm) (fun _ => TryForm.map (P := WorkForm) ?_ fun h1 => WorkForm.queueStop h1) fun _ => WorkForm.queueStop h
  exact iteInduction (fun _ => iteInduction (fun _ => WorkForm.siltEmit h) fun _ => WorkForm.stay h) fun _ => h

theorem WorkForm.endPass {f : MCFrame} (h : WorkForm w) : WorkForm (Work.endPass f w) := by
  unfold Work.endPass
  dsimp only
  split
  · exact h.takeMc.release
  · exact h.takeMc

theorem WorkForm.writeAddr {g : AGFrame} (h : WorkForm w) : WorkForm (w.writeAddr g).2 := by
  unfold Work.writeAddr
  split
  · exact h
  · dsimp only
    split <;> exact h

theorem WorkForm.entry {handle : Nat} (h : WorkForm w) : TryForm (fun _ => True) (w.entry handle) := by
  unfold Work.entry
  split
  · split
    · exact ⟨h.back.old, h.old.readEntry⟩
    · trivial
  · trivial

theorem WorkForm.readTile {f : MCFrame} {handle : Nat} (h : WorkForm w) : TryForm (fun p => WorkForm p.1) (Work.readTile f w handle) := by
  unfold Work.readTile
  refine TryForm.bind h.entry fun _ => ?_
  split
  · exact h.hold.bind fun h1 => h1
  extract_lets w1 slot
  refine TryForm.ite h.back (.ite (show WorkForm w1 from h) (.ite h.back (.ite (h.hold.bind fun h1 => h1) ?_)))
  exact ⟨h.old, h.now.beginRead⟩

theorem WorkForm.writeTile {access handle x n : Nat} (h : WorkForm w) : TryForm (fun _ => True) (w.writeTile access handle x n) := by
  unfold Work.writeTile
  refine TryForm.bind h.entry fun _ => ?_
  split
  · exact h.hold.bind fun h1 => h1
  split
  · exact h.hold.bind fun h1 => h1
  split
  · exact ⟨h.back.old, h.old.tileFails⟩
  · trivial

theorem WorkForm.tileToken {t : Tile} {x : Nat} (h : WorkForm w) : WorkForm (w.tileToken t x).2 := by
  unfold Work.tileToken
  split
  · exact h.err
  dsimp only
  split
  · exact ⟨h.err.old, h.err.now.tileFails⟩
  · exact ⟨h.old, h.now.touchTile⟩

theorem MemoryForm.writeLanes {t : Tile} {x : Nat} {a : Token} (h : MemoryForm s) : MemoryForm (s.writeLanes t x a) :=
  h.foldl fun h1 => h1.setTileData

theorem WorkForm.close {f : MCFrame} (h : WorkForm w) : TryForm WorkForm (Work.close f w) := by
  unfold Work.close
  dsimp only
  split
  · exact h
  split
  · exact h
  refine TryForm.bind h.entry fun _ => ?_
  split
  · split
    · exact ⟨h.old, h.now.sealTile⟩
    · exact h.hold
  · exact h.hold

theorem WorkForm.absorbErrs {ts : List Token} (h : WorkForm w) : WorkForm (Work.absorbErrs ts w) := h.foldl fun h1 => h1.absorb

theorem mcStop_form {f : MCFrame} {b : McBehave} {level : BitVec 3} {r : Ride} (h : WorkForm w) (hb : McBehaveForm b) :
    TryForm WorkForm (mcStop f b level r w) := by
  unfold mcStop
  split
  · exact h.stay
  refine TryForm.bind (hb.stop h.passStop) fun h1 => ?_
  dsimp only
  split
  · refine TryForm.bind (P := WorkForm) (WorkForm.endMc ?_) fun h2 => h2.queueStop
    split
    · exact h1.popAll.absorbErrs
    · exact h1.popAll
  · exact h1.queueStop

theorem mcMark_form {b : McBehave} {x : Token × List (PortName × Port)} (hb : McBehaveForm b) (h : WorkForm w) : WorkForm (mcMark b x w) := by
  unfold mcMark
  dsimp only
  split
  · exact h.popAll.passMarker.absorb
  · exact (((hb.mark h).popAll).passMarker).queueItem

theorem mcBegin_form {f : MCFrame} {b : McBehave} (h : WorkForm w) (hb : McBehaveForm b) : OptForm WorkForm (mcBegin f b w) := by
  unfold mcBegin
  dsimp only
  split
  · split
    · rename_i e
      refine OptForm.get (P := WorkForm) (h.resolveStep fun h1 => ?_) e
      split
      · exact (mcStop_form h1 hb).out
      · trivial
    · rename_i lev sl _ _
      cases markerAt ((w.unfilled f).map fun p => (p, w.head p.1 p.2)) f.streams with
      | none => trivial
      | some x => exact mcMark_form hb h
  · split
    · exact mcMark_form hb h
    split
    · trivial
    split
    · split
      · exact (mcStop_form h.popAll hb).out
      · exact h.err.queueItem.countMis
    · split
      · trivial
      · have taken (ps : List (PortName × Port)) : WorkForm ((ps.foldl Work.dropErr (w.popAll f.streams)).takePred f.pin) :=
          (h.popAll.foldl fun h1 => h1.dropErr).takePred
        exact WorkForm.ite ((taken _).absorbErrs) (hb.err (taken _))
      · split
        · exact WorkForm.ite ((hb.data h).out) (hb.off h)
        · trivial

theorem errBoth_form {e : Token} (h : WorkForm w) : WorkForm (errBoth w e) := h.queueItem

theorem mcFire_form {f : MCFrame} {b : McBehave} (h : WorkForm w) (hb : McBehaveForm b) : OptForm WorkForm (mcFire f b w) := by
  unfold mcFire
  split
  · dsimp only
    split
    · exact WorkForm.absorb (.err h)
    · exact hb.err (.err h)
  · split
    · exact (hb.data h).out
    split
    · trivial
    · exact mcBegin_form h hb

theorem mcTurn_form {fire : Work → Option Work} (h : MemoryForm s) (hf : FireForm fire) : OutForm (mcTurn fire s) := by
  unfold mcTurn
  split
  · exact h
  rename_i e
  have hw := h.workAt.get e
  split
  · exact hw.old
  split
  · exact hw.old
  · rename_i e1
    exact WorkForm.store ((hf hw).get e1)

theorem WorkForm.emptyPass {f : MCFrame} {g : AGFrame} (h : WorkForm w) : TryForm WorkForm (Work.emptyPass f g w) := by
  unfold Work.emptyPass
  dsimp only
  split
  · exact h.endPass
  · exact h.ownStop.map fun h1 => h1.endPass

theorem WorkForm.passOn {f : MCFrame} {g : AGFrame} {idx : List Nat} (h : WorkForm w) : TryForm WorkForm (Work.passOn f g idx w) := by
  unfold Work.passOn
  dsimp only
  refine TryForm.map (P := WorkForm) (iteInduction (motive := TryForm WorkForm) (fun _ => h) fun _ => WorkForm.ownStop h) fun h1 => ?_
  split
  · exact h1.endPass
  · exact h1

theorem Work.rowOn_form {f : MCFrame} {t : Tile} {flush : Work → Work} (hk : ∀ {z : Work}, WorkForm z → WorkForm (flush z)) (h : WorkForm w) :
    TryForm WorkForm (Work.rowOn f t flush w) := by
  unfold Work.rowOn
  split
  · exact h
  dsimp only
  split
  · exact WorkForm.ownStop (hk h)
  · exact ((hk h).ownStop).map fun h1 => h1.endPass

theorem WorkForm.trdAccess {f : MCFrame} {t : Tile} {a : Int} (h : WorkForm w) : WorkForm (Work.trdAccess f w t a) := by
  unfold Work.trdAccess
  split
  · exact h.respond
  split
  · dsimp only
    exact h.tileToken.respond
  · exact h.countOob.respond

theorem trdData_form {f : MCFrame} (h : WorkForm w) : TryForm WorkForm (trdData f w) := by
  unfold trdData
  split
  · exact h.stay
  split
  · split
    · exact h.emptyPass
    · exact h.readTile.bind fun h1 => h1.trdAccess.passOn
  · exact h.readTile.bind (fun h1 => Work.rowOn_form (fun h2 => h2) h1.trdAccess)

theorem WorkForm.pairOut {f : MCFrame} {n : Nat} (h : WorkForm w) : WorkForm (Work.pairOut f n w) := h

theorem WorkForm.pairFlush {f : MCFrame} (h : WorkForm w) : WorkForm (Work.pairFlush f w) := by
  unfold Work.pairFlush
  split
  · exact h
  · exact h.pairOut

theorem trdcData_form {f : MCFrame} (h : WorkForm w) : TryForm WorkForm (trdcData f w) := by
  unfold trdcData
  split
  · exact h.stay
  refine TryForm.bind h.readTile fun h1 => ?_
  dsimp only
  refine Work.rowOn_form (fun h2 => h2.pairFlush) ?_
  split
  · exact h1.respond
  split
  · exact h1.countOob
  split
  · exact h1.tileToken.respond
  · split <;> exact h1.tileToken

theorem WorkForm.wrote {f : MCFrame} {hn : Nat} (h : WorkForm w) : WorkForm (w.wrote f hn) := by
  unfold Work.wrote
  split <;> exact h

/-- What ends a write of a token: the acknowledgement and the inputs taken. -/
theorem WorkForm.endWrite {f : MCFrame} {hn : Nat} {t : Token} (h : WorkForm w) : WorkForm (((w.wrote f hn).ack f t).takeMc f) := h.wrote.ack.takeMc

theorem twrData_form {f : MCFrame} (h : WorkForm w) : TryForm WorkForm (twrData f w) := by
  unfold twrData
  refine h.writeTile.bind fun _ => ?_
  split
  rename_i a w1 e
  have h1 : WorkForm w1 := by
    split at e
    · exact h.writeAddr.ofSnd e
    · exact WorkForm.ofSnd h e
  split
  · split
    · exact h1.writeTile.bind fun _ => WorkForm.takeMc (.gather (.ack (.wrote ⟨h1.old, h1.now.writeLanes⟩)))
    · exact h1.countOob.endWrite
  · exact h1.countOob.endWrite

theorem twrOff_form {f : MCFrame} (h : WorkForm w) : WorkForm (twrOff f w) := by
  unfold twrOff
  dsimp only
  refine WorkForm.takeMc ?_
  refine WorkForm.ack ?_
  split
  · exact h.writeAddr
  · exact h

theorem twrStop_form {f : MCFrame} {level : BitVec 3} (h : WorkForm w) : TryForm WorkForm (twrStop f level w) := by
  unfold twrStop
  split
  · exact h.close
  · exact WorkForm.ite h h

theorem twrcData_form {f : MCFrame} (h : WorkForm w) : TryForm WorkForm (twrcData f w) := by
  unfold twrcData
  refine h.writeTile.bind fun _ => ?_
  dsimp only
  exact WorkForm.takeMc (.gather (.ack (.wrote (show WorkForm _ from WorkForm.countOob h))))

theorem WorkForm.rowToken {t : Tile} {j : Nat} (h : WorkForm w) : WorkForm (Work.rowToken t j w) := ⟨h.old, h.now.setTileData⟩

theorem twrcRow_form {f : MCFrame} (h : WorkForm w) : TryForm WorkForm (twrcRow f w) := by
  unfold twrcRow
  split
  · exact h
  refine h.writeTile.bind fun _ => ?_
  dsimp only
  split
  · refine h.writeTile.bind fun _ => ?_
    split
    · exact h.back.rowToken
    · exact h.rowToken
  · exact h.countOob

theorem twrcStop_form {f : MCFrame} {level : BitVec 3} (h : WorkForm w) : TryForm WorkForm (twrcStop f level w) := by
  unfold twrcStop
  dsimp only
  split
  · exact (twrcRow_form h).map fun h1 => h1
  · refine TryForm.bind (P := WorkForm) (iteInduction (motive := TryForm WorkForm) (fun _ => twrcRow_form h) fun _ => h) fun h1 => ?_
    exact WorkForm.close h1

theorem WorkForm.gathFlush {f : MCFrame} (h : WorkForm w) : WorkForm (Work.gathFlush f w) := h

theorem WorkForm.gathPut {f : MCFrame} {v : Option (BitVec 32)} (h : WorkForm w) : WorkForm (Work.gathPut f v w) := by
  unfold Work.gathPut
  dsimp only
  split <;> exact h

theorem WorkForm.gathRead {f : MCFrame} {t : Tile} {a : Int} (h : WorkForm w) : WorkForm (Work.gathRead f w t a) := by
  unfold Work.gathRead
  split
  · exact WorkForm.gathPut h
  split
  · split
    · exact WorkForm.gathPut ⟨h.old, h.now.tileFails⟩
    · exact WorkForm.gathPut ⟨h.old, h.now.touchTile⟩
  · exact h.countOob.gathPut

theorem gathData_form {f : MCFrame} (h : WorkForm w) : TryForm WorkForm (gathData f w) := by
  unfold gathData
  extract_lets a c l stop nextLane _ x n j closeIdx
  have next {v : Work} (h1 : WorkForm v) : WorkForm (nextLane v) := by
    refine WorkForm.ite h1 ?_
    exact WorkForm.ite (WorkForm.release (WorkForm.takeMc h1)) (WorkForm.takeMc h1)
  have close {v : Work} (h1 : WorkForm v) : TryForm WorkForm (closeIdx v) := by
    refine iteInduction (motive := TryForm WorkForm) (fun _ => next h1) fun _ => ?_
    exact TryForm.map (WorkForm.ownStop (WorkForm.ite h1 h1.gathFlush)) next
  refine iteInduction (motive := TryForm WorkForm) (fun _ => next h) fun _ => ?_
  split
  · exact close h
  refine h.readTile.bind fun h1 => ?_
  dsimp only
  split
  · exact WorkForm.gathRead h1
  · exact close h1.gathRead

theorem WorkForm.gathFlushIf {f : MCFrame} (h : WorkForm w) : WorkForm (if w.op.vals.isEmpty then w else w.gathFlush f) := by
  split
  · exact h
  · exact h.gathFlush

theorem execGath_form {f : MCFrame} (h : MemoryForm s) : OutForm (execGath f s) :=
  mcTurn_form h fun h1 => mcFire_form h1 ⟨gathData_form, fun h2 => h2, fun h2 => h2.gathFlushIf, fun h2 => h2.gathFlushIf, errBoth_form⟩

theorem closeStop_form {f : MCFrame} {level : BitVec 3} (h : WorkForm w) : TryForm WorkForm (closeStop f level w) := by
  unfold closeStop
  split
  · exact h.close
  · exact h

theorem WorkForm.byLane {a : Token} {unit : Nat} {access : Nat × Int → Work → Except Work Work} {done : Work → McR} (h : WorkForm w)
    (ha : ∀ {x : Nat × Int} {v : Work}, WorkForm v → TryForm WorkForm (access x v)) (hd : ∀ {v : Work}, WorkForm v → TryForm WorkForm (done v)) :
    TryForm WorkForm (Work.byLane a unit access done w) := by
  unfold Work.byLane
  dsimp only
  split
  · exact hd h
  refine (ha h).bind fun h1 => ?_
  split
  · exact hd h1
  · exact h1

theorem MemoryForm.setElem {t : Tile} {x : Nat} {bs : List Byte} (h : MemoryForm s) : MemoryForm (s.setElem t x bs) := h.setTileData

theorem scatLane_form {f : MCFrame} {t : Tile} {b : Token} {x : Nat × Int} (h : WorkForm w) : TryForm WorkForm (scatLane f t b x w) := by
  unfold scatLane
  split
  · exact h.writeTile.bind fun _ => ⟨h.old, h.now.setElem⟩
  · exact h.countOob

theorem scatData_form {f : MCFrame} (h : WorkForm w) : TryForm WorkForm (scatData f w) :=
  h.writeTile.bind fun _ => h.byLane scatLane_form fun h1 => h1.ack.gather.takeMc

theorem WorkForm.failLane {t : Tile} {x n : Nat} (h : WorkForm w) : WorkForm (Work.failLane t x n w).2 := ⟨h.err.old, h.err.now.tileFails⟩

theorem rmwaLane_form {f : MCFrame} {t : Tile} {b : Token} {x : Nat × Int} (h : WorkForm w) : WorkForm (rmwaLane f t b x w) := by
  unfold rmwaLane
  dsimp only
  split
  · exact WorkForm.count ⟨h.old, h.now.setElem⟩
  · exact h.countOob

theorem rmwaStart_form {t : Tile} {a : Token} (h : WorkForm w) : WorkForm (rmwaStart t a w) := h

theorem rmwaData_form {f : MCFrame} (h : WorkForm w) : TryForm WorkForm (rmwaData f w) := by
  unfold rmwaData
  refine h.writeTile.bind fun {t} _ => ?_
  split
  · exact h.stay
  have h1 : WorkForm (if w.op.within then w else rmwaStart t (w.tok f .a f.a) w) := by
    split
    · exact h
    · exact rmwaStart_form h
  dsimp only
  split
  · exact h1.failLane.respond.takeMc
  · exact WorkForm.byLane h1 rmwaLane_form fun h2 => h2.respond.gather.takeMc

theorem offBoth_form {f : MCFrame} (h : WorkForm w) : WorkForm (offBoth f w) := h.respond.takeMc

theorem tasLane_form {f : MCFrame} {t : Tile} {x : Nat × Int} (h : WorkForm w) : WorkForm (tasLane f t x w) := by
  unfold tasLane
  dsimp only
  split
  · exact ⟨h.old, h.now.setElem⟩
  · exact h.countOob

theorem WorkForm.tasOut {f : MCFrame} {a b : Token} {bit : Bool} (h : WorkForm w) : WorkForm (Work.tasOut f w a b bit) := h.queueItem

theorem tasData_form {f : MCFrame} (h : WorkForm w) : TryForm WorkForm (tasData f w) := by
  unfold tasData
  refine h.writeTile.bind fun _ => ?_
  dsimp only
  split
  · exact WorkForm.takeMc (.tasOut (.failLane (w := ite ..) (WorkForm.ite h h)))
  · exact WorkForm.byLane (WorkForm.ite h h) tasLane_form fun h1 => h1.tasOut.gather.takeMc

theorem WorkForm.failed {code access va : Nat} (h : WorkForm w) : WorkForm (w.failed code access va).2 := by
  unfold Work.failed
  dsimp only
  split
  · exact h.err
  · exact ⟨h.err.old, h.err.now.runRecord⟩

theorem WorkForm.reported {code access va : Nat} (h : WorkForm w) : GResForm (w.reported code access va) := by
  unfold Work.reported
  dsimp only
  exact h.failed

theorem MemoryForm.unpresent {who : StreamOf} (h : MemoryForm s) : MemoryForm (s.unpresent who) := h.updStream

theorem WorkForm.holdReq {code access va : Nat} (h : WorkForm w) : GResForm (w.holdReq code access va) := by
  have h1 : WorkForm (w.hold code access va).out := h.hold.out
  exact ⟨h1.old, h1.now.dropWalkFault.unpresent⟩

/-- What is left of a request once its translation was served: the block faults or the access may go on. -/
theorem WorkForm.request {f : MCFrame} {need : Need} {va : Nat} (h : WorkForm w) : GResForm (Work.request f w need va) := by
  unfold Work.request
  dsimp only
  split
  · exact h.back
  split
  · exact ⟨h.back.old, h.old.openStream⟩
  split
  · exact ⟨h.back.old, h.old.present⟩
  split
  · exact ⟨h.back.old, h.old.queueWalks.unpresent⟩
  · split
    · exact h.holdReq
    · exact WorkForm.reported ⟨h.old, h.now.dropWalkFault.served⟩
  · rename_i pa e _
    split
    · exact h.holdReq
    have aimed : MemoryForm (if paHbm pa then w.s.aim w.die (w.s.homeOf pa) else (0, w.s)).2 := by
      split
      · exact h.now.aim
      · exact h.now
    generalize (if paHbm pa then w.s.aim w.die (w.s.homeOf pa) else (0, w.s)) = x at aimed ⊢
    obtain ⟨i, s1⟩ := x
    dsimp only
    split
    · exact WorkForm.reported ⟨h.old, aimed.served⟩
    split
    · exact WorkForm.reported ⟨h.old, aimed.cacheBlock.served.logBlock⟩
    · exact ⟨h.old, aimed.cacheBlock.served⟩

theorem WorkForm.leaves {e : TlbEntry} {pa : Nat} (h : WorkForm w) : WorkForm (w.leaves e pa) := ⟨h.old, h.now.leaveBlock⟩

theorem WorkForm.outside {f : MCFrame} {va pa : Nat} {mask : BitVec 16} {access : Nat} {b : Option Token} {op : OutOp} {len : Nat} (h : WorkForm w) :
    WorkForm (Work.outside f w va pa mask access b op len) := ⟨h.old, h.now.askOutside⟩

theorem WorkForm.outsideWrite {f : MCFrame} {va pa : Nat} {b : Token} (h : WorkForm w) : WorkForm (Work.outsideWrite f w va pa b) := by
  unfold Work.outsideWrite
  split
  · exact h.ack
  · exact h.outside

theorem lreqOne_form {f : MCFrame} {off : Int} {k : Work → McR} (h : WorkForm w) (hk : ∀ {v : Work}, WorkForm v → TryForm WorkForm (k v)) :
    TryForm WorkForm (lreqOne f w off k) := by
  unfold lreqOne
  dsimp only
  have asked := h.request (f := f) (need := ⟨true, false, false⟩) (va := Work.gva f off / 64 * 64)
  split
  · rename_i e
    exact asked.wait e
  · rename_i e
    exact hk (asked.err e).respond
  · rename_i e
    split
    · exact hk (asked.get e).respond.asking.leaves
    · exact hk (asked.get e).outside

theorem lreqData_form {f : MCFrame} (h : WorkForm w) : TryForm WorkForm (lreqData f w) := by
  unfold lreqData
  dsimp only
  split
  · exact lreqOne_form h fun h1 => h1.takeMc
  have next {v : Work} (h1 : WorkForm v) : WorkForm (if w.op.col + 1 < 16 then { v with op := { v.op with col := (w.op.col + 1) % 16 } }
      else ({ v with op := { v.op with col := (w.op.col + 1) % 16 } } : Work).takeMc f) := by
    split
    · exact h1
    · exact WorkForm.takeMc h1
  split
  · split
    · exact lreqOne_form h next
    · exact next h
  split
  · exact h.stay
  split
  · exact h.emptyPass
  · exact lreqOne_form h fun h1 => h1.passOn

theorem MemoryForm.storeLanes {die : Nat} {deps : List Nat} {shared : Bool} {pa : Nat} {t : Token} (h : MemoryForm s) :
    MemoryForm (s.storeLanes die deps shared pa t) := by
  unfold State.storeLanes
  split
  · exact h
  · exact h.storeSome

theorem sreqData_form {f : MCFrame} (h : WorkForm w) : TryForm WorkForm (sreqData f w) := by
  unfold sreqData
  extract_lets b
  split
  rename_i a w1 e
  have h1 : WorkForm w1 := by
    split at e
    · exact h.writeAddr.ofSnd e
    · exact WorkForm.ofSnd h e
  split
  · exact h1.countOob.ack.takeMc
  rename_i off
  have asked := h1.request (f := f) (need := ⟨false, true, false⟩) (va := Work.gva f off / 64 * 64)
  dsimp only
  split
  · rename_i e1
    exact asked.wait e1
  · rename_i e1
    exact (asked.err e1).ack.takeMc
  · rename_i e1
    have h2 := asked.get e1
    split
    · exact WorkForm.leaves (.takeMc (.gather (.asking (.ack ⟨h2.old, h2.now.storeLanes⟩))))
    · exact h2.outsideWrite.gather.takeMc

theorem sreqOff_form {f : MCFrame} (h : WorkForm w) : WorkForm (sreqOff f w) := by
  unfold sreqOff
  dsimp only
  refine WorkForm.takeMc ?_
  refine WorkForm.ack ?_
  split
  · exact h.writeAddr
  · exact h

theorem sreqStop_form {f : MCFrame} {level : BitVec 3} (h : WorkForm w) : TryForm WorkForm (sreqStop f level w) :=
  WorkForm.ite h h

theorem atomData_form {f : MCFrame} (h : WorkForm w) : TryForm WorkForm (atomData f w) := by
  unfold atomData
  extract_lets n va b c mask
  split
  · exact h.stay
  have asked := h.request (f := f) (need := ⟨true, true, true⟩) (va := va)
  split
  · rename_i e
    exact asked.wait e
  · rename_i e
    exact (asked.err e).respond.takeMc
  · rename_i e
    have h1 := asked.get e
    split
    · exact h1.outside.takeMc
    split
    · exact h.stay
    · exact WorkForm.leaves (.takeMc (.gather (.asking (.respond (.count ⟨h1.old, h1.now.store⟩)))))

theorem fifoOut_form {f : MCFrame} {t : Tile} (h : WorkForm w) : WorkForm (fifoOut f t w) := by
  unfold fifoOut
  split
  · exact h
  extract_lets at64
  split
  rename_i y w1 e
  have h1 : WorkForm w1 := by
    split at e
    · obtain ⟨-, rfl⟩ := Prod.mk.inj e
      exact WorkForm.ite ⟨h.err.old, h.err.now.tileFails⟩ h.err
    · obtain ⟨-, rfl⟩ := Prod.mk.inj e
      exact ⟨h.old, h.now.touchTile⟩
  have waits (l : List (Nat × Token)) : WorkForm { w with s := w.asks [f.oa, f.ob] l w.s } := ⟨h.old, h.now.asks⟩
  dsimp only
  split
  · split
    · exact h1.outPut.outPut
    · exact waits _
  · exact waits _

theorem fifoIn_form {f : MCFrame} {t : Tile} (h : WorkForm w) : WorkForm (fifoIn f t w) := by
  unfold fifoIn
  split
  · exact h
  split
  · dsimp only
    split
    · exact h
    · exact ⟨h.pop.old, h.pop.now.setTileData⟩
  · split
    · dsimp only
      split
      · exact h
      · exact ⟨h.pop.passMarker.old, h.pop.passMarker.now.setTileData⟩
    · dsimp only
      split
      · exact h
      · exact ⟨h.pop.old, h.pop.now.setTileData⟩

theorem WorkForm.readPointers (h : WorkForm w) : WorkForm w.readPointers := by
  unfold Work.readPointers
  dsimp only
  split
  · exact WorkForm.err h
  · exact h

theorem execFifo_form {f : MCFrame} (h : MemoryForm s) : OutForm (execFifo f s) := by
  unfold execFifo
  split
  · exact h
  rename_i e
  have read := (h.workAt.get e).readPointers
  dsimp only
  split
  · exact read.old
  split
  · rename_i e1
    exact (read.writeTile.err e1).now
  · exact (fifoIn_form (fifoOut_form read)).now

theorem lutData_form {f : MCFrame} (h : WorkForm w) : TryForm WorkForm (lutData f w) := by
  unfold lutData
  dsimp only
  split
  · split
    · split
      · exact h.respond.takeMc
      · exact h.stay
    · exact h.stay
  · exact h.countOob.respond.takeMc

theorem execLutCopy_form {p : OpPlace} (h : MemoryForm s) : OutForm (execLutCopy p s) := by
  unfold execLutCopy
  split
  · rename_i w f e _
    have hw : WorkForm w := h.workAt.get e
    split
    · exact h
    split
    · rename_i e1
      exact (hw.readTile.err e1).now
    · rename_i e1
      have read := hw.readTile.get e1
      split
      · exact h
      split
      · exact h.tileFails
      · exact read.now.touchTile
  · exact h

theorem mcDeliver_form {acks : Bool} {p : OpPlace} (h : MemoryForm s) : OutForm (mcDeliver acks p s) := by
  unfold mcDeliver
  split
  · rename_i w _ _ e _
    have hw : WorkForm w := h.workAt.get e
    split
    · exact h
    rename_i x rest _
    extract_lets fs toks w1 w2 _ w3
    have put : WorkForm w1 := hw.foldl fun h1 => h1.outPut
    have bit : WorkForm w2 := by
      show WorkForm (match x.bit with | some b => (w1.after _).pput _ b | none => w1)
      split
      · exact put.after.pput
      · exact put
    have ended : MemoryForm w3.s := bit.now.foldl fun h1 => h1.endRead
    split
    · exact h.asks
    split
    · exact ended
    · exact h.asks
  · exact h

theorem MemoryForm.loseAnswers {hit : Nat → Asked → Bool} (h : MemoryForm s) : MemoryForm (s.loseAnswers hit) :=
  (Steady.refl .univ s).loseAnswers.form h

end Sys2Proof.Machine
end

section
/-! PROOF. The form kept by the functions of Machine/Images: stripe images. -/
namespace Sys2Proof.Machine

variable {s : State} {w : Work}

theorem MemoryForm.fetchOn {α : Type} {r : Run} {die : Nat} {x : Fetch α} (h : MemoryForm s) : MemoryForm (s.fetchOn r die x) := by
  unfold State.fetchOn
  split
  · exact h.queueWalks
  · exact h.askOnce
  · exact h.touchV.updRun
  · exact h
  · exact h
  · exact h
  · exact h

theorem MemoryForm.touch {ring : Nat} {r : Run} {vs : Nat} {e : Nat × Nat} (h : MemoryForm s) : MemoryForm (s.touch ring r vs e) := h
theorem MemoryForm.keepImage {ring : Nat} {r : Run} {e : Nat × Nat} {im : Image} (h : MemoryForm s) : MemoryForm (s.keepImage ring r e im) := h
theorem MemoryForm.dropFetch {r : Run} (h : MemoryForm s) : MemoryForm (s.dropFetch r) := h.forget.updRun

theorem MemoryForm.keepFetched {ring : Nat} {r : Run} {images : Word} {vs : Nat} {x : (Nat × Nat) × Image} (h : MemoryForm s) :
    MemoryForm (s.keepFetched ring r images vs x) := by
  unfold State.keepFetched
  dsimp only
  exact h.touchV.touchV.keepImage.dropFetch

theorem MemoryForm.holdSlot {r : Run} {slot vs access code va : Nat} (h : MemoryForm s) : MemoryForm (s.holdSlot r slot vs access code va) :=
  h.dropWalkFault.forget.updRun.runRecord

theorem MemoryForm.endSlot {r : Run} {slot vs access code va cause : Nat} (h : MemoryForm s) :
    MemoryForm (s.endSlot r slot vs access code va cause) := h.runRecord

theorem execStripeImageAccept_form {run vs : Nat} (h : MemoryForm s) : OutForm (execStripeImageAccept run vs s) := by
  unfold execStripeImageAccept
  split
  · exact h
  split
  · exact h
  extract_lets slot moving ring die
  split
  · exact h
  dsimp only
  split
  · exact h.keepFetched.updRun
  · exact MemoryForm.ite h.holdSlot h.dropWalkFault.dropFetch
  · exact MemoryForm.ite h.noteBlock.endSlot h.dropFetch
  · exact MemoryForm.ite h.endSlot h.dropFetch
  · exact h.fetchOn

end Sys2Proof.Machine
end

section
/-! PROOF. The form kept by the functions of Machine/Scroll: the scroll controller. -/
namespace Sys2Proof.Machine

variable {s : State} {w : Work}

theorem MemoryForm.moveNext {r : Run} {x : Released} (h : MemoryForm s) : MemoryForm (s.moveNext r x) := by
  unfold State.moveNext
  dsimp only
  split
  · exact h
  split
  · exact h.touch.updRun
  · exact h

theorem execStripeConfigure_form {run : Nat} (h : MemoryForm s) : OutForm (execStripeConfigure run s) := by
  unfold execStripeConfigure
  split
  · exact h
  split
  · split
    · exact h.moveNext
    · exact h
  · dsimp only
    split
    · exact h
    split
    · exact h
    · exact h.touch.updRun

theorem MemoryForm.seamTake {n vs : Nat} {ch : SeamCh} (h : MemoryForm s) : OptForm MemoryForm (s.seamTake n vs ch) := by
  unfold State.seamTake
  split
  · trivial
  dsimp only
  split
  · split
    · exact h.takeRequest.updRun
    · trivial
  · split
    · exact h.updRun
    split
    · exact h.charge.updRun
    · trivial

theorem MemoryForm.seamFit {n vs : Nat} {ch : SeamCh} {need fuel : Nat} (h : MemoryForm s) : MemoryForm (State.seamFit n vs ch need fuel s).1 := by
  induction fuel generalizing s with
  | zero => exact h
  | succ fuel ih =>
    unfold State.seamFit
    split
    · exact h
    refine iteInduction (motive := fun p : State × Bool => MemoryForm p.1) (fun _ => h) fun _ => ?_
    split
    · rename_i e
      exact ih (h.seamTake.get e)
    · exact iteInduction (motive := fun p : State × Bool => MemoryForm p.1) (fun _ => h) fun _ => h.fresh.enqueue

theorem MemoryForm.seamReturn {n : Nat} {grans : List Bool} (h : MemoryForm s) : MemoryForm (s.seamReturn n grans) := by
  unfold State.seamReturn
  split
  · exact h
  · exact h.setPool.updRun

theorem MemoryForm.seamRead {n : Nat} {q : Seam} (h : MemoryForm s) : MemoryForm (s.seamRead n q) := h.seamReturn

theorem execSeamFifoDeliver_form {run vs : Nat} {ch : SeamCh} (h : MemoryForm s) : OutForm (execSeamFifoDeliver run vs ch s) := by
  unfold execSeamFifoDeliver
  split
  · exact h
  split
  · split
    · split
      · exact h.seamRead
      split
      · exact h.updStripe.seamRead
      · exact h
    · split
      · exact h.updRun
      split
      · exact h.updStripe.updRun
      · exact h
    · split
      · exact h.seamRead
      split
      · exact h.updStripe.seamRead
      · exact h
  · exact h

theorem TransferForm.state {x : Transfer} (h : TransferForm x) : MemoryForm x.state := by
  cases x <;> exact h

theorem MemoryForm.stateWrite {r : Run} {slot vs va : Nat} {bs : List Byte} (h : MemoryForm s) : TransferForm (s.stateWrite r slot vs va bs) := by
  unfold State.stateWrite
  dsimp only
  split
  · exact h.queueWalks
  · exact h.holdSlot
  · exact h.vwrite
  · exact h.vwrite

theorem MemoryForm.saveStripe {r : Run} {slot : Nat} {p : Stripe} {again : Bool} (h : MemoryForm s) : TransferForm (s.saveStripe r slot p again) := by
  unfold State.saveStripe
  split
  · exact h
  dsimp only
  split
  · exact h.holdSlot
  · exact h.noteBlock.endSlot
  · exact h.fetchOn
  · exact h.fetchOn
  · exact h
  · exact h
  · split
    all_goals
      rename_i e
    · exact TransferForm.later (MemoryForm.stateWrite (.fresh (.forget h.touchV))) e
    · exact (TransferForm.get (MemoryForm.stateWrite (.fresh (.forget h.touchV))) e).updRun

theorem MemoryForm.discardToken {r : Run} {slot vs : Nat} {s0 : State} {t0 : Token} (h : MemoryForm s0) :
    MemoryForm (State.discardToken r slot vs s0 t0) := by
  unfold State.discardToken
  dsimp only
  split
  · exact h.readToken.runRecord
  split
  · exact h.readToken.logEvent
  · exact h.readToken

theorem MemoryForm.seamFitAll {r : Run} {vs : Nat} {l : Leaving} (h : MemoryForm s) : MemoryForm (s.seamFitAll r vs l).1 :=
  List.foldlRecOn (motive := fun a : State × Bool => MemoryForm a.1) _ _ h fun _ ha _ _ =>
    iteInduction (motive := fun a : State × Bool => MemoryForm a.1) (fun _ => ha) fun _ => ha.seamFit

theorem MemoryForm.leaveSlot {r : Run} {slot : Nat} {p : Stripe} {release again : Bool} (h : MemoryForm s) :
    TransferForm (s.leaveSlot r slot p release again) := by
  unfold State.leaveSlot
  extract_lets l moves
  split
  all_goals
    rename_i e
    have fitted := h.seamFitAll.ofFst e
  · exact fitted
  · split
    all_goals
      rename_i e1
    · exact fitted.saveStripe.later e1
    · extract_lets s3 s4
      have left : MemoryForm s3 := (fitted.saveStripe.get e1).updRun
      have ended : MemoryForm s4 := MemoryForm.foldl left fun h1 => h1.endRead
      exact ended.foldl fun h1 => h1.discardToken

theorem MemoryForm.suspend {r : Run} {l : List Released} (h : MemoryForm s) : TransferForm (s.suspend r l) := by
  unfold State.suspend
  split
  all_goals
    rename_i e
  · exact h.stateWrite.later e
  · exact (h.stateWrite.get e).updRun

theorem MemoryForm.allReleased {r : Run} (h : MemoryForm s) : MemoryForm (s.allReleased r) := by
  unfold State.allReleased
  split
  · exact TransferForm.state h.suspend
  · split <;> exact h
  · exact h

theorem MemoryForm.releaseSlot {r : Run} {slot : Nat} {p : Stripe} {unretired : Bool} (h : MemoryForm s) :
    TransferForm (s.releaseSlot r slot p unretired) := by
  unfold State.releaseSlot
  split
  all_goals
    rename_i e
  · exact h.leaveSlot.later e
  · exact (h.leaveSlot.get e).updRun

theorem MemoryForm.settleMarking {run : Nat} (h : MemoryForm s) : MemoryForm (s.settleMarking run) := by
  unfold State.settleMarking
  split
  · exact h
  split
  · exact h.allReleased
  · exact h

theorem execSlotRelease_form {run slot : Nat} (h : MemoryForm s) : OutForm (execSlotRelease run slot s) := by
  unfold execSlotRelease
  split
  · exact h
  split
  · exact h
  split
  · exact h.settleMarking
  split
  · exact (TransferForm.state h.releaseSlot).settleMarking
  · exact h

theorem execStripeRetire_form {run slot : Nat} (h : MemoryForm s) : OutForm (execStripeRetire run slot s) := by
  unfold execStripeRetire
  split
  · exact h
  split
  · exact h
  split
  · exact h
  split
  · exact MemoryForm.ite h.releaseSlot.state.settleMarking h
  · exact h.leaveSlot.state

theorem execStateRestore_form {run slot : Nat} (h : MemoryForm s) : OutForm (execStateRestore run slot s) := by
  unfold execStateRestore
  split
  · exact h
  split
  · exact h
  split
  · exact h
  split
  · exact h
  dsimp only
  split
  · exact h.fetchOn
  · exact h.fetchOn
  · exact h.holdSlot
  · exact h.noteBlock.endSlot
  · exact h
  · exact h
  · exact h.touchV.forget.drawNat.updRun.settleMarking

theorem execRswapPrepare_form {run : Nat} (h : MemoryForm s) : OutForm (execRswapPrepare run s) := by
  unfold execRswapPrepare
  split
  · exact h
  split
  · exact h
  split
  · exact h
  dsimp only
  split
  · exact h.updRun
  split
  · split
    · exact h.keepFetched.updRun
    · exact h.dropFetch.updRun.runRecord
  · exact h.holdSlot
  · exact h.noteBlock.endSlot
  · exact h.dropFetch.updRun.runRecord
  · exact h.fetchOn

theorem execImageSwap_form {run slot : Nat} (h : MemoryForm s) : OutForm (execImageSwap run slot s) := by
  unfold execImageSwap
  split
  · exact h
  split
  · split
    · exact h
    split
    · split
      · exact h.keepFetched.updRun
      · exact h.holdSlot
      · exact h.noteBlock.endSlot
      · exact h.endSlot
      · exact h.fetchOn
    · split
      all_goals
        rename_i e
      · exact h.saveStripe.later e
      · exact (h.saveStripe.get e).updRun
  · exact h

end Sys2Proof.Machine
end

section
/-! PROOF. The form kept by the functions of Machine/SeqSys: the system instructions. -/
namespace Sys2Proof.Machine

variable {s : State} {w : Work}

theorem onNamed_form {v : Word} {onRun : Run → SeqRes} {onEngine : EngOp → SeqRes} (h : MemoryForm s) (hr : ∀ {r : Run}, ResForm (onRun r))
    (he : ∀ {e : EngOp}, ResForm (onEngine e)) : ResForm (onNamed v s onRun onEngine) := by
  unfold onNamed
  split
  · exact h
  · exact h
  · exact h
  · exact hr
  · exact he

theorem execRun_form {g : Guard} {d a : Reg} (h : MemoryForm s) : OutForm (execRun g d a s) := by
  unfold execRun
  refine seqExec_form h ?_
  dsimp only
  split
  · exact h
  refine withBytes_form h fun h1 => ?_
  split
  · exact h1
  · exact await_form h1 h1.newIdent.launch.raiseCnt.setR

theorem MemoryForm.stopSafe {r : Run} (h : MemoryForm s) : MemoryForm (s.stopSafe r) := by
  unfold State.stopSafe
  split
  · split
    · exact h.stopNow
    · exact h.updRun
  · exact h

theorem MemoryForm.stopAtOnce {r : Run} (h : MemoryForm s) : MemoryForm (s.stopAtOnce r) := by
  unfold State.stopAtOnce
  split
  · exact h
  · exact h.stopNow

theorem MemoryForm.abandonHeld {e : EngOp} (h : MemoryForm s) : MemoryForm (s.abandonHeld e) := by
  unfold State.abandonHeld
  split
  · exact h.abandon
  · exact h

theorem execRswap_form {g : Guard} {a b : Reg} (h : MemoryForm s) : OutForm (execRswap g a b s) := by
  unfold execRswap
  refine seqExec_form h ?_
  split
  · exact h
  refine onNamed_form h ?_ h
  intro r
  split
  · exact h
  · exact h.updRun

theorem execGlaunch_form {g : Guard} {a : Reg} (h : MemoryForm s) : OutForm (execGlaunch g a s) := by
  unfold execGlaunch
  refine seqExec_form h ?_
  dsimp only
  split
  · exact h
  split
  · exact h
  · exact await_form h h

theorem execWaitt_form {g : Guard} {a : Reg} {st : TileStateCode} (h : MemoryForm s) : OutForm (execWaitt g a st s) := by
  unfold execWaitt
  refine seqExec_form h ?_
  split <;> exact await_form h.readEntry h.readEntry

theorem execGjoin_form {g : Guard} {a : Reg} (h : MemoryForm s) : OutForm (execGjoin g a s) := by
  unfold execGjoin
  refine seqExec_form h ?_
  dsimp only
  refine await_form h ?_
  split
  · split <;> exact h
  · exact h

theorem execGarr_form {g : Guard} {d a : Reg} (h : MemoryForm s) : OutForm (execGarr g d a s) := by
  unfold execGarr
  refine seqExec_form h ?_
  split
  · exact h
  · split <;> exact h

theorem execGwait_form {g : Guard} {a b : Reg} (h : MemoryForm s) : OutForm (execGwait g a b s) := by
  unfold execGwait
  refine seqExec_form h ?_
  split
  · exact h
  split
  · exact h
  · exact await_form h h

theorem MemoryForm.switchOut {regs : BitVec 31} {preds : BitVec 7} {stub : Option (BitVec 13)} (h : MemoryForm s) :
    MemoryForm (s.switchOut regs preds stub) := h.dropDeferred

theorem execSafept_form {g : Guard} {regs : BitVec 31} {preds : BitVec 7} {stub : Option (BitVec 13)} (h : MemoryForm s) :
    OutForm (execSafept g regs preds stub s) := by
  unfold execSafept
  refine seqExec_form h ?_
  split
  · exact await_form h h.switchOut
  · exact h.updMe

theorem MemoryForm.enterStub {t : Nat} {addr : BitVec 16} {run : Nat} (h : MemoryForm s) : MemoryForm (s.enterStub t addr run) := by
  unfold State.enterStub
  dsimp only
  refine MemoryForm.updTask ?_
  split
  · exact h.fresh
  · exact h.fresh.cancelWait

theorem MemoryForm.dueStub {t : Nat} (h : MemoryForm s) : MemoryForm (s.dueStub t) := by
  unfold State.dueStub
  split
  · exact h.updTask.enterStub
  · exact h

theorem execEret_form {g : Guard} (h : MemoryForm s) : OutForm (execEret g s) := by
  unfold execEret
  refine seqExec_form h ?_
  split
  · exact h
  extract_lets s1
  have restarted : MemoryForm s1 := by
    show MemoryForm (match s.me.stubRun with | some r => s.updRun r Run.restart | none => s)
    split
    · exact h.updRun
    · exact h
  exact restarted.updMe.dueStub

theorem execFwcall_form {g : Guard} {d a : Reg} {svc : BitVec 16} (h : MemoryForm s) : OutForm (execFwcall g d a svc s) := by
  unfold execFwcall
  refine seqExec_form h ?_
  split
  · exact h.updMe.setR
  · exact h.updMe

theorem withHead_form {va f : Nat} {old got : List Byte} {k : List Byte → State → SeqRes} (h : MemoryForm s)
    (hk : ∀ {bs : List Byte} {t : State}, MemoryForm t → ResForm (k bs t)) : ResForm (withHead va f old got s k) := by
  unfold withHead
  split
  · exact readBytes_form h hk
  · exact hk h

theorem loadWord_form {l : List (Nat × List Byte)} (h : MemoryForm s) : ResForm (loadWord l s) := by
  unfold loadWord
  split
  rename_i s1 e
  have drawn : MemoryForm s1 := h.drawNat.ofSnd e
  split
  · exact drawn
  rename_i x _
  obtain ⟨hi, hd⟩ := drawn.sequencer (taskRing s1.cur)
  have loaded := drawn.setSequencer (r := taskRing s1.cur) (v := { s1.sequencer (taskRing s1.cur) with
    istore := Memory.writeBytes (s1.sequencer (taskRing s1.cur)).istore x.1 x.2
    ibad := (s1.sequencer (taskRing s1.cur)).ibad.filter fun b => b != x.1 / 8 }) (Memory.wf_writeBytes _ _ hi) hd
  exact iteInduction (motive := ResForm) (fun _ => loaded) fun _ => loaded

theorem execIload_form {g : Guard} {a : Reg} {dst : BitVec 13} (h : MemoryForm s) : OutForm (execIload g a dst s) := by
  unfold execIload
  refine seqExec_form h ?_
  split
  · exact loadWord_form h
  extract_lets va at0 bad mine old
  refine withHead_form h.drawNat fun h1 => ?_
  refine iteInduction (motive := ResForm) (fun _ => h1.forget) fun _ => readBytes_form h1 fun h2 => ?_
  refine iteInduction (motive := ResForm) (fun _ => h2) fun _ => iteInduction (fun _ => h2) fun _ => loadWord_form ?_
  exact h2

theorem execTaskActivate_form {task : Nat} (h : MemoryForm s) : OutForm (execTaskActivate task s) := by
  unfold execTaskActivate
  dsimp only
  split
  · exact h
  · exact h.fresh.fresh.updTask

theorem execTaskUnblock_form {task : Nat} {reply : Word} (h : MemoryForm s) : OutForm (execTaskUnblock task reply s) := by
  unfold execTaskUnblock
  dsimp only
  split
  · split
    · split
      · exact h.updTask.updTask
      · exact h
    · split
      · exact h.updTask
      · exact h
  · exact h

theorem execDeferredFault_form {task : Nat} (h : MemoryForm s) : OutForm (execDeferredFault task s) := by
  unfold execDeferredFault
  dsimp only
  split
  · exact h.updTask.takeFault
  · exact h

theorem execTaskSpgap_form {task : Nat} (h : MemoryForm s) : OutForm (execTaskSpgap task s) := by
  unfold execTaskSpgap
  dsimp only
  split
  · exact h.takeFault
  · exact h

theorem execTaskSwitchResume_form {task : Nat} (h : MemoryForm s) : OutForm (execTaskSwitchResume task s) := by
  unfold execTaskSwitchResume
  split
  · exact h
  · split <;> exact h

end Sys2Proof.Machine
end

section
/-! PROOF. The form kept by the functions of Machine/RunCtl: the life of a run. -/
namespace Sys2Proof.Machine

variable {s : State} {w : Work}

theorem MemoryForm.place {run : Nat} {r : Run} {rings : List Nat} (h : MemoryForm s) : MemoryForm (s.place run r rings) := by
  unfold State.place
  extract_lets home s1
  have placed : MemoryForm s1 := h.updRun
  exact placed.ite (placed.charge.updRun.ite placed.fresh.enqueue)

theorem MemoryForm.beginRun {r : Run} (h : MemoryForm s) : MemoryForm (s.beginRun r) := by
  unfold State.beginRun
  split
  · exact h
  split
  · exact h.updRun
  split
  · split
    · exact h.takeRequest.updRun
    · exact h
  · exact h

theorem execRunAdmit_form {run : Nat} {rings : List Nat} (h : MemoryForm s) : OutForm (execRunAdmit run rings s) := by
  unfold execRunAdmit
  split
  · exact h
  split
  · exact h
  split
  · split
    · exact h.endRunSoon
    split
    · exact h.updRun
    dsimp only
    split
    · exact h.place.beginRun
    · exact h.place
  · exact h.beginRun
  · exact h

theorem MemoryForm.dropReserve {r : Run} (h : MemoryForm s) : MemoryForm (s.dropReserve r) := h

theorem MemoryForm.passDrawn {run : Nat} (h : MemoryForm s) : MemoryForm (s.passDrawn run) := by
  unfold State.passDrawn
  refine MemoryForm.foldl h fun h1 => ?_
  split
  · split
    · exact h1.foldl fun h2 => h2.updTile
    · exact h1
  · exact h1

theorem MemoryForm.tellLauncher {r : Run} {cause : Nat} {deps : List Nat} (h : MemoryForm s) : MemoryForm (s.tellLauncher r cause deps) := by
  unfold State.tellLauncher
  split
  · exact h.lowerCnt.updTask
  · dsimp only
    split
    · exact h.updNode
    · exact h.updNode.failNode
  · exact h

theorem MemoryForm.endRun {r : Run} {cause : Nat} (h : MemoryForm s) : MemoryForm (s.endRun r cause) := by
  unfold State.endRun
  extract_lets deps s1 s2 s3 s4 s5 due tasks remap s6
  have h1 : MemoryForm s1 := h.unconfigure
  have h2 : MemoryForm s2 := by
    show MemoryForm (match s1.run r.serial with | some x => s1.dropReserve x | none => s1)
    split
    · exact h1.dropReserve
    · exact h1
  have h4 : MemoryForm s4 := h2.passDrawn.readerEnd.ownerEnd
  have h5 : MemoryForm s5 := h4.tellLauncher.logEvent
  have h6 : MemoryForm s6 := h5
  exact h6.updRun

theorem MemoryForm.sendDone {run : Nat} (h : MemoryForm s) : MemoryForm (s.sendDone run) := by
  unfold State.sendDone
  split
  · exact h
  split
  · exact h
  split
  · exact h
  · rename_i e
    exact (h.deliver.get e).updRun
  · exact h.updRun

theorem execRunEnd_form {run : Nat} (h : MemoryForm s) : OutForm (execRunEnd run s) := by
  unfold execRunEnd
  split
  · exact h
  split
  · exact h.sendDone
  · exact MemoryForm.ite h h.endRun.sendDone

theorem execRunSpgap_form {run : Nat} (h : MemoryForm s) : OutForm (execRunSpgap run s) := by
  unfold execRunSpgap
  split
  · exact h
  dsimp only
  split
  · split
    · exact h.runFault.endRunSoon
    · exact h
  · exact h

theorem execQuiet_form {run : Nat} (h : MemoryForm s) : OutForm (execQuiet run s) := by
  unfold execQuiet
  split
  · exact h
  split
  · exact h
  extract_lets s1
  have logged : MemoryForm s1 := h.updRun.logEvent
  split
  · exact h
  · rename_i e
    exact logged.deliver.get e
  · exact logged

theorem MemoryForm.mark {r : Run} {m : Marking} (h : MemoryForm s) : MemoryForm (s.mark r m) := MemoryForm.updRun h
theorem MemoryForm.refuseMark {r : Run} (h : MemoryForm s) : MemoryForm (s.refuseMark r) := h

theorem MemoryForm.callSuccessor {successor : Option Nat} (h : MemoryForm s) : MemoryForm (s.callSuccessor successor) := by
  unfold State.callSuccessor
  split
  · exact h
  split
  · exact h.place
  · exact h

theorem execSliceMark_form {run : Nat} {successor : Option Nat} (h : MemoryForm s) : OutForm (execSliceMark run successor s) := by
  unfold execSliceMark
  split
  · exact h
  split
  · exact h.refuseMark
  · exact h.mark.callSuccessor

theorem execGangMark_form {run : Nat} {successor : Option Nat} {deadline : BitVec 32} (h : MemoryForm s) :
    OutForm (execGangMark run successor deadline s) := by
  unfold execGangMark
  split
  · exact h
  split
  · exact h.refuseMark
  · exact h.mark.callSuccessor

theorem execGangCommit_form {run : Nat} (h : MemoryForm s) : OutForm (execGangCommit run s) := by
  unfold execGangCommit
  split
  · exact h
  split
  · split
    · exact TransferForm.state h.suspend
    · exact h
  · exact h

theorem MemoryForm.cancelSwitch {r : Run} {successor : Option Nat} (h : MemoryForm s) : MemoryForm (s.cancelSwitch r successor) := by
  unfold State.cancelSwitch
  dsimp only
  refine MemoryForm.updRun ?_
  split
  · exact h.logEvent.dropReserve.updRun
  · exact h.logEvent

theorem execGangDeadlineExpiry_form {run : Nat} (h : MemoryForm s) : OutForm (execGangDeadlineExpiry run s) := by
  unfold execGangDeadlineExpiry
  split
  · exact h
  split
  · split
    · exact h.cancelSwitch
    · exact h
  · exact h

theorem execMigration_form {run : Nat} {targets : List Nat} {deadline : BitVec 32} (h : MemoryForm s) :
    OutForm (execMigration run targets deadline s) := by
  unfold execMigration
  split
  · exact h
  split
  · exact h.refuseMark
  · exact h.mark

theorem execMigrationCancel_form {run : Nat} (h : MemoryForm s) : OutForm (execMigrationCancel run s) := by
  unfold execMigrationCancel
  split
  · exact h
  split
  · split
    · exact h.cancelSwitch
    · exact h
  · exact h

theorem MemoryForm.replace {r : Run} {rings : List Nat} (h : MemoryForm s) : MemoryForm (s.replace r rings) := by
  unfold State.replace
  dsimp only
  refine MemoryForm.updRun ?_
  split <;> exact h

theorem execSuspendedRunResume_form {run : Nat} {rings : List Nat} (h : MemoryForm s) : OutForm (execSuspendedRunResume run rings s) := by
  unfold execSuspendedRunResume
  split
  · exact h
  split
  · exact h
  split
  · exact h.endRunSoon
  split
  · exact h
  · exact h.replace.updRun

theorem execRebuildStubEntry_form {run : Nat} (h : MemoryForm s) : OutForm (execRebuildStubEntry run s) := by
  unfold execRebuildStubEntry
  split
  · exact h
  split
  · exact h
  split
  · exact h.updRun
  split
  · exact h
  · exact h.updTask.enterStub

theorem MemoryForm.holdInput {r : Run} {n : Fin 8} {code access va : Nat} (h : MemoryForm s) : MemoryForm (s.holdInput r n code access va) :=
  h.updRun.runFault

theorem MemoryForm.bindToken {t : Tile} {row col : Nat} (h : MemoryForm s) : MemoryForm (s.bindToken t row col).2 := by
  unfold State.bindToken
  split
  · exact h
  split
  · exact h
  split
  · exact h
  dsimp only
  split
  · exact h.tileFails.drawNat
  · exact h.touchTile

theorem MemoryForm.bindStep {r : Run} {n : Fin 8} {t : Tile} (h : MemoryForm s) : MemoryForm (s.bindStep r n t) := by
  unfold State.bindStep
  dsimp only
  split
  · exact h.bindToken.updRun.endRead
  · exact h.bindToken.updRun

theorem execTileBindingStream_form {run : Nat} {fifo : Fin 8} (h : MemoryForm s) : OutForm (execTileBindingStream run fifo s) := by
  unfold execTileBindingStream
  split
  · exact h
  dsimp only
  split
  · exact h
  split
  · exact h.readEntry.holdInput
  split
  · exact h.readEntry
  split
  · exact h.readEntry.bindStep
  split
  · exact h.readEntry.holdInput
  split
  · exact h.readEntry.beginRead.updRun.bindStep
  · exact h.readEntry.beginRead.updRun

theorem MemoryForm.absorbOut {r : Run} {t : Token} (h : MemoryForm s) : MemoryForm (s.absorbOut r t) := by
  unfold State.absorbOut
  split
  · exact h.runRecord
  split
  · exact h.logEvent
  · exact h

theorem execOfQueueSend_form {run : Nat} {fifo : Fin 8} (h : MemoryForm s) : OutForm (execOfQueueSend run fifo s) := by
  unfold execOfQueueSend
  split
  · exact h
  split
  · exact h
  extract_lets b
  refine OutForm.ite h ?_
  have read (vs : Nat) (t : Token) : MemoryForm (s.readToken vs t).2 := h.readToken
  dsimp only
  split
  · exact (read _ _).absorbOut.updRun
  split
  · exact read _ _
  · rename_i e
    exact ((read _ _).deliver.get e).absorbOut.updRun
  · exact (read _ _).absorbOut.updRun

theorem MemoryForm.holdOutput {r : Run} {n : Fin 8} {va : Nat} (h : MemoryForm s) : MemoryForm (s.holdOutput r n va) := h.updRun.runFault

theorem execOfTileWrite_form {run : Nat} {fifo : Fin 8} (h : MemoryForm s) : OutForm (execOfTileWrite run fifo s) := by
  unfold execOfTileWrite
  split
  · exact h
  dsimp only
  split
  · exact h
  split
  · exact h
  split
  · exact h.readToken.readEntry.updRun
  split
  · exact h.readToken.readEntry.absorbOut.updRun
  split
  · exact h.readToken.readEntry.holdOutput
  split
  · exact h.readToken.readEntry.holdOutput
  split
  · exact h.readToken.readEntry.sealTile.updRun
  split
  · exact h.readToken.readEntry.updRun
  split
  · exact h.readToken.readEntry.tileFails
  · exact h.readToken.readEntry.writeLanes.updTile.updRun

theorem execFaultRecordDeliver_form {run : Nat} (h : MemoryForm s) : OutForm (execFaultRecordDeliver run s) := by
  unfold execFaultRecordDeliver
  split
  · exact h
  split
  · exact h
  split
  · exact h
  · rename_i e
    exact (h.deliver.get e).updRun
  · exact h.updRun

end Sys2Proof.Machine
end

section
/-! PROOF. The form kept by the functions of Machine/Sealing: sealing. -/
namespace Sys2Proof.Machine

variable {s : State} {w : Work}

theorem execTranslationWalkComplete_form {die asid page : Nat} (h : MemoryForm s) : OutForm (execTranslationWalkComplete die asid page s) := by
  unfold execTranslationWalkComplete
  split
  · exact h
  split
  · exact h.askOnce
  · exact h.touchWalk

theorem execTranslationInvalidate_form {asid : Nat} (h : MemoryForm s) : OutForm (execTranslationInvalidate asid s) := by
  unfold execTranslationInvalidate
  split <;> exact h

theorem execContextCreate_form {asid : Nat} {ctx : CtxRecord} (h : MemoryForm s) : OutForm (execContextCreate asid ctx s) := by
  unfold execContextCreate
  dsimp only
  split <;> exact h

theorem MemoryForm.setKiln {die part : Nat} {k : Kiln} (h : MemoryForm s) : MemoryForm (s.setKiln die part k) := h
theorem MemoryForm.releaseStalled {which : Nat → Bool} (h : MemoryForm s) : MemoryForm (s.releaseStalled which) := h.foldl fun h1 => h1.writeBack

theorem execKilnRotate_form {die partition : Nat} (h : MemoryForm s) : OutForm (execKilnRotate die partition s) := by
  unfold execKilnRotate
  split
  · exact h
  · exact h.setKiln.releaseStalled

theorem MemoryForm.sweepBlock {part : Nat} {g : BitVec 16} {block : Nat} (h : MemoryForm s) : MemoryForm (s.sweepBlock part g block) := by
  unfold State.sweepBlock
  dsimp only
  split
  · exact h
  split
  · exact h.logBlock
  · exact h.sealBlock

theorem execKilnSweep_form {die partition generation : Nat} (h : MemoryForm s) : OutForm (execKilnSweep die partition generation s) := by
  unfold execKilnSweep
  dsimp only
  split
  · exact h
  · exact h.foldl fun h1 => h1.sweepBlock

theorem execKilnRetire_form {die partition generation : Nat} (h : MemoryForm s) : OutForm (execKilnRetire die partition generation s) := by
  unfold execKilnRetire
  dsimp only
  split
  · exact h
  · exact h.setKiln

theorem MemoryForm.zeroBlocks {g : BitVec 16} {first n : Nat} (h : MemoryForm s) : MemoryForm (s.zeroBlocks g first n) :=
  ⟨Memory.wf_zero _ _ h.mem, h.sram, h.seqs⟩

theorem execKilnInitialiseRange_form {die partition base length : Nat} (h : MemoryForm s) :
    OutForm (execKilnInitialiseRange die partition base length s) := by
  unfold execKilnInitialiseRange
  dsimp only
  split
  · exact h
  split
  · exact h
  · exact h.setKiln.zeroBlocks.releaseStalled

theorem MemoryForm.installKey {part : Nat} {key : BitVec 256} (h : MemoryForm s) : MemoryForm (s.installKey part key) := by
  unfold State.installKey
  dsimp only
  split
  · exact h
  · exact MemoryForm.setPart (.foldl (.foldl h fun h1 => h1.setKiln) fun h1 => h1.zeroBlocks)

end Sys2Proof.Machine
end

section
/-! PROOF. The form kept by the functions of Machine/Graphs: graphs. -/
namespace Sys2Proof.Machine

variable {s : State} {w : Work}

theorem MemoryForm.setIface {n : Nat} {f : Iface} (h : MemoryForm s) : MemoryForm (s.setIface n f) := by
  unfold State.setIface
  split <;> exact h

theorem execLaunch_form {iface : Nat} {va : Word} (h : MemoryForm s) : OutForm (execLaunch iface va s) := by
  unfold execLaunch
  split
  · exact h
  · dsimp only
    split <;> exact h.setIface

theorem execCancel_form {iface : Nat} {va : Word} (h : MemoryForm s) : OutForm (execCancel iface va s) := by
  unfold execCancel
  split
  · split
    · exact h.updGraph
    · exact h
  · exact h

theorem execNotifyReservedWrite_form {iface _offset size : Nat} (h : MemoryForm s) : OutForm (execNotifyReservedWrite iface _offset size s) := by
  unfold execNotifyReservedWrite
  split
  · exact h.setIface
  · exact h

theorem MemoryForm.readNode {g i : Nat} (h : MemoryForm s) : MemoryForm (s.readNode g i) := by
  unfold State.readNode
  split
  · exact h
  split
  · exact h
  · exact h.updNode.updGraph

theorem MemoryForm.finishNode {g : Graph} {i : Nat} {taken : Nat → Bool} (h : MemoryForm s) : MemoryForm (s.finishNode g i taken) := by
  unfold State.finishNode
  split
  · exact h
  extract_lets ns s1
  have read : MemoryForm s1 := h.foldl fun h1 => h1.readNode
  exact read.updGraph.ite read

theorem MemoryForm.writeCompletion {part asid : Nat} {who : OutWho} {graph completion value : Word} {e : GraphEnd} (h : MemoryForm s) :
    TransferForm (s.writeCompletion part asid who graph completion value e) := by
  unfold State.writeCompletion
  split
  · exact h
  dsimp only
  split
  · exact h.logEvent
  split
  · exact h.queueWalks
  · exact h.logEvent.dropWalkFault
  · split
    · exact h.logBlock
    split
    · exact h.askOutside.askOutside
    · exact h.cacheBlock.store.store.leaveBlock

theorem MemoryForm.countCompleted {iface : Nat} {irq : Bool} (h : MemoryForm s) : MemoryForm (s.countCompleted iface irq) := by
  unfold State.countCompleted
  dsimp only
  split <;> exact h.setIface

theorem MemoryForm.forgetGraph {graph : Nat} (h : MemoryForm s) : MemoryForm (s.forgetGraph graph) := h

theorem MemoryForm.endGraph {g : Graph} {e : GraphEnd} (h : MemoryForm s) : MemoryForm (s.endGraph g e) := by
  unfold State.endGraph
  extract_lets s1
  have ended : MemoryForm s1 := h.ownerEnd.forgetGraph
  have written : TransferForm (if g.discard then .done s1 else s1.writeCompletion g.part g.asid (recordWho g.id) g.va g.completion g.value e) := by
    split
    · exact ended
    · exact ended.writeCompletion
  split
  · split
    · rename_i e1
      exact h.writeCompletion.later e1
    · exact h
  · rename_i e1
    have done := written.get e1
    exact MemoryForm.countCompleted done

theorem MemoryForm.popLaunch {iface : Nat} {f : Iface} (h : MemoryForm s) : MemoryForm (s.popLaunch iface f) := h.setIface

theorem MemoryForm.refuseGraph {iface : Nat} {f : Iface} {p : Pending} {hd : List Byte} {e : Refused} (h : MemoryForm s) :
    MemoryForm (s.refuseGraph iface f p hd e) := by
  unfold State.refuseGraph
  split
  all_goals
    rename_i e1
  · exact h.writeCompletion.later e1
  · exact (h.writeCompletion.get e1).popLaunch.countCompleted

theorem MemoryForm.acceptGraph {iface : Nat} {f : Iface} {p : Pending} {hd : List Byte} {nodes : List Node} (h : MemoryForm s) :
    MemoryForm (s.acceptGraph iface f p hd nodes) :=
  MemoryForm.forget (.setIface h.fresh)

theorem MemoryForm.dropLaunch {iface : Nat} {f : Iface} (h : MemoryForm s) : MemoryForm (s.dropLaunch iface f) := h.setIface

theorem execGraphAccept_form {iface : Nat} (h : MemoryForm s) : OutForm (execGraphAccept iface s) := by
  unfold execGraphAccept
  dsimp only
  split
  · exact h
  split
  · exact h
  split
  · exact h.dropLaunch
  split
  · exact h.queueWalks
  · exact h.askOnce
  · exact h.noteBlock.dropWalkFault.dropLaunch
  · split
    · exact h.touchV.refuseGraph
    split
    · exact h.touchV
    split
    · exact h.touchV.queueWalks
    · exact h.touchV.askOnce
    · exact h.touchV.noteBlock.dropWalkFault.refuseGraph
    · split
      · exact h.touchV.touchV.refuseGraph
      · exact h.touchV.touchV.acceptGraph

theorem MemoryForm.park {part : Nat} (h : MemoryForm s) : MemoryForm (s.park part) := h
theorem MemoryForm.countTurn {part : Nat} (h : MemoryForm s) : MemoryForm (s.countTurn part) := h
theorem MemoryForm.markDispatched {g i : Nat} (h : MemoryForm s) : MemoryForm (s.markDispatched g i) := h.updNode
theorem MemoryForm.failFree {g i reason : Nat} (h : MemoryForm s) : MemoryForm (s.failFree g i reason) := MemoryForm.failNode h
theorem MemoryForm.schedIdent {kind : Nat} (h : MemoryForm s) : MemoryForm (s.schedIdent kind).2 := h

theorem MemoryForm.startRun {x : ReadyNode} (h : MemoryForm s) : TransferForm (s.startRun x) := by
  unfold State.startRun
  dsimp only
  split
  · exact h.failNode
  split
  · exact h.queueWalks
  · exact h.askOnce
  · exact h.noteBlock.dropWalkFault.failNode
  · split
    · exact h.touchV.failNode
    · exact h.touchV.schedIdent.launch.forget.markDispatched

theorem MemoryForm.startTask {x : ReadyNode} (h : MemoryForm s) : MemoryForm (s.startTask x) := by
  unfold State.startTask
  dsimp only
  split
  · exact h.failNode
  · exact ((h.fresh.updTask.foldl fun h1 => h1.bind).pushQ).markDispatched

theorem MemoryForm.startCopy {x : ReadyNode} (h : MemoryForm s) : MemoryForm (s.startCopy x) := by
  unfold State.startCopy
  dsimp only
  split
  · exact h.failNode
  · exact MemoryForm.markDispatched (.openStream (h.schedIdent (kind := 1)).fresh)

theorem execNodeDispatch_form {partition : Nat} (h : MemoryForm s) : OutForm (execNodeDispatch partition s) := by
  unfold execNodeDispatch
  extract_lets s1
  have parked : MemoryForm s1 := h.park
  split
  · exact parked
  split
  · exact parked
  have counted := parked.countTurn (part := partition)
  split
  · exact counted.readNode
  split
  · exact counted.failFree
  split
  · split
    · split
      · rename_i e
        exact parked.startRun.later e
      · exact parked
    · rename_i e
      exact counted.startRun.get e
  · exact counted.startTask
  · exact counted.startCopy
  · exact counted.markDispatched

theorem execNodeEvaluate_form {graph node : Nat} (h : MemoryForm s) : OutForm (execNodeEvaluate graph node s) := by
  unfold execNodeEvaluate
  extract_lets s1
  have read : MemoryForm s1 := h.readNode
  split
  · exact read
  extract_lets g
  split
  · exact read
  split
  · exact read
  split
  · exact read.updNode
  split
  · exact read.queueWalks
  · exact read.askOnce
  · exact read.noteBlock.dropWalkFault.failNode
  · extract_lets s2 v s3
    have touched : MemoryForm s2 := read.touchV.forget
    have iterated : MemoryForm s3 := touched.updGraph
    split
    · exact touched.finishNode
    split
    · exact touched.finishNode
    split
    · exact touched.failFree
    · exact iterated

theorem execNodeComplete_form {graph node : Nat} {s0 : State} (h : MemoryForm s0) : OutForm (execNodeComplete graph node s0) := by
  unfold execNodeComplete
  dsimp only
  split
  · exact h.readNode
  split
  · exact h.readNode
  split
  · exact h.readNode.finishNode
  split
  · split
    · exact h.readNode
    · exact h.readNode.drawNat.endGraph
  · split
    · exact h.readNode.drawNat.endGraph
    · exact h.readNode

end Sys2Proof.Machine
end

section
/-! PROOF. The form kept by the functions of Machine/Package: the package. -/
namespace Sys2Proof.Machine

variable {s : State} {w : Work}

theorem execEventLogAppend_form {source : Nat} (h : MemoryForm s) : OutForm (execEventLogAppend source s) := by
  unfold execEventLogAppend
  dsimp only
  split
  · exact h
  · split <;> exact h

/-- A package at reset has no byte listed and no sequencer listed. -/
theorem MemoryForm.rebooted : MemoryForm s.rebooted := ⟨State.reset_mem_wf, State.reset_sram_wf, fun _ hq => nomatch hq⟩

theorem MemoryForm.train (h : MemoryForm s) : MemoryForm s.train := h

theorem execPackageReset_form {crucible management scheduler : List FwImage} : OutForm (execPackageReset crucible management scheduler s) := by
  unfold execPackageReset
  split
  · exact MemoryForm.train (s := s.rebooted) .rebooted
  · exact MemoryForm.rebooted

theorem MemoryForm.finishOut {o : OutAcc} {code : Nat} {bs : List Byte} (h : MemoryForm s) : MemoryForm (s.finishOut o code bs) :=
  (Steady.refl .univ s).finishOut.form h
theorem MemoryForm.resetAccess {a : GAccess} (h : MemoryForm s) : MemoryForm (s.resetAccess a) := (Steady.refl .univ s).resetAccess.form h
theorem MemoryForm.loseDirty {die : Nat} (h : MemoryForm s) : MemoryForm (s.loseDirty die) := h
theorem MemoryForm.dropTiles {die : Nat} (h : MemoryForm s) : MemoryForm (s.dropTiles die) := h.foldl fun h1 => h1.freeTile
theorem MemoryForm.resetTask {t : Nat} (h : MemoryForm s) : MemoryForm (s.resetTask t) := ((Steady.refl .univ s).resetTask trivial).form h

theorem MemoryForm.resetEngine {die : Nat} {lose : Bool} {tiles : List Nat} {e : EngOp} (h : MemoryForm s) :
    MemoryForm (State.resetEngine die lose tiles s e) := (Steady.refl .univ s).resetEngine.form h

theorem MemoryForm.failTransfers {before : State} {die : Nat} {tiles : List Nat} (h : MemoryForm s) :
    MemoryForm (s.failTransfers before die tiles) := h.foldl fun h2 => h2.deferFault

theorem MemoryForm.failDeliveries {die : Nat} (h : MemoryForm s) : MemoryForm (s.failDeliveries die) := h.foldl fun h1 => h1.takeFault

theorem MemoryForm.clearDie {die : Nat} (h : MemoryForm s) : MemoryForm (s.clearDie die) :=
  ⟨h.mem, Memory.wf_zero _ _ h.sram, fun q hq => h.seqs q (List.mem_of_mem_filter hq)⟩

theorem MemoryForm.resetDie {die : Nat} {lose : Bool} (h : MemoryForm s) : MemoryForm (s.resetDie die lose) := by
  unfold State.resetDie
  extract_lets tiles s1 s2 s3 s4 s5 s6
  have h1 : MemoryForm s1 := h.dropTiles
  have h2 : MemoryForm s2 := h1.foldl fun h => h.stopNow
  have h3 : MemoryForm s3 := h2.foldl fun h => h.resetEngine
  have h4 : MemoryForm s4 := h3.foldl fun h => h.resetAccess
  have h5 : MemoryForm s5 := MemoryForm.ite h4.loseAnswers h4
  have h6 : MemoryForm s6 := h5.foldl fun h => h.resetTask
  exact h6.failTransfers.failDeliveries.clearDie

theorem execDieResetWarm_form {die : Nat} (h : MemoryForm s) : OutForm (execDieResetWarm die s) := by
  unfold execDieResetWarm
  split
  · exact h
  dsimp only
  split
  · exact h.foldl fun h1 => h1.writeBack
  · exact ((h.foldl fun h1 => h1.writeBack).loseDirty).resetDie

theorem execDieResetFatal_form {die : Nat} (h : MemoryForm s) : OutForm (execDieResetFatal die s) := by
  unfold execDieResetFatal
  split
  · exact h
  · exact h.loseDirty.resetDie

theorem execStaleResponseDrop_form {die serial : Nat} (h : MemoryForm s) : OutForm (execStaleResponseDrop die serial s) := by
  unfold execStaleResponseDrop
  split
  · exact h
  · split <;> exact h

theorem MemoryForm.dropFlight {link : Nat} (h : MemoryForm s) : MemoryForm (s.dropFlight link) := (Steady.refl .univ s).dropFlight.form h

theorem execLinkFailure_form {link : Nat} (h : MemoryForm s) : OutForm (execLinkFailure link s) := by
  unfold execLinkFailure
  split
  · exact h
  extract_lets first die unit s1 dropped s2 s3
  have h1 : MemoryForm dropped := h.logEvent.logFault.dropFlight
  clear_value dropped
  have h2 : MemoryForm s2 := ⟨h1.mem, h1.sram, h1.seqs⟩
  have h3 : MemoryForm s3 := h2.foldl fun h => h.stopNow
  refine MemoryForm.foldl h3 fun h => ?_
  exact MemoryForm.updGraph h.drawNat

theorem MemoryForm.read {ring sensor reading : Nat} (h : MemoryForm s) : MemoryForm (s.read ring sensor reading) := h

theorem execMigrate_form {ring sensor reading : Nat} {s0 : State} (h : MemoryForm s0) : OutForm (execMigrate ring sensor reading s0) := by
  unfold execMigrate
  split
  · exact h
  dsimp only
  split
  · exact h.read
  · exact h

theorem execMigrateRearm_form {ring sensor reading : Nat} (h : MemoryForm s) : OutForm (execMigrateRearm ring sensor reading s) := by
  unfold execMigrateRearm
  split
  · exact h
  · have read := h.read (ring := ring) (sensor := sensor) (reading := reading)
    exact MemoryForm.ite read read

theorem execThermalThrottle_form {sensor : SensorId} {reading : Nat} (h : MemoryForm s) : OutForm (execThermalThrottle sensor reading s) := by
  unfold execThermalThrottle
  split
  · exact h
  dsimp only
  split
  · exact h.read
  · exact h

theorem execThrottleRelease_form {sensor : SensorId} {reading : Nat} (h : MemoryForm s) : OutForm (execThrottleRelease sensor reading s) := by
  unfold execThrottleRelease
  split
  · exact h
  · have read := h.read (ring := sensor.ring) (sensor := sensor.sensor) (reading := reading)
    exact MemoryForm.ite read read

theorem execThermalShutdown_form {die reading : Nat} (h : MemoryForm s) : OutForm (execThermalShutdown die reading s) := by
  unfold execThermalShutdown
  split <;> exact h

theorem execPowerCapEnforce_form {power : PowerReading} {s0 : State} (h : MemoryForm s0) : OutForm (execPowerCapEnforce power s0) := by
  unfold execPowerCapEnforce
  dsimp only
  split
  · exact h
  · split <;> exact h

theorem execThresholdSet_form {value : Threshold} (h : MemoryForm s) : OutForm (execThresholdSet value s) := by
  cases value with
  | powerCapMW | migrateC | promoteClk | astallClk => exact OutForm.ite h h
  | retries => exact h
  | cacheShare => exact MemoryForm.ite h.setPart h

end Sys2Proof.Machine
end

section
/-! PROOF. The form kept by the functions of Machine/Partitions: partitions. -/
namespace Sys2Proof.Machine

variable {s : State} {w : Work}

theorem MemoryForm.grantPools {part : Nat} {g : PartGrant} (h : MemoryForm s) : MemoryForm (s.grantPools part g) :=
  MemoryForm.foldl (.foldl (.foldl h fun h1 => h1.setPool) fun h1 => h1.setPool) fun h1 => h1.setPool

theorem MemoryForm.openPeers {part : Nat} {peers : List Nat} (h : MemoryForm s) : MemoryForm (s.openPeers part peers) := h.foldl fun h1 => h1

theorem execPartitionCreate_form {partition : Nat} {grant : PartGrant} (h : MemoryForm s) : OutForm (execPartitionCreate partition grant s) := by
  unfold execPartitionCreate
  split
  · exact h
  · exact h.setPart.grantPools.openPeers

theorem MemoryForm.haltTask {t : Nat} (h : MemoryForm s) : MemoryForm (s.haltTask t) := by
  unfold State.haltTask
  split
  · exact h.updTask
  · exact h.drawNat.stopTask

theorem MemoryForm.haltSaved {x : SavedTask} (h : MemoryForm s) : MemoryForm (s.haltSaved x) := by
  unfold State.haltSaved
  dsimp only
  split
  · exact h.drawNat.toFirmware.failNode.leaveGroups.readerEnd
  · exact h.drawNat.toFirmware.leaveGroups.readerEnd

theorem MemoryForm.forgetIfaces {which : Nat → Bool} (h : MemoryForm s) : MemoryForm (s.forgetIfaces which) := h
theorem MemoryForm.endGraphs {part : Nat} (h : MemoryForm s) : MemoryForm (s.endGraphs part) := h
theorem MemoryForm.stopRuns {part : Nat} (h : MemoryForm s) : MemoryForm (s.stopRuns part) := h.foldl fun h1 => h1.stopAtOnce

theorem execPartitionDestroy_form {partition : Nat} (h : MemoryForm s) : OutForm (execPartitionDestroy partition s) := by
  unfold execPartitionDestroy
  extract_lets p
  split
  · exact h
  · have stopped := (h.setPart (p := partition) (v := { p with state := .ending })).endGraphs (part := partition) |>.stopRuns (part := partition)
    exact MemoryForm.foldl (stopped.foldl fun h1 => h1.haltSaved) fun h1 => h1.haltTask

theorem MemoryForm.zeroRings {rings : List Nat} (h : MemoryForm s) : MemoryForm (s.zeroRings rings) := by
  unfold State.zeroRings
  extract_lets s1
  have left : MemoryForm s1 := h.foldl fun h1 => h1.leaveGroups
  exact ⟨left.mem, left.sram, fun q hq => left.seqs q (List.mem_of_mem_filter hq)⟩

theorem MemoryForm.disownGranules {part : Nat} (h : MemoryForm s) : MemoryForm (s.disownGranules part) := h

theorem MemoryForm.forgetUnit {unit : Nat} (h : MemoryForm s) : MemoryForm (s.forgetUnit unit) := by
  unfold State.forgetUnit
  generalize (List.range (2 ^ 21)).map _ = bs
  exact ⟨Memory.wf_writeBytes _ _ h.mem, h.sram, h.seqs⟩

theorem execPartitionFree_form {partition : Nat} (h : MemoryForm s) : OutForm (execPartitionFree partition s) := by
  unfold execPartitionFree
  extract_lets p s1 s2
  split
  · exact h
  have freed : MemoryForm s1 := h.foldl fun h1 => h1.freeTile
  have forgotten : MemoryForm s2 := freed.zeroRings.disownGranules.foldl fun h1 => h1.forgetUnit
  exact MemoryForm.setPart forgotten

theorem execRingSetChange_form {ring target : Nat} (h : MemoryForm s) : OutForm (execRingSetChange ring target s) := by
  unfold execRingSetChange
  split
  · dsimp only
    split
    · exact h
    · exact h.setPart.zeroRings.setPart
  · dsimp only
    split
    · exact h
    · exact h.zeroRings.setPart

theorem execFunctionLevelReset_form {function : Nat} (h : MemoryForm s) : OutForm (execFunctionLevelReset function s) := by
  unfold execFunctionLevelReset
  extract_lets mine ids hit forgotten s1 gs s2 of s3
  have h1 : MemoryForm forgotten := h.forgetIfaces
  have h2 : MemoryForm s2 := MemoryForm.foldl (s := s1) h1 fun h => h.stopAtOnce
  have h3 : MemoryForm s3 := h2.foldl fun h => h.haltSaved
  exact h3.foldl fun h => h.haltTask

theorem execInterfaceBind_form {iface : Nat} {binding : Word} (h : MemoryForm s) : OutForm (execInterfaceBind iface binding s) := by
  unfold execInterfaceBind
  split
  · exact h
  · exact h.forgetIfaces.setIface

theorem execInterfaceUnbind_form {iface : Nat} (h : MemoryForm s) : OutForm (execInterfaceUnbind iface s) := by
  unfold execInterfaceUnbind
  split
  · exact h
  · exact h.forgetIfaces.setIface

theorem execNumvfsWrite_form {pf : Fin 2} {count : Nat} (h : MemoryForm s) : OutForm (execNumvfsWrite pf count s) := by
  unfold execNumvfsWrite
  dsimp only
  split <;> exact h

end Sys2Proof.Machine
end

section
/-! PROOF. The form kept by the functions of Machine/HostLink: the host and the links. -/
namespace Sys2Proof.Machine

variable {s : State} {w : Work}

theorem MemoryForm.reportAer {function code : Nat} (h : MemoryForm s) : MemoryForm (s.reportAer function code) := h

theorem MemoryForm.keepLines {o : OutAcc} {bs : List Byte} (h : MemoryForm s) : MemoryForm (s.keepLines o bs) := by
  unfold State.keepLines
  split <;> exact h

theorem execHostCompletion_form {serial : Nat} {status : CplStatus} (h : MemoryForm s) : OutForm (execHostCompletion serial status s) := by
  unfold execHostCompletion
  split
  · exact h
  split
  · dsimp only
    split
    · exact h.finishOut
    split
    · split
      · exact h
      · exact h.keepLines.finishOut
    · split
      · exact h
      · exact h.keepLines.finishOut
  · exact h.finishOut
  · exact h.finishOut
  · exact h.finishOut.reportAer

theorem MemoryForm.writePhys {part : Nat} {shared : Bool} {fuel pa : Nat} {bs : List Byte} (h : MemoryForm s) :
    MemoryForm (State.writePhys s part shared fuel pa bs) := by
  induction fuel generalizing s pa bs with
  | zero => exact h
  | succ fuel ih =>
    refine MemoryForm.ite h (ih ?_)
    split
    · exact h.logBlock
    · exact h.store

theorem execHostCxlMemAccess_form {pa : Nat} {access : HostAccess} (h : MemoryForm s) : OutForm (execHostCxlMemAccess pa access s) := by
  unfold execHostCxlMemAccess
  dsimp only
  split
  · exact h
  split
  · split
    · exact h
    split
    · exact h
    · split <;> exact h
  · split
    · exact h
    split
    · exact h
    split
    · exact h
    · exact MemoryForm.writePhys h

theorem MemoryForm.takeAck {key : Nat} {acked : BitVec 32} (h : MemoryForm s) : MemoryForm (s.takeAck key acked) := by
  unfold State.takeAck
  split
  · exact h
  dsimp only
  split
  · exact h
  refine MemoryForm.foldl h fun h1 => ?_
  split
  · exact h1.finishOut
  · exact h1

theorem MemoryForm.sendControl {key kind : Nat} (h : MemoryForm s) : MemoryForm (s.sendControl key kind) := by
  unfold State.sendControl
  split <;> exact h

theorem MemoryForm.received {key : Nat} (h : MemoryForm s) : MemoryForm (s.received key) := h
theorem MemoryForm.badFrame (h : MemoryForm s) : MemoryForm s.badFrame := h

theorem MemoryForm.inOrder {f : SoFrame} {kind length : Nat} {k : State → SoFrame → Nat × Nat → State} (h : MemoryForm s)
    (hk : ∀ {t : State} {g : SoFrame} {x : Nat × Nat}, MemoryForm t → MemoryForm (k t g x)) : MemoryForm (s.inOrder f kind length k) := by
  unfold State.inOrder
  dsimp only
  split
  · split
    · exact hk h.takeAck
    · split <;> exact h.takeAck.sendControl
  · exact h.badFrame

theorem execScaleoutReadResponse_form {frame : SoFrame} (h : MemoryForm s) : OutForm (execScaleoutReadResponse frame s) := by
  refine h.inOrder fun h1 => ?_
  dsimp only
  split
  · exact h1.received.sendControl.finishOut
  · exact h1.received.sendControl

theorem execScaleoutAck_form {frame : SoFrame} (h : MemoryForm s) : OutForm (execScaleoutAck frame s) := by
  unfold execScaleoutAck
  split
  · exact h.takeAck
  · exact h.badFrame

theorem MemoryForm.retransmit {key : Nat} (h : MemoryForm s) : MemoryForm (s.retransmit key) := by
  unfold State.retransmit
  split
  · exact h
  split
  · exact h
  split
  · exact h
  · dsimp only
    exact MemoryForm.foldl (.logEvent h.drawNat) fun h1 => h1.finishOut

theorem execScaleoutNak_form {frame : SoFrame} (h : MemoryForm s) : OutForm (execScaleoutNak frame s) := by
  unfold execScaleoutNak
  dsimp only
  split
  · exact h.takeAck.retransmit
  · exact h.badFrame

end Sys2Proof.Machine
end

section
/-! PROOF. The form kept by the functions of Machine/Attest: the attestation. -/
namespace Sys2Proof.Machine

variable {s : State} {w : Work}

theorem MemoryForm.answer {function : Nat} {asked : List Byte} {f : Spdm → Spdm × SpdmReply} (h : MemoryForm s) :
    OutForm (s.answer function asked f) := by
  unfold State.answer
  split <;> exact h

theorem MemoryForm.answerLater {function : Nat} {asked : List Byte} {f : Spdm → Spdm × SpdmReply} (h : MemoryForm s) :
    OutForm (s.answerLater function asked f) := h.answer

theorem execVendorDefinedRequest_form {function registry : Nat} {payload : SecuredPayload} (h : MemoryForm s) :
    OutForm (execVendorDefinedRequest function registry payload s) := by
  unfold execVendorDefinedRequest
  split
  · exact h.installKey.answer
  · exact h.answer

end Sys2Proof.Machine
end

section
/-! PROOF. The form kept by the functions of Machine/Matrix: matrix units. -/
namespace Sys2Proof.Machine

variable {s : State} {w : Work}

theorem WorkForm.updUnit {f : Matrix → Matrix} (h : WorkForm w) : WorkForm (w.updUnit f) := ⟨h.old, h.now⟩

theorem filled_form {f : CCFrame} {g : Matrix → Plane} (h : WorkForm w) : WorkForm (filled f w g) := by
  unfold filled
  dsimp only
  split
  · exact h.updUnit.emit2
  · exact h.updUnit

theorem completePlane_form {f : CCFrame} {rest : Nat → Plane → Plane} (h : WorkForm w) : WorkForm (completePlane f rest w) := by
  unfold completePlane
  dsimp only
  split
  · exact h
  split
  · exact h.updUnit.emit2
  · exact h.updUnit

theorem loaderFire_form {f : CCFrame} {b : Behave} (hb : BehaveForm b) (h : WorkForm w) : OptForm WorkForm (loaderFire f b w) := by
  unfold loaderFire
  extract_lets marker
  split
  · exact iteInduction (motive := OptForm WorkForm) (fun _ => trivial) fun _ => ccFire_form h hb
  · exact ccFire_form h hb

theorem ldsBehave_form {f : CCFrame} : BehaveForm (ldsBehave f) := ⟨fun h => filled_form h, fun h => h, fun h => h, fun h => completePlane_form h⟩
theorem ldsFire_form {f : CCFrame} (h : WorkForm w) : OptForm WorkForm (ldsFire f w) := loaderFire_form ldsBehave_form h
theorem mtrnBehave_form {f : CCFrame} : BehaveForm (mtrnBehave f) := ⟨fun h => filled_form h, fun h => h, fun h => h, fun h => completePlane_form h⟩
theorem mtrnFire_form {f : CCFrame} (h : WorkForm w) : OptForm WorkForm (mtrnFire f w) := loaderFire_form mtrnBehave_form h

theorem fireRow_form {f : CCFrame} {grouped : Bool} {toks : List Token} (h : WorkForm w) : WorkForm (fireRow f grouped toks w) := by
  unfold fireRow
  dsimp only
  exact WorkForm.count h

theorem mulBehave_form {f : CCFrame} {grouped two : Bool} : BehaveForm (mulBehave f grouped two) :=
  ⟨fun h => (fireRow_form h).emit.emit, fun h => h.emit2, fun h => h.emit2, fun h => h⟩

theorem mulFire_form {f : CCFrame} {b : Behave} (hb : BehaveForm b) (h : WorkForm w) : OptForm WorkForm (mulFire f b w) := by
  unfold mulFire
  extract_lets plane
  have fired := ccFire_form (f := f) h hb
  refine iteInduction (motive := OptForm WorkForm) (fun _ => iteInduction (fun _ => trivial) fun _ => ?_) fun _ => fired
  exact fired.map fun h1 => h1.updUnit

theorem mmaFire_form {f : CCFrame} (h : WorkForm w) : OptForm WorkForm (mmaFire f w) := mulFire_form mulBehave_form h
theorem mmaqFire_form {f : CCFrame} (h : WorkForm w) : OptForm WorkForm (mmaqFire f w) := mulFire_form mulBehave_form h

theorem WorkForm.updStripe {n slot : Nat} {f : Stripe → Stripe} (h : WorkForm w) : WorkForm { w with s := w.s.updStripe n slot f } :=
  ⟨h.old, h.now.updStripe⟩

theorem acczFire_form {f : CCFrame} (h : WorkForm w) : OptForm WorkForm (acczFire f w) := by
  unfold acczFire
  refine ccFire_form h (BehaveForm.plain fun h1 => ?_)
  extract_lets w1 users zero
  have zeroed : WorkForm w1 := h1.updUnit
  exact zeroed.updStripe.emit2

theorem accinFire_form {f : CCFrame} (h : WorkForm w) : OptForm WorkForm (accinFire f w) := by
  unfold accinFire
  refine ccFire_form h ⟨fun h1 => ?_, fun h1 => h1, fun h1 => h1.absorb, fun h1 => ?_⟩
  · dsimp only
    exact h1
  · dsimp only
    exact WorkForm.ite h1 h1

theorem dumpRow_form {f : CCFrame} {u : Ty} {p : AccPlane} {r : Nat} (h : WorkForm w) : WorkForm (dumpRow f u p r w) := by
  unfold dumpRow
  dsimp only
  refine WorkForm.foldl h.count fun h1 => ?_
  split <;> exact h1.emit2

theorem dump_form {f : CCFrame} (h : WorkForm w) : WorkForm (dump f w) := by
  unfold dump
  extract_lets u p rows nr w1 w2
  have dumped : WorkForm w1 := h.foldl fun h1 => (dumpRow_form h1).emit2.ite (dumpRow_form h1)
  have stopped : WorkForm w2 := dumped.emit2
  exact stopped.updUnit.ite stopped

theorem accoutFire_form {f : CCFrame} (h : WorkForm w) : OptForm WorkForm (accoutFire f w) := ccFire_form h (BehaveForm.plain dump_form)

theorem matTurn_form {f : CCFrame} {fire : Work → Option Work} (h : MemoryForm s) (hf : FireForm fire) : OutForm (matTurn f fire s) := by
  refine ccTurn_form h fun h1 => ?_
  split
  · trivial
  · exact hf h1

end Sys2Proof.Machine
end

section
/-! PROOF. The form kept by the functions of Machine/SeqAlu: a sequencer's arithmetic. -/
namespace Sys2Proof.Machine

variable {s : State} {w : Work}

theorem aluReg_form {f : Word → Word → Word} {g : Guard} {d a b : Reg} (h : MemoryForm s) : OutForm (aluReg f g d a b s) := seqExec_form h h
theorem lateReg_form {n : Nat} {f : Word → Word → Word} {g : Guard} {d a b : Reg} (h : MemoryForm s) : OutForm (lateReg n f g d a b s) :=
  seqExec_form h h

theorem lateImm_form {n : Nat} {f : Word → Word → Word} {g : Guard} {d a : Reg} {imm : BitVec 32} (h : MemoryForm s) :
    OutForm (lateImm n f g d a imm s) := seqExec_form h h

theorem aluImm_form {f : Word → Word → Word} {g : Guard} {d a : Reg} {imm : BitVec 32} (h : MemoryForm s) : OutForm (aluImm f g d a imm s) :=
  seqExec_form h h

theorem execBrx_form {g : Guard} {a : Reg} (h : MemoryForm s) : OutForm (execBrx g a s) := by
  unfold execBrx
  refine seqExec_form h ?_
  split <;> exact h

theorem execRet_form {g : Guard} (h : MemoryForm s) : OutForm (execRet g s) := by
  unfold execRet
  refine seqExec_form h ?_
  split <;> exact h

theorem execLoop_form {g : Guard} {d : Reg} {off : BitVec 32} (h : MemoryForm s) : OutForm (execLoop g d off s) := by
  unfold execLoop
  refine seqExec_form h ?_
  dsimp only
  split <;> exact h.setR

theorem execTend_form {g : Guard} (h : MemoryForm s) : OutForm (execTend g s) := by
  unfold execTend
  refine seqExec_form h ?_
  extract_lets t x s1 s2 s3
  have h1 : MemoryForm s1 := h.dropDeferred.leaveGroups.readerEnd
  have h2 : MemoryForm s2 := MemoryForm.ite h1 h1.ownerEnd
  have h3 : MemoryForm s3 := by
    show MemoryForm (match x.node with | some (gr, n) => s2.updNode gr n _ | none => s2)
    split
    · exact h2.updNode
    · exact h2
  exact h3.updMe

end Sys2Proof.Machine
end

section
/-! PROOF. The form kept by the functions of Machine/Switch: switches. -/
namespace Sys2Proof.Machine

variable {s : State} {w : Work}

theorem WorkForm.inPop {x : Nat × Src} (h : WorkForm w) : WorkForm (w.inPop x) := h.pop
theorem WorkForm.emitAll {f : SWFrame} {t : Token} (h : WorkForm w) : WorkForm (Work.emitAll f w t) := h.foldl fun h1 => h1

theorem WorkForm.emitLow {f : SWFrame} {t : Token} (h : WorkForm w) : WorkForm (Work.emitLow f w t) := by
  unfold Work.emitLow
  split
  · exact h
  · exact h.emit

theorem WorkForm.takeIdx {f : SWFrame} (h : WorkForm w) : WorkForm (Work.takeIdx f w) := by
  unfold Work.takeIdx
  split
  · exact h
  · exact h
  · exact h.pop
  · split
    · split
      · exact h
      · split <;> exact h
    · split
      · exact h
      · dsimp only
        split <;> exact h.pop

theorem swStop_form {f : SWFrame} {level : BitVec 3} {r : Ride} (h : WorkForm w) : WorkForm (swStop f level r w) := by
  unfold swStop
  dsimp only
  refine WorkForm.emitAll ?_
  split
  · exact h.passStop.release
  · exact h.passStop

theorem swMarker_form {f : SWFrame} (h : WorkForm w) : OptForm WorkForm (swMarker f w) := by
  unfold swMarker
  cases f.used.findSome? fun x => match w.inHead x with | some t => if t.isMarker then some (x, t) else none | none => none with
  | none => trivial
  | some y => exact h.inPop.passMarker.emitAll

theorem allParked_form {f : SWFrame} {ts : List ((Nat × Src) × Token)} (h : WorkForm w) : WorkForm (allParked f ts w) :=
  swStop_form (h.foldl fun h1 => h1.inPop)

theorem swTurn_form {f : SWFrame} {fire : Work → Option Work} (h : MemoryForm s) (hf : FireForm fire) : OutForm (swTurn f fire s) := by
  unfold swTurn
  split
  · exact h
  rename_i e
  refine (h.workAt.get e).turn fun {v} h1 => ?_
  have marked : OptForm WorkForm (if v.op.resolving.isNone then swMarker f v else none) := by
    split
    · exact swMarker_form h1
    · trivial
  split
  · rename_i e1
    exact marked.get (P := WorkForm) e1
  · exact hf h1

theorem swTake_form {f : SWFrame} {x : (Nat × Src) × Token} (h : WorkForm w) : WorkForm (swTake f x w) := by
  unfold swTake
  dsimp only
  split
  · exact swStop_form h.inPop
  · exact h.inPop.emitAll

theorem selxFire_form {f : SWFrame} (h : WorkForm w) : OptForm WorkForm (selxFire f w) := by
  unfold selxFire
  dsimp only
  split
  · exact allParked_form h
  split
  · trivial
  split
  · exact h.takeIdx.emitAll
  split
  · exact h.takeIdx.err.emitAll
  split
  · trivial
  split
  · exact swTake_form h.takeIdx
  split
  · exact h.takeIdx.err.emitAll
  · trivial

theorem distFire_form {f : SWFrame} (h : WorkForm w) : OptForm WorkForm (distFire f w) := by
  unfold distFire
  dsimp only
  split
  · trivial
  split
  · exact swTake_form h
  split
  · trivial
  split
  · exact h.takeIdx.inPop.emitLow
  split
  · exact h.takeIdx.inPop.emit
  · exact h.takeIdx.inPop.err.emitLow

theorem arbFire_form {f : SWFrame} (h : WorkForm w) : OptForm WorkForm (arbFire f w) := by
  unfold arbFire
  dsimp only
  split
  · exact allParked_form h
  split
  · trivial
  · exact swTake_form h

theorem joinFire_form {f : SWFrame} (h : WorkForm w) : OptForm WorkForm (joinFire f w) := by
  unfold joinFire
  dsimp only
  split
  · exact h.resolveStep swStop_form
  split
  · trivial
  split
  · split
    · exact swStop_form (h.foldl fun h1 => h1.inPop)
    · exact h.err.emitAll
  · split
    · exact (h.foldl fun h1 => h1.inPop).emitAll
    · exact (h.foldl fun h1 => h1.inPop).emitAll
    · trivial

theorem execHeldStopDiscard_form {p : OpPlace} {port : PortName} (h : MemoryForm s) : OutForm (execHeldStopDiscard p port s) := by
  unfold execHeldStopDiscard
  split
  · rename_i e _
    have hw : WorkForm _ := h.workAt.get e
    split
    · exact OutForm.ite hw.pop.now h
    · exact h
  · exact h

theorem execIndexStopDiscard_form {p : OpPlace} (h : MemoryForm s) : OutForm (execIndexStopDiscard p s) := by
  unfold execIndexStopDiscard
  split
  · rename_i e _
    have hw : WorkForm _ := h.workAt.get e
    split
    · exact OutForm.ite hw.absorb.pop.now h
    · exact h
  · exact h

end Sys2Proof.Machine
end


section
/-! PROOF. The form kept by every instruction and by every step (O60). -/
namespace Sys2Proof.Machine

variable {s : State}

/-- Every instruction keeps the form, by the family of its meaning. -/
theorem exec_form (h : MemoryForm s) (i : Instr) : OutForm (exec i s) := by
  unfold exec
  cases i with
  | pass | ccMin | ccMax | ccAnd | ccOr | ccXor | ccAndn | ccShl | ccShr | ccSar | rol | ccClz | ccPopc => exact ccExec_form h onPattern_form
  | ccAdd | ccSub | ccMul | mad | absd => exact ccExec_form h intFin_form
  | ccMulh | selv | fmin | fmax | fexp2 | flog2 | ftanh | fclass => exact ccExec_form h elementwise_form
  | cmpv | fcmpv => exact ccExec_form h cmpMask_form
  | cmpp | fcmpp => exact ccExec_form h cmpPred_form
  | divi => exact ccExec_form h (BehaveForm.plain (fun h1 => .emit (.emit h1)))
  | fadd | fsub | fmul | fma | fdiv | fsqrt | frcp | frsq => exact ccExec_form h floatOp_form
  | cvt | cvti | cvtf | qnt | dqnt => exact ccExec_form h convert_form
  | pack => exact ccTotal_form h packFire_form
  | unpk => exact ccTotal_form h unpkFire_form
  | shuf | lrot | bcst => exact ccExec_form h moveLanes_form
  | scan => exact ccTurn_form h fun h1 => ccFire_form h1 scanBehave_form
  | red | lidx => exact ccExec_form h (BehaveForm.plain (fun h1 => .emit2 (.count h1)))
  | steer => exact ccTotal_form h steerFire_form
  | filt => exact execFilt_form h
  | merge => exact ccTotal_form h fun h1 => mergeFire_form mergeChoose_form h1
  | cmerge => exact ccTurn_form h fun h1 => mergeFire_form cmergeChoose_form h1
  | acc => exact ccExec_form h accBehave_form
  | count => exact ccExec_form h countBehave_form
  | gen => exact ccTurn_form h genFire_form
  | repl => exact ccTurn_form h replFire_form
  | levup => exact ccTurn_form h levupFire_form
  | levdn => exact ccTurn_form h levdnFire_form
  | stopat => exact ccTurn_form h fun h1 => ccFire_form h1 stopatBehave_form
  | sink => exact ccTotal_form h sinkFire_form
  | tokp | ptok => exact ccExec_form h ⟨fun h1 => h1, fun h1 => h1, fun h1 => h1, fun h1 => h1⟩
  | plogic => exact execPlogic_form h
  | pdup => exact execPdup_form h
  | pgen => exact execPgen_form h
  | snadd => exact snTurn_form h snFlush_form
  | snsink => exact execSnsink_form h
  | lds => exact matTurn_form h ldsFire_form
  | mma => exact matTurn_form h mmaFire_form
  | mmaq => exact matTurn_form h mmaqFire_form
  | accz => exact matTurn_form h acczFire_form
  | accout => exact matTurn_form h accoutFire_form
  | accin => exact matTurn_form h accinFire_form
  | mtrn => exact matTurn_form h mtrnFire_form
  | trd => exact mcTurn_form h fun h1 => mcFire_form h1 ⟨trdData_form, fun h2 => h2, fun h2 => h2, fun h2 => h2, errBoth_form⟩
  | twr => exact mcTurn_form h fun h1 => mcFire_form h1 ⟨twrData_form, twrOff_form, twrStop_form, fun h2 => h2, fun h2 => h2⟩
  | trdc => exact mcTurn_form h fun h1 => mcFire_form h1 ⟨trdcData_form, fun h2 => h2, fun h2 => h2, fun h2 => h2, errBoth_form⟩
  | twrc => exact mcTurn_form h fun h1 => mcFire_form h1 ⟨twrcData_form, fun h2 => h2.ack.takeMc, twrcStop_form, fun h2 => h2, fun h2 => h2⟩
  | gath => exact execGath_form h
  | scat => exact mcTurn_form h fun h1 => mcFire_form h1 ⟨scatData_form, fun h2 => h2.ack.takeMc, closeStop_form, fun h2 => h2, fun h2 => h2⟩
  | rmwa => exact mcTurn_form h fun h1 => mcFire_form h1 ⟨rmwaData_form, offBoth_form, closeStop_form, fun h2 => h2, fun h2 => h2⟩
  | tas =>
    exact mcTurn_form h fun h1 => mcFire_form h1 ⟨tasData_form, fun h2 => h2.tasOut.takeMc, closeStop_form, fun h2 => h2, fun h2 => h2.queueItem⟩
  | atom => exact mcTurn_form h fun h1 => mcFire_form h1 ⟨atomData_form, offBoth_form, fun h2 => h2, fun h2 => h2, errBoth_form⟩
  | lreq => exact mcTurn_form h fun h1 => mcFire_form h1 ⟨lreqData_form, fun h2 => h2, fun h2 => h2, fun h2 => h2, errBoth_form⟩
  | sreq => exact mcTurn_form h fun h1 => mcFire_form h1 ⟨sreqData_form, sreqOff_form, sreqStop_form, fun h2 => h2, fun h2 => h2⟩
  | fifo => exact execFifo_form h
  | lut => exact mcTurn_form h fun h1 => mcFire_form h1 ⟨lutData_form, fun h2 => h2, fun h2 => h2, fun h2 => h2, errBoth_form⟩
  | selx => exact swTurn_form h selxFire_form
  | dist => exact swTurn_form h distFire_form
  | arb => exact swTurn_form h fun h1 => h1.throughRegister arbFire_form
  | join => exact swTurn_form h joinFire_form
  | add | sub | and | or | xor | andn | shl | shr | sar | min | minn | max | maxn | sext | zext => exact aluReg_form h
  | addImm | subImm | andImm | orImm | xorImm | andnImm | shlImm | shrImm | sarImm | minImm | minnImm | maxImm | maxnImm | sextImm | zextImm =>
    exact aluImm_form h
  | mul | mulh | mulhn | div | divn | rem | remn => exact lateReg_form h
  | mulImm | mulhImm | mulhnImm | divImm | divnImm | remImm | remnImm => exact lateImm_form h
  | clz | clzImm | popc | popcImm | li | lui | sel | setp | setpi | plog | br | call | nop | fenceRel | gleave | trap | rdts | crd | cwr
    | cinvCfg | cinvCode => exact seqExec_form h h
  | brx => exact execBrx_form h
  | ret => exact execRet_form h
  | loop => exact execLoop_form h
  | tend => exact execTend_form h
  | yield => exact seqExec_form h h.rotate
  | waitch | wait | fenceAcq | fenceAr | fenceOrd => exact seqExec_form h (await_form h h)
  | recv => exact execRecv_form h
  | sendq | sendqReg => exact seqExec_form h (sendTo_form h)
  | ld => exact execLd_form h
  | st => exact execSt_form h
  | ldg | stg => exact seqExec_form h (issueAccess_form h)
  | atomgAdd | atomgMin | atomgMax | atomgMinn | atomgMaxn | atomgAnd | atomgOr | atomgXor | atomgXchg | atomgCas => exact atomg_form h
  | talloc | tallocReg => exact seqExec_form h (tallocWith_form h)
  | tseal => exact execTseal_form h
  | tstat => exact execTstat_form h
  | tload => exact execTload_form h
  | tstore => exact execTstore_form h
  | txfer => exact execTxfer_form h
  | draw => exact execDraw_form h
  | draws => exact execDraws_form h
  | send => exact execSend_form h
  | copym => exact execCopym_form h
  | run => exact execRun_form h
  | rstopSafe => exact seqExec_form h (onNamed_form h h.stopSafe h.abandonHeld)
  | rstopNow => exact seqExec_form h (onNamed_form h h.stopAtOnce h.abandonHeld)
  | rswap => exact execRswap_form h
  | resume => exact seqExec_form h (onNamed_form h h h)
  | glaunch => exact execGlaunch_form h
  | waitt => exact execWaitt_form h
  | gjoin => exact execGjoin_form h
  | garr => exact execGarr_form h
  | gwait => exact execGwait_form h
  | safept => exact execSafept_form h
  | eret => exact execEret_form h
  | fwcall => exact execFwcall_form h
  | iload => exact execIload_form h
  | heldStopDiscard => exact execHeldStopDiscard_form h
  | indexStopDiscard => exact execIndexStopDiscard_form h
  | mcResponse | mcAcknowledge => exact mcDeliver_form h
  | lutCopy => exact execLutCopy_form h
  | seamFifoDeliver => exact execSeamFifoDeliver_form h
  | tileBindingStream => exact execTileBindingStream_form h
  | ofQueueSend => exact execOfQueueSend_form h
  | ofTileWrite => exact execOfTileWrite_form h
  | stripeImageAccept => exact execStripeImageAccept_form h
  | stripeConfigure => exact execStripeConfigure_form h
  | stripeRetire => exact execStripeRetire_form h
  | stateRestore => exact execStateRestore_form h
  | runAdmit => exact execRunAdmit_form h
  | poolGrant => exact h.grantHead
  | poolFiguresSet => exact execPoolFiguresSet_form h
  | astall => exact execAstall_form h
  | runEnd => exact execRunEnd_form h
  | runSpgap => exact execRunSpgap_form h
  | quiet => exact execQuiet_form h
  | sliceMark => exact execSliceMark_form h
  | slotRelease => exact execSlotRelease_form h
  | gangMark => exact execGangMark_form h
  | gangCommit => exact execGangCommit_form h
  | gangDeadlineExpiry => exact execGangDeadlineExpiry_form h
  | migrate => exact execMigrate_form h
  | migration => exact execMigration_form h
  | migrationCancel => exact execMigrationCancel_form h
  | suspendedRunResume => exact execSuspendedRunResume_form h
  | rebuildStubEntry => exact execRebuildStubEntry_form h
  | rswapPrepare => exact execRswapPrepare_form h
  | imageSwap => exact execImageSwap_form h
  | taskActivate => exact execTaskActivate_form h
  | taskUnblock => exact execTaskUnblock_form h
  | deferredFault => exact execDeferredFault_form h
  | globalAccessComplete => exact execGlobalAccessComplete_form h
  | drawComplete => exact execDrawComplete_form h
  | drawsTileComplete => exact execDrawsTileComplete_form h
  | txferComplete => exact execTxferComplete_form h
  | sendReadDone => exact execSendReadDone_form h
  | sendWritesVisible => exact execSendWritesVisible_form h
  | copymComplete => exact execCopymComplete_form h
  | taskSpgap => exact execTaskSpgap_form h
  | taskSwitchResume => exact execTaskSwitchResume_form h
  | streamerBind => exact execStreamerBind_form h
  | streamerPromote | nodePromote => exact h
  | translationWalkComplete => exact execTranslationWalkComplete_form h
  | translationInvalidate => exact execTranslationInvalidate_form h
  | remoteWriteApply => exact execRemoteWriteApply_form h
  | sealedWriteback => exact h.writeBack
  | kilnRotate => exact execKilnRotate_form h
  | kilnSweep => exact execKilnSweep_form h
  | kilnRetire => exact execKilnRetire_form h
  | kilnInitialiseRange => exact execKilnInitialiseRange_form h
  | treeKeyRotation => exact MemoryForm.releaseStalled h
  | launch => exact execLaunch_form h
  | cancel => exact execCancel_form h
  | notifyReservedWrite => exact execNotifyReservedWrite_form h
  | graphAccept => exact execGraphAccept_form h
  | nodeDispatch => exact execNodeDispatch_form h
  | nodeEvaluate => exact execNodeEvaluate_form h
  | nodeComplete => exact execNodeComplete_form h
  | faultRecordDeliver => exact execFaultRecordDeliver_form h
  | eventLogAppend => exact execEventLogAppend_form h
  | packageReset => exact execPackageReset_form
  | dieResetWarm => exact execDieResetWarm_form h
  | dieResetFatal => exact execDieResetFatal_form h
  | staleResponseDrop => exact execStaleResponseDrop_form h
  | linkFailure => exact execLinkFailure_form h
  | thermalThrottle => exact execThermalThrottle_form h
  | thermalShutdown => exact execThermalShutdown_form h
  | powerCapEnforce => exact execPowerCapEnforce_form h
  | partitionCreate => exact execPartitionCreate_form h
  | partitionDestroy => exact execPartitionDestroy_form h
  | partitionFree => exact execPartitionFree_form h
  | functionLevelReset => exact execFunctionLevelReset_form h
  | interfaceBind => exact execInterfaceBind_form h
  | interfaceUnbind => exact execInterfaceUnbind_form h
  | numvfsWrite => exact execNumvfsWrite_form h
  | hostCompletion => exact execHostCompletion_form h
  | hostCxlMemAccess => exact execHostCxlMemAccess_form h
  | scaleoutWrite => exact h.inOrder fun h1 => MemoryForm.ite h1.badFrame h1.writePhys.received.sendControl
  | scaleoutReadRequest => exact h.inOrder fun h1 => MemoryForm.ite h1.badFrame h1.received.sendFrame
  | scaleoutReadResponse => exact execScaleoutReadResponse_form h
  | scaleoutAck => exact execScaleoutAck_form h
  | scaleoutNak => exact execScaleoutNak_form h
  | retransmitTimeout => exact h.retransmit
  | getVersion | getCapabilities | negotiateAlgorithms => exact h.answer
  | getDigests | getCertificate | challenge | getMeasurements | finish | endSession => exact h.answerLater
  | keyExchange => exact MemoryForm.answerLater h
  | vendorDefinedRequest => exact execVendorDefinedRequest_form h
  | contextCreate => exact execContextCreate_form h
  | kilnGeneratedKey => exact MemoryForm.installKey h
  | ringSetChange => exact execRingSetChange_form h
  | taskSwitchRequest => exact h.updTask
  | throttleRelease => exact execThrottleRelease_form h
  | migrateRearm => exact execMigrateRearm_form h
  | thresholdSet => exact execThresholdSet_form h
  | heldRequestFirmwareRelease => exact execHeldRequestFirmwareRelease_form h

/-- A prepared turn has the form: the state an instruction starts from, or the answer given without one. -/
def PreparedForm : Prepared → Prop
  | .run _ s => MemoryForm s
  | .answer o => OutForm o

theorem MemoryForm.issue {ring : Nat} (h : MemoryForm s) : PreparedForm (s.issue ring) := by
  unfold State.issue
  generalize (if s.enabled.contains ring then s.pickSlot ring else none) = slot
  split
  · exact h
  · rename_i k
    extract_lets t _ s1 x
    have chosen : MemoryForm s1 := h.rotate
    split
    · exact chosen.updTask.takeFault
    split
    · exact ResForm.finish (r := .fault _ s1) chosen
    split
    · exact ResForm.finish (r := .fault _ s1) chosen
    split
    · exact ResForm.finish (r := .fault _ s1) chosen
    · exact chosen

theorem MemoryForm.prepare (h : MemoryForm s) : PreparedForm s.prepare := by
  unfold State.prepare
  split
  · split
    · trivial
    · exact h
  · rename_i t rest _
    extract_lets _ s1
    have elapsed : MemoryForm s1 := h.elapse (clk := t.clk) (ticks := t.ticks)
    split
    · split
      · trivial
      · exact elapsed.issue
    · split
      · trivial
      split
      · exact elapsed.runFault.endRunSoon
      split <;> exact elapsed
    · split
      · trivial
      split
      · trivial
      · exact elapsed

theorem step_form (h : MemoryForm s) : OutForm (step s) := by
  have prepared := h.prepare
  unfold step
  generalize s.prepare = p at prepared
  cases p with
  | run i s1 => exact exec_form prepared i
  | answer o => exact prepared

/-- Settles O60: the next state of every outcome of `step` has the form. -/
theorem everyStepKeepsMemoryForm : Obligations.EveryStepKeepsMemoryForm := by
  unfold Obligations.EveryStepKeepsMemoryForm
  intro s t h e
  have next := step_form h
  rwa [e] at next

end Sys2Proof.Machine
end

section
/-! PROOF. Events, resets, links, heat and power of the package (O49). -/
namespace Sys2Proof.Machine

variable {s s0 : State}

/-! ### The event log -/

theorem execEventLogAppend_waits {source : Nat} {e : Event} {rest : List Event} (hb : (Tab.get s.sources ⟨[], 0⟩ source).buffer = e :: rest)
    (hp : s.passed e = false) : execEventLogAppend source s = .next s := by
  unfold execEventLogAppend
  simp [hb, hp]

theorem execEventLogAppend_appends {source : Nat} {e : Event} {rest : List Event} (hb : (Tab.get s.sources ⟨[], 0⟩ source).buffer = e :: rest)
    (hd : (Tab.get s.sources ⟨[], 0⟩ source).dropped = 0) (hp : s.passed e = true) (he : e.bad = false) :
    ∃ t, execEventLogAppend source s = .next t ∧ t.log = s.log ++ [e] ∧ (Tab.get t.sources ⟨[], 0⟩ source).buffer = rest := by
  unfold execEventLogAppend
  simp [hb, hp, he, EventSource.afterTake, hd]

theorem execEventLogAppend_loses {source : Nat} {e : Event} {rest : List Event} (hb : (Tab.get s.sources ⟨[], 0⟩ source).buffer = e :: rest)
    (hd : (Tab.get s.sources ⟨[], 0⟩ source).dropped = 0) (hp : s.passed e = true) (he : e.bad = true) :
    ∃ t, execEventLogAppend source s = .next t ∧ t.log = s.log
      ∧ (Tab.get t.sources ⟨[], 0⟩ source).buffer = rest ++ [⟨s.timestamp, source, 0x10, 0, s.inc (source / 512), 1, 0, false⟩] := by
  unfold execEventLogAppend
  simp [hb, hp, he, EventSource.afterTake, hd]

/-! ### The package reset -/

/-- A package as a reset leaves it: nothing runs and nothing is held, and the enabled rings are those it had. -/
def State.Fresh (s t : State) : Prop :=
  (∀ k, t.task k = Task.reset) ∧ t.incs = Vector.replicate 8 0 ∧ t.tiles = [] ∧ t.runs = [] ∧ t.management.rings = s.enabled ∧ t.off = false
  ∧ ∀ p, (t.part p).state = .free

theorem rebooted_fresh (s : State) : s.Fresh s.rebooted := ⟨fun _ => rfl, rfl, rfl, rfl, rfl, rfl, fun _ => rfl⟩

/-- Without an image of each kind the package stays as the reset left it. -/
theorem execPackageReset_refuses {cs ms ss : List FwImage} (h : bootImage 1 cs = none ∨ bootImage 2 ms = none ∨ bootImage 3 ss = none) :
    execPackageReset cs ms ss s = .next s.rebooted := by
  unfold execPackageReset
  split
  · rename_i hc hm hx
    simp [hc, hm, hx] at h
  · rfl

theorem execPackageReset_boots {cs ms ss : List FwImage} {c m x : FwImage} (hc : bootImage 1 cs = some c) (hm : bootImage 2 ms = some m)
    (hx : bootImage 3 ss = some x) : execPackageReset cs ms ss s = .next { s.rebooted.train with
      booted := true, aliasKey := aliasOf (FwImage.digest c) (FwImage.digest m)
      measures := [FwImage.digest c, FwImage.digest m, FwImage.digest x] } := by
  unfold execPackageReset
  simp [hc, hm, hx]

/-! ### The reset of a die -/

/-- The dies keep their incarnations, and no die has a tile that had none. -/
def DieSteady (s0 s : State) : Prop := s.incs = s0.incs ∧ ∀ x ∈ s.tiles, ∃ y ∈ s0.tiles, y.die = x.die

theorem DieSteady.refl (s : State) : DieSteady s s := ⟨rfl, fun x hx => ⟨x, hx, rfl⟩⟩

theorem DieSteady.next {T : Set Nat} {t : State} (h : DieSteady s0 s) (ht : Steady T s t) : DieSteady s0 t := by
  refine ⟨ht.incs.trans h.1, fun x hx => ?_⟩
  obtain ⟨y, hy, e⟩ := ht.tiles x hx
  obtain ⟨z, hz, e1⟩ := h.2 y hy
  exact ⟨z, hz, e1.trans e⟩

theorem Steady.unconfigure {T : Set Nat} {n : Nat} (h : Steady T s0 s) : Steady T s0 (s.unconfigure n) := by
  unfold State.unconfigure
  split
  · exact h
  · exact Steady.updRun (h.foldl fun h1 => h1.endRead) fun _ => ⟨rfl, rfl, rfl, fun hr => ⟨hr.1, rfl⟩⟩

theorem DieSteady.stopNow {n cause : Nat} (h : DieSteady s0 s) : DieSteady s0 (s.stopNow n cause) := by
  unfold State.stopNow
  split
  · exact h
  split
  · exact h
  · have ended : DieSteady s0 (s.unconfigure n) := h.next ((Steady.refl .univ s).unconfigure)
    exact ended

theorem Steady.dropTiles {T : Set Nat} {die : Nat} (h : Steady T s0 s) : Steady T s0 (s.dropTiles die) := h.foldl fun h1 => h1.freeTile

theorem mem_tiles_freeTile {u : Nat} {x : Tile} (h : x ∈ (s.freeTile u).tiles) : x ∈ s.tiles ∧ x.uid ≠ u := by
  have kept (h1 : x ∈ s.tiles.filter fun x => x.uid != u) : x ∈ s.tiles ∧ x.uid ≠ u := by simpa using h1
  unfold State.freeTile at h
  split at h
  · rename_i none
    exact ⟨h, by simpa using List.find?_eq_none.mp none x h⟩
  dsimp only at h
  split at h
  · exact kept h
  split at h
  · split at h <;> exact kept h
  · exact kept h

theorem mem_tiles_foldl_freeTile {l : List Tile} {x : Tile} (h : x ∈ (l.foldl (fun (s : State) t => s.freeTile t.uid) s).tiles) :
    x ∈ s.tiles ∧ ∀ t ∈ l, x.uid ≠ t.uid := by
  induction l generalizing s with
  | nil => exact ⟨h, by simp⟩
  | cons t l ih =>
    obtain ⟨h1, hl⟩ := ih h
    obtain ⟨hx, ht⟩ := mem_tiles_freeTile h1
    exact ⟨hx, List.forall_mem_cons.mpr ⟨ht, hl⟩⟩

theorem die_ne_of_mem_dropTiles {die : Nat} {x : Tile} (h : x ∈ (s.dropTiles die).tiles) : x.die ≠ die := fun e => by
  obtain ⟨hx, hl⟩ := mem_tiles_foldl_freeTile h
  exact hl x (List.mem_filter.mpr ⟨hx, by simpa using e⟩) rfl

theorem task_resetTask (s : State) (t : Nat) : (s.resetTask t).task t = Task.reset := State.task_setTask ..

theorem task_foldl_resetTask {first k n : Nat} (hk : k < n) :
    ((List.range n).foldl (fun (x : State) j => x.resetTask (first + j)) s).task (first + k) = Task.reset := by
  induction n with
  | zero => omega
  | succ n ih =>
    rw [List.range_succ, List.foldl_append]
    by_cases e : k = n
    · subst e
      exact task_resetTask ..
    · refine ((Steady.refl {first + n} _).resetTask rfl).task ?_ (ih (by omega))
      simpa using e

/-- The tasks of the dies other than one. -/
def elsewhere (die : Nat) : Set Nat := { t | taskDie t ≠ die }

theorem Steady.failTransfers {before : State} {die : Nat} {tiles : List Nat} (h : Steady (elsewhere die) s0 s) :
    Steady (elsewhere die) s0 (s.failTransfers before die tiles) := by
  refine List.foldlRecOn _ _ h fun x hx p hp => hx.deferFault ?_
  have far := (List.mem_filter.mp hp).2
  simp only [Bool.and_eq_true, bne_iff_ne] at far
  exact far.1

theorem Steady.failDeliveries {die : Nat} (h : Steady (elsewhere die) s0 s) : Steady (elsewhere die) s0 (s.failDeliveries die) := by
  refine List.foldlRecOn _ _ h fun x hx p hp => hx.takeFault ?_
  have far := (List.mem_filter.mp hp).2
  rw [Bool.and_eq_true, bne_iff_ne] at far
  exact far.1

/-- Before its reset clears what the die holds, the die's tasks stand at reset, it has no tile, and its incarnation is still the old one. -/
theorem resetDie_eq_clearDie (s : State) (die : Nat) (lose : Bool) :
    ∃ t : State, s.resetDie die lose = t.clearDie die ∧ t.incs = s.incs ∧ (∀ x ∈ t.tiles, x.die ≠ die)
      ∧ ∀ k < 32, t.task (32 * die + k) = Task.reset := by
  unfold State.resetDie
  extract_lets tiles s1 s2 s3 s4 s5 s6
  have h2 : DieSteady s1 s2 := List.foldlRecOn _ _ (.refl s1) fun _ h _ _ => h.stopNow
  have h5 : Steady .univ s2 s5 := by
    have h3 : Steady .univ s2 s3 := (Steady.refl .univ s2).foldl fun h => h.resetEngine
    have h4 : Steady .univ s2 s4 := h3.foldl fun h => h.resetAccess
    exact h4.loseAnswers.ite h4
  have h6 : Steady .univ s2 s6 := h5.foldl fun h => h.resetTask trivial
  have h8 : Steady (elsewhere die) s6 ((s6.failTransfers s die tiles).failDeliveries die) := (Steady.refl _ s6).failTransfers.failDeliveries
  obtain ⟨incs, dies⟩ := (h2.next h6).next h8
  refine ⟨_, rfl, incs.trans ((Steady.refl .univ s).dropTiles (die := die)).incs, fun x hx => ?_, fun k hk => ?_⟩
  · obtain ⟨y, hy, e⟩ := dies x hx
    exact e ▸ die_ne_of_mem_dropTiles hy
  · refine h8.task ?_ (task_foldl_resetTask hk)
    have : (32 * die + k) / 32 = die := by omega
    simpa [elsewhere, taskDie] using this

theorem Memory.read_zero_inside {m : Memory} {a n x : Nat} (hx : a ≤ x ∧ x < a + n) : (m.zero a n).read x = 0 := by
  induction m with
  | nil => rfl
  | cons c m ih =>
    obtain ⟨k, v⟩ := c
    unfold Memory.zero at ih ⊢
    by_cases hk : a ≤ k ∧ k < a + n
    · rw [List.filter_cons_of_neg (by simpa using hk)]
      exact ih
    · have ne : k ≠ x := fun e => hk (e ▸ hx)
      rw [List.filter_cons_of_pos (by rw [← Bool.decide_and, decide_eq_false hk, Bool.not_false])]
      exact (if_neg ne).trans ih

theorem Tab.get_filter_of_not {α : Type} {t : Tab α} {p : Nat × α → Bool} {k : Nat} (d : α) (h : ∀ v, p (k, v) = false) :
    Tab.get (t.filter p) d k = d := by
  suffices Tab.find (t.filter p) k = none by simp [Tab.get, this]
  induction t with
  | nil => rfl
  | cons c t ih =>
    obtain ⟨j, v⟩ := c
    by_cases e : j = k
    · subst e
      simpa [List.filter_cons, h v] using ih
    · by_cases hp : p (j, v) = true
      · simpa [List.filter_cons, hp, Tab.find, e] using ih
      · simpa [List.filter_cons, hp] using ih

/-- A die after its reset: its tasks, sequencers, channels, tiles and tile storage as at reset, and its incarnation one higher. -/
theorem resetDie_resets (s : State) {die : Nat} (lose : Bool) (hd : die < 6) :
    (∀ k < 32, (s.resetDie die lose).task (32 * die + k) = Task.reset) ∧ (∀ x ∈ (s.resetDie die lose).tiles, x.die ≠ die)
    ∧ (s.resetDie die lose).inc die = s.inc die + 1
    ∧ (∀ a, die * 262144 * 2048 ≤ a → a < (die + 1) * 262144 * 2048 → Memory.read (s.resetDie die lose).sram a = 0)
    ∧ (∀ r < 4, (s.resetDie die lose).sequencer (4 * die + r) = Sequencer.reset)
    ∧ ∀ k < 32, (s.resetDie die lose).queue (32 * die + k) = [] := by
  obtain ⟨t, e, incs, tiles, tasks⟩ := resetDie_eq_clearDie s die lose
  rw [e]
  refine ⟨tasks, tiles, ?_, fun a h1 h2 => Memory.read_zero_inside (by omega), fun r hr => ?_, fun k hk => ?_⟩
  · have : die < 8 := by omega
    simp [State.clearDie, State.inc, incs, this]
  · have : (4 * die + r) / 4 = die := by omega
    exact Tab.get_filter_of_not _ fun v => by simpa [ringDie] using this
  · have : (32 * die + k) / 32 = die := by omega
    exact Tab.get_filter_of_not _ fun v => by simpa [taskDie] using this

theorem execDieResetFatal_eq {die : Nat} (hd : die < 6) : execDieResetFatal die s = .next ((s.loseDirty die).resetDie die true) :=
  if_neg (by omega)

/-- With nothing modified in the die's cache and no access of another die outstanding there, a warm reset goes ahead. -/
theorem execDieResetWarm_eq {die : Nat} (hd : die < 6) (clean : s.dirtyBlocks die = [])
    (quiet : ∀ a ∈ s.accesses, s.accessAt a die = false ∨ taskDie a.task = die) :
    execDieResetWarm die s = .next ((s.loseDirty die).resetDie die false) := by
  have none : (s.accesses.any fun a => s.accessAt a die && taskDie a.task != die) = false := by
    simpa [List.any_eq_false, imp_iff_not_or] using quiet
  unfold execDieResetWarm
  rw [if_neg (by omega)]
  simp [clean, none]

theorem execStaleResponseDrop_drops {die n : Nat} {x : Nat × Nat × BitVec 8} (hx : s.lateResp.find? (fun x => x.1 == die && x.2.1 == n) = some x)
    (late : x.2.2 ≠ s.inc die) :
    execStaleResponseDrop die n s = .next { s with lateResp := s.lateResp.erase x, staleDrops := s.staleDrops + 1 } := by
  unfold execStaleResponseDrop
  simp [hx, late]

/-! ### A link that fails -/

/-- A run that stands where it stood crosses the links that it crossed. -/
theorem Run.Stays.crosses {r r1 : Run} {link : Nat} (h : r.Stays r1) : r1.crosses link = r.crosses link := by
  obtain ⟨-, phase, phys, -⟩ := h
  unfold Run.crosses Run.placed
  rw [phase, phys]

theorem Steady.run {T : Set Nat} {n : Nat} {r : Run} (h : Steady T s0 s) (hr : s0.run n = some r) : ∃ r1, s.run n = some r1 ∧ r.Stays r1 := by
  have runs := h.runs
  unfold State.run at hr ⊢
  generalize s0.runs = l at hr runs
  generalize s.runs = l1 at runs ⊢
  induction runs with
  | nil => simp at hr
  | @cons a b _ _ hab _ ih =>
    by_cases e : a.serial = n
    · have e1 : b.serial = n := hab.1.trans e
      rw [List.find?_cons_of_pos (by simpa using e)] at hr
      cases hr
      exact ⟨b, List.find?_cons_of_pos (by simpa using e1), hab⟩
    · have e1 : ¬ b.serial = n := fun h => e (hab.1.symm.trans h)
      rw [List.find?_cons_of_neg (by simpa using e)] at hr
      rw [List.find?_cons_of_neg (by simpa using e1)]
      exact ih hr

theorem run_updRun {n : Nat} {f : Run → Run} {r : Run} (hr : s.run n = some r) (hf : ∀ r, (f r).serial = r.serial) :
    (s.updRun n f).run n = some (f r) := by
  have same : ((fun r : Run => r.serial == n) ∘ fun r => if r.serial == n then f r else r) = fun r => r.serial == n := by
    funext r
    by_cases e : r.serial = n <;> simp [e, hf]
  have serial : r.serial = n := by simpa using List.find?_some hr
  calc (s.updRun n f).run n
    _ = (s.run n).map fun r => if r.serial == n then f r else r := by
      show (s.runs.map _).find? _ = _
      rw [List.find?_map, same]
      rfl
    _ = some (f r) := by simp [hr, serial]

theorem Steady.stopNow {T : Set Nat} {n : Nat} (h : Steady T s0 s) : Steady T s0 (s.stopNow n 3) := by
  unfold State.stopNow
  split
  · exact h
  split
  · exact h
  · exact h.unconfigure.updRun fun _ => ⟨rfl, rfl, rfl, fun hr => ⟨rfl, hr.2⟩⟩

/-- What `unconfigure` leaves of a run has no stripes. -/
theorem run_unconfigure {n : Nat} {r : Run} (hr : s.run n = some r) : ∃ r1, (s.unconfigure n).run n = some r1 ∧ r1.stripes = [] := by
  unfold State.unconfigure
  rw [hr]
  dsimp only
  have ended : Steady .univ s (r.readings.foldl (fun (x : State) rd => x.endRead rd.tile rd.slot) s) := (Steady.refl .univ s).foldl fun h => h.endRead
  obtain ⟨r1, h1, -⟩ := ended.run hr
  exact ⟨_, run_updRun h1 fun _ => rfl, rfl⟩

/-- A run at work that a fault stops is halted. -/
theorem stopNow_halts {n : Nat} {r : Run} (hr : s.run n = some r) (hp : r.placed = true) :
    ∃ r1, (s.stopNow n 3).run n = some r1 ∧ r1.halted := by
  obtain ⟨r1, h1, e⟩ := run_unconfigure hr
  unfold State.stopNow
  rw [hr]
  dsimp only
  split
  · rename_i ended
    simp [Run.placed, ended] at hp
  · exact ⟨_, run_updRun h1 fun _ => rfl, rfl, e⟩

/-- Stopping a list of runs that holds a run at work halts that run, whatever else is stopped before and after it. -/
theorem foldl_stopNow_halts {l : List Run} {r r1 : Run} (hl : r ∈ l) (hr : s.run r.serial = some r1) (hp : r1.placed = true) :
    ∃ r2, (l.foldl (fun (x : State) r => x.stopNow r.serial 3) s).run r.serial = some r2 ∧ r2.halted := by
  obtain ⟨before, after, rfl⟩ := List.append_of_mem hl
  rw [List.foldl_append, List.foldl_cons]
  obtain ⟨r2, h2, stays⟩ := ((Steady.refl .univ s).foldl (l := before) fun h => h.stopNow).run hr
  have hp2 : r2.placed = true := by
    obtain ⟨-, phase, -⟩ := stays
    unfold Run.placed at hp ⊢
    rw [phase]
    exact hp
  obtain ⟨r3, h3, halted⟩ := stopNow_halts h2 hp2
  obtain ⟨r4, h4, -, -, -, still⟩ := ((Steady.refl .univ _).foldl (l := after) fun h => h.stopNow).run h3
  exact ⟨r4, h4, still halted⟩

/-- A link fails: it is down, and the runs that crossed it are halted. -/
theorem execLinkFailure_halts {link : Nat} (hl : link < 6) (up : link ∉ s.linksDown) :
    ∃ t, execLinkFailure link s = .next t ∧ t.linksDown = s.linksDown ++ [link]
      ∧ ∀ r ∈ s.runs, s.run r.serial = some r → r.crosses link = true → ∃ r1, t.run r.serial = some r1 ∧ r1.halted := by
  unfold execLinkFailure
  rw [if_neg (by simp [up]; omega)]
  extract_lets first die unit s1 dropped s2 s3
  have flight : Steady .univ s dropped := Steady.dropFlight (Steady.logFault (Steady.logEvent (.refl .univ s)))
  clear_value dropped
  have down : s2.linksDown = s.linksDown ++ [link] := rfl
  have kept {n : Nat} {r : Run} (e : s.run n = some r) : ∃ r1, s2.run n = some r1 ∧ r.Stays r1 := flight.run e
  clear_value s2
  have stopped : Steady .univ s2 s3 := (Steady.refl .univ s2).foldl fun h => h.stopNow
  have halts {r r1 : Run} (hr : r ∈ s2.runs) (crosses : r.crosses link = true) (e : s2.run r.serial = some r1) (hp : r1.placed = true) :
      ∃ r2, s3.run r.serial = some r2 ∧ r2.halted := foldl_stopNow_halts (List.mem_filter.mpr ⟨hr, by simp [crosses]⟩) e hp
  clear_value s3
  refine ⟨_, rfl, ?_⟩
  generalize ht : List.foldl _ s3 _ = t
  have cancelled : Steady .univ s3 t := ht ▸ (Steady.refl .univ s3).foldl fun h => h.drawNat.updGraph
  refine ⟨(cancelled.linksDown.trans stopped.linksDown).trans down, fun r hr e crosses => ?_⟩
  obtain ⟨r1, h1, stays⟩ := kept e
  have crosses1 : r1.crosses link = true := stays.crosses.trans crosses
  have serial : r1.serial = r.serial := stays.1
  obtain ⟨r2, h2, halted⟩ := halts (List.mem_of_find?_eq_some h1) crosses1 (serial ▸ h1) (Bool.and_eq_true_iff.mp crosses1).1
  obtain ⟨r3, h3, -, -, -, still⟩ := cancelled.run h2
  exact ⟨r3, serial ▸ h3, still halted⟩

/-! ### Heat and power -/

section
variable {ring sensor reading : Nat} (hr : ring < 24) (hs : sensor < 4)
include hr hs

theorem execThermalThrottle_begins (hot : 1050 ≤ reading) (cool : sensorKey ring sensor ∉ s.throttled) :
    ∃ t, execThermalThrottle ⟨ring, sensor⟩ reading s = .next t ∧ t.throttled = s.throttled ++ [sensorKey ring sensor] := by
  unfold execThermalThrottle
  rw [if_neg (by simp; omega)]
  dsimp only
  rw [if_neg (by simpa [State.read, cool] using hot)]
  exact ⟨_, rfl, rfl⟩

theorem execThermalThrottle_reads (h : reading < 1050 ∨ sensorKey ring sensor ∈ s.throttled) :
    execThermalThrottle ⟨ring, sensor⟩ reading s = .next (s.read ring sensor reading) := by
  unfold execThermalThrottle
  rw [if_neg (by simp; omega)]
  dsimp only
  exact if_pos (by simpa using h)

theorem execThrottleRelease_ends (cool : reading < 1050) : execThrottleRelease ⟨ring, sensor⟩ reading s =
    .next { s.read ring sensor reading with throttled := s.throttled.filter fun k => k != sensorKey ring sensor } := by
  unfold execThrottleRelease
  rw [if_neg (by simp; omega)]
  dsimp only
  rw [if_neg (by omega)]
  rfl

end

theorem execThermalShutdown_shuts {die reading : Nat} (hd : die < 8) (hot : 1150 ≤ reading) :
    execThermalShutdown die reading s = .next { s with off := true } := if_neg (by omega)

theorem execPowerCapEnforce_stretches {mw : Nat} {dies : List Nat} (above : s.figures.powerCapMW < mw) :
    ∃ t, execPowerCapEnforce ⟨mw, dies⟩ s = .next t ∧ t.powerThrottle = true ∧ t.powers = dies := by
  unfold execPowerCapEnforce
  dsimp only
  rw [if_neg (by omega)]
  split
  · rename_i already
    exact ⟨_, rfl, already, rfl⟩
  · exact ⟨_, rfl, rfl, rfl⟩

theorem execPowerCapEnforce_ends {mw : Nat} {dies : List Nat} (below : mw ≤ s.figures.powerCapMW) :
    execPowerCapEnforce ⟨mw, dies⟩ s = .next { s with powers := dies, powerThrottle := false } := if_pos below

/-! ### The obligation -/

/-- Settles O49, step by step: events, the package reset, die resets, late responses, links, heat, power and figures. -/
theorem packageComplete : Obligations.PackageComplete := by
  unfold Obligations.PackageComplete
  intro s
  refine ⟨?_, ?_, ?_, ?_, ?_, ?_, ?_, ?_, ?_⟩
  · exact fun source e rest hb hd => ⟨execEventLogAppend_appends hb hd, execEventLogAppend_loses hb hd, execEventLogAppend_waits hb⟩
  · intro cs ms ss
    obtain ⟨tasks, incs, tiles, runs, rings, off, parts⟩ := rebooted_fresh s
    cases hc : bootImage 1 cs with
    | none => exact ⟨_, execPackageReset_refuses (.inl hc), tasks, incs, tiles, runs, rings, off, parts, rfl, rfl, rfl⟩
    | some c =>
      cases hm : bootImage 2 ms with
      | none => exact ⟨_, execPackageReset_refuses (.inr (.inl hm)), tasks, incs, tiles, runs, rings, off, parts, rfl, rfl, rfl⟩
      | some m =>
        cases hx : bootImage 3 ss with
        | none => exact ⟨_, execPackageReset_refuses (.inr (.inr hx)), tasks, incs, tiles, runs, rings, off, parts, rfl, rfl, rfl⟩
        | some x => exact ⟨_, execPackageReset_boots hc hm hx, tasks, incs, tiles, runs, rings, off, parts, rfl, rfl, rfl⟩
  · intro die hd i hi
    have resets (lose : Bool) := resetDie_resets (s.loseDirty die) lose hd
    rcases hi with rfl | ⟨rfl, clean, quiet⟩
    · exact ⟨_, execDieResetFatal_eq hd, resets true⟩
    · exact ⟨_, execDieResetWarm_eq hd clean quiet, resets false⟩
  · exact fun die n x hx late => execStaleResponseDrop_drops hx late
  · exact fun link hl up => execLinkFailure_halts hl up
  · rintro ring sensor reading key hr hs rfl
    exact ⟨execThermalThrottle_begins hr hs, fun _ h => execThermalThrottle_reads hr hs (.inr h),
      fun h => ⟨execThermalThrottle_reads hr hs (.inl h), execThrottleRelease_ends hr hs h⟩⟩
  · exact fun die reading hd hot => execThermalShutdown_shuts hd hot
  · exact fun mw dies => ⟨execPowerCapEnforce_stretches, execPowerCapEnforce_ends⟩
  · intro v
    refine ⟨fun h h1 => if_pos ⟨h, h1⟩, fun h => if_neg (by omega), fun h h1 => if_pos ⟨h, h1⟩, fun h => if_neg (by omega),
      fun h h1 => if_pos ⟨h, h1⟩, fun h => if_neg (by omega), rfl⟩

end Sys2Proof.Machine
end

section
/-! PROOF. The hardwired registers (O5). -/
namespace Sys2Proof.Machine

/-- Settles O5: the register and the predicate written, and every other one. -/
theorem hardwiredRegisters : Obligations.HardwiredRegisters := by
  unfold Obligations.HardwiredRegisters
  intro x r v p b
  refine ⟨x.reg_zero, x.pred_seven, fun q => ?_, fun q => ?_, fun q => Task.pred_setReg x r v q, fun q => ?_⟩
  · by_cases hq : q = r
    · by_cases hr : r = 0
      · simp [hr]
      · simp [hq, hr, Task.reg_setReg_self x hr]
    · simp [hq, Task.reg_setReg_ne x hq]
  · by_cases hq : q = p
    · by_cases hp : p = 7
      · simp [hp]
      · simp [hq, hp, Task.pred_setPred_self x hp]
    · simp [hq, Task.pred_setPred_ne x hq]
  · unfold Task.setPred
    split <;> rfl

end Sys2Proof.Machine
end

section
/-! PROOF. The machine right after reset (O58). -/
namespace Sys2Proof.Machine

theorem State.task_reset (k : Nat) : State.reset.task k = Task.reset := rfl

theorem Task.reg_reset (r : Reg) : Task.reset.reg r = 0 := by
  unfold Task.reg
  split
  · rfl
  · exact Vector.getElem_replicate ..

theorem Task.pred_reset {p : Pred} (h : p ≠ 7) : Task.reset.pred p = false := by
  simp [Task.pred, Task.reset, h]

/-- Settles O58: every table is empty at reset, so each lookup gives its default. -/
theorem resetStateHasForm : Obligations.ResetStateHasForm := by
  unfold Obligations.ResetStateHasForm
  refine ⟨⟨fun k r p => ?_, fun _ _ => ⟨rfl, rfl⟩, fun _ => rfl, fun d => Vector.getElem_replicate .., rfl, rfl⟩, rfl, rfl, nofun⟩
  rw [State.task_reset]
  exact ⟨Task.reg_reset r, Task.pred_reset, rfl, rfl, rfl, rfl, rfl, rfl, rfl, rfl, rfl, rfl, rfl, rfl, rfl⟩

end Sys2Proof.Machine
end

section
/-! PROOF. What a step runs (O57): a sequencer's word, an op, another agent's step. -/
namespace Sys2Proof

theorem testBit_leNat (bs : List (BitVec 8)) (j : Nat) : (leNat bs).testBit j = (bs.getD (j / 8) 0).getLsbD (j % 8) := by
  induction bs generalizing j with
  | nil => simp [leNat]
  | cons b bs ih =>
    have split : leNat (b :: bs) = 2 ^ 8 * leNat bs + b.toNat := Nat.add_comm ..
    rw [split, Nat.testBit_two_pow_mul_add _ b.isLt]
    by_cases hj : j < 8
    · simp [hj, Nat.div_eq_of_lt hj, Nat.mod_eq_of_lt hj, BitVec.testBit_toNat]
    · obtain ⟨i, rfl⟩ := Nat.exists_eq_add_of_le (Nat.le_of_not_lt hj)
      simp [hj, ih]

namespace Machine

theorem Memory.getD_readWrap (m : Memory) (size a : Nat) {n i : Nat} (h : i < n) :
    (Memory.readWrap m size a n).getD i 0 = m.read ((a + i) % size) := by
  induction n generalizing a i with
  | zero => cases h
  | succ n ih =>
    cases i with
    | zero => rfl
    | succ i =>
      rw [Memory.readWrap, List.getD_cons_succ, ih (a + 1) (Nat.lt_of_succ_lt_succ h), Nat.add_right_comm, Nat.add_assoc]

/-- The bits of a fetched word are those of the eight bytes at the pc, lowest address least significant (R109, R235). -/
theorem Sequencer.getLsbD_fetch (q : Sequencer) (pc : BitVec 16) {j : Nat} (h : j < 64) :
    (q.fetch pc).getLsbD j = (Memory.read q.istore ((pc.toNat + j / 8) % 65536)).getLsbD (j % 8) := by
  have hj : j / 8 < 8 := by omega
  rw [Sequencer.fetch, BitVec.getLsbD_ofNat, testBit_leNat, Memory.getD_readWrap _ _ _ hj, decide_eq_true h, Bool.true_and]

/-- The slot that a sequencer's turn takes when it has nothing to report runs the instruction its word decodes to (R49, R225, R235, R275). -/
theorem State.issue_eq_run {s : State} {ring k : Nat} {i : Instr} (hring : ring ∈ s.enabled) (hk : s.pickSlot ring = some k)
    (hd : (s.task (8 * ring + k)).inHandler = true ∨ (s.task (8 * ring + k)).midway = true ∨ (s.task (8 * ring + k)).deferred = [])
    (hg : (s.task (8 * ring + k)).safegap = 0 ∨ (s.task (8 * ring + k)).spcount.toNat < (s.task (8 * ring + k)).safegap.toNat)
    (hb : (s.task (8 * ring + k)).pc.toNat / 8 ∉ (s.sequencer ring).ibad)
    (hi : decodeSeq ((s.sequencer ring).fetch (s.task (8 * ring + k)).pc) = .ok i) :
    s.issue ring = .run i { (s.rotate ring k) with cur := 8 * ring + k } := by
  have sequencer : ({ (s.rotate ring k) with cur := 8 * ring + k } : State).sequencer ring
      = { s.sequencer ring with order := (s.sequencer ring).order.filter (fun j => j != k) ++ [k] } := State.sequencer_setSequencer ..
  have task : ({ (s.rotate ring k) with cur := 8 * ring + k } : State).task (8 * ring + k) = s.task (8 * ring + k) := rfl
  have nothingDeferred : ∀ d rest, ¬ (((s.task (8 * ring + k)).inHandler || (s.task (8 * ring + k)).midway) = false
      ∧ (s.task (8 * ring + k)).deferred = d :: rest) := by
    rintro d rest ⟨h1, h2⟩
    simp_all
  have noGap : ¬ ((s.task (8 * ring + k)).safegap ≠ 0 ∧ (s.task (8 * ring + k)).safegap.toNat ≤ (s.task (8 * ring + k)).spcount.toNat) := by
    rintro ⟨h1, h2⟩
    rcases hg with h | h
    · exact h1 h
    · omega
  have whole : (({ (s.rotate ring k) with cur := 8 * ring + k } : State).sequencer ring).ibad.contains ((s.task (8 * ring + k)).pc.toNat / 8) = false := by
    simpa [sequencer] using hb
  have word : decodeSeq ((({ (s.rotate ring k) with cur := 8 * ring + k } : State).sequencer ring).fetch (s.task (8 * ring + k)).pc) = .ok i := by
    rw [sequencer]
    exact hi
  unfold State.issue
  simp only [List.contains_iff_mem.mpr hring, hk, if_true, task]
  split
  · rename_i h1 h2
    exact absurd ⟨h1, h2⟩ (nothingDeferred _ _)
  · simp only [if_neg noGap, whole, word, Bool.false_eq_true, if_false]

/-- Settles O57, by the kinds of turn: each clause is what `prepare` comes to. -/
theorem stepRunsDecoded : Obligations.StepRunsDecoded := by
  unfold Obligations.StepRunsDecoded
  rintro s turn rest s1 ha on rfl
  refine ⟨fun ring k i ht hring hk hd hg hb hi => ?_, fun ring pc j hj => (s.sequencer ring).getLsbD_fetch pc hj, fun p i ht hc hi => ?_,
    fun i ht he => ?_, ?_⟩
  · have pick : State.pickSlot { (s.elapse turn.clk turn.ticks) with agenda := rest } ring = some k := hk
    have run := State.issue_eq_run (s := { (s.elapse turn.clk turn.ticks) with agenda := rest }) hring pick hd hg hb hi
    simp only [step, State.prepare, ha, ht, on, Bool.false_eq_true, if_false, run]
  · simp only [step, State.prepare, ha, ht, on, hc, hi, Bool.false_eq_true, if_false]
  · simp [step, State.prepare, ha, ht, on, he]
  · simp [step, State.prepare, on]

end Machine
end Sys2Proof
end

section
/-! PROOF. Taking an exception and returning from one (O25, O26): what a fault keeps, what handler entry writes, and what a stop sends to firmware. -/
namespace Sys2Proof.Machine

/-! ### What two states agree on -/

theorem SameBytes.trans {s t u : State} (h : SameBytes s t) (k : SameBytes t u) : SameBytes s u := by
  obtain ⟨view, sram, stores⟩ := h
  obtain ⟨view1, sram1, stores1⟩ := k
  refine ⟨fun d a => (view1 d a).trans (view d a), sram1.trans sram, fun r => ?_⟩
  exact ⟨(stores1 r).1.trans (stores r).1, (stores1 r).2.trans (stores r).2⟩

theorem SameRegsBut.trans {s t u : State} {k : Nat} {d : Reg} (h : SameRegsBut s t k d) (h1 : SameRegsBut t u k d) : SameRegsBut s u k d :=
  ⟨fun j r hj => (h1.1 j r hj).trans (h.1 j r hj), fun j p => (h1.2 j p).trans (h.2 j p)⟩

theorem SameControl.trans {s t u : State} {k : Nat} (h : SameControl s t k) (h1 : SameControl t u k) : SameControl s u k := by
  unfold SameControl at *
  simp_all

theorem SameBytes.updTask (s : State) (k : Nat) (f : Task → Task) : SameBytes s (s.updTask k f) := ⟨fun _ _ => rfl, rfl, fun _ => ⟨rfl, rfl⟩⟩

theorem SameRegsBut.updTask {s : State} {k : Nat} {f : Task → Task} (d : Reg) (regs : (f (s.task k)).regs = (s.task k).regs)
    (preds : (f (s.task k)).preds = (s.task k).preds) : SameRegsBut s (s.updTask k f) k d := by
  refine ⟨fun j r _ => ?_, fun j p => ?_⟩
  · by_cases hj : j = k
    · rw [hj, State.task_updTask, Task.reg, Task.reg, regs]
    · rw [State.task_updTask_ne _ hj]
  · by_cases hj : j = k
    · rw [hj, State.task_updTask, Task.pred, Task.pred, preds]
    · rw [State.task_updTask_ne _ hj]

theorem SameControl.updTask {s : State} {k : Nat} {f : Task → Task} (j : Nat) (h : ∀ x : Task, (f x).cnt = x.cnt ∧ (f x).entry = x.entry
    ∧ (f x).hvec = x.hvec ∧ (f x).safegap = x.safegap ∧ (f x).context = x.context) : SameControl s (s.updTask k f) j := by
  unfold SameControl
  by_cases hj : j = k
  · rw [hj, State.task_updTask]
    exact h _
  · rw [State.task_updTask_ne _ hj]
    exact ⟨rfl, rfl, rfl, rfl, rfl⟩

section
variable {s t : State} (h : Keeps s t)
include h

theorem Keeps.sameBytes : SameBytes s t := by
  obtain ⟨mem, stale, freeCtr, sram, seqs, -, -, -⟩ := h
  refine ⟨fun d a => ?_, sram, fun r => ?_⟩
  · simp only [State.view, mem, stale, freeCtr]
  · simp only [State.sequencer, seqs, and_self]

theorem Keeps.cur : t.cur = s.cur := h.2.2.2.2.2.2.1

theorem Keeps.task (k : Nat) : KeepsTask (s.task k) (t.task k) := h.2.2.2.2.2.2.2 k

theorem Keeps.sameRegsBut (k : Nat) (d : Reg) : SameRegsBut s t k d := by
  refine ⟨fun j r _ => ?_, fun j p => ?_⟩
  · obtain ⟨regs, -⟩ := h.task j
    rw [Task.reg, Task.reg, regs]
  · obtain ⟨-, preds, -⟩ := h.task j
    rw [Task.pred, Task.pred, preds]

theorem Keeps.sameControl (k : Nat) : SameControl s t k := by
  obtain ⟨-, -, cnt, entry, hvec, safegap, context, -⟩ := h.task k
  exact ⟨cnt, entry, hvec, safegap, context⟩

theorem Keeps.sameRecord (k : Nat) : (t.task k).epc = (s.task k).epc ∧ (t.task k).frec = (s.task k).frec := by
  obtain ⟨-, -, -, -, -, -, -, epc, frec, -⟩ := h.task k
  exact ⟨epc, frec⟩

end

/-! ### Handler entry (R48, R225) -/

section
variable {s : State} {k cls : Nat} {epc : BitVec 16} {f : Report}

/-- A task outside its handler enters it as it is, with what it waited for forgotten. -/
theorem task_takeFault_enters (h : (s.task k).inHandler = false) : (s.takeFault k cls epc f).task k
    = { s.task k with waitFor := none, fwCall := none, fwReply := none }.enterHandler epc (s.taskRecord k cls f) := by
  rcases takeFault_cases s k cls epc f with ⟨hin, -⟩ | ⟨-, u, -, hu, e⟩
  · simp [h] at hin
  · rw [e, State.task_updTask, hu]

/-- An exception writes no byte, no register, no counter and no register of another task, whether the task enters its handler or stops. -/
theorem takeFault_keeps (s : State) (k cls : Nat) (epc : BitVec 16) (f : Report) :
    SameBytes s (s.takeFault k cls epc f) ∧ SameRegsBut s (s.takeFault k cls epc f) k 0 ∧ (∀ j, SameControl s (s.takeFault k cls epc f) j)
    ∧ (∀ j, j ≠ k → ((s.takeFault k cls epc f).task j).epc = (s.task j).epc ∧ ((s.takeFault k cls epc f).task j).frec = (s.task j).frec)
    ∧ (s.takeFault k cls epc f).cur = s.cur := by
  rcases takeFault_cases s k cls epc f with ⟨-, keeps⟩ | ⟨-, u, keeps, -, e⟩
  · exact ⟨keeps.sameBytes, keeps.sameRegsBut k 0, keeps.sameControl, fun j _ => keeps.sameRecord j, keeps.cur⟩
  · rw [e]
    refine ⟨keeps.sameBytes.trans (.updTask ..), (keeps.sameRegsBut k 0).trans (.updTask 0 rfl rfl),
      fun j => (keeps.sameControl j).trans (.updTask j fun _ => ⟨rfl, rfl, rfl, rfl, rfl⟩), fun j hj => ?_, keeps.cur⟩
    rw [State.task_updTask_ne _ hj]
    exact keeps.sameRecord j

/-! ### A stop in the handler (R48) -/

theorem fwRecords_foldl {α : Type} {g : State → α → State} (l : List α) (hg : ∀ t x, (g t x).fwRecords = t.fwRecords) :
    (l.foldl g s).fwRecords = s.fwRecords :=
  List.foldlRecOn l g (motive := fun t => t.fwRecords = s.fwRecords) rfl fun t ht x _ => (hg t x).trans ht

theorem fwRecords_keepFreed (s : State) (t : Tile) : (s.keepFreed t).fwRecords = s.fwRecords := by
  unfold State.keepFreed
  dsimp only
  split <;> split <;> rfl

theorem fwRecords_freeTile (s : State) (u : Nat) : (s.freeTile u).fwRecords = s.fwRecords := by
  unfold State.freeTile
  split
  · rfl
  dsimp only
  split
  · exact fwRecords_keepFreed ..
  split
  · split <;> exact fwRecords_keepFreed ..
  · exact fwRecords_keepFreed ..

theorem fwRecords_settleTile (s : State) (u : Nat) : (s.settleTile u).fwRecords = s.fwRecords := by
  unfold State.settleTile
  split
  · rfl
  split
  · rfl
  split
  · exact fwRecords_freeTile s u
  · rfl

theorem fwRecords_abandonSlot (s : State) (u slot : Nat) (reader : Owner) : (s.abandonSlot u slot reader).fwRecords = s.fwRecords := by
  unfold State.abandonSlot
  split
  · rfl
  split
  · rfl
  · exact fwRecords_settleTile ..

theorem fwRecords_readerEnd (s : State) (reader : Owner) : (s.readerEnd reader).fwRecords = s.fwRecords := by
  unfold State.readerEnd
  refine fwRecords_foldl _ fun t b => fwRecords_foldl _ fun t x => ?_
  split
  · rfl
  · exact fwRecords_abandonSlot ..

theorem fwRecords_cancelWait (s : State) (t : Nat) : (s.cancelWait t).fwRecords = s.fwRecords := by
  unfold State.cancelWait
  dsimp only
  split <;> rfl

theorem deferred_cancelWait (s : State) (t : Nat) : ((s.cancelWait t).task t).deferred = (s.task t).deferred := by
  unfold State.cancelWait
  rw [State.task_updTask]
  split <;> rfl

/-- Each failure that a stopped task had still to take goes to firmware. -/
theorem fwRecords_dropDeferred (s : State) (t : Nat) :
    ∃ l, (s.dropDeferred t).fwRecords = s.fwRecords ++ l ∧ l.length = (s.task t).deferred.length := by
  unfold State.dropDeferred
  dsimp only
  rw [State.updTask_fwRecords]
  generalize (s.task t).deferred = ds
  induction ds generalizing s with
  | nil => exact ⟨[], (List.append_nil _).symm, rfl⟩
  | cons d ds ih =>
    rw [List.foldl_cons]
    obtain ⟨l, records, len⟩ := ih (s.toFirmware (taskSource t) (s.partOf t) (s.taskRecord t 2 ⟨d.code, d.access, d.va.toNat, d.w3.toNat⟩))
    refine ⟨s.taskRecord t 2 ⟨d.code, d.access, d.va.toNat, d.w3.toNat⟩ :: l, ?_, congrArg (· + 1) len⟩
    rw [records, List.append_cons]
    rfl

/-- A stopped task is IDLE and out of its handler, and its class-2 record goes to firmware before those of the failures it had still to take. -/
theorem stopTask_stops (s : State) (k : Nat) (f : Report) :
    ((s.stopTask k f).task k).status = .idle ∧ ((s.stopTask k f).task k).inHandler = false
    ∧ ∃ l, (s.stopTask k f).fwRecords = s.fwRecords ++ s.taskRecord k 2 f :: l ∧ l.length = (s.task k).deferred.length := by
  unfold State.stopTask
  extract_lets x s1 s2 s3 s4
  have h1 : ∃ l, s1.fwRecords = s.fwRecords ++ s.taskRecord k 2 f :: l ∧ l.length = (s.task k).deferred.length := by
    obtain ⟨l, records, len⟩ := fwRecords_dropDeferred ((s.cancelWait k).toFirmware (taskSource k) (s.partOf k) (s.taskRecord k 2 f)) k
    refine ⟨l, ?_, len.trans (congrArg List.length (deferred_cancelWait s k))⟩
    rw [records, List.append_cons, ← fwRecords_cancelWait s k]
    rfl
  have h2 : s2.fwRecords = s1.fwRecords := by
    show State.fwRecords (match x.node with | some (g, n) => s1.failNode g n 2 f.code | none => s1) = _
    split <;> rfl
  have h3 : s3.fwRecords = s2.fwRecords := by
    show State.fwRecords (match x.stubRun with | some r => s2.updRun r _ | none => s2) = _
    split <;> rfl
  have h4 : s4.fwRecords = s1.fwRecords := ((fwRecords_readerEnd (s3.leaveGroups ..) _).trans h3).trans h2
  rw [State.task_updTask, State.updTask_fwRecords, h4]
  exact ⟨rfl, rfl, h1⟩

end

/-- Settles O26: what every exception keeps, the entry of a task outside its handler, and the stop of one that is in it. -/
theorem exceptionEntry : Obligations.ExceptionEntry := by
  unfold Obligations.ExceptionEntry
  intro s k cls epc f
  obtain ⟨bytes, regs, control, others, -⟩ := takeFault_keeps s k cls epc f
  refine ⟨regs, bytes, control, others, fun h => ?_, fun h => ?_⟩
  · rw [task_takeFault_enters h]
    exact ⟨rfl, rfl, rfl, rfl, rfl, rfl, rfl⟩
  · have stops : s.takeFault k cls epc f = s.stopTask k f := if_pos h
    obtain ⟨idle, out, records⟩ := stopTask_stops s k f
    rw [stops]
    exact ⟨idle, out, records, ((Keeps.stopTask s k f).sameRecord k).1⟩

/-! ### TRAP and ERET (R276) -/

/-! ### TRAP and ERET (R276) -/

/-- Word 0 of a record in three parts: the code, the access and class above it, and the place and partition (R383). -/
theorem faultWord0_parts (inc : BitVec 8) (part source vs cell slot cls access code : Nat) :
    ∃ hi, faultWord0 inc part source vs cell slot cls access code
      = BitVec.ofNat 64 (((hi * 16 + cls % 16) * 16 + access % 16) * 256 + code % 256) := by
  refine ⟨inc.toNat * 2 ^ 36 + part % 16 * 2 ^ 32 + source % 4096 * 2 ^ 20 + vs % 4096 * 2 ^ 8 + cell % 32 * 2 ^ 3 + slot % 8, ?_⟩
  unfold faultWord0
  refine congrArg (BitVec.ofNat 64) ?_
  ring

theorem faultWord0_code (inc : BitVec 8) (part source vs cell slot cls access code : Nat) :
    (faultWord0 inc part source vs cell slot cls access code).extractLsb' 0 8 = BitVec.ofNat 8 code := by
  obtain ⟨hi, e⟩ := faultWord0_parts inc part source vs cell slot cls access code
  rw [e]
  apply BitVec.eq_of_toNat_eq
  simp only [BitVec.extractLsb'_toNat, BitVec.toNat_ofNat, Nat.shiftRight_zero]
  omega

theorem faultWord0_class (inc : BitVec 8) (part source vs cell slot cls access code : Nat) :
    (faultWord0 inc part source vs cell slot cls access code).extractLsb' 12 4 = BitVec.ofNat 4 cls := by
  obtain ⟨hi, e⟩ := faultWord0_parts inc part source vs cell slot cls access code
  rw [e]
  apply BitVec.eq_of_toNat_eq
  simp only [BitVec.extractLsb'_toNat, BitVec.toNat_ofNat, Nat.shiftRight_eq_div_pow]
  omega

theorem me_takeFault_enters {s : State} {cls : Nat} {epc : BitVec 16} {f : Report} (h : s.me.inHandler = false) :
    (s.takeFault s.cur cls epc f).me
      = { s.me with waitFor := none, fwCall := none, fwReply := none }.enterHandler epc (s.taskRecord s.cur cls f) := by
  obtain ⟨-, -, -, -, cur⟩ := takeFault_keeps s s.cur cls epc f
  rw [State.me, cur]
  exact task_takeFault_enters h

theorem execTrap_enters {g : Guard} {code : BitVec 32} {s : State} (h : Issues g .free [] [] s) :
    execTrap g code s = .next (s.takeFault s.cur 0 (s.me.pc + 8) (s.report fTRAP 0 code.toNat)) := seqExec_issues h

theorem execEret_outside {g : Guard} {s : State} (h : Issues g .free [] [] s) (out : s.me.inHandler = false) :
    execEret g s = .next (s.takeFault s.cur 0 s.me.pc (s.report fILLOP 0 0)) := by
  refine (seqExec_issues h).trans ?_
  simp [out, SeqRes.finish, State.report, fILLOP, fTAGFAIL]

/-- What ERET makes of the running task, but for a rebuild stub that it is due. -/
def Task.returned (x : Task) : Task := { x with stubRun := none, spcount := x.spcount + 1, waitFor := none }.eret

theorem Task.returned_keeps (x : Task) : x.returned.regs = x.regs ∧ x.returned.preds = x.preds ∧ x.returned.cnt = x.cnt ∧ x.returned.epc = x.epc
    ∧ x.returned.frec = x.frec ∧ x.returned.stubDue = x.stubDue ∧ x.returned.inHandler = false := by
  unfold Task.returned Task.eret
  split <;> exact ⟨rfl, rfl, rfl, rfl, rfl, rfl, rfl⟩

theorem execEret_returns {g : Guard} {s : State} (h : Issues g .free [] [] s) (inside : s.me.inHandler = true) (run : s.me.stubRun = none)
    (due : s.me.stubDue = none) : execEret g s = .next ((s.updMe Task.returned).updMe fun x => { x with waitFor := none }) := by
  obtain ⟨-, -, -, -, -, stubDue, -⟩ := s.me.returned_keeps
  have noStub : (s.updMe Task.returned).dueStub s.cur = s.updMe Task.returned := by
    have : ((s.updMe Task.returned).task s.cur).stubDue = none := by
      rw [State.updMe, State.task_updTask]
      exact stubDue.trans due
    simp only [State.dueStub, this]
  refine (seqExec_issues h).trans ?_
  simp only [inside, run, Bool.not_true, Bool.false_eq_true, if_false]
  exact congrArg (fun u : State => Host.Outcome.next (u.updMe fun x => { x with waitFor := none })) noStub

/-- Settles O25: the handler entry of TRAP, the return of ERET, and the ILLOP of an ERET outside the handler. -/
theorem trapAndReturn : Obligations.TrapAndReturn := by
  unfold Obligations.TrapAndReturn
  refine ⟨fun g code s h out => ?_, fun g s h inside run due => ?_, fun g s h out => execEret_outside h out⟩
  · obtain ⟨bytes, regs, -⟩ := takeFault_keeps s s.cur 0 (s.me.pc + 8) (s.report fTRAP 0 code.toNat)
    refine ⟨_, execTrap_enters h, ?_⟩
    rw [me_takeFault_enters out]
    exact ⟨rfl, rfl, rfl, rfl, rfl, rfl, faultWord0_code .., faultWord0_class .., rfl, BitVec.ofNat_toNat .., BitVec.ofNat_toNat .., regs, bytes, rfl,
      rfl, rfl⟩
  · obtain ⟨rs, ps, cnt, epc, frec, -, out⟩ := s.me.returned_keeps
    refine ⟨_, execEret_returns h inside run due, ?_⟩
    rw [State.me_updMe, State.me_updMe]
    refine ⟨out, (SameRegsBut.updTask 0 rs ps).trans (.updTask 0 rfl rfl), (SameBytes.updTask ..).trans (.updTask ..), fun idle => ?_,
      fun runnable => ?_, epc, frec, cnt⟩
    · simp only [Task.returned, Task.eret, idle]
    · simp only [Task.returned, Task.eret, runnable, and_self]

end Sys2Proof.Machine
end

section
/-! PROOF. The steps of a task slot itself (O30). -/
namespace Sys2Proof.Machine

variable {s : State} {k : Nat}

theorem execTaskActivate_starts (idle : (s.task k).status = .idle) (wakes : (s.task k).parked = false) (entry : s.queue k ≠ []) (hk : k < 192)
    (ordered : s.applied (taskDie k) (s.nodeDeps (s.task k).node) = true) :
    ∃ t, execTaskActivate k s = .next t ∧ (t.task k).status = .runnable ∧ (t.task k).pc = (s.task k).entry ∧ (t.task k).spcount = 0
      ∧ t.queue k = s.queue k ∧ SameRegsBut s t k 0 ∧ (t.task k).cnt = (s.task k).cnt := by
  refine ⟨_, if_neg ?_, ?_⟩
  · simp [idle, wakes, entry, ordered, hk]
  · rw [State.task_updTask]
    exact ⟨rfl, rfl, rfl, rfl, SameRegsBut.updTask (s := s.fresh.2.fresh.2) 0 rfl rfl, rfl⟩

theorem execTaskUnblock_resumes {w : WaitFor} {v : Word} (blocked : (s.task k).status = .blocked) (waits : (s.task k).waitFor = some w)
    (hw : w ≠ .firmware) (holds : s.waitOver k w = true) :
    execTaskUnblock k v s = .next (s.updTask k fun x => { x with status := if x.inHandler then .handler else .runnable }) := by
  simp [execTaskUnblock, blocked, waits, hw, holds]

/-- The oldest deferred fault is entered at the task's pc, and the others wait on (R225). -/
theorem execDeferredFault_enters {d : Deferred} {ds : List Deferred} (active : (s.task k).status ≠ .idle) (out : (s.task k).inHandler = false)
    (boundary : (s.task k).midway = false) (due : (s.task k).deferred = d :: ds) :
    execDeferredFault k s = .next ((s.updTask k fun y => { y with deferred := ds }).takeFault k d.cls (s.task k).pc
      ⟨d.code, d.access, d.va.toNat, d.w3.toNat⟩) := by
  simp [execDeferredFault, active, out, boundary, due]

theorem execTaskSpgap_faults (active : (s.task k).status = .runnable) (gap : (s.task k).safegap ≠ 0)
    (passed : (s.task k).safegap.toNat ≤ (s.task k).spcount.toNat) :
    execTaskSpgap k s = .next (s.takeFault k 0 (s.task k).pc ⟨fSPGAP, 0, (s.task k).spcount.toNat, (s.task k).pc.toNat⟩) :=
  if_pos ⟨.inl active, gap, passed⟩

theorem execTaskSwitchRequest_keeps (s : State) (k : Nat) (q : TaskRequest) :
    ∃ t, execTaskSwitchRequest k q s = .next t ∧ (t.task k).switchReq = (match q with | .switchOut => some .switchOut | .cancel => none)
      ∧ (t.task k).pc = (s.task k).pc ∧ SameRegsBut s t k 0 := by
  refine ⟨_, rfl, ?_⟩
  rw [State.task_updTask]
  exact ⟨rfl, rfl, .updTask 0 rfl rfl⟩

/-- A context returns to its slot: at its stub in the handler, or after its SAFEPT where it has none (R275). -/
theorem execTaskSwitchResume_restores {c : SavedTask} (saved : s.switchedOut.find? (fun c => c.task == k) = some c)
    (idle : (s.task k).status = .idle) :
    ∃ t, execTaskSwitchResume k s = .next t ∧ (t.task k).regs = c.regs ∧ (t.task k).preds = c.preds ∧ t.queue k = c.queue ++ s.queue k
      ∧ (c.stub = none → (t.task k).status = .runnable ∧ (t.task k).pc = c.pc)
      ∧ (∀ x, c.stub = some x → (t.task k).status = .handler ∧ (t.task k).pc = x ∧ (t.task k).epc = c.pc) := by
  unfold execTaskSwitchResume
  simp only [saved, idle, ne_eq, not_true_eq_false, if_false]
  refine ⟨_, rfl, ?_⟩
  rw [State.task_updTask]
  refine ⟨?_, ?_, State.queue_setQueue .., fun none => ?_, fun a stub => ?_⟩
  · split <;> rfl
  · split <;> rfl
  · simp only [none, and_self]
  · simp only [stub, and_self]

/-- Settles O30, step by step. -/
theorem slotStepsComplete : Obligations.SlotStepsComplete := by
  unfold Obligations.SlotStepsComplete
  intro s k
  refine ⟨fun idle wakes entry hk ordered => execTaskActivate_starts idle wakes entry hk ordered,
    fun w v blocked waits hw holds => execTaskUnblock_resumes blocked waits hw holds, fun d ds active out boundary due => ?_,
    fun active out gap passed => ?_, execTaskSwitchRequest_keeps s k .switchOut, execTaskSwitchRequest_keeps s k .cancel,
    fun c saved idle => execTaskSwitchResume_restores saved idle⟩
  · refine ⟨_, execDeferredFault_enters active out boundary due, ?_⟩
    have out1 : ((s.updTask k fun y => { y with deferred := ds }).task k).inHandler = false := by rwa [State.task_updTask]
    rw [task_takeFault_enters out1, State.task_updTask]
    exact ⟨rfl, rfl, rfl, rfl, rfl⟩
  · refine ⟨_, execTaskSpgap_faults active gap passed, ?_⟩
    rw [task_takeFault_enters out]
    exact ⟨rfl, rfl, rfl, faultWord0_code .., rfl⟩

end Sys2Proof.Machine
end

section
/-! PROOF. WAIT and WAITT (O22). -/
namespace Sys2Proof.Machine

variable {s : State}

/-! ### Waiting for a condition, or going on -/

theorem await_holds {w : WaitFor} (k : State → SeqRes) (h : s.waitOver s.cur w = true) : await w s k = k s := if_pos h

theorem await_blocks {w : WaitFor} (k : State → SeqRes) (h : s.waitOver s.cur w = false) : await w s k = .wait w s := by simp [await, h]

/-! ### WAIT (R50, R271) -/

theorem withinField_iff (c : BitVec 8) (f : BitVec 5) : withinField c f = true ↔ f = 31 ∨ c.toNat ≤ f.toNat := by
  simp [withinField]

/-- The counters that a WAIT reads, each with its field. -/
def waitPairs (s : State) (w : WaitFields) : List (BitVec 8 × BitVec 5) :=
  [(s.me.cnt.ld, w.ld), (s.me.cnt.st, w.st), (s.me.cnt.dr, w.dr), (s.me.cnt.sr, w.sr), (s.me.cnt.sv, w.sv), (s.me.cnt.rn, w.rn)]

/-- WAIT's condition: every counter within its field, and what completions of fills and of runs released applied where it waits for them. -/
theorem waitOver_counters (s : State) (w : WaitFields) : s.waitOver s.cur (.counters w) = true ↔
    (∀ p ∈ waitPairs s w, p.2 = 31 ∨ p.1.toNat ≤ p.2.toNat) ∧ (w.dr = 31 ∨ s.applied s.myDie s.me.acqDr = true)
      ∧ (w.rn = 31 ∨ s.applied s.myDie s.me.acq = true) := by
  simp only [State.waitOver, Bool.and_eq_true, withinField_iff, Bool.or_eq_true, beq_iff_eq, waitPairs, List.forall_mem_cons, List.not_mem_nil,
    false_imp_iff, implies_true, and_true, and_assoc]
  rfl

theorem execWait_completes {g : Guard} {w : WaitFields} (h : Issues g .free [] [] s) (holds : s.waitOver s.cur (.counters w) = true) :
    execWait g w s = .next (s.onTo (s.me.pc + 8)) := by
  refine (seqExec_issues h).trans ?_
  rw [await_holds _ holds]
  rfl

theorem execWait_blocks {g : Guard} {w : WaitFields} (h : Issues g .free [] [] s) (fails : s.waitOver s.cur (.counters w) = false) :
    execWait g w s = .next (s.block (.counters w)) := by
  refine (seqExec_issues h).trans ?_
  rw [await_blocks _ fails]
  rfl

/-! ### WAITT (R272) -/

/-- What a WAITT at its first issue waits for: the tile that the handle names then, if any. -/
def State.tileWait (s : State) (h : Nat) (st : TileStateCode) : WaitFor :=
  .tileAt s.myDie h ((s.tile s.myDie s.myPart h).map fun t => t.uid) st false

theorem readEntry_good {die part h : Nat} (good : ∀ x, s.tile die part h = some x → x.bad = false) : s.readEntry die part h = s := by
  unfold State.readEntry
  split
  · rfl
  · next x e => simp [good x e]

/-- A WAITT at its first issue, whose handle names no tile with an uncorrectable error, completes or blocks as its condition says. -/
theorem execWaitt_first {g : Guard} {a : Reg} {st : TileStateCode} (h : Issues g .free [a] [] s) (first : s.me.waitFor = none)
    (good : ∀ x, s.tile s.myDie s.myPart (handleOf (s.r a)) = some x → x.bad = false) :
    (s.waitOver s.cur (s.tileWait (handleOf (s.r a)) st) = true → execWaitt g a st s = .next (s.onTo (s.me.pc + 8)))
    ∧ (s.waitOver s.cur (s.tileWait (handleOf (s.r a)) st) = false →
      execWaitt g a st s = .next (s.block (s.tileWait (handleOf (s.r a)) st))) := by
  have body : execWaitt g a st s = (await (s.tileWait (handleOf (s.r a)) st) s fun s => .done s).finish := by
    refine (seqExec_issues h).trans ?_
    simp only [first, readEntry_good good]
    rfl
  rw [body]
  refine ⟨fun holds => ?_, fun fails => ?_⟩
  · rw [await_holds _ holds]
    rfl
  · rw [await_blocks _ fails]
    rfl

theorem waitOver_tileWait_none {h : Nat} {st : TileStateCode} (none : s.tile s.myDie s.myPart h = none) :
    s.waitOver s.cur (s.tileWait h st) = (decide (st.val = 0) && s.freeSeen s.cur s.myDie h) := by
  have noTile : s.tile s.myDie (s.partOf s.cur) h = .none := none
  simp [State.tileWait, State.waitOver, none, noTile]

theorem waitOver_tileWait_some {h : Nat} {st : TileStateCode} {x : Tile} (tile : s.tile s.myDie s.myPart h = some x)
    (uid : s.tileU x.uid = some x) : s.waitOver s.cur (s.tileWait h st) = (tileReached x st.val && s.applied s.myDie x.deps) := by
  simp only [State.tileWait, State.waitOver, tile, Option.map_some, uid, Bool.false_or]
  rfl

/-- The states that satisfy a WAITT (R272): FULL also in DRAINING and POISON, DRAINING also in POISON, and FREE none that a tile has. -/
theorem tileReached_iff (x : Tile) (st : TileStateCode) : tileReached x st.val = true ↔
    st.val = 1 ∧ x.state = .filling ∨ st.val = 2 ∧ x.state ≠ .filling ∨ st.val = 3 ∧ (x.state = .draining ∨ x.state = .poison)
      ∨ st.val = 4 ∧ x.state = .poison := by
  fin_cases st <;> cases e : x.state <;> simp [tileReached, e]

theorem tileReached_eq_false_iff (x : Tile) (st : TileStateCode) : tileReached x st.val = false ↔
    st.val = 0 ∨ st.val = 1 ∧ x.state ≠ .filling ∨ st.val = 2 ∧ x.state = .filling ∨ st.val = 3 ∧ (x.state = .filling ∨ x.state = .full)
      ∨ st.val = 4 ∧ x.state ≠ .poison := by
  fin_cases st <;> cases e : x.state <;> simp [tileReached, e]

/-- Settles O22: each instruction completes or blocks as `waitOver` says, and `waitOver` says what the manual's words do. -/
theorem waitsComplete : Obligations.WaitsComplete := by
  unfold Obligations.WaitsComplete
  refine ⟨fun g w s h => ⟨fun within fills runs => ?_, fun above => ?_⟩, fun g a st s h first => ⟨fun none => ?_, fun x tile uid good => ?_⟩⟩
  · exact execWait_completes h ((waitOver_counters s w).mpr ⟨within, fills, runs⟩)
  · refine execWait_blocks h (Bool.eq_false_iff.mpr fun holds => ?_)
    obtain ⟨within, -, -⟩ := (waitOver_counters s w).mp holds
    obtain ⟨p, hp, field, above⟩ := above
    rcases within p hp with h31 | le
    · exact field h31
    · omega
  · have noBad : ∀ x, s.tile s.myDie s.myPart (handleOf (s.r a)) = some x → x.bad = false := by simp [none]
    obtain ⟨completes, blocks⟩ := execWaitt_first (st := st) h first noBad
    rw [waitOver_tileWait_none none] at completes blocks
    have waits : s.tileWait (handleOf (s.r a)) st = .tileAt s.myDie (handleOf (s.r a)) .none st false := by simp [State.tileWait, none]
    rw [waits] at blocks
    refine ⟨fun free seen => completes (by simp [free, seen]), fun fails => blocks ?_⟩
    rcases fails with other | unseen
    · simp [other]
    · simp [unseen]
  · have noBad : ∀ y, s.tile s.myDie s.myPart (handleOf (s.r a)) = some y → y.bad = false := by simp [tile, good]
    obtain ⟨completes, blocks⟩ := execWaitt_first (st := st) h first noBad
    rw [waitOver_tileWait_some tile uid] at completes blocks
    have waits : s.tileWait (handleOf (s.r a)) st = .tileAt s.myDie (handleOf (s.r a)) (some x.uid) st false := by simp [State.tileWait, tile]
    rw [waits] at blocks
    refine ⟨fun reached sealed => completes ?_, fun fails => blocks ?_⟩
    · rw [(tileReached_iff x st).mpr reached, sealed, Bool.and_self]
    · rw [Bool.and_eq_false_iff, tileReached_eq_false_iff]
      simpa only [or_assoc] using fails

end Sys2Proof.Machine
end

section
/-! PROOF. Sync groups (O24): joining, leaving, arriving and waiting. -/
namespace Sys2Proof.Machine

variable {s : State} {key : BitVec 32} {x : Group}

/-! ### The groups of the state (R51, R52) -/

theorem Group.settle_key (g : Group) : g.settle.die = g.die ∧ g.settle.part = g.part ∧ g.settle.key = g.key ∧ g.settle.members = g.members := by
  unfold Group.settle
  split <;> exact ⟨rfl, rfl, rfl, rfl⟩

theorem Group.leave_key (g : Group) (t : Nat) : (g.leave t).die = g.die ∧ (g.leave t).part = g.part ∧ (g.leave t).key = g.key := by
  unfold Group.leave
  split
  · obtain ⟨die, part, key, -⟩ := Group.settle_key { g with members := g.members.filter fun m => m != t, arrivals := g.arrivals.filter fun m => m != t }
    exact ⟨die, part, key⟩
  · exact ⟨rfl, rfl, rfl⟩

theorem Group.not_mem_leave (g : Group) (t : Nat) : t ∉ (g.leave t).members := by
  unfold Group.leave
  split
  · rw [(Group.settle_key _).2.2.2]
    simp
  · rename_i h
    simpa using h

/-- The state in which a group is replaced. -/
def State.putGroup (s : State) (x y : Group) : State := { s with groups := s.groups.map fun z => if z = x then y else z }

/-- A group replaced by one of the same key is found in its place. -/
theorem group_putGroup {die part : Nat} {y : Group} (hx : s.group die part key = some x) (hd : y.die = x.die) (hp : y.part = x.part)
    (hk : y.key = x.key) : (s.putGroup x y).group die part key = some y := by
  have keys : (fun g : Group => g.die == die && g.part == part && g.key == key) ∘ (fun z => if z = x then y else z)
      = fun g : Group => g.die == die && g.part == part && g.key == key := by
    funext z
    by_cases hz : z = x
    · simp [hz, hd, hp, hk]
    · simp [hz]
  unfold State.group at hx ⊢
  rw [State.putGroup, List.find?_map, keys, hx]
  simp

/-- A group with the task among its arrivals (R53). -/
def Group.arriving (x : Group) (act : Nat) : Group :=
  { x with arrivals := if x.arrivals.contains act then x.arrivals else x.arrivals ++ [act] }

theorem Group.mem_arriving (x : Group) (act m : Nat) : m ∈ (x.arriving act).arrivals ↔ m = act ∨ m ∈ x.arrivals := by
  unfold Group.arriving
  by_cases h : act ∈ x.arrivals
  · simp only [List.contains_iff_mem, h, if_true]
    exact ⟨.inr, fun hm => hm.elim (fun e => e ▸ h) id⟩
  · simp [h, or_comm]

theorem Group.settle_full {g : Group} {m : Nat} (hm : m ∈ g.members) (all : ∀ m ∈ g.members, m ∈ g.arrivals) :
    g.settle.phase = g.phase + 1 ∧ g.settle.arrivals = [] := by
  have full : (!g.members.isEmpty && g.members.all fun m => g.arrivals.contains m) = true := by
    simpa using ⟨List.ne_nil_of_mem hm, all⟩
  simp only [Group.settle, full, if_true, and_self]

theorem Group.settle_short {g : Group} {m : Nat} (hm : m ∈ g.members) (missing : m ∉ g.arrivals) : g.settle = g := by
  have short : (!g.members.isEmpty && g.members.all fun m => g.arrivals.contains m) = false := by
    rw [Bool.and_eq_false_iff, List.all_eq_false]
    exact .inr ⟨m, hm, by simpa using missing⟩
  simp only [Group.settle, short, Bool.false_eq_true, if_false]

theorem inGroup_iff (s : State) (x : Group) : s.inGroup x = true ↔ s.me.activation ∈ x.members := List.contains_iff_mem

/-! ### The instructions (R274) -/

section
variable {g : Guard} {a : Reg}

theorem execGjoin_makes (h : Issues g .system [a] [] s) (none : s.group s.myDie s.myPart (keyOf (s.r a)) = .none)
    (room : (s.groups.filter fun x => x.die == s.myDie).length < 256) : execGjoin g a s =
      .next (State.onTo { s with groups := s.groups ++ [⟨s.myDie, s.myPart, keyOf (s.r a), [s.me.activation], [], 0⟩] } (s.me.pc + 8)) := by
  have holds : s.waitOver s.cur (.groupRoom (keyOf (s.r a))) = true := by
    have noGroup : s.group (taskDie s.cur) (s.partOf s.cur) (keyOf (s.r a)) = .none := none
    simp only [State.waitOver, noGroup]
    exact decide_eq_true room
  refine (seqExec_issues h).trans ?_
  simp only [await_holds _ holds, none]
  rfl

theorem waitOver_groupRoom (hx : s.group s.myDie s.myPart key = some x) (out : s.me.activation ∉ x.members) :
    s.waitOver s.cur (.groupRoom key) = decide (x.members.length < 32) := by
  have group : s.group (taskDie s.cur) (s.partOf s.cur) key = some x := hx
  have notIn : x.members.contains (s.task s.cur).activation = false := Bool.eq_false_iff.mpr fun e => out (List.contains_iff_mem.mp e)
  simp only [State.waitOver, group, notIn, Bool.or_false]

theorem execGjoin_adds (h : Issues g .system [a] [] s) (hx : s.group s.myDie s.myPart (keyOf (s.r a)) = some x)
    (out : s.me.activation ∉ x.members) (room : x.members.length < 32) :
    execGjoin g a s = .next ((s.putGroup x { x with members := x.members ++ [s.me.activation] }).onTo (s.me.pc + 8)) := by
  have holds : s.waitOver s.cur (.groupRoom (keyOf (s.r a))) = true := (waitOver_groupRoom hx out).trans (decide_eq_true room)
  refine (seqExec_issues h).trans ?_
  have notIn : s.inGroup x = false := Bool.eq_false_iff.mpr fun e => out ((inGroup_iff s x).mp e)
  simp only [await_holds _ holds, hx, notIn, Bool.false_eq_true, if_false]
  rfl

theorem execGjoin_blocks (h : Issues g .system [a] [] s) (hx : s.group s.myDie s.myPart (keyOf (s.r a)) = some x)
    (out : s.me.activation ∉ x.members) (full : 32 ≤ x.members.length) :
    execGjoin g a s = .next (s.block (.groupRoom (keyOf (s.r a)))) := by
  have fails : s.waitOver s.cur (.groupRoom (keyOf (s.r a))) = false := (waitOver_groupRoom hx out).trans (decide_eq_false (Nat.not_lt.mpr full))
  refine (seqExec_issues h).trans ?_
  rw [await_blocks _ fails]
  rfl

theorem execGleave_leaves (h : Issues g .system [a] [] s) : execGleave g a s = .next
    ((s.leaveGroups s.me.activation fun x => x.die == s.myDie && x.part == s.myPart && x.key == keyOf (s.r a)).onTo (s.me.pc + 8)) :=
  seqExec_issues h

theorem not_mem_of_leaveGroups {act die part : Nat} {key : BitVec 32} {y : Group}
    (hy : y ∈ (s.leaveGroups act fun x => x.die == die && x.part == part && x.key == key).groups) (hd : y.die = die) (hp : y.part = part)
    (hk : y.key = key) : act ∉ y.members := by
  obtain ⟨z, -, rfl⟩ := List.mem_map.mp (List.mem_of_mem_filter hy)
  by_cases hz : (z.die == die && z.part == part && z.key == key) = true
  · rw [if_pos hz]
    exact z.not_mem_leave act
  · rw [if_neg hz] at hd hp hk
    simp [hd, hp, hk] at hz

theorem execGarr_arrives {d : Reg} (h : Issues g .release [a] [d] s) (hx : s.group s.myDie s.myPart (keyOf (s.r a)) = some x)
    (mem : s.me.activation ∈ x.members) :
    execGarr g d a s = .next ((s.putGroup x (x.arriving s.me.activation).settle).wrote d (x.phase.setWidth 64)) := by
  refine (seqExec_issues h).trans ?_
  simp only [hx, (inGroup_iff s x).mpr mem, Bool.not_true, Bool.false_eq_true, if_false]
  exact finish_wrote (s.putGroup x (x.arriving s.me.activation).settle) d _

/-- GARR and GWAIT of a group that the task is not in (R274). -/
theorem execGarr_outside {d : Reg} (h : Issues g .release [a] [d] s)
    (out : s.group s.myDie s.myPart (keyOf (s.r a)) = none
      ∨ ∃ x, s.group s.myDie s.myPart (keyOf (s.r a)) = some x ∧ s.me.activation ∉ x.members) :
    execGarr g d a s = .next (s.takeFault s.cur 0 s.me.pc (s.report fILLOP 0 0)) := by
  refine (seqExec_issues h).trans ?_
  rcases out with none | ⟨x, hx, hn⟩
  · simp only [none]
    rfl
  · have notIn : s.inGroup x = false := Bool.eq_false_iff.mpr fun e => hn ((inGroup_iff s x).mp e)
    simp only [hx, notIn, Bool.not_false, if_true]
    rfl

theorem execGwait_outside {b : Reg} (h : Issues g .system [a, b] [] s)
    (out : s.group s.myDie s.myPart (keyOf (s.r a)) = none
      ∨ ∃ x, s.group s.myDie s.myPart (keyOf (s.r a)) = some x ∧ s.me.activation ∉ x.members) :
    execGwait g a b s = .next (s.takeFault s.cur 0 s.me.pc (s.report fILLOP 0 0)) := by
  refine (seqExec_issues h).trans ?_
  rcases out with none | ⟨x, hx, hn⟩
  · simp only [none]
    rfl
  · have notIn : s.inGroup x = false := Bool.eq_false_iff.mpr fun e => hn ((inGroup_iff s x).mp e)
    simp only [hx, notIn, Bool.not_false, if_true]
    rfl

theorem execGwait_inside {b : Reg} (h : Issues g .system [a, b] [] s) (hx : s.group s.myDie s.myPart (keyOf (s.r a)) = some x)
    (mem : s.me.activation ∈ x.members) :
    (keyOf (s.r b) ≠ x.phase → execGwait g a b s = .next (s.onTo (s.me.pc + 8)))
    ∧ (keyOf (s.r b) = x.phase → execGwait g a b s = .next (s.block (.phase (keyOf (s.r a)) x.phase))) := by
  have body : execGwait g a b s = (await (.phase (keyOf (s.r a)) (keyOf (s.r b))) s fun s => .done s).finish := by
    refine (seqExec_issues h).trans ?_
    simp only [hx, (inGroup_iff s x).mpr mem, Bool.not_true, Bool.false_eq_true, if_false]
  have condition : s.waitOver s.cur (.phase (keyOf (s.r a)) (keyOf (s.r b))) = (x.phase != keyOf (s.r b)) := by
    have group : s.group (taskDie s.cur) (s.partOf s.cur) (keyOf (s.r a)) = some x := hx
    simp only [State.waitOver, group]
  rw [body]
  refine ⟨fun other => ?_, fun same => ?_⟩
  · rw [await_holds _ (condition.trans (bne_iff_ne.mpr (Ne.symm other)))]
    rfl
  · rw [await_blocks _ (condition.trans (by simp [same])), same]
    rfl

end

/-- Settles O24, instruction by instruction. -/
theorem groupsComplete : Obligations.GroupsComplete := by
  unfold Obligations.GroupsComplete
  rintro g a b d s key rfl -
  refine ⟨fun h => ⟨fun none room => execGjoin_makes h none room, fun x hx out room => ?_, fun x hx out full => execGjoin_blocks h hx out full, ?_⟩,
    fun x hx mem => ⟨fun h => ?_, fun h => execGwait_inside h hx mem⟩, fun out => ⟨fun h => execGarr_outside h out, fun h => execGwait_outside h out⟩⟩
  · exact ⟨_, execGjoin_adds h hx out room, group_putGroup hx rfl rfl rfl, by rw [State.onTo, State.complete]; simp⟩
  · refine ⟨_, execGleave_leaves h, by rw [State.onTo, State.complete]; simp, fun y hy hd hp hk => not_mem_of_leaveGroups hy hd hp hk⟩
  · obtain ⟨die, part, key, members⟩ := (x.arriving s.me.activation).settle_key
    refine ⟨_, (x.arriving s.me.activation).settle, execGarr_arrives h hx mem, fun hd => ?_, group_putGroup hx die part key, members, fun all => ?_, ?_⟩
    · rw [State.wrote, State.complete, State.me_updMe, State.me_setR]
      exact Task.reg_setReg_self _ hd _
    · exact Group.settle_full (g := x.arriving s.me.activation) mem fun m hm => (x.mem_arriving ..).mpr (all m hm)
    · rintro ⟨m, hm, other, missing⟩
      rw [Group.settle_short (g := x.arriving s.me.activation) hm fun he => ((x.mem_arriving ..).mp he).elim other missing]
      exact ⟨rfl, (x.mem_arriving ..).mpr (.inl rfl)⟩

end Sys2Proof.Machine
end

section
/-! PROOF. The integer and logic ops of the compute cells (O31): elements of a packed payload, what a DATA firing keeps, and each op's result. -/
namespace Sys2Proof

/-! ### Types (R9, R60) -/

theorem Ty.width_pos (t : Ty) : 0 < t.width := by cases t <;> decide

theorem Ty.clampInt_eq (t : Ty) (x : Int) : t.clampInt x = max t.intMin (min x t.intMax) := by
  have order : t.intMin ≤ t.intMax := by cases t <;> decide
  unfold Ty.clampInt
  split
  · omega
  · split <;> omega

namespace Machine

/-! ### Elements of a payload (R21, R22) -/

theorem packFrom_eq_mul (w e : Nat) (vs : List Nat) : packFrom w e vs = 2 ^ (w * e) * packFrom w 0 vs := by
  induction vs generalizing e with
  | nil => simp [packFrom]
  | cons v vs ih =>
    rw [packFrom, packFrom, ih (e + 1), ih (0 + 1)]
    ring

theorem packFrom_element (w : Nat) (vs : List Nat) (e : Nat) : packFrom w 0 vs / 2 ^ (w * e) % 2 ^ w = vs.getD e 0 % 2 ^ w := by
  induction vs generalizing e with
  | nil => simp [packFrom]
  | cons v vs ih =>
    have step : packFrom w 0 (v :: vs) = v % 2 ^ w + 2 ^ w * packFrom w 0 vs := by
      rw [packFrom, packFrom_eq_mul w (0 + 1) vs]
      simp
    have low : v % 2 ^ w < 2 ^ w := Nat.mod_lt _ (Nat.two_pow_pos w)
    rw [step]
    cases e with
    | zero => simp
    | succ e =>
      rw [Nat.mul_succ, Nat.add_comm (w * e), Nat.pow_add, ← Nat.div_div_eq_div_mul, Nat.add_mul_div_left _ _ (Nat.two_pow_pos w),
        Nat.div_eq_of_lt low, Nat.zero_add, ih e, List.getD_cons_succ]

theorem elem_eq (p : Payload) (w e : Nat) : elem p w e = p.toNat / 2 ^ (w * e) % 2 ^ w := by
  rw [elem, BitVec.extractLsb'_toNat, Nat.shiftRight_eq_div_pow]

theorem elem_lt (p : Payload) (w e : Nat) : elem p w e < 2 ^ w := BitVec.isLt _

/-- An element of a list that was packed. -/
theorem elem_packElems {w e : Nat} (vs : List Nat) (h : e < 512 / w) : elem (packElems w vs) w e = vs.getD e 0 % 2 ^ w := by
  have inside : w * e + w ≤ 512 := by
    have : w * (e + 1) ≤ 512 := (Nat.mul_le_mul_left w h).trans (Nat.mul_div_le 512 w)
    rwa [Nat.mul_succ] at this
  rw [elem_eq, packElems, BitVec.toNat_ofNat, ← packFrom_element]
  refine Nat.eq_of_testBit_eq fun i => ?_
  simp only [Nat.testBit_mod_two_pow, Nat.testBit_div_two_pow]
  by_cases hi : i < w
  · simp [hi, show i + w * e < 512 by omega]
  · simp [hi]

/-- Each element of what an op computes element by element. -/
theorem isElems_mapElems {w : Nat} {a : Token} {g : Nat → Nat × Ev} {v : Nat → Nat}
    (h : ∀ e < 512 / w, (g e).1 % 2 ^ w = v e) : IsElems w a (mapElems w a g).1 v := by
  refine ⟨rfl, rfl, fun e he => ?_⟩
  have item : (((List.range (512 / w)).map fun e => if validE a.mask w e then g e else (elem a.payload w e, Ev.zero)).map Prod.fst).getD e 0
      = (if validE a.mask w e then g e else (elem a.payload w e, Ev.zero)).1 := by
    simp [List.getD_eq_getElem?_getD, he]
  refine (elem_packElems _ he).trans ?_
  rw [item]
  by_cases valid : validE a.mask w e = true
  · simp only [valid, if_true, h e he]
  · simp only [valid, Bool.false_eq_true, if_false, Nat.mod_eq_of_lt (elem_lt ..)]

/-- The SAT events of an op that gives one where a condition holds. -/
theorem foldl_satEvents (n : Nat) (p : Nat → Bool) (z : Ev) :
    ((List.range n).map fun e => if p e then Ev.oneSat else Ev.zero).foldl Ev.add z
      = ⟨z.sat + ((Finset.range n).filter fun e => p e = true).card, z.nan, z.unf⟩ := by
  induction n with
  | zero => simp
  | succ n ih =>
    rw [List.range_succ, List.map_append, List.foldl_append, ih, Finset.range_add_one, Finset.filter_insert]
    by_cases hp : p n = true
    · simp [hp, Ev.add, Ev.oneSat, Nat.add_assoc]
    · simp [hp, Ev.add, Ev.zero]

/-! ### What a DATA firing keeps of the op -/

/-- A work that differs from another in what the op has consumed only. -/
def Work.Consumed (w x : Work) : Prop := x.s0 = w.s0 ∧ x.outs = w.outs ∧ x.op.silt = w.op.silt

theorem Work.Consumed.trans {w x y : Work} (h : w.Consumed x) (k : x.Consumed y) : w.Consumed y := by
  obtain ⟨s0, outs, silt⟩ := h
  obtain ⟨s1, outs1, silt1⟩ := k
  exact ⟨s1.trans s0, outs1.trans outs, silt1.trans silt⟩

theorem Work.consumed_pop (w : Work) (src : Src) (r : Reader) : w.Consumed (w.pop src r) := by
  unfold Work.pop
  extract_lets w1
  split
  · exact ⟨rfl, rfl, rfl⟩
  · split
    · split <;> exact ⟨rfl, rfl, rfl⟩
    · exact ⟨rfl, rfl, rfl⟩
  · exact ⟨rfl, rfl, rfl⟩

theorem Work.consumed_take (w : Work) (n : PortName) (p : Port) : w.Consumed (w.take n p) := by
  unfold Work.take
  split
  · exact ⟨rfl, rfl, rfl⟩
  · exact ⟨rfl, rfl, rfl⟩
  · exact w.consumed_pop ..
  · split
    · dsimp only
      split <;> exact ⟨rfl, rfl, rfl⟩
    · split
      · exact ⟨rfl, rfl, rfl⟩
      · dsimp only
        split
        · exact w.consumed_pop ..
        · exact w.consumed_pop ..

theorem Work.consumed_takePred (w : Work) (src : PSrc) : w.Consumed (w.takePred src) := by
  unfold Work.takePred
  split
  · exact ⟨rfl, rfl, rfl⟩
  · unfold Work.ppop
    dsimp only
    split <;> exact ⟨rfl, rfl, rfl⟩

theorem Work.consumed_used (f : CCFrame) (w : Work) : w.Consumed (w.used f) :=
  ((w.consumed_take ..).trans ((Work.consumed_take ..).trans (Work.consumed_take ..))).trans (Work.consumed_takePred ..)

/-- An op due for a DATA firing does what its behaviour says of the work that has used its ports. -/
theorem ccExec_comes {f : CCFrame} {b : Behave} {s : State} {w x : Work} {a y c : Token} (h : DataDue f true s w a y c)
    (hx : b.data (w.used f) a y c = x) (s0 : x.s0 = (w.used f).s0) : Comes [f.oa, f.ob] f.silt s x (ccExec f b s) := by
  have ready : Ready s w := h.1
  obtain ⟨same, -⟩ := w.consumed_used f
  obtain ⟨start, -⟩ := workAt_s0 ready.1
  rw [ccExec_data h, if_pos rfl, hx, ← start, ← same, ← s0]
  exact commit_comes ..

/-- An element op, due for a DATA firing, writes its token to OA and OB and counts its events. -/
theorem elementwise_comes {f : CCFrame} {s : State} {w : Work} {a y c : Token} (g : Nat → Nat → Nat → Nat × Ev) (h : DataDue f true s w a y c) :
    let r := mapElems f.ty.width a fun e => g (readElem f.ty f.a a e) (readElem f.ty f.b y e) (readElem f.ty f.c c e)
    Comes [f.oa, f.ob] f.silt s { w.used f with
      outs := [(0, r.1), (1, r.1)], op := { (w.used f).op with silt := if f.stats then w.op.silt.count r.2 else w.op.silt } }
      (ccExec f (elementwise f g) s) := by
  intro r
  refine ccExec_comes h ?_ rfl
  obtain ⟨-, outs, silt⟩ := w.consumed_used f
  obtain ⟨-, -, -, -, noOuts, -⟩ := workAt_s0 h.1.1
  unfold elementwise Behave.plain
  dsimp only
  rw [← silt]
  unfold Work.count
  split <;> simp [Work.emit2, Work.emit, outs, noOuts, r]

/-! ### Values of a type (R9, R60, R95) -/

theorem wrapNat_eq (w : Nat) (x : Int) : wrapNat w x = (x % 2 ^ w).toNat := by
  rw [wrapNat]
  push_cast
  rfl

theorem wrapNat_lt (w : Nat) (x : Int) : wrapNat w x < 2 ^ w := by
  have pos : (0 : Int) < ((2 ^ w : Nat) : Int) := by exact_mod_cast Nat.two_pow_pos w
  have below := Int.emod_lt_of_pos x pos
  have above := Int.emod_nonneg x pos.ne'
  rw [wrapNat]
  omega

theorem readElem_lt (t : Ty) (p : Port) (x : Token) (e : Nat) : readElem t p x e < 2 ^ t.width := by
  have value := elem_lt x.payload t.width e
  have double : 2 ^ t.width = 2 ^ (t.width - 1) + 2 ^ (t.width - 1) := by
    rw [← Nat.two_mul, ← Nat.pow_succ', Nat.succ_eq_add_one, Nat.sub_add_cancel t.width_pos]
  have half : elem x.payload t.width e % 2 ^ (t.width - 1) < 2 ^ (t.width - 1) := Nat.mod_lt _ (Nat.two_pow_pos _)
  unfold readElem modified
  split
  · exact wrapNat_lt ..
  · split
    · dsimp only
      split_ifs <;> omega
    · exact value

/-- Fin of an exact integer: the pattern of its clamped or wrapped value, and one SAT event where it lies outside the type (R9, R84, R133). -/
theorem finInt_eq (t : Ty) (sat : Bool) (v : Int) : finInt t sat v
    = (((if sat then max t.intMin (min v t.intMax) else v) % 2 ^ t.width).toNat,
      if decide (v < t.intMin ∨ t.intMax < v) then Ev.oneSat else Ev.zero) := by
  rw [finInt, wrapNat_eq, Ty.clampInt_eq, Bool.decide_or]

theorem finInt_lt (t : Ty) (sat : Bool) (v : Int) : (finInt t sat v).1 < 2 ^ t.width := wrapNat_lt ..

/-! ### The ops brought into T (R133) -/

/-- Each op of the table is an element op on the integer values, brought into T. -/
theorem exec_finTable : ∀ row ∈ finTable, ∀ f s, exec (row.1 f) s = ccExec f (intFin f row.2) s := by
  have absolute : (fun a b (_ : Int) => ((a - b).natAbs : Int)) = fun a b _ => max (a - b) (b - a) := by
    funext a b _
    omega
  simp only [finTable, List.forall_mem_cons, List.not_mem_nil, false_imp_iff, implies_true, and_true]
  refine ⟨fun _ _ => rfl, fun _ _ => rfl, fun _ _ => rfl, fun _ _ => rfl, fun f s => ?_⟩
  rw [← absolute]
  rfl

/-- The SAT events of an element op brought into T: one for each valid element whose exact result lies outside. -/
theorem mapElems_finInt (w : Nat) (t : Ty) (sat : Bool) (a : Token) (g : Nat → Int) : (mapElems w a fun e => finInt t sat (g e)).2
    = ⟨((Finset.range (512 / w)).filter fun e => validE a.mask w e = true ∧ (g e < t.intMin ∨ t.intMax < g e)).card, 0, 0⟩ := by
  have event : ∀ e, (if validE a.mask w e then finInt t sat (g e) else (elem a.payload w e, Ev.zero)).2
      = if decide (validE a.mask w e = true ∧ (g e < t.intMin ∨ t.intMax < g e)) then Ev.oneSat else Ev.zero := fun e => by
    by_cases valid : validE a.mask w e = true <;> simp [valid, finInt_eq]
  have events : (mapElems w a fun e => finInt t sat (g e)).2
      = ((List.range (512 / w)).map fun e => if decide (validE a.mask w e = true ∧ (g e < t.intMin ∨ t.intMax < g e)) then Ev.oneSat else Ev.zero).foldl
        Ev.add Ev.zero := by
    unfold mapElems
    dsimp only
    rw [List.map_map]
    exact congrArg (List.foldl Ev.add Ev.zero) (List.map_congr_left fun e _ => event e)
  rw [events, foldl_satEvents]
  simp [Ev.zero]

/-! ### The ops on patterns (R133 to R135) -/

theorem clzOf_eq (w v : Nat) : clzOf w v = w - Nat.size v := by
  unfold clzOf
  split
  · simp [*]
  · rename_i h
    have size : Nat.size v = Nat.log2 v + 1 := by
      have low : 2 ^ Nat.log2 v ≤ v := Nat.log2_self_le h
      have high : v < 2 ^ (Nat.log2 v + 1) := Nat.lt_log2_self
      exact le_antisymm (Nat.size_le.mpr high) (Nat.lt_size.mpr low)
    omega

theorem popOf_eq (w v : Nat) : popOf w v = ((Finset.range w).filter fun i => v.testBit i = true).card := by
  rw [popOf, Finset.card_filter, ← List.countP_eq_length_filter]
  induction w with
  | zero => rfl
  | succ w ih => rw [List.range_succ, List.countP_append, ih, Finset.sum_range_succ, List.countP_singleton]

theorem ones_xor {w v : Nat} (hv : v < 2 ^ w) : (2 ^ w - 1) ^^^ v = 2 ^ w - 1 - v := by
  refine Nat.eq_of_testBit_eq fun i => ?_
  rw [Nat.sub_sub, Nat.add_comm 1 v, Nat.testBit_two_pow_sub_succ hv, Nat.testBit_xor, Nat.testBit_two_pow_sub_one]
  by_cases hi : i < w
  · simp [hi]
  · have above : v.testBit i = false := Nat.testBit_lt_two_pow (hv.trans_le (Nat.pow_le_pow_right (by decide) (Nat.le_of_not_lt hi)))
    simp [hi, above]

/-- A rotation: the two parts do not meet, so their sum is within the width. -/
theorem rolOf_mod {w v k : Nat} (hv : v < 2 ^ w) (hk : k < w) : rolOf w v k % 2 ^ w = v * 2 ^ k % 2 ^ w + v / 2 ^ (w - k) := by
  have split : 2 ^ w = 2 ^ (w - k) * 2 ^ k := by rw [← Nat.pow_add, Nat.sub_add_cancel hk.le]
  have high : v * 2 ^ k % 2 ^ w = v % 2 ^ (w - k) * 2 ^ k := by rw [split, Nat.mul_mod_mul_right]
  have low : v / 2 ^ (w - k) < 2 ^ k := Nat.div_lt_of_lt_mul (by rwa [← split])
  have inside : v % 2 ^ (w - k) * 2 ^ k + v / 2 ^ (w - k) < 2 ^ w := by
    have : v % 2 ^ (w - k) + 1 ≤ 2 ^ (w - k) := Nat.mod_lt _ (Nat.two_pow_pos _)
    calc v % 2 ^ (w - k) * 2 ^ k + v / 2 ^ (w - k) < v % 2 ^ (w - k) * 2 ^ k + 2 ^ k := Nat.add_lt_add_left low _
      _ = (v % 2 ^ (w - k) + 1) * 2 ^ k := (Nat.succ_mul ..).symm
      _ ≤ 2 ^ w := by rw [split]; exact Nat.mul_le_mul_right _ this
  rw [high, rolOf, Nat.add_mod, high, Nat.mod_eq_of_lt (low.trans_le (Nat.pow_le_pow_right (by decide) hk.le)), Nat.mod_eq_of_lt inside]

/-- The six conditions of R134, by their code. -/
theorem intCmp_condOf {f : CCFrame} (h : (f.flags.extractLsb' 0 3).toNat < 6) (x y : Int) : intCmp (condOf f) x y
    = [x == y, x != y, decide (x < y), decide (x ≤ y), decide (y < x), decide (y ≤ x)].getD (f.flags.extractLsb' 0 3).toNat false := by
  unfold condOf
  generalize (f.flags.extractLsb' 0 3).toNat = k at h
  interval_cases k <;> simp [cmpCondOf, intCmp, bne, Bool.beq_eq_decide_eq]

/-- An op of the pattern table computes element by element what the table says, on patterns of its width. -/
def ComputesPattern (row : (CCFrame → Instr) × (CCFrame → Nat → (Nat → Int) → Nat → Nat → Nat → Nat)) : Prop :=
  ∀ f s, (f.flags.extractLsb' 0 3).toNat < 6 → ∃ g : Nat → Nat → Nat → Nat × Ev, exec (row.1 f) s = ccExec f (elementwise f g) s
    ∧ ∀ a b c, a < 2 ^ f.ty.width → b < 2 ^ f.ty.width → (g a b c).1 % 2 ^ f.ty.width = row.2 f f.ty.width f.ty.intOf a b c

theorem computesPattern_of_onPattern {i : CCFrame → Instr} {r : CCFrame → Nat → (Nat → Int) → Nat → Nat → Nat → Nat} (g : CCFrame → Nat → Nat → Nat)
    (he : ∀ f s, exec (i f) s = ccExec f (onPattern f (g f)) s)
    (hg : ∀ f a b c, a < 2 ^ f.ty.width → b < 2 ^ f.ty.width → g f a b % 2 ^ f.ty.width = r f f.ty.width f.ty.intOf a b c) :
    ComputesPattern (i, r) :=
  fun f s _ => ⟨_, he f s, fun a b c ha hb => (Nat.mod_mod _ _).trans (hg f a b c ha hb)⟩

theorem computesPattern : ∀ row ∈ patTable, ComputesPattern row := by
  simp only [patTable, List.forall_mem_cons, List.not_mem_nil, false_imp_iff, implies_true, and_true]
  have amount : ∀ (f : CCFrame) (b : Nat), b % f.ty.width < f.ty.width := fun f b => Nat.mod_lt _ f.ty.width_pos
  refine ⟨?pass, ?mulh, ?min, ?max, ?and, ?or, ?xor, ?andn, ?shl, ?shr, ?sar, ?rol, ?clz, ?popc, ?cmpv, ?selv⟩
  case pass => exact computesPattern_of_onPattern (fun _ a _ => a) (fun _ _ => rfl) fun f a b c ha _ => Nat.mod_eq_of_lt ha
  case mulh =>
    refine fun f s _ => ⟨_, rfl, fun a b c _ _ => ?_⟩
    rw [Nat.mod_eq_of_lt (wrapNat_lt ..), wrapNat_eq]
    push_cast
    rfl
  case min =>
    refine computesPattern_of_onPattern (fun f a b => if f.ty.intOf b < f.ty.intOf a then b else a) (fun _ _ => rfl) fun f a b c ha hb => ?_
    by_cases h : f.ty.intOf a ≤ f.ty.intOf b
    · simp [h, Int.not_lt.mpr h, Nat.mod_eq_of_lt ha]
    · simp [h, Int.not_le.mp h, Nat.mod_eq_of_lt hb]
  case max =>
    refine computesPattern_of_onPattern (fun f a b => if f.ty.intOf a < f.ty.intOf b then b else a) (fun _ _ => rfl) fun f a b c ha hb => ?_
    by_cases h : f.ty.intOf b ≤ f.ty.intOf a
    · simp [h, Int.not_lt.mpr h, Nat.mod_eq_of_lt ha]
    · simp [h, Int.not_le.mp h, Nat.mod_eq_of_lt hb]
  case and =>
    exact computesPattern_of_onPattern (fun _ a b => a &&& b) (fun _ _ => rfl) fun f a b c ha _ => Nat.mod_eq_of_lt (Nat.and_le_left.trans_lt ha)
  case or => exact computesPattern_of_onPattern (fun _ a b => a ||| b) (fun _ _ => rfl) fun f a b c ha hb => Nat.mod_eq_of_lt (Nat.or_lt_two_pow ha hb)
  case xor => exact computesPattern_of_onPattern (fun _ a b => a ^^^ b) (fun _ _ => rfl) fun f a b c ha hb => Nat.mod_eq_of_lt (Nat.xor_lt_two_pow ha hb)
  case andn =>
    refine computesPattern_of_onPattern (fun f a b => a &&& (f.ty.ones ^^^ b)) (fun _ _ => rfl) fun f a b c ha hb => ?_
    rw [Nat.mod_eq_of_lt (Nat.and_le_left.trans_lt ha), Ty.ones, ones_xor hb]
  case shl => exact computesPattern_of_onPattern (fun f a b => a * 2 ^ (b % f.ty.width)) (fun _ _ => rfl) fun _ _ _ _ _ _ => rfl
  case shr =>
    exact computesPattern_of_onPattern (fun f a b => a / 2 ^ (b % f.ty.width)) (fun _ _ => rfl) fun f a b c ha _ =>
      Nat.mod_eq_of_lt ((Nat.div_le_self ..).trans_lt ha)
  case sar =>
    refine computesPattern_of_onPattern (fun f a b => wrapNat f.ty.width (f.ty.intOf a / ((2 ^ (b % f.ty.width) : Nat) : Int))) (fun _ _ => rfl)
      fun f a b c _ _ => ?_
    rw [Nat.mod_eq_of_lt (wrapNat_lt ..), wrapNat_eq]
    push_cast
    rfl
  case rol =>
    exact computesPattern_of_onPattern (fun f a b => rolOf f.ty.width a (b % f.ty.width)) (fun _ _ => rfl) fun f a b c ha _ => rolOf_mod ha (amount f b)
  case clz =>
    refine computesPattern_of_onPattern (fun f a _ => clzOf f.ty.width a) (fun _ _ => rfl) fun f a b c _ _ => ?_
    rw [clzOf_eq]
    exact Nat.mod_eq_of_lt ((Nat.sub_le ..).trans_lt Nat.lt_two_pow_self)
  case popc =>
    refine computesPattern_of_onPattern (fun f a _ => popOf f.ty.width a) (fun _ _ => rfl) fun f a b c ha _ => ?_
    have count : popOf f.ty.width a ≤ f.ty.width := (List.length_filter_le ..).trans_eq (List.length_range ..)
    rw [Nat.mod_eq_of_lt (count.trans_lt Nat.lt_two_pow_self), popOf_eq]
  case cmpv =>
    refine fun f s hc => ⟨_, rfl, fun a b c _ _ => ?_⟩
    have ones : f.ty.ones < 2 ^ f.ty.width := Nat.sub_lt (Nat.two_pow_pos _) Nat.one_pos
    dsimp only [cmpElem]
    rw [if_neg Bool.false_ne_true, ← intCmp_condOf hc]
    dsimp only
    split
    · exact Nat.mod_eq_of_lt ones
    · exact Nat.zero_mod _
  case selv =>
    refine fun f s _ => ⟨_, rfl, fun a b c ha hb => Nat.mod_eq_of_lt ?_⟩
    dsimp only
    split <;> assumption

/-! ### The obligation -/

/-- Settles O31: an op of either table is an element op with the table's results, and DIVI writes the two tokens of its pairs. -/
theorem elementOpsComplete : Obligations.ElementOpsComplete := by
  unfold Obligations.ElementOpsComplete
  intro f s w a y c due hc
  refine ⟨fun row hrow => ?_, fun row hrow => ?_, ?_⟩
  · have comes := elementwise_comes (fun a b c => finInt f.ty f.sat (row.2 (f.ty.intOf a) (f.ty.intOf b) (f.ty.intOf c))) due
    rw [exec_finTable row hrow f s]
    refine ⟨_, _, comes, isElems_mapElems fun e _ => ?_, fun off => ?_, fun on => ?_⟩
    · rw [Nat.mod_eq_of_lt (finInt_lt ..), finInt_eq]
    · rw [off, if_neg Bool.false_ne_true]
    · rw [on, if_pos rfl, mapElems_finInt]
      rfl
  · obtain ⟨g, run, results⟩ := computesPattern row hrow f s hc
    rw [run]
    exact ⟨_, _, elementwise_comes g due, isElems_mapElems fun e _ => results _ _ _ (readElem_lt ..) (readElem_lt ..)⟩
  · obtain ⟨-, outs, -⟩ := w.consumed_used f
    obtain ⟨-, -, -, -, noOuts, -⟩ := workAt_s0 due.1.1
    refine ⟨(mapElems f.ty.width a fun e => ((divPair f.ty.width f.ty.isSigned (readElem f.ty f.a a e) (readElem f.ty f.b y e)).1, Ev.zero)).1,
      (mapElems f.ty.width a fun e => ((divPair f.ty.width f.ty.isSigned (readElem f.ty f.a a e) (readElem f.ty f.b y e)).2, Ev.zero)).1,
      ccExec_comes due ?_ rfl, isElems_mapElems fun e _ => rfl, isElems_mapElems fun e _ => rfl⟩
    simp only [Behave.plain, Work.emit, outs, noOuts, List.nil_append, List.cons_append]

end Machine
end Sys2Proof
end

section
/-! PROOF. The firing procedure of the compute-cell ops besides a DATA firing (O37): a bit of 0, markers, STOPs, mismatches and ERRs. -/
namespace Sys2Proof.Machine

/-! ### What a firing consumes -/

theorem Work.consumed_foldl {α : Type} {g : Work → α → Work} (hg : ∀ x a, Work.Consumed x (g x a)) (l : List α) (w : Work) : w.Consumed (l.foldl g w) :=
  List.foldlRecOn l g (motive := w.Consumed) ⟨rfl, rfl, rfl⟩ fun x hx a _ => hx.trans (hg x a)

theorem Work.consumed_popAll (w : Work) (ps : List (PortName × Port)) : w.Consumed (w.popAll ps) :=
  Work.consumed_foldl (g := fun (x : Work) (p : PortName × Port) => x.pop p.2.src (x.reader p.1)) (fun x p => x.consumed_pop p.2.src (x.reader p.1)) ps w

theorem Work.consumed_dropErr (w : Work) (p : PortName × Port) : w.Consumed (w.dropErr p) := by
  unfold Work.dropErr
  split
  · exact ⟨rfl, rfl, rfl⟩
  · exact w.consumed_pop ..

theorem Work.consumed_passMarker (w : Work) (t : Token) : w.Consumed (w.passMarker t) := by
  unfold Work.passMarker
  split <;> exact ⟨rfl, rfl, rfl⟩

theorem Work.consumed_passStop (w : Work) (l : BitVec 3) (r : Ride) : w.Consumed (w.passStop l r) := ⟨rfl, rfl, rfl⟩

/-! ### The ops that follow R127 -/

/-- An instruction of a frame whose turns are firings of R127 with the behaviour given. -/
def Follows (i : Instr) (f : CCFrame) (b : Behave) : Prop :=
  ∀ s w w1, Ready s w → ccFire f b w = some w1 → exec i s = w1.commit [f.oa, f.ob] f.silt

/-- An op that passes port A's token under a bit of 0 and an ERR in a firing's place, and at the end of its sequence clears its carry if it is
SCAN and does nothing if it is not. -/
structure Passes (i : Instr) (f : CCFrame) (b : Behave) : Prop where
  follows : Follows i f b
  off : ∀ w a, b.off w a = w.emit2 a
  err : ∀ w e, b.err w e = w.emit2 e
  fin : ∀ w, ∃ c, b.fin w = { w with op := { w.op with carry := c } } ∧ (i = .scan f → c = none) ∧ (i ≠ .scan f → c = w.op.carry)

theorem passes_plain {i : Instr} {f : CCFrame} {data : Work → Token → Token → Token → Work} (he : ∀ s, exec i s = ccExec f (Behave.plain data) s)
    (hi : i ≠ .scan f) : Passes i f (Behave.plain data) where
  follows s _ _ ready fire := (he s).trans (ccTotal_ready ready fire)
  off _ _ := rfl
  err _ _ := rfl
  fin w := ⟨w.op.carry, rfl, fun e => absurd e hi, fun _ => rfl⟩

theorem passes_scan (f : CCFrame) : Passes (.scan f) f (scanBehave f) where
  follows _ _ _ ready fire := ccTurn_ready ready fire
  off _ _ := rfl
  err _ _ := rfl
  fin _ := ⟨none, rfl, fun _ => rfl, fun h => absurd rfl h⟩

section
variable {i : Instr} {f : CCFrame} {b : Behave} {s : State} {w x : Work} {t : Token}

theorem emit2_eq (h : w.outs = []) : w.emit2 t = { w with outs := [(0, t), (1, t)] } := by
  simp [Work.emit2, Work.emit, h]

theorem Ready.fresh (h : Ready s w) : w.s0 = s ∧ w.s = s ∧ w.outs = [] := by
  obtain ⟨s0, now, -, -, outs, -⟩ := workAt_s0 h.1
  exact ⟨s0, now, outs⟩

/-- A firing that writes one token to both outputs, after what it has consumed. -/
theorem Follows.comes (h : Follows i f b) (ready : Ready s w) (fire : ccFire f b w = some (x.emit2 t)) (kept : w.Consumed x) :
    Comes [f.oa, f.ob] f.silt s { x with outs := [(0, t), (1, t)] } (exec i s) := by
  obtain ⟨s0, -, outs⟩ := ready.fresh
  obtain ⟨same, sameOuts, -⟩ := kept
  rw [h s w _ ready fire, emit2_eq (sameOuts.trans outs), ← s0, ← same]
  exact commit_comes ..

/-! ### Markers (R23, R127) -/

theorem ccFire_marker {ps : List (PortName × Port)} (free : w.op.resolving = none)
    (h : markerAt ((f.streams ++ f.helds).map fun p => (p, w.head p.1 p.2)) f.streams = some (t, ps)) :
    ccFire f b w = some (((w.popAll ps).passMarker t).emit2 t) := by
  unfold ccFire
  simp only [free, h]

/-- The marker that goes is the first in port order. It is taken from every stream port where they all show its kind and it stands at one of them,
else from its own port. -/
theorem markerAt_first {heads l1 l2 : List ((PortName × Port) × Option Token)} {p : PortName × Port} {S : List (PortName × Port)}
    (h : heads = l1 ++ (p, some t) :: l2) (before : ∀ q ∈ l1, ∀ u, q.2 = some u → u.isMarker = false) (marker : t.isMarker = true) :
    ((∀ q ∈ S, ∃ u, (q, some u) ∈ heads ∧ u.kind = t.kind) → p.2.kind = .stream → markerAt heads S = some (t, S))
    ∧ ((p.2.kind ≠ .stream ∨ ∃ q ∈ S, ∀ u, (q, some u) ∈ heads → u.kind ≠ t.kind) → markerAt heads S = some (t, [p])) := by
  have first : ∃ rest, (heads.filterMap fun h => match h.2 with | some t => if t.isMarker then some (t, h.1) else none | none => none) = (t, p) :: rest := by
    have nothing : (l1.filterMap fun h => match h.2 with | some t => if t.isMarker then some (t, h.1) else none | none => none) = [] := by
      rw [List.filterMap_eq_nil_iff]
      intro q hq
      cases e : q.2 with
      | none => rfl
      | some u => simp [before q hq u e]
    simp only [h, List.filterMap_append, nothing, List.nil_append, List.filterMap_cons, marker, if_true]
    exact ⟨_, rfl⟩
  obtain ⟨rest, first⟩ := first
  unfold markerAt
  split
  · rename_i e
    cases e.symm.trans first
  · rename_i e
    cases e.symm.trans first
    refine ⟨fun same stream => ?_, fun alone => ?_⟩
    · refine congrArg (fun l => some (t, l)) (if_pos ?_)
      simp only [Bool.and_eq_true, List.all_eq_true, List.any_eq_true, stream, BEq.rfl, and_true]
      intro q hq
      obtain ⟨u, hu, kind⟩ := same q hq
      exact ⟨_, hu, by simp, by simp [kind]⟩
    · refine congrArg (fun l => some (t, l)) (if_neg ?_)
      simp only [Bool.and_eq_true, List.all_eq_true, List.any_eq_true, beq_iff_eq, not_and]
      rcases alone with other | ⟨q, hq, differs⟩
      · exact fun _ => other
      · intro same
        obtain ⟨⟨q', head⟩, mem, rfl, kind⟩ := same q hq
        cases head with
        | none => cases kind
        | some u => exact absurd (beq_iff_eq.mp kind) (differs u mem)

/-- The same of the tokens at the heads of an op's ports. -/
theorem markerAt_heads {p : PortName × Port} {l1 l2 : List (PortName × Port)} (ports : f.streams ++ f.helds = l1 ++ p :: l2)
    (before : ∀ q ∈ l1, ∀ u, w.head q.1 q.2 = some u → u.isMarker = false) (head : w.head p.1 p.2 = some t) (marker : t.isMarker = true) :
    ((∀ q ∈ f.streams, ∃ u, w.head q.1 q.2 = some u ∧ u.kind = t.kind) → p.2.kind = .stream →
        markerAt ((f.streams ++ f.helds).map fun q => (q, w.head q.1 q.2)) f.streams = some (t, f.streams))
    ∧ ((p.2.kind ≠ .stream ∨ ∃ q ∈ f.streams, ∀ u, w.head q.1 q.2 = some u → u.kind ≠ t.kind) →
        markerAt ((f.streams ++ f.helds).map fun q => (q, w.head q.1 q.2)) f.streams = some (t, [p])) := by
  have shown : ((f.streams ++ f.helds).map fun q => (q, w.head q.1 q.2))
      = (l1.map fun q => (q, w.head q.1 q.2)) ++ (p, some t) :: l2.map fun q => (q, w.head q.1 q.2) := by
    rw [ports, List.map_append, List.map_cons, head]
  have earlier : ∀ x ∈ l1.map fun q => (q, w.head q.1 q.2), ∀ u, x.2 = some u → u.isMarker = false := by
    intro x hx u hu
    obtain ⟨q, hq, rfl⟩ := List.mem_map.mp hx
    exact before q hq u hu
  obtain ⟨together, alone⟩ := markerAt_first (S := f.streams) shown earlier marker
  refine ⟨fun same => together fun q hq => ?_, fun differs => alone (differs.imp_right ?_)⟩
  · obtain ⟨u, hu, kind⟩ := same q hq
    exact ⟨u, List.mem_map.mpr ⟨q, List.mem_append_left _ hq, by rw [hu]⟩, kind⟩
  · rintro ⟨q, hq, other⟩
    refine ⟨q, hq, fun u hu => other u ?_⟩
    obtain ⟨x, -, e⟩ := List.mem_map.mp hu
    obtain ⟨rfl, he⟩ := Prod.mk.inj e
    exact he

/-! ### STOPs, mismatches and ERRs (R23, R30, R33, R127) -/

/-- The tokens at the stream ports, where every one shows a token, and no marker stands at any port. -/
structure Shows (f : CCFrame) (w : Work) : Prop where
  free : w.op.resolving = none
  unmarked : ∀ q ∈ f.streams ++ f.helds, ∀ u, w.head q.1 q.2 = some u → u.isMarker = false
  nonempty : f.streams ≠ []
  heads : ∀ q ∈ f.streams, (w.head q.1 q.2).isSome = true

/-- The tokens at the stream ports. -/
def Work.heads (f : CCFrame) (w : Work) : List Token := f.streams.filterMap fun q => w.head q.1 q.2

theorem mem_heads : t ∈ w.heads f ↔ ∃ q ∈ f.streams, w.head q.1 q.2 = some t := List.mem_filterMap

theorem Shows.length (h : Shows f w) : (w.heads f).length = f.streams.length := by
  have all : ∀ l : List (PortName × Port), (∀ q ∈ l, (w.head q.1 q.2).isSome = true) → (l.filterMap fun q => w.head q.1 q.2).length = l.length := by
    intro l
    induction l with
    | nil => exact fun _ => rfl
    | cons q l ih =>
      intro hl
      obtain ⟨u, hu⟩ := Option.isSome_iff_exists.mp (hl q List.mem_cons_self)
      rw [List.filterMap_cons_some (f := fun q : PortName × Port => w.head q.1 q.2) hu, List.length_cons, List.length_cons, ih fun x hx => hl x (List.mem_cons_of_mem q hx)]
  exact all f.streams h.heads

theorem Shows.markerAt (h : Shows f w) : markerAt ((f.streams ++ f.helds).map fun p => (p, w.head p.1 p.2)) f.streams = none := by
  refine markerAt_none fun x hx u hu => ?_
  obtain ⟨q, hq, rfl⟩ := List.mem_map.mp hx
  exact h.unmarked q hq u hu

/-- The highest STOP level among tokens of which one has it. -/
theorem topStop_eq {ts : List Token} {l : BitVec 3} (some : ∃ t ∈ ts, t.kind = 1 ∧ t.level = l) (all : ∀ t ∈ ts, t.kind = 1 → t.level ≤ l) :
    topStop ts = l := by
  suffices ∀ m ≤ l, (m = l ∨ ∃ t ∈ ts, t.kind = 1 ∧ t.level = l) →
      ts.foldl (fun m t => if t.isStop && decide (m < t.level) then t.level else m) m = l from this 0 (BitVec.le_def.mpr (Nat.zero_le _)) (.inr some)
  clear some
  induction ts with
  | nil => exact fun m _ h => h.elim id fun ⟨_, ht, _⟩ => absurd ht List.not_mem_nil
  | cons t ts ih =>
    intro m hm h
    have tail : ∀ u ∈ ts, u.kind = 1 → u.level ≤ l := fun u hu => all u (List.mem_cons_of_mem t hu)
    have here : t.kind = 1 → t.level ≤ l := all t List.mem_cons_self
    rw [List.foldl_cons]
    by_cases up : (t.isStop && decide (m < t.level)) = true
    · rw [if_pos up]
      obtain ⟨stop, above⟩ : t.kind = 1 ∧ m < t.level := by simpa [Token.isStop] using up
      refine ih tail t.level (here stop) ?_
      rcases h with rfl | ⟨u, hu, hk, hl⟩
      · exact absurd (here stop) (BitVec.not_le.mpr above)
      · rcases List.mem_cons.mp hu with rfl | hu
        · exact .inl hl
        · exact .inr ⟨u, hu, hk, hl⟩
    · rw [if_neg up]
      refine ih tail m hm ?_
      rcases h with rfl | ⟨u, hu, hk, hl⟩
      · exact .inl rfl
      · rcases List.mem_cons.mp hu with rfl | hu
        · have notBelow : ¬ m < u.level := by simpa [Token.isStop, hk] using up
          exact .inl (BitVec.le_antisymm hm (hl ▸ BitVec.not_lt.mp notBelow))
        · exact .inr ⟨u, hu, hk, hl⟩

theorem ccFire_stop {l : BitVec 3} (h : Shows f w) (hl : l ≠ 0) (stops : ∀ t ∈ w.heads f, t.kind = 1 ∧ t.level = l) :
    ccFire f b w = (w.popAll f.streams).stopOut f b l (rides (w.heads f)) := by
  have top : topStop (w.heads f) = l := by
    obtain ⟨t, ht⟩ := List.exists_mem_of_length_pos (l := w.heads f) (h.length ▸ List.length_pos_of_ne_nil h.nonempty)
    exact topStop_eq ⟨t, ht, stops t ht⟩ fun u hu _ => (stops u hu).2 ▸ BitVec.le_refl _
  have all : ((w.heads f).all fun t => t.isStop && t.level == l) = true := by
    simpa [Token.isStop] using stops
  have length := h.length
  unfold Work.heads at top all length
  unfold ccFire
  simp only [h.free, h.markerAt, length, top, all, hl, ne_eq, not_true_eq_false, not_false_eq_true, if_false, if_true]
  rfl

/-- A mismatch: an ERR goes out and the op begins to resolve at the highest level, with nothing consumed (R30, R128). -/
theorem ccFire_mismatch {l : BitVec 3} (h : Shows f w) (hl : l ≠ 0) (cell : w.o.cls = .cc) (quiet : f.stats = false)
    (some : ∃ t ∈ w.heads f, t.kind = 1 ∧ t.level = l) (most : ∀ t ∈ w.heads f, t.kind = 1 → t.level ≤ l)
    (other : ∃ t ∈ w.heads f, t.kind = 1 → t.level ≠ l) :
    ∃ deps, ccFire f b w = .some (Work.emit2 { w with op := { w.op with resolving := .some (l, Ride.none) } }
      { errTok w.s.timestamp w.st.vs w.o.cell w.o.slot eMISMATCH with deps := deps }) := by
  have top := topStop_eq some most
  have notAll : ((w.heads f).all fun t => t.isStop && t.level == l) = false := by
    obtain ⟨t, ht, differs⟩ := other
    rw [List.all_eq_false]
    refine ⟨t, ht, ?_⟩
    simpa [Token.isStop] using differs
  have length := h.length
  unfold Work.heads at top notAll length
  unfold ccFire
  simp only [h.free, h.markerAt, length, top, notAll, hl, ne_eq, not_true_eq_false, not_false_eq_true, if_false, if_true, Bool.false_eq_true, Work.err,
    cell, quiet, Work.countMis]
  exact ⟨_, rfl⟩

/-- With no STOP at a stream port and an ERR at some port, the first in port order goes on, and every one is consumed (R29, R33). -/
theorem ccFire_err {p : PortName × Port} {l1 l2 : List (PortName × Port)} {bit : Bool} (h : Shows f w) (none : ∀ t ∈ w.heads f, t.kind ≠ 1)
    (ports : (f.ports.filter fun q => (f.streams ++ f.helds).contains q) = l1 ++ p :: l2) (before : ∀ q ∈ l1, w.errAt q = .none)
    (err : w.errAt p = some t) (hb : w.predBit f.pin f.psense = some bit) :
    ccFire f b w = some (b.err (((f.helds.filter fun q => (w.errAt q).isSome).foldl Work.dropErr (w.popAll f.streams)).takePred f.pin) t) := by
  have top : topStop (w.heads f) = 0 := topStop_zero fun t ht => by simpa [Token.isStop] using none t ht
  have errs : ∃ rest, (f.ports.filter fun q => (f.streams ++ f.helds).contains q && (w.errAt q).isSome) = p :: rest := by
    have nothing : l1.filter (fun q => (w.errAt q).isSome) = [] := List.filter_eq_nil_iff.mpr fun q hq => by simp [before q hq]
    have parts : (f.ports.filter fun q => (f.streams ++ f.helds).contains q && (w.errAt q).isSome)
        = (f.ports.filter fun q => (f.streams ++ f.helds).contains q).filter fun q => (w.errAt q).isSome := by
      rw [List.filter_filter]
      exact List.filter_congr fun q _ => Bool.and_comm ..
    have here : (w.errAt p).isSome = true := by rw [err]; rfl
    rw [parts, ports, List.filter_append, nothing, List.nil_append]
    exact ⟨_, List.filter_cons_of_pos (p := fun q => (w.errAt q).isSome) here⟩
  have helds : (f.ports.filter fun q => (f.streams ++ f.helds).contains q && (w.errAt q).isSome).filter (fun q => !f.streams.contains q)
      = f.helds.filter fun q => (w.errAt q).isSome := by
    rw [CCFrame.helds, List.filter_filter, List.filter_filter]
    refine List.filter_congr fun q hq => ?_
    have stream : f.streams.contains q = (q.2.kind == .stream) := by
      rw [Bool.eq_iff_iff, List.contains_iff_mem, CCFrame.streams, List.mem_filter]
      exact and_iff_right hq
    have held : f.helds.contains q = (q.2.kind == .held) := by
      rw [Bool.eq_iff_iff, List.contains_iff_mem, CCFrame.helds, List.mem_filter]
      exact and_iff_right hq
    have either : (f.streams ++ f.helds).contains q = (q.2.kind == .stream || q.2.kind == .held) := by rw [List.contains_append, stream, held]
    rw [CCFrame.helds] at either
    rw [either, stream]
    cases q.2.kind <;> cases (w.errAt q).isSome <;> rfl
  obtain ⟨rest, errs⟩ := errs
  rw [errs] at helds
  have length := h.length
  unfold Work.heads at top length
  unfold ccFire
  simp only [h.free, h.markerAt, length, top, ne_eq, not_true_eq_false, if_false, errs, hb, err, helds]

/-! ### What each firing writes -/

theorem Passes.comes_off {a y c : Token} (h : Passes i f b) (due : DataDue f false s w a y c) :
    Comes [f.oa, f.ob] f.silt s { w.used f with outs := [(0, a), (1, a)] } (exec i s) := by
  refine h.follows.comes due.1 ?_ (w.consumed_used f)
  rw [ccFire_data due, if_neg Bool.false_ne_true, h.off]

/-- A firing that forwards a marker from the ports given. -/
theorem Follows.comes_marker {ps : List (PortName × Port)} (h : Follows i f b) (ready : Ready s w) (free : w.op.resolving = none)
    (first : markerAt ((f.streams ++ f.helds).map fun p => (p, w.head p.1 p.2)) f.streams = some (t, ps)) :
    Comes [f.oa, f.ob] f.silt s { (w.popAll ps).passMarker t with outs := [(0, t), (1, t)] } (exec i s) :=
  h.comes ready (ccFire_marker free first) ((w.consumed_popAll ps).trans (Work.consumed_passMarker ..))

theorem stopOut_below {l : BitVec 3} {r : Ride} (h : l < f.level) : w.stopOut f b l r = some ((w.passStop l r).emit2 (stopTok l r)) := by
  simp [Work.stopOut, BitVec.not_le.mpr h]

/-- A STOP at or above the op's level ends its sequence when each held port without a token has its next. -/
theorem stopOut_ends {l : BitVec 3} {r : Ride} (hl : f.level ≤ l)
    (due : ∀ q ∈ f.helds, (w.passStop l r).resident q.1 = none → ∃ u, (w.passStop l r).head q.1 q.2 = some u ∧ (u.kind = 0 ∨ u.kind = 2)) :
    w.stopOut f b l r = some ((b.fin { ((w.passStop l r).popAll (f.helds.filter fun q => ((w.passStop l r).resident q.1).isNone)).release with
      silt := f.stats }).emit2 (stopTok l r)) := by
  have all : ((f.helds.filter fun q => ((w.passStop l r).resident q.1).isNone).all fun p =>
      match (w.passStop l r).head p.1 p.2 with | some t => t.isData || t.isErr | none => false) = true := by
    rw [List.all_eq_true]
    intro q hq
    obtain ⟨mem, empty⟩ := List.mem_filter.mp hq
    obtain ⟨u, hu, kind⟩ := due q mem (Option.isNone_iff_eq_none.mp empty)
    simpa [hu, Token.isData, Token.isErr] using kind
  unfold Work.stopOut Work.endSeq
  dsimp only
  rw [if_pos hl]
  exact congrArg (Option.map fun w2 => Work.emit2 w2 (stopTok l r)) (if_pos all)

/-- The STOP that ends a sequence: the held ports without a token consume their next, and the held tokens and SCAN's carry go. -/
theorem Passes.comes_end {l : BitVec 3} {r : Ride} {w1 w2 : Work} (h : Passes i f b) (ready : Ready s w) (shows : Shows f w) (hl : l ≠ 0)
    (stops : ∀ t ∈ w.heads f, t.kind = 1 ∧ t.level = l) (hr : r = rides (w.heads f)) (hw1 : w1 = (w.popAll f.streams).passStop l r) (high : f.level ≤ l)
    (due : ∀ q ∈ f.helds, w1.resident q.1 = none → ∃ u, w1.head q.1 q.2 = some u ∧ (u.kind = 0 ∨ u.kind = 2))
    (hw2 : w2 = w1.popAll (f.helds.filter fun q => (w1.resident q.1).isNone)) :
    ∃ c, Comes [f.oa, f.ob] f.silt s { w2 with outs := [(0, stopTok l r), (1, stopTok l r)], silt := f.stats, op := { w2.op with held := [], carry := c } }
        (exec i s) ∧ (i = .scan f → c = none) ∧ (i ≠ .scan f → c = w2.op.carry) := by
  have fire : ccFire f b w = some ((b.fin { w2.release with silt := f.stats }).emit2 (stopTok l r)) := by
    rw [ccFire_stop shows hl stops, ← hr, hw2, hw1]
    exact stopOut_ends high (hw1 ▸ due)
  have kept : w.Consumed w2 := by
    rw [hw2, hw1]
    exact ((w.consumed_popAll f.streams).trans (Work.consumed_passStop ..)).trans (Work.consumed_popAll ..)
  obtain ⟨c, fin, scan, others⟩ := h.fin { w2.release with silt := f.stats }
  rw [fin] at fire
  exact ⟨c, h.follows.comes ready fire (kept.trans ⟨rfl, rfl, rfl⟩), scan, others⟩

theorem Follows.comes_mismatch {l : BitVec 3} (h : Follows i f b) (ready : Ready s w) (shows : Shows f w) (hl : l ≠ 0) (cell : w.o.cls = .cc)
    (quiet : f.stats = false) (some : ∃ t ∈ w.heads f, t.kind = 1 ∧ t.level = l) (most : ∀ t ∈ w.heads f, t.kind = 1 → t.level ≤ l)
    (other : ∃ t ∈ w.heads f, t.kind = 1 → t.level ≠ l) :
    ∃ deps, Comes [f.oa, f.ob] f.silt s { w with
      outs := [(0, { errTok s.timestamp w.st.vs w.o.cell w.o.slot eMISMATCH with deps := deps }),
        (1, { errTok s.timestamp w.st.vs w.o.cell w.o.slot eMISMATCH with deps := deps })],
      op := { w.op with resolving := .some (l, Ride.none) } } (exec i s) := by
  obtain ⟨deps, fire⟩ := ccFire_mismatch (b := b) shows hl cell quiet some most other
  obtain ⟨-, now, -⟩ := ready.fresh
  have time : w.s.timestamp = s.timestamp := congrArg State.timestamp now
  rw [time] at fire
  exact ⟨deps, h.comes ready fire ⟨rfl, rfl, rfl⟩⟩

theorem Passes.comes_err {p : PortName × Port} {l1 l2 : List (PortName × Port)} {bit : Bool} (h : Passes i f b) (ready : Ready s w) (shows : Shows f w)
    (none : ∀ t ∈ w.heads f, t.kind ≠ 1) (ports : (f.ports.filter fun q => (f.streams ++ f.helds).contains q) = l1 ++ p :: l2)
    (before : ∀ q ∈ l1, w.errAt q = .none) (err : w.errAt p = some t) (hb : w.predBit f.pin f.psense = some bit) :
    Comes [f.oa, f.ob] f.silt s { ((f.helds.filter fun q => (w.errAt q).isSome).foldl Work.dropErr (w.popAll f.streams)).takePred f.pin with
      outs := [(0, t), (1, t)] } (exec i s) := by
  have fire := ccFire_err (b := b) shows none ports before err hb
  rw [h.err] at fire
  exact h.follows.comes ready fire
    ((w.consumed_popAll f.streams).trans ((Work.consumed_foldl Work.consumed_dropErr ..).trans (Work.consumed_takePred ..)))

end

/-- The code and the time of an ERR MISMATCH (R31). -/
theorem errTok_fields (time : Word) (vs cell slot : Nat) : (errTok time vs cell slot eMISMATCH).payload.toNat % 2 ^ 16 = 1
    ∧ (errTok time vs cell slot eMISMATCH).payload.extractLsb' 64 64 = time := by
  obtain ⟨low, below, payload⟩ : ∃ low < 2 ^ 48, (errTok time vs cell slot eMISMATCH).payload = BitVec.ofNat 512 (time.toNat * 2 ^ 64 + (low * 2 ^ 16 + 1)) := by
    refine ⟨vs % 4096 * 2 ^ 36 + cell % 32 * 2 ^ 31 + slot % 8 * 2 ^ 28, by omega, ?_⟩
    refine congrArg (BitVec.ofNat 512) ?_
    simp only [eMISMATCH]
    ring
  have inside : time.toNat * 2 ^ 64 + (low * 2 ^ 16 + 1) < 2 ^ 512 := by
    have small : time.toNat * 2 ^ 64 + (low * 2 ^ 16 + 1) < 2 ^ 128 := by
      have := time.isLt
      omega
    exact small.trans_le (pow_le_pow_right₀ one_le_two (by decide))
  rw [payload]
  refine ⟨?_, BitVec.eq_of_toNat_eq ?_⟩
  · rw [BitVec.toNat_ofNat, Nat.mod_eq_of_lt inside]
    omega
  · rw [BitVec.extractLsb'_toNat, BitVec.toNat_ofNat, Nat.mod_eq_of_lt inside, Nat.shiftRight_eq_div_pow]
    have := time.isLt
    omega

theorem kind_of_mem_streams {f : CCFrame} {p : PortName × Port} (h : p ∈ f.streams) : p.2.kind = .stream := beq_iff_eq.mp (List.mem_filter.mp h).2

theorem Work.popAll_singleton (w : Work) (p : PortName × Port) : w.popAll [p] = w.pop p.2.src (.port w.o p.1) := rfl

/-- Every op of the obligation passes, each with its own behaviour. -/
theorem passes_of_mem : ∀ row ∈ ([.pass, .ccAdd, .ccSub, .ccMul, .ccMulh, .mad, .ccMin, .ccMax, .absd, .ccAnd, .ccOr, .ccXor, .ccAndn, .ccShl, .ccShr,
      .ccSar, .rol, .ccClz, .ccPopc, .cmpv, .selv, .divi, .fadd, .fsub, .fmul, .fma, .fmin, .fmax, .fdiv, .fsqrt, .frcp, .frsq, .fexp2, .flog2, .ftanh,
      .fcmpv, .fclass, .cvt, .cvti, .cvtf, .qnt, .dqnt, .shuf, .lrot, .bcst, .scan, .red, .lidx, .filt] : List (CCFrame → Instr)),
    ∀ f, ∃ b, Passes (row f) f b := by
  simp only [List.forall_mem_cons, List.not_mem_nil, false_imp_iff, implies_true, and_true]
  and_intros
  on_goal 46 => exact fun f => ⟨_, passes_scan f⟩
  all_goals exact fun f => ⟨_, passes_plain (fun _ => rfl) nofun⟩

/-- Settles O37: each clause is one branch of the firing procedure. -/
theorem firingProcedure : Obligations.FiringProcedure := by
  unfold Obligations.FiringProcedure
  intro row hrow f s w ready free
  obtain ⟨b, passes⟩ := passes_of_mem row hrow f
  refine ⟨fun a y c due => passes.comes_off due, fun p t l1 l2 ports before head marker => ?_, fun unmarked nonempty heads => ?_⟩
  · obtain ⟨together, alone⟩ := markerAt_heads ports before head marker
    refine ⟨fun first nonempty same => ?_, fun differs => ?_⟩
    · refine passes.follows.comes_marker ready free (together same (kind_of_mem_streams (f := f) ?_))
      rw [first, List.nil_append] at ports
      rcases List.append_eq_cons_iff.mp ports with ⟨none, -⟩ | ⟨rest, e, -⟩
      · exact absurd none nonempty
      · exact e ▸ List.mem_cons_self
    · rw [← Work.popAll_singleton]
      exact passes.follows.comes_marker ready free (alone differs)
  · have shows : Shows f w := ⟨free, unmarked, nonempty, heads⟩
    have heads {P : Token → Prop} (h : ∀ q ∈ f.streams, ∀ u, w.head q.1 q.2 = some u → P u) : ∀ t ∈ w.heads f, P t := fun t ht =>
      (mem_heads.mp ht).elim fun q hq => h q hq.1 t hq.2
    have shown {P : Token → Prop} (h : ∃ q ∈ f.streams, ∃ u, w.head q.1 q.2 = some u ∧ P u) : ∃ t ∈ w.heads f, P t :=
      h.elim fun q hq => hq.2.elim fun u hu => ⟨u, mem_heads.mpr ⟨q, hq.1, hu.1⟩, hu.2⟩
    refine ⟨fun l r w1 hl stops hr hw1 => ⟨fun below => ?_, fun high due => ?_⟩, fun l hl cell quiet some most other => ?_,
      fun p e l1 l2 bit none ports before err hb => passes.comes_err ready shows (heads none) ports before err hb⟩
    · have fire := (ccFire_stop (b := b) shows hl (heads stops)).trans (stopOut_below below)
      rw [hw1, hr]
      exact passes.follows.comes ready fire ((w.consumed_popAll f.streams).trans (Work.consumed_passStop ..))
    · obtain ⟨c, comes, scan, others⟩ := passes.comes_end ready shows hl (heads stops) hr hw1 high due rfl
      exact ⟨_, c, comes, rfl, scan, others⟩
    · obtain ⟨deps, comes⟩ := passes.follows.comes_mismatch ready shows hl cell quiet (shown some) (heads most) (shown other)
      obtain ⟨code, time⟩ := errTok_fields s.timestamp w.st.vs w.o.cell w.o.slot
      exact ⟨_, comes, rfl, code, time⟩

end Sys2Proof.Machine
end

section
/-! PROOF. What the shared operations leave of the runs (O43, O44): caching and tile accesses keep them, and the ends of reads and records change
of a run only the granules it uses and the records that wait for its endpoint. -/
namespace Sys2Proof.Machine

variable {s t : State} {n : Nat} {r : Run}

/-! ### Operations that keep every run -/

@[simp] theorem State.sealBlock_runs (s : State) (block part : Nat) : (s.sealBlock block part).runs = s.runs := by
  unfold State.sealBlock
  dsimp only
  split
  · rfl
  split <;> rfl

@[simp] theorem State.writeBack_runs (s : State) (block : Nat) : (s.writeBack block).runs = s.runs := by
  unfold State.writeBack
  dsimp only
  split
  · rfl
  split
  · rfl
  split
  · rfl
  split
  · rfl
  split
  · rfl
  · exact s.sealBlock_runs ..

@[simp] theorem State.evict_runs (s : State) (pa : Nat) : (s.evict pa).runs = s.runs := by
  unfold State.evict
  extract_lets own share
  split
  · rfl
  dsimp only
  split
  · rfl
  split
  · exact State.writeBack_runs ..
  · rfl

@[simp] theorem State.cacheBlock_runs (s : State) (shared : Bool) (pa : Nat) : (s.cacheBlock shared pa).runs = s.runs := by
  unfold State.cacheBlock
  dsimp only
  split
  · rfl
  show (if _ then s else s.evict pa).runs = s.runs
  split
  · rfl
  · exact s.evict_runs pa

@[simp] theorem State.dirtyBlock_runs (s : State) (pa : Nat) : (s.dirtyBlock pa).runs = s.runs := by
  show (if _ then s else s.evict pa).runs = s.runs
  split
  · rfl
  · exact s.evict_runs pa

@[simp] theorem State.leaveBlock_runs (s : State) (cls : BitVec 2) (shared : Bool) (pa : Nat) : (s.leaveBlock cls shared pa).runs = s.runs := by
  unfold State.leaveBlock
  dsimp only
  split
  · rfl
  split
  · exact s.writeBack_runs _
  · rfl

@[simp] theorem State.touchBlock_runs (s : State) (e : TlbEntry) (pa : Nat) : (s.touchBlock e pa).runs = s.runs := by
  exact (State.leaveBlock_runs ..).trans (s.cacheBlock_runs ..)

theorem runs_foldl {α : Type} {f : State → α → State} (l : List α) (hf : ∀ s x, (f s x).runs = s.runs) (s : State) : (l.foldl f s).runs = s.runs :=
  List.foldlRecOn (motive := fun t => t.runs = s.runs) l f rfl fun t ht x _ => (hf t x).trans ht

@[simp] theorem State.touchTile_runs (s : State) (x : Tile) (base a m : Nat) : (s.touchTile x base a m).runs = s.runs := by
  unfold State.touchTile
  split
  · exact runs_foldl _ (fun _ _ => State.cacheBlock_runs ..) s
  · rfl

theorem State.touchPieces_runs (die part asid fuel va m : Nat) (s : State) : (State.touchPieces die part asid fuel va m s).runs = s.runs := by
  induction fuel generalizing va m s with
  | zero => rfl
  | succ fuel ih =>
    unfold State.touchPieces
    split
    · rfl
    · dsimp only
      rw [ih]
      split
      · exact State.touchBlock_runs ..
      · rfl

@[simp] theorem State.touchV_runs (s : State) (die part asid va m : Nat) : (s.touchV die part asid va m).runs = s.runs := State.touchPieces_runs ..

@[simp] theorem State.setUnitByte_runs (s : State) (x : Tile) (u off : Nat) (b : Byte) : (s.setUnitByte x u off b).runs = s.runs := by
  unfold State.setUnitByte
  split
  · rfl
  · split <;> rfl

@[simp] theorem State.setTileBytes_runs (s : State) (x : Tile) (base a : Nat) (bs : List Byte) : (s.setTileBytes x base a bs).runs = s.runs := by
  induction bs generalizing s a with
  | nil => rfl
  | cons b bs ih => exact (ih ..).trans (s.setUnitByte_runs ..)

@[simp] theorem State.setTileArea_runs (s : State) (x : Tile) (base a : Nat) (bs : List Byte) : (s.setTileArea x base a bs).runs = s.runs := by
  unfold State.setTileArea
  dsimp only
  split
  · rw [runs_foldl _ fun _ _ => State.dirtyBlock_runs ..]
    exact s.setTileBytes_runs ..
  split
  · exact s.setTileBytes_runs ..
  · exact s.setTileBytes_runs ..

@[simp] theorem State.writeLanes_runs (s : State) (x : Tile) (a : Nat) (v : Token) : (s.writeLanes x a v).runs = s.runs :=
  runs_foldl _ (fun _ _ => State.setTileArea_runs ..) s

/-- A run is found by its number alone among the runs. -/
theorem run_congr (h : t.runs = s.runs) : t.run n = s.run n := by
  unfold State.run
  rw [h]

theorem run_serial (h : s.run n = some r) : r.serial = n := by simpa using List.find?_some h

theorem run_updRun_map {m : Nat} {f : Run → Run} (hf : ∀ r, (f r).serial = r.serial) :
    (s.updRun m f).run n = (s.run n).map fun r => if r.serial == m then f r else r := by
  have same : ((fun r : Run => r.serial == n) ∘ fun r => if r.serial == m then f r else r) = fun r => r.serial == n := by
    funext r
    by_cases e : r.serial = m <;> simp [e, hf]
  show (s.runs.map _).find? _ = _
  rw [List.find?_map, same]
  rfl

/-! ### A run but for its granules and its records -/

/-- Run n is `r`, but for the granules it uses and the records that wait for its endpoint. -/
def HasRun (s : State) (n : Nat) (r : Run) : Prop := ∃ used records, s.run n = some { r with used := used, records := records }

theorem HasRun.of_run (h : s.run n = some r) : HasRun s n r := ⟨r.used, r.records, h⟩

theorem HasRun.congr (h : HasRun s n r) (e : t.runs = s.runs) : HasRun t n r := by
  obtain ⟨used, records, h⟩ := h
  exact ⟨used, records, (run_congr e).trans h⟩

/-- A change of run n that does not look at its granules and records. -/
theorem HasRun.updRun {f : Run → Run} (h : HasRun s n r) (serial : ∀ r, (f r).serial = r.serial)
    (blind : ∀ used records, ∃ used1 records1, f { r with used := used, records := records } = { f r with used := used1, records := records1 }) :
    HasRun (s.updRun n f) n (f r) := by
  obtain ⟨used, records, h⟩ := h
  obtain ⟨used1, records1, e⟩ := blind used records
  exact ⟨used1, records1, e ▸ run_updRun h serial⟩

/-- A change of any run's granules or records. -/
theorem HasRun.updUse {m : Nat} {f : Run → Run} (h : HasRun s n r) (hf : ∀ r, ∃ used records, f r = { r with used := used, records := records }) :
    HasRun (s.updRun m f) n r := by
  obtain ⟨used, records, h⟩ := h
  have serial : ∀ r, (f r).serial = r.serial := fun r => by
    obtain ⟨_, _, e⟩ := hf r
    rw [e]
  unfold HasRun
  rw [run_updRun_map serial, h, Option.map_some]
  split
  · obtain ⟨used1, records1, e⟩ := hf { r with used := used, records := records }
    exact ⟨used1, records1, congrArg some e⟩
  · exact ⟨used, records, rfl⟩

theorem HasRun.runRecord {m : Nat} {rec : FRec} (h : HasRun s n r) : HasRun (s.runRecord m rec) n r := by
  unfold State.runRecord
  split
  · exact h
  dsimp only
  split
  · exact HasRun.updUse (h.congr rfl) fun r => ⟨r.used, _, rfl⟩
  · exact h.congr rfl

theorem HasRun.runFault {m cls access code va : Nat} (h : HasRun s n r) : HasRun (s.runFault m cls access code va) n r := by
  unfold State.runFault
  split
  · exact h
  · exact h.runRecord

theorem State.keepFreed_runs (s : State) (x : Tile) : (s.keepFreed x).runs = s.runs := by
  unfold State.keepFreed
  dsimp only
  split <;> split <;> rfl

theorem HasRun.freeTile {u : Nat} (h : HasRun s n r) : HasRun (s.freeTile u) n r := by
  unfold State.freeTile
  split
  · exact h
  rename_i x _
  extract_lets kept dropped pool
  have hd : HasRun dropped n r := h.congr (s.keepFreed_runs x)
  split
  · exact hd
  split
  · split
    · exact hd.updUse fun r => ⟨_, r.records, rfl⟩
    · exact hd.congr rfl
  · exact hd.congr rfl

theorem HasRun.settleTile {u : Nat} (h : HasRun s n r) : HasRun (s.settleTile u) n r := by
  unfold State.settleTile
  split
  · exact h
  split
  · exact h
  split
  · exact h.freeTile
  · exact h

theorem HasRun.ownerEndTile {u : Nat} (h : HasRun s n r) : HasRun (s.ownerEndTile u) n r := by
  unfold State.ownerEndTile
  split
  · exact h
  split
  · split
    · exact h.freeTile
    · exact h
  · split
    · refine HasRun.freeTile ?_
      split
      · exact h
      · exact h.congr rfl
    · exact h
  · exact h

theorem HasRun.endRead {u : Nat} {slot : Option Nat} (h : HasRun s n r) : HasRun (s.endRead u slot) n r := by
  unfold State.endRead
  split
  · exact h
  extract_lets ended
  have he : HasRun ended n r := h.congr rfl
  split
  · exact he.ownerEndTile.settleTile
  · exact he.settleTile

theorem HasRun.foldl {α : Type} {f : State → α → State} {l : List α} (h : HasRun s n r)
    (hf : ∀ {t : State} {x : α}, HasRun t n r → HasRun (f t x) n r) : HasRun (l.foldl f s) n r :=
  List.foldlRecOn (motive := fun t => HasRun t n r) l f h fun _ ht _ _ => hf ht

end Sys2Proof.Machine
end

section
/-! PROOF. The cells' own steps, and the steps of bindings, seams and fault records (O43). -/
namespace Sys2Proof.Machine

variable {s : State} {p : OpPlace} {w : Work} {i : Instr} {run : Nat} {r : Run} {fifo : Fin 8}

/-! ### Tokens that go without a firing (R29, R218) -/

theorem execHeldStopDiscard_stop {port : PortName} {q : Port} {t : Token} (hw : s.workAt p = some w) (hi : s.opInstr p = some i)
    (hq : Instr.portOf i port = some q) (held : q.kind = .held) (ht : w.head port q = some t) (stop : t.kind = 1) :
    execHeldStopDiscard p port s = .next (w.pop q.src (.port w.o port)).s := by
  unfold execHeldStopDiscard
  simp [hw, hi, hq, ht, held, Token.isStop, stop, Work.reader]

/-- Only an ERR leaves a record behind and only a MARK an event. -/
theorem absorb_quiet {t : Token} (err : t.kind ≠ 2) (mark : t.kind ≠ 5) : w.absorb t = w := by
  unfold Work.absorb Token.isErr
  rw [beq_false_of_ne err, if_neg Bool.false_ne_true, if_neg mark]

theorem execIndexStopDiscard_passes {f : SWFrame} {t : Token} (hw : s.workAt p = some w) (hi : s.opInstr p = some i)
    (hf : Instr.swFrame i = some f) (ht : w.headAt f.idx.src (.index w.o) = some t) (kind : t.kind = 1 ∨ t.kind = 3 ∨ t.kind = 4) :
    execIndexStopDiscard p s = .next (w.pop f.idx.src (.index w.o)).s := by
  have quiet : w.absorb t = w := by
    refine absorb_quiet ?_ ?_ <;> rcases kind with e | e | e <;> rw [e] <;> decide
  have goes : (t.isStop || t.isMarker) = true := by
    rcases kind with e | e | e <;> simp [Token.isStop, Token.isMarker, e]
  unfold execIndexStopDiscard
  simp [hw, hi, hf, ht, goes, quiet]

/-! ### Answers of memory cells (R189 to R191) -/

/-- The tokens of an answer, by output. -/
def McItem.toks (x : McItem) : List (Nat × Token) := (x.a.toList.map fun t => (0, t)) ++ x.b.toList.map fun t => (1, t)

theorem McItem.forall_toks {x : McItem} {P : Nat × Token → Prop} (ha : ∀ t, x.a = some t → P (0, t)) (hb : ∀ t, x.b = some t → P (1, t)) :
    ∀ y ∈ x.toks, P y := by
  intro y hy
  simp only [McItem.toks, List.mem_append, List.mem_map, Option.mem_toList] at hy
  rcases hy with ⟨t, ht, rfl⟩ | ⟨t, ht, rfl⟩
  · exact ha t ht
  · exact hb t ht

theorem McItem.toks_deps (x : McItem) : (x.toks.flatMap fun t => t.2.deps) = (x.a.toList ++ x.b.toList).flatMap fun t => t.deps := by
  simp [McItem.toks, List.flatMap_append, List.flatMap_map]

theorem mcDeliver_goes {f : MCFrame} {x : McItem} {rest : List McItem} {w1 w2 w3 : Work} (hw : s.workAt p = some w) (hi : s.opInstr p = some i)
    (hf : i.mcFrame = some f) (hq : w.op.mcq = x :: rest) (came : x.out = none) (pred : ∀ b, x.bit = some b → w.proom f.pout = true)
    (roomA : ∀ t, x.a = some t → w.outRoom [f.oa, f.ob] (0, t) = true) (roomB : ∀ t, x.b = some t → w.outRoom [f.oa, f.ob] (1, t) = true)
    (h1 : w1 = x.toks.foldl (Work.outPut [f.oa, f.ob]) w)
    (h2 : w2 = x.bit.toList.foldl (fun y b => (y.after ((x.a.toList ++ x.b.toList).flatMap fun t => t.deps)).pput f.pout b) w1)
    (h3 : w3 = { w2 with s := x.reads.foldl (fun (y : State) (r : ReadInProg) => y.endRead r.tile r.slot) w2.s, op := { w2.op with mcq := rest } })
    (fits : w3.fitsAll = true) : mcDeliver i.acks p s = .next w3.store := by
  unfold mcDeliver
  simp -zeta only [hw, hi, Option.bind_some, hf, Option.map_some, hq]
  extract_lets fs toks v1 v2 _ v3
  have etoks : toks = x.toks := by
    unfold toks McItem.toks
    cases x.a <;> cases x.b <;> rfl
  have e1 : v1 = w1 := by rw [h1, ← etoks]
  have e2 : v2 = w2 := by
    rw [h2, ← x.toks_deps, ← etoks, ← e1]
    unfold v2
    cases x.bit <;> rfl
  have e3 : v3 = w3 := by rw [h3, ← e2]
  have room : toks.all (w.outRoom fs) = true := by
    rw [etoks, List.all_eq_true]
    exact McItem.forall_toks roomA roomB
  have proom : (x.bit.isSome && !w.proom f.pout) = false := by
    cases hb : x.bit with
    | none => rfl
    | some b => simp [pred b hb]
  rw [e3]
  simp [came, room, proom, fits]

theorem exec_mcAnswer : exec (if i.acks then .mcAcknowledge p else .mcResponse p) s = mcDeliver i.acks p s := by
  cases i.acks <;> rfl

/-! ### The copy of a LUT (R217) -/

theorem lutCopy_length (s : State) (x : Tile) : (s.lutCopy x).length = min 4096 (x.dataBytes / 4) := by
  unfold State.lutCopy
  rw [List.length_map, List.length_range]

theorem lutCopy_getElem? {x : Tile} {k : Nat} (hk : k < (s.lutCopy x).length) : (s.lutCopy x)[k]?
    = some (if x.valid.getLsbD (4 * k / x.rowBytes) = true then BitVec.ofNat 32 (leNat (s.tileData x (4 * k) 4)) else 0) := by
  unfold State.lutCopy at hk ⊢
  rw [List.length_map, List.length_range] at hk
  rw [List.getElem?_map, List.getElem?_range hk]
  rfl

theorem execLutCopy_full {f : MCFrame} {x : Tile} (hw : s.workAt p = some w) (hi : s.opInstr p = some (.lut f)) (req : w.op.heldReq = none)
    (bank : w.op.bank = none) (ht : s.tile w.die w.run.partition f.handle.toNat = some x) (entry : x.bad = false) (full : x.state = .full)
    (good : s.tileBad x 0 0 (min 16384 x.dataBytes) = false) :
    execLutCopy p s = .next (Work.store { w with
      s := s.touchTile x 0 0 (min 16384 x.dataBytes), op := { w.op with bank := some (s.lutCopy x), deps := s.onWay x.deps } }) := by
  have here : w.s = s := (workAt_s0 hw).2.1
  have read : w.readTile { f with consume := false } f.handle.toNat = .ok ({ w with deps := w.deps ++ x.deps }, x) := by
    unfold Work.readTile Work.entry
    rw [here]
    simp [ht, entry, full, Except.bind]
  have capped : Nat.min 16384 x.dataBytes = min 16384 x.dataBytes := rfl
  unfold execLutCopy
  simp [hw, hi, req, bank, read, full, here, capped, good, Work.store]

/-! ### Seam FIFOs (R38, R352) -/

theorem getD_of_forall {α : Type} {o : Option α} {f : α → Bool} (h : ∀ c, o = some c → f c = true) : (o.map f).getD true = true := by
  cases o with
  | none => rfl
  | some c => exact h c rfl

section
variable {vs slot : Nat} {st : Stripe} {n : Fin 32} {q : Seam}

theorem execSeamFifoDeliver_pa {t : Token} {rest : List Token} (hr : s.run run = some r)
    (hst : r.stripes.find? (fun p => p.2.vs == vs && !p.2.restoring && !r.retiredK.contains p.2.k) = some (slot, st))
    (hq : r.seam vs (.pa n) = some q) (toks : q.toks = t :: rest) (room : ∀ c, st.chan (.pa n.val) = some c → c.hasRoom = true) :
    execSeamFifoDeliver run vs (.pa n) s =
      .next ((s.updStripe run slot fun p => p.updChan (.pa n.val) fun c => c.push t).seamRead run { q with toks := rest }) := by
  unfold execSeamFifoDeliver
  simp only [hr, hst, hq, toks, getD_of_forall room, if_true]

theorem execSeamFifoDeliver_pp {b : PTok} {rest : List PTok} (hr : s.run run = some r)
    (hst : r.stripes.find? (fun p => p.2.vs == vs && !p.2.restoring && !r.retiredK.contains p.2.k) = some (slot, st))
    (hq : r.seam vs (.pp n) = some q) (bits : q.bits = b :: rest) (room : ∀ c, st.pchan (.pp n.val) = some c → c.hasRoom = true) :
    execSeamFifoDeliver run vs (.pp n) s =
      .next ((s.updStripe run slot fun p => p.updPchan (.pp n.val) fun c => c.push b).updRun run fun x => x.setSeam { q with bits := rest }) := by
  unfold execSeamFifoDeliver
  simp only [hr, hst, hq, bits, getD_of_forall room, if_true]

end

/-! ### Bindings (R117, R429) -/

/-- A source stops at STOPs and SAFEs alone, so that a DATA token enters an input FIFO as it is. -/
theorem accept_data {c : CutRule} {j : InBind} {t : Token} (uncut : j.cut = false) (data : t.kind = 0) (plain : t.swap = false) :
    j.accept c t = { j with fifo := j.fifo.push t, cut := false } := by
  have safe : c.isSafe t = false := by simp [CutRule.isSafe, data]
  have mark : c.mark t = t := by simp [CutRule.mark, safe]
  have goesOn : c.at t = false := by simp [CutRule.at, safe, data]
  have same : { t with swap := false } = t := by rw [← plain]
  unfold InBind.accept
  simp only [uncut, safe, Bool.and_false, Bool.or_false, same, mark, goesOn, Bool.false_eq_true, if_false]

theorem bindToken_full {x : Tile} {row col : Nat} (full : x.state = .full) (inRow : col < x.k) (valid : x.valid.getLsbD row = true)
    (good : s.tileBad x 0 (row * x.rowBytes + 64 * col) 64 = false) :
    s.bindToken x row col
      = (dataTok 0xFFFF (payloadOf (s.tileData x (row * x.rowBytes + 64 * col) 64)), s.touchTile x 0 (row * x.rowBytes + 64 * col) 64) := by
  unfold State.bindToken
  simp [inRow.ne, full, valid, good]

theorem getElem_set_fin {α : Type} (v : Vector α 8) (a : α) : (v.set fifo a)[fifo] = a := Vector.getElem_set_self ..

theorem bindStep_data {x : Tile} {t : Token} {s1 : State} (hr : s.run run = some r) (inRow : r.ins[fifo].col < x.k)
    (begun : r.ins[fifo].begun = none) (uncut : r.ins[fifo].cut = false)
    (tok : s.bindToken x r.ins[fifo].row r.ins[fifo].col = (t, s1)) (runs : s1.runs = s.runs) (data : t.kind = 0) (plain : t.swap = false) :
    ∃ r1, (s.bindStep r fifo x).run run = some r1 ∧ r1.ins[fifo].row = r.ins[fifo].row ∧ r1.ins[fifo].col = r.ins[fifo].col + 1
      ∧ r1.ins[fifo].fifo = r.ins[fifo].fifo.push { t with deps := x.deps } := by
  have serial := run_serial hr
  have h1 : s1.run run = some r := (run_congr runs).trans hr
  unfold State.bindStep
  simp only [tok, begun, inRow.ne, decide_false, Bool.false_and, if_false, serial]
  refine ⟨_, run_updRun h1 fun _ => rfl, ?_⟩
  have entry := accept_data (c := r.cutRule) (j := r.ins[fifo]) (t := { t with deps := x.deps }) uncut data plain
  simp only [entry, getElem_set_fin, Bool.false_eq_true, if_false, and_self]

theorem readEntry_of_good {die part h : Nat} {x : Tile} (ht : s.tile die part h = some x) (good : x.bad = false) : s.readEntry die part h = s := by
  refine readEntry_good fun y hy => ?_
  rw [ht] at hy
  cases hy
  exact good

theorem execTileBindingStream_full {x : Tile} (hr : s.run run = some r) (running : r.phase = .running) (going : r.stopping = .no)
    (kind : bindKind r.recd.ifb[fifo] = 1) (peeks : (r.recd.ifb[fifo]).getLsbD 20 = false) (unclosed : r.ins[fifo].closed = false)
    (unheld : r.ins[fifo].held = none) (room : r.ins[fifo].room = true) (uncut : r.ins[fifo].cut = false) (begun : r.ins[fifo].begun = none)
    (settled : r.resuming = .no) (ht : s.tile r.die r.partition ((r.recd.ifb[fifo]).extractLsb' 0 20).toNat = some x) (entry : x.bad = false)
    (full : x.state = .full) (applied : s.applied r.die x.deps = true) :
    execTileBindingStream run fifo s = .next (s.bindStep r fifo x) := by
  have same : s.readEntry r.die r.partition ((r.recd.ifb[fifo]).extractLsb' 0 20).toNat = s := readEntry_of_good ht entry
  unfold execTileBindingStream
  simp only [hr, same, running, Run.stopped, going, kind, unclosed, unheld, room, uncut, settled, begun, ht, full, applied, peeks, ne_eq,
    not_true_eq_false, Bool.not_true, Bool.not_false, Bool.false_eq_true, Option.isSome_none, or_self, if_false, Bool.or_true, reduceCtorEq, if_true]

theorem deliver_channel {part ring ch : Nat} {ep : BitVec 16} {e : QEntry} (hep : endpointOf ep = some ⟨true, ring, ch⟩)
    (hp : s.ringPart ring = some part) (hch : ch < 8) (room : (s.queue (8 * ring + ch)).length < 32) :
    s.deliver part ep e = .done (s.pushQ (8 * ring + ch) e) := by
  unfold State.deliver
  simp [hep, hp, hch, room]

theorem queue_pushQ (s : State) (t : Nat) (e : QEntry) : (s.pushQ t e).queue t = s.queue t ++ [e] := State.queue_setQueue s t _

theorem readToken_good {vs : Nat} {t : Token} (good : t.bad = false) : s.readToken vs t = (t, s) := by simp [State.readToken, good]

theorem absorbOut_data {t : Token} (data : t.kind = 0) : s.absorbOut r t = s := by simp [State.absorbOut, Token.isErr, data]

theorem Run.sends_of_running (running : r.phase = .running) (going : r.stopping = .no) : r.sends = true := by
  simp [Run.sends, running, Run.stopped, going]

theorem Run.popOut_fifo (r : Run) (fifo : Fin 8) : (r.popOut fifo).outs[fifo].fifo = r.outs[fifo].fifo.drop 1 := by
  simp [Run.popOut]

theorem execOfQueueSend_data {t : Token} {rest : List Token} {ring ch : Nat} (hr : s.run run = some r) (running : r.phase = .running)
    (going : r.stopping = .no) (kind : bindKind r.recd.ofb[fifo] = 2) (toks : r.outs[fifo].fifo = t :: rest) (data : t.kind = 0)
    (good : t.bad = false) (hep : endpointOf ((r.recd.ofb[fifo]).extractLsb' 0 16) = some ⟨true, ring, ch⟩)
    (hp : s.ringPart ring = some r.partition) (hch : ch < 8) (room : (s.queue (8 * ring + ch)).length < 32) :
    ∃ s1 r1, execOfQueueSend run fifo s = .next s1
      ∧ s1.queue (8 * ring + ch) = s.queue (8 * ring + ch) ++ [⟨0, 0, false, t.payload.extractLsb' 0 64, t.deps⟩]
      ∧ s1.run run = some r1 ∧ r1.outs[fifo].fifo = rest := by
  have entry : tokenEntry t t.deps = some ⟨0, 0, false, lanes10 t.payload, t.deps⟩ := by simp [tokenEntry, Token.isData, data]
  have sent : execOfQueueSend run fifo s
      = .next ((s.pushQ (8 * ring + ch) ⟨0, 0, false, lanes10 t.payload, t.deps⟩).updRun run fun x => x.popOut fifo) := by
    unfold execOfQueueSend
    simp only [hr, toks, kind, Run.sends_of_running running going, readToken_good good, entry, deliver_channel hep hp hch room, absorbOut_data data,
      ne_eq, not_true_eq_false, Bool.not_true, Bool.false_eq_true, or_self, if_false]
  have pushed : (s.pushQ (8 * ring + ch) ⟨0, 0, false, lanes10 t.payload, t.deps⟩).run run = some r := hr
  refine ⟨_, _, sent, queue_pushQ .., run_updRun pushed fun _ => rfl, ?_⟩
  rw [Run.popOut_fifo, toks]
  rfl

/-- Where a TILE output binding goes on at a position. -/
def Run.outAtPos (r : Run) (fifo : Fin 8) (row col : Nat) : Run :=
  { r.popOut fifo with outs := (r.popOut fifo).outs.set fifo { (r.popOut fifo).outs[fifo] with row := row, col := col } }

theorem Run.outAtPos_fields (r : Run) (fifo : Fin 8) (row col : Nat) : (r.outAtPos fifo row col).outs[fifo].fifo = r.outs[fifo].fifo.drop 1
    ∧ (r.outAtPos fifo row col).outs[fifo].row = row ∧ (r.outAtPos fifo row col).outs[fifo].col = col := by
  unfold Run.outAtPos
  rw [getElem_set_fin]
  exact ⟨r.popOut_fifo fifo, rfl, rfl⟩

theorem hasRun_holdOutput (hr : s.run run = some r) (fifo : Fin 8) (va : Nat) :
    HasRun (s.holdOutput r fifo va) run { r with outs := r.outs.set fifo { r.outs[fifo] with held := some ⟨fTSTATE, va⟩ } } := by
  obtain rfl := run_serial hr
  unfold State.holdOutput
  exact HasRun.runFault (HasRun.of_run (run_updRun hr fun _ => rfl))

section
variable {t : Token} {rest : List Token} {x : Tile} (hr : s.run run = some r) (running : r.phase = .running) (going : r.stopping = .no)
  (kind : bindKind r.recd.ofb[fifo] = 1) (toks : r.outs[fifo].fifo = t :: rest) (data : t.kind = 0) (good : t.bad = false)
  (unheld : r.outs[fifo].held = none) (ht : s.tile r.die r.partition ((r.recd.ofb[fifo]).extractLsb' 0 20).toNat = some x) (entry : x.bad = false)
include hr running going kind toks data good unheld ht entry

theorem execOfTileWrite_filling (filling : x.state = .filling) (sp : x.hb = false) (inRows : r.outs[fifo].row < x.rows)
    (inRow : r.outs[fifo].col < x.k) :
    ∃ s1 r1, execOfTileWrite run fifo s = .next s1
      ∧ s1.sram = (s.writeLanes x (r.outs[fifo].row * x.rowBytes + 64 * r.outs[fifo].col) t).sram
      ∧ s1.run run = some r1 ∧ r1.outs[fifo].fifo = rest ∧ r1.outs[fifo].row = r.outs[fifo].row ∧ r1.outs[fifo].col = r.outs[fifo].col + 1 := by
  have same : s.readEntry r.die r.partition ((r.recd.ofb[fifo]).extractLsb' 0 20).toNat = s := readEntry_of_good ht entry
  have written : execOfTileWrite run fifo s
      = .next (((s.writeLanes x (r.outs[fifo].row * x.rowBytes + 64 * r.outs[fifo].col) t).updTile x.uid fun y =>
          { y with deps := s.onWay (y.deps ++ t.deps) }).updRun run fun y => y.outAtPos fifo r.outs[fifo].row (r.outs[fifo].col + 1)) := by
    unfold execOfTileWrite
    simp only [hr, toks, kind, Run.sends_of_running running going, unheld, readToken_good good, same, ht, filling, Token.isStop, Token.isData, data,
      State.hbBad, sp, inRows.not_ge, inRow.not_ge, ne_eq, not_true_eq_false, Bool.not_true, Bool.false_and, Bool.false_eq_true, Option.isSome_none,
      or_self, if_false, beq_self_eq_true, Bool.or_true, show ((0 : BitVec 3) == 1) = false from rfl]
    rfl
  have kept : ((s.writeLanes x (r.outs[fifo].row * x.rowBytes + 64 * r.outs[fifo].col) t).updTile x.uid fun y =>
      { y with deps := s.onWay (y.deps ++ t.deps) }).run run = some r := (run_congr (State.writeLanes_runs ..)).trans hr
  obtain ⟨left, row, col⟩ := r.outAtPos_fields fifo r.outs[fifo].row (r.outs[fifo].col + 1)
  rw [toks] at left
  exact ⟨_, _, written, rfl, run_updRun kept fun _ => rfl, left, row, col⟩

theorem execOfTileWrite_holds (filling : x.state ≠ .filling) :
    ∃ s1 r1, execOfTileWrite run fifo s = .next s1 ∧ s1.run run = some r1 ∧ r1.outs[fifo].held ≠ none ∧ r1.outs[fifo].fifo = t :: rest := by
  have same : s.readEntry r.die r.partition ((r.recd.ofb[fifo]).extractLsb' 0 20).toNat = s := readEntry_of_good ht entry
  have held : execOfTileWrite run fifo s = .next (s.holdOutput r fifo (tileVa r.die ((r.recd.ofb[fifo]).extractLsb' 0 20).toNat)) := by
    unfold execOfTileWrite
    simp only [hr, toks, kind, Run.sends_of_running running going, unheld, readToken_good good, same, ht, filling, Token.isStop, Token.isData, data,
      ne_eq, not_true_eq_false, not_false_eq_true, Bool.not_true, Bool.false_and, Bool.false_eq_true, Option.isSome_none, or_self, if_false, if_true,
      beq_self_eq_true, Bool.or_true, show ((0 : BitVec 3) == 1) = false from rfl]
  obtain ⟨used, records, h1⟩ := hasRun_holdOutput hr fifo (tileVa r.die ((r.recd.ofb[fifo]).extractLsb' 0 20).toNat)
  refine ⟨_, _, held, h1, ?_, ?_⟩ <;> dsimp only <;> rw [getElem_set_fin]
  · exact Option.some_ne_none _
  · exact toks

end

/-! ### Fault records (R384) -/

theorem FRec.word_eq (f : FRec) (n : Nat) : FRec.word f n = if n = 0 then f.w0 else if n = 1 then f.w1 else if n = 2 then f.w2 else f.w3 := by
  match n with
  | 0 | 1 | 2 | _ + 3 => rfl

theorem execFaultRecordDeliver_sends {f : FRec} {n ring ch : Nat} {rest : List (FRec × Nat)} (hr : s.run run = some r)
    (records : r.records = (f, n) :: rest) (hep : endpointOf r.recd.faultEp = some ⟨true, ring, ch⟩) (hp : s.ringPart ring = some r.partition)
    (hch : ch < 8) (room : (s.queue (8 * ring + ch)).length < 32) :
    ∃ s1 r1, execFaultRecordDeliver run s = .next s1
      ∧ s1.queue (8 * ring + ch) = s.queue (8 * ring + ch) ++ [⟨0, 0, false, FRec.word f n, []⟩]
      ∧ s1.run run = some r1 ∧ r1.records = if n < 3 then (f, n + 1) :: rest else rest := by
  have sent : execFaultRecordDeliver run s = .next ((s.pushQ (8 * ring + ch) ⟨0, 0, false, FRec.word f n, []⟩).updRun run fun x =>
      { x with records := if n < 3 then (f, n + 1) :: rest else rest }) := by
    unfold execFaultRecordDeliver
    simp only [hr, records, deliver_channel hep hp hch room]
  have pushed : (s.pushQ (8 * ring + ch) ⟨0, 0, false, FRec.word f n, []⟩).run run = some r := hr
  exact ⟨_, _, sent, queue_pushQ .., run_updRun pushed fun _ => rfl, rfl⟩

/-! ### The obligation -/

/-- Settles O43: each clause is the lemma of its step above; a state in which the run itself is looked at again is found by `run_updRun` or, behind a
fault record, by `HasRun`. -/
theorem cellAgentsAndBindingsComplete : Obligations.CellAgentsAndBindingsComplete := by
  unfold Obligations.CellAgentsAndBindingsComplete
  refine ⟨fun s p w i hw hi => ⟨?_, ?_, ?_, ?_⟩, fun s run r fifo hr => ⟨fun vs slot st hst => ⟨?_, ?_⟩, fun running going => ⟨?_, ?_, ?_⟩, ?_⟩⟩
  · intro port q t hq held ht stop
    exact execHeldStopDiscard_stop hw hi hq held ht stop
  · intro f t hf ht kind
    exact execIndexStopDiscard_passes hw hi hf ht kind
  · intro f x rest w1 w2 w3 hf hq came pred roomA roomB h1 h2 h3 fits
    rw [exec_mcAnswer]
    exact mcDeliver_goes hw hi hf hq came pred roomA roomB h1 h2 h3 fits
  · rintro f x rfl req bank ht entry full good
    exact ⟨_, execLutCopy_full hw hi req bank ht entry full good, lutCopy_length s x, fun k hk => lutCopy_getElem? hk⟩
  · intro n q t rest hq toks room
    exact execSeamFifoDeliver_pa hr hst hq toks room
  · intro n q b rest hq bits room
    exact execSeamFifoDeliver_pp hr hst hq bits room
  · intro x kind peeks unclosed unheld room uncut begun settled ht entry full applied inRow valid good
    obtain ⟨r1, h1, moved⟩ := bindStep_data hr inRow begun uncut (bindToken_full full inRow valid good) (s.touchTile_runs ..) rfl rfl
    exact ⟨_, r1, execTileBindingStream_full hr running going kind peeks unclosed unheld room uncut begun settled ht entry full applied, h1, moved⟩
  · intro t rest ring ch kind toks data good hep hp hch room
    exact execOfQueueSend_data hr running going kind toks data good hep hp hch room
  · intro t rest x kind toks data good unheld ht entry
    exact ⟨execOfTileWrite_filling hr running going kind toks data good unheld ht entry,
      execOfTileWrite_holds hr running going kind toks data good unheld ht entry⟩
  · intro f n rest ring ch records hep hp hch room
    rw [← FRec.word_eq]
    exact execFaultRecordDeliver_sends hr records hep hp hch room

end Sys2Proof.Machine
end

section
/-! PROOF. The scroll controller's steps (O44): what the shared pieces of its steps leave of a run, then each step. -/
namespace Sys2Proof

theorem Tab.find_del_self {α : Type} (t : Tab α) (k : Nat) : Tab.find (Tab.del t k) k = none := by
  induction t with
  | nil => rfl
  | cons x t ih =>
    obtain ⟨j, v⟩ := x
    unfold Tab.del
    split
    · exact ih
    · rename_i ne
      unfold Tab.find
      rw [if_neg ne]
      exact ih

theorem Tab.find_del_ne {α : Type} (t : Tab α) {k j : Nat} (h : j ≠ k) : Tab.find (Tab.del t k) j = Tab.find t j := by
  induction t with
  | nil => rfl
  | cons x t ih =>
    obtain ⟨i, v⟩ := x
    unfold Tab.del
    split
    · rename_i e
      rw [ih]
      conv_rhs => unfold Tab.find
      rw [if_neg (e.trans_ne h.symm)]
    · unfold Tab.find
      rw [ih]

namespace Machine

variable {s t : State} {run : Nat} {r : Run}

/-! ### What the pieces of a step leave of a run -/

theorem Run.works_of_scrolls (h : r.scrolls = true) : r.stopped = false := by
  unfold Run.scrolls at h
  simp only [Bool.and_eq_true, Bool.not_eq_true'] at h
  exact h.1.2

/-- The end of an image swap touches the run's images alone. -/
theorem Run.finishSwap_eq (r : Run) :
    ∃ images dir pending taken, r.finishSwap = { r with images := images, dir := dir, pending := pending, taken := taken } := by
  unfold Run.finishSwap
  split
  · split
    · exact ⟨_, _, _, _, rfl⟩
    · exact ⟨r.images, r.dir, r.pending, r.taken, rfl⟩
  · exact ⟨r.images, r.dir, r.pending, r.taken, rfl⟩

@[simp] theorem Run.finishSwap_serial (r : Run) : r.finishSwap.serial = r.serial := by
  obtain ⟨_, _, _, _, e⟩ := r.finishSwap_eq
  rw [e]

@[simp] theorem Run.finishSwap_stripes (r : Run) : r.finishSwap.stripes = r.stripes := by
  obtain ⟨_, _, _, _, e⟩ := r.finishSwap_eq
  rw [e]

@[simp] theorem Run.finishSwap_nextK (r : Run) : r.finishSwap.nextK = r.nextK := by
  obtain ⟨_, _, _, _, e⟩ := r.finishSwap_eq
  rw [e]

@[simp] theorem Run.finishSwap_released (r : Run) : r.finishSwap.released = r.released := by
  obtain ⟨_, _, _, _, e⟩ := r.finishSwap_eq
  rw [e]

@[simp] theorem Run.settle_serial (r : Run) : r.settle.serial = r.serial := by
  unfold Run.settle
  split
  · split
    · split <;> rfl
    · rfl
  · rfl

theorem Run.settle_of_no (h : r.resuming = .no) : r.settle = r := by
  unfold Run.settle
  rw [h]

/-- Bits put before a stripe change nothing of its run but the seam FIFOs. -/
theorem Run.foldl_pseamFront_eq (vs : Nat) (l : List (Fin 32 × List PTok)) (r : Run) :
    ∃ seams, l.foldl (fun z b => z.pseamFront vs b) r = { r with seams := seams } := by
  induction l generalizing r with
  | nil => exact ⟨r.seams, rfl⟩
  | cons b l ih => exact ih (r.pseamFront vs b)

theorem settleMarking_of_stripe {slot : Nat} {st : Stripe} (hr : s.run run = some r) (hs : r.stripe slot = some st) : s.settleMarking run = s := by
  have resident : r.stripes.isEmpty = false := by
    cases e : r.stripes with
    | nil => rw [Run.stripe, e] at hs; cases hs
    | cons => rfl
  unfold State.settleMarking
  simp [hr, resident]

theorem HasRun.discardToken {x : Run} {slot vs : Nat} {tok : Token} (h : HasRun s run r) : HasRun (State.discardToken x slot vs s tok) run r := by
  have read : HasRun (s.readToken vs tok).2 run r := by
    unfold State.readToken
    split
    · exact h.congr rfl
    · exact h
  unfold State.discardToken
  dsimp only
  split
  · exact read.runRecord
  split
  · exact read.congr rfl
  · exact read

theorem endSlot_stops {slot vs access code va cause : Nat} (hr : s.run run = some r) (going : r.stopped = false) :
    ∃ r1, (s.endSlot r slot vs access code va cause).run run = some r1 ∧ r1.stopping = .now cause := by
  obtain rfl := run_serial hr
  have recorded : HasRun (s.runRecord r.serial (s.slotRecord r slot vs 7 access code va s.timestamp)) r.serial r := (HasRun.of_run hr).runRecord
  obtain ⟨used, records, h1⟩ := recorded
  refine ⟨_, run_updRun h1 fun x => ?_, ?_⟩
  · split <;> rfl
  · unfold Run.stopped at going
    dsimp only
    split
    · rename_i e
      rw [e] at going
      cases going
    · rfl

/-! ### Images (R88, R107, R349) -/

section
variable {vs k ring : Nat} (hr : s.run run = some r) (works : r.scrolls = true) (hk : r.wants vs = some k)
  (hring : ring = (if (r.toMove.map fun x => x.k) = some k then r.targetPhys (k % r.p) else r.slotPhys (k % r.p)))
  (applied : s.applied (ringDie ring) r.deps = true)
include hr works hk hring applied

theorem execStripeImageAccept_ok {x : (Nat × Nat) × Image}
    (hf : s.fetchImage r (ringDie ring) vs (r.imageSource vs).1 (r.imageSource vs).2.1 = .ok x) :
    execStripeImageAccept run vs s
      = .next ((s.keepFetched ring r (r.imageSource vs).1 vs x).updRun run fun y => y.keepDir (r.imageSource vs).2.2 vs x.1) := by
  unfold execStripeImageAccept
  simp only [hr, hk, works, beq_iff_eq, ← hring, applied, hf, Bool.not_true, Bool.or_self, Bool.false_eq_true, if_false]

theorem execStripeImageAccept_part {va : Nat} {bs : List Byte}
    (hf : s.fetchImage r (ringDie ring) vs (r.imageSource vs).1 (r.imageSource vs).2.1 = .part va bs) :
    execStripeImageAccept run vs s
      = .next ((s.touchV (ringDie ring) r.partition r.asid va bs.length).updRun run fun y => { y with fetch := some (va, bs) }) := by
  unfold execStripeImageAccept
  simp only [hr, hk, works, beq_iff_eq, ← hring, applied, hf, Bool.not_true, Bool.or_self, Bool.false_eq_true, if_false, State.fetchOn, run_serial hr]

theorem execStripeImageAccept_bad {c : Nat} (hf : s.fetchImage r (ringDie ring) vs (r.imageSource vs).1 (r.imageSource vs).2.1 = .bad c)
    (due : r.dueConfig = some k ∨ (r.toMove.map fun x => x.k) = some k) :
    ∃ t r1, execStripeImageAccept run vs s = .next t ∧ t.run run = some r1 ∧ r1.stopping = .now 4 := by
  have ends : execStripeImageAccept run vs s = .next (s.endSlot r (k % r.p) vs 6 c (r.imageSource vs).1.toNat 4) := by
    unfold execStripeImageAccept
    simp only [hr, hk, works, beq_iff_eq, ← hring, applied, hf, due, Bool.not_true, Bool.or_self, Bool.false_eq_true, if_false, Bool.or_eq_true,
      decide_eq_true_eq, if_true]
  obtain ⟨r1, h1, stops⟩ := endSlot_stops hr (Run.works_of_scrolls works)
  exact ⟨_, r1, ends, h1, stops⟩

end

/-! ### Configuration (R36, R349, R350) -/

theorem Run.configure_eq {k : Nat} {im : Image} {fresh : Bool} (settled : r.resuming = .no) (fresh_k : r.retiredK.contains k = false) :
    ∃ selfFed taken ins, r.configure k im fresh = { r with
      selfFed := selfFed, taken := taken, ins := ins, resumeK := r.resumeK.drop 1, nextK := if r.resumeK.isEmpty then r.nextK + 1 else r.nextK
      stripes := Tab.set r.stripes (k % r.p)
        (Stripe.make k (k % r.recd.v) im false (Tab.find r.saved (k % r.recd.v)).isSome fresh (fun _ => []) fun _ => []) } := by
  have waits : (r.resuming != .no) = false := by rw [settled]; rfl
  unfold Run.configure
  dsimp only [Run.feeds]
  rw [waits, fresh_k]
  split
  · exact ⟨_, _, _, Run.settle_of_no settled⟩
  · exact ⟨_, _, r.ins, Run.settle_of_no settled⟩

theorem Run.configure_serial (k : Nat) (im : Image) (fresh : Bool) (r : Run) : (r.configure k im fresh).finishSwap.serial = r.serial := by
  rw [Run.finishSwap_serial]
  unfold Run.configure
  rw [Run.settle_serial]
  split <;> rfl

/-- A stripe just made that waits for nothing has every op as at reset. -/
theorem Stripe.make_ops (k vs : Nat) (im : Image) (restoring swapped : Bool) (held : ChanId → List Token) (pheld : PChanId → List PTok) :
    (Stripe.make k vs im false restoring swapped held pheld).ops = im.ops.map fun o => (o.1, OpState.init) := rfl

theorem execStripeConfigure_makes {k : Nat} {e : Nat × Nat} {im : Image} (hr : s.run run = some r) (works : r.scrolls = true)
    (due : r.dueConfig = some k) (entry : Tab.find (r.imageSource (k % r.recd.v)).2.1 (k % r.recd.v) = some e)
    (cached : s.cached (r.slotPhys (k % r.p)) r (k % r.recd.v) e = some im) (free : s.placeTaken r (k % r.p) = false) (settled : r.resuming = .no)
    (fresh : r.retiredK.contains k = false) :
    ∃ t r1 st, execStripeConfigure run s = .next t ∧ t.run run = some r1 ∧ r1.stripe (k % r.p) = some st ∧ st.k = k ∧ st.vs = k % r.recd.v
      ∧ st.image = im ∧ st.ops = im.ops.map (fun o => (o.1, OpState.init)) ∧ st.sns = [] ∧ st.cells = []
      ∧ st.restoring = (Tab.find r.saved (k % r.recd.v)).isSome ∧ (r.resumeK = [] → r1.nextK = r.nextK + 1)
      ∧ ∀ j, j ≠ k % r.p → r1.stripe j = r.stripe j := by
  have made : execStripeConfigure run s = .next ((s.touch (r.slotPhys (k % r.p)) r (k % r.recd.v) e).updRun run fun x =>
      (x.configure k im (r.imageSource (k % r.recd.v)).2.2).finishSwap) := by
    unfold execStripeConfigure
    simp only [hr, due, entry, Option.bind_some, cached, Option.map_some, works, free, Bool.not_true, Bool.or_self, Bool.false_eq_true, if_false]
  have touched : (s.touch (r.slotPhys (k % r.p)) r (k % r.recd.v) e).run run = some r := hr
  have h1 := run_updRun touched (Run.configure_serial k im (r.imageSource (k % r.recd.v)).2.2)
  obtain ⟨selfFed, taken, ins, conf⟩ := r.configure_eq (im := im) (fresh := (r.imageSource (k % r.recd.v)).2.2) settled fresh
  obtain ⟨images, dir, pending, taken1, swap⟩ := Run.finishSwap_eq (r.configure k im (r.imageSource (k % r.recd.v)).2.2)
  rw [swap, conf] at h1
  refine ⟨_, _, _, made, h1, Tab.find_set_self .., rfl, rfl, rfl, Stripe.make_ops .., rfl, rfl, rfl, fun first => ?_, fun j hj => Tab.find_set_ne _ hj _⟩
  simp [first]

/-! ### Leaving a slot (R37, R38, R371) -/

theorem saveStripe_stateless {slot : Nat} {p : Stripe} {again : Bool} (stateless : p.image.hd.stateful = false) :
    s.saveStripe r slot p again = .done s := by
  unfold State.saveStripe
  rw [stateless]
  rfl

/-- A stateless stripe that leaves nothing in seam FIFOs leaves its slot at once, and the rest of its run's slots stay. -/
theorem leaveSlot_stateless {slot : Nat} {p : Stripe} {release again : Bool} (hr : s.run run = some r) (stateless : p.image.hd.stateful = false)
    (nothing : (p.leaving release).seamed = []) :
    ∃ t r1, s.leaveSlot r slot p release again = .done t ∧ t.run run = some r1 ∧ r1.stripes = Tab.del r.stripes slot ∧ r1.nextK = r.nextK
      ∧ r1.released = r.released := by
  obtain rfl := run_serial hr
  have fits : s.seamFitAll r p.vs (p.leaving release) = (s, true) := by
    unfold State.seamFitAll
    rw [nothing]
    rfl
  have saves : s.saveStripe r slot p again = .done s := saveStripe_stateless stateless
  unfold State.leaveSlot
  extract_lets l moves
  rw [show s.seamFitAll r p.vs l = (s, true) from fits]
  simp -zeta only [saves]
  extract_lets s3 s4
  have vacated : ∃ f : Run → Run, s3 = s.updRun r.serial f ∧ ∀ x : Run, (f x).serial = x.serial ∧ (f x).stripes = Tab.del x.stripes slot
      ∧ (f x).nextK = x.nextK ∧ (f x).released = x.released := by
    refine ⟨_, rfl, fun x => ?_⟩
    obtain ⟨seams, e⟩ := Run.foldl_pseamFront_eq p.vs l.pseamed x
    rw [show l.seamed = [] from nothing]
    dsimp only [List.foldl]
    rw [e]
    split <;> simp [Run.freeInputs]
  obtain ⟨f, h3, hf⟩ := vacated
  have left : HasRun s3 r.serial (f r) := by
    rw [h3]
    exact .of_run (run_updRun hr fun x => (hf x).1)
  have ended : HasRun s4 r.serial (f r) := HasRun.foldl (left.congr rfl) fun h => h.endRead
  obtain ⟨used, records, h⟩ := ended.foldl (l := l.dropped) fun h => h.discardToken (x := r) (slot := slot) (vs := p.vs)
  obtain ⟨-, stripes, nextK, released⟩ := hf r
  exact ⟨_, _, rfl, h, stripes, nextK, released⟩

section
variable {slot : Nat} {p : Stripe} (hr : s.run run = some r) (works : r.scrolls = true) (hp : r.stripe slot = some p)
  (stateless : p.image.hd.stateful = false)
include hr works hp stateless

theorem execStripeRetire_leaves (unmarked : r.marking = none) (retires : p.retires r = true) (nothing : (p.leaving false).seamed = []) :
    ∃ t r1, execStripeRetire run slot s = .next t ∧ t.run run = some r1 ∧ r1.stripe slot = none ∧ (∀ j, j ≠ slot → r1.stripe j = r.stripe j)
      ∧ r1.nextK = r.nextK := by
  obtain ⟨t, r1, left, h1, stripes, nextK, -⟩ := leaveSlot_stateless (slot := slot) (again := true) hr stateless nothing
  refine ⟨t, r1, ?_, h1, ?_, fun j hj => ?_, nextK⟩
  · unfold execStripeRetire
    simp [hr, hp, works, retires, stateless, unmarked, left, Transfer.state]
  · rw [Run.stripe, stripes, Tab.find_del_self]
  · rw [Run.stripe, stripes, Tab.find_del_ne _ hj, Run.stripe]

theorem execSlotRelease_leaves {j : Nat} {q : Stripe} (marked : r.marking ≠ none) (released : p.released r = true)
    (nothing : (p.leaving true).seamed = []) (hj : j ≠ slot) (hq : r.stripe j = some q) :
    ∃ t r1, execSlotRelease run slot s = .next t ∧ t.run run = some r1 ∧ r1.stripe slot = none ∧ r1.stripe j = some q
      ∧ r1.released = r.released ++ [⟨slot, p.k, true, p⟩] := by
  obtain ⟨t, r1, left, h1, stripes, -, earlier⟩ := leaveSlot_stateless (slot := slot) (again := false) hr stateless nothing
  have h2 := run_updRun (f := fun x => { x with released := x.released ++ [⟨slot, p.k, true, p⟩] }) h1 fun _ => rfl
  have stays : r1.stripe j = some q := by rw [Run.stripe, stripes, Tab.find_del_ne _ hj, ← hq, Run.stripe]
  refine ⟨_, _, ?_, h2, ?_, stays, ?_⟩
  · obtain rfl := run_serial hr
    have going : r.marking.isNone = false := Option.isNone_eq_false_iff.mpr (Option.isSome_iff_ne_none.mpr marked)
    have out : (s.releaseSlot r slot p true).state = t.updRun r.serial fun x => { x with released := x.released ++ [⟨slot, p.k, true, p⟩] } := by
      unfold State.releaseSlot
      rw [Bool.not_true, left]
      rfl
    unfold execSlotRelease
    simp only [hr, going, works, hp, released, stateless, out, settleMarking_of_stripe h2 stays, Bool.not_true, Bool.not_false, Bool.or_self,
      Bool.false_eq_true, if_false, Bool.true_or, Bool.and_self, if_true]
  · show Tab.find r1.stripes slot = none
    rw [stripes, Tab.find_del_self]
  · show r1.released ++ _ = _
    rw [earlier]

end

/-! ### Restoring (R350, R351) -/

theorem not_saving (h : ∀ o ∈ s.outReqs, o.who = .run run → ∀ l, o.op ≠ .write l) : s.saving run = false := by
  unfold State.saving
  rw [List.any_eq_false]
  intro o ho both
  rw [Bool.and_eq_true, beq_iff_eq] at both
  obtain ⟨who, op⟩ := both
  split at op
  · rename_i l e
    exact h o ho who l e
  · cases op

theorem execStateRestore_restores {slot : Nat} {p : Stripe} {v : SavedStripe} (hr : s.run run = some r) (works : r.scrolls = true)
    (hp : r.stripe slot = some p) (restoring : p.restoring = true) (hv : Tab.find r.saved p.vs = some v) (settled : r.resuming = .no)
    (port : r.portFree slot p.k = true) (answered : ∀ o ∈ s.outReqs, o.who = .run run → ∀ l, o.op ≠ .write l)
    (read : State.scrollRead { s with stale := [] } r (ringDie (r.slotPhys slot)) v.region v.length = .ok (regionBytes v.serial v.length)) :
    ∃ t r1, execStateRestore run slot s = .next t ∧ t.run run = some r1 ∧ r1.stripe slot = some (p.restore v) ∧ Tab.find r1.saved p.vs = none := by
  have incoming : r.incoming slot = some p := by
    rw [Run.incoming, hp]
    rfl
  have restored : r.restored slot (p.restore v)
      = { r with saved := Tab.del r.saved p.vs, stripes := Tab.set r.stripes slot (p.restore v) } := by
    unfold Run.restored
    rw [hp]
    exact Run.settle_of_no settled
  have h0 : (((s.touchV (ringDie (r.slotPhys slot)) r.partition r.asid v.region v.length).forget (.run run)).drawNat.2).run run = some r :=
    (run_congr (State.touchV_runs ..)).trans hr
  have h1 := run_updRun (f := fun x => x.restored slot (p.restore v)) h0 fun x => by
    unfold Run.restored
    split
    · exact Run.settle_serial _
    · rfl
  rw [restored] at h1
  have here : Tab.find (Tab.set r.stripes slot (p.restore v)) slot = some (p.restore v) := Tab.find_set_self ..
  refine ⟨_, _, ?_, h1, here, Tab.find_del_self ..⟩
  unfold execStateRestore
  simp only [hr, incoming, hv, restoring, works, not_saving answered, port, read, if_true, Bool.not_true, Bool.or_self, Bool.false_eq_true, if_false]
  exact congrArg Host.Outcome.next (settleMarking_of_stripe h1 here)

/-! ### Image swaps (R268) -/

theorem rswapPrepare_ready {q : PendingImage} (unaccepted : q.accepted = false) (works : r.scrolls = true)
    (restored : ∀ p ∈ r.stripes, p.2.restoring = false) : (q.accepted || !r.scrolls || r.stripes.any fun x => x.2.restoring) = false := by
  have still : (r.stripes.any fun x => x.2.restoring) = false := by simpa using restored
  rw [unaccepted, works, still]
  rfl

section
variable {q : PendingImage} (hr : s.run run = some r) (works : r.scrolls = true) (hq : r.pending = some q)
include hr works hq

section
variable (unaccepted : q.accepted = false) (restored : ∀ p ∈ r.stripes, p.2.restoring = false)
include unaccepted restored

theorem execRswapPrepare_accepts (all : ∀ p ∈ r.stripes, (s.swapImage r q p.1 p.2).isSome = true) :
    ∃ t r1, execRswapPrepare run s = .next t ∧ t.run run = some r1 ∧ (∃ u, r1.pending = some u ∧ u.accepted = true ∧ u.va = q.va)
      ∧ r1.images = r.images := by
  have none_left : (r.stripes.find? fun x => (s.swapImage r q x.1 x.2).isNone) = none := by
    rw [List.find?_eq_none]
    intro x hx
    simp [Option.isNone_eq_false_iff.mpr (all x hx)]
  have ready := rswapPrepare_ready unaccepted works restored
  refine ⟨s.updRun run fun x => x.startSwap q, r.startSwap q, ?_, run_updRun hr fun _ => rfl, ⟨_, rfl, rfl, rfl⟩, rfl⟩
  unfold execRswapPrepare
  simp only [hr, hq, ready, none_left, Bool.false_eq_true, if_false]

section
variable {slot : Nat} {p : Stripe} (next : r.stripes.find? (fun x => (s.swapImage r q x.1 x.2).isNone) = some (slot, p))
include next

theorem execRswapPrepare_keeps {x : (Nat × Nat) × Image} (hf : s.fetchImage r (ringDie (r.slotPhys slot)) p.vs q.va q.dir = .ok x)
    (agrees : swapMatches p.image.hd x.2.hd = true) : execRswapPrepare run s
      = .next ((s.keepFetched (r.slotPhys slot) r q.va p.vs x).updRun run fun y => y.keepDir true p.vs x.1) := by
  have ready := rswapPrepare_ready unaccepted works restored
  unfold execRswapPrepare
  simp only [hr, hq, ready, next, hf, agrees, Bool.false_eq_true, if_false, if_true]

theorem execRswapPrepare_refuses
    (hf : (∃ x, s.fetchImage r (ringDie (r.slotPhys slot)) p.vs q.va q.dir = .ok x ∧ swapMatches p.image.hd x.2.hd = false)
      ∨ ∃ c, s.fetchImage r (ringDie (r.slotPhys slot)) p.vs q.va q.dir = .bad c) :
    ∃ t r1, execRswapPrepare run s = .next t ∧ t.run run = some r1 ∧ r1.pending = none ∧ r1.stripes = r.stripes ∧ r1.images = r.images := by
  have ready := rswapPrepare_ready unaccepted works restored
  have refuses : execRswapPrepare run s = .next (((s.dropFetch r).updRun run fun x => { x with pending := none }).runRecord run
      (s.slotRecord r 0 0 4 6 fILLCFG q.va.toNat s.timestamp)) := by
    unfold execRswapPrepare
    rcases hf with ⟨x, hf, differs⟩ | ⟨c, hf⟩
    · simp only [hr, hq, ready, next, hf, differs, Bool.false_eq_true, if_false]
    · simp only [hr, hq, ready, next, hf, Bool.false_eq_true, if_false]
  obtain rfl := run_serial hr
  have dropped : (s.dropFetch r).run r.serial = some { r with fetch := none } := run_updRun hr fun _ => rfl
  have cleared := run_updRun (f := fun x => { x with pending := none }) dropped fun _ => rfl
  obtain ⟨used, records, h1⟩ := HasRun.runRecord (m := r.serial) (rec := s.slotRecord r 0 0 4 6 fILLCFG q.va.toNat s.timestamp) (.of_run cleared)
  exact ⟨_, _, refuses, h1, rfl, rfl, rfl⟩

end
end

theorem execImageSwap_swaps {slot : Nat} {p : Stripe} {e : Nat × Nat} {im : Image} (accepted : q.accepted = true) (unmarked : r.marking = none)
    (hp : r.stripe slot = some p) (idle : p.idle = true) (unswapped : p.swapped = false) (passed : p.passedSwap = true)
    (him : s.swapImage r q slot p = some (e, im)) (stateless : p.image.hd.stateful = false) :
    ∃ t r1 st, execImageSwap run slot s = .next t ∧ t.run run = some r1 ∧ r1.stripe slot = some st ∧ st.image = im ∧ st.k = p.k ∧ st.vs = p.vs
      ∧ st.restoring = false ∧ st.swapped = true := by
  have due : p.swapDue r = true := by
    unfold Stripe.swapDue
    simp [hq, accepted, unmarked, idle, unswapped, passed]
  have saves : s.saveStripe r slot p false = .done s := saveStripe_stateless stateless
  have swapped : ∃ f : Run → Run, execImageSwap run slot s = .next (s.updRun run f) ∧ ∀ x : Run, (f x).serial = x.serial
      ∧ (f x).stripes = Tab.set x.stripes slot (Stripe.make p.k p.vs im false false true p.carryOver p.pcarryOver) := by
    unfold execImageSwap
    simp only [hr, hp, hq, works, due, stateless, him, saves, Bool.not_true, Bool.false_and, Bool.or_self, Bool.false_eq_true, if_false]
    refine ⟨_, rfl, fun x => ?_⟩
    rw [Run.finishSwap_serial, Run.finishSwap_stripes]
    split <;> exact ⟨rfl, rfl⟩
  obtain ⟨f, out, hf⟩ := swapped
  refine ⟨_, _, Stripe.make p.k p.vs im false false true p.carryOver p.pcarryOver, out, run_updRun hr fun x => (hf x).1, ?_, rfl, rfl, rfl, rfl, rfl⟩
  rw [Run.stripe, (hf r).2]
  exact Tab.find_set_self ..

end

/-! ### The obligation -/

/-- Settles O44: each clause is the lemma of its step above. -/
theorem scrollComplete : Obligations.ScrollComplete := by
  unfold Obligations.ScrollComplete
  intro s run r hr works
  refine ⟨?_, ?_, fun slot p hp stateless => ⟨?_, ?_⟩, ?_, fun q hq => ⟨fun unaccepted restored => ⟨?_, fun slot p f next hf => ⟨?_, ?_⟩⟩, ?_⟩⟩
  · rintro vs k ring f hk hring applied rfl
    exact ⟨fun _ _ => execStripeImageAccept_ok hr works hk hring applied, fun _ _ => execStripeImageAccept_part hr works hk hring applied,
      fun _ => execStripeImageAccept_bad hr works hk hring applied⟩
  · intro k e im due entry cached free settled fresh
    exact execStripeConfigure_makes hr works due entry cached free settled fresh
  · exact execStripeRetire_leaves hr works hp stateless
  · intro j q marked released nothing hj hq
    exact execSlotRelease_leaves hr works hp stateless marked released nothing hj hq
  · intro slot p v hp restoring hv settled port answered read
    exact execStateRestore_restores hr works hp restoring hv settled port answered read
  · exact execRswapPrepare_accepts hr works hq unaccepted restored
  · rintro x rfl agrees
    exact execRswapPrepare_keeps hr works hq unaccepted restored next hf.symm agrees
  · subst hf
    exact execRswapPrepare_refuses hr works hq unaccepted restored next
  · intro slot p e im accepted unmarked hp idle unswapped passed him stateless
    exact execImageSwap_swaps hr works hq accepted unmarked hp idle unswapped passed him stateless

end Machine
end Sys2Proof
end

section
/-! PROOF. The special values and the rounding of the float ops (O33): a magnitude rounded to an integer, the value of a magnitude's pattern,
one rounding against its exact value, then each op. -/
namespace Sys2Proof

variable {t : Ty} {rm : Rm} {sat neg : Bool}

/-! ### Signs and exact values -/

/-- The factor of a sign. -/
def signQ (neg : Bool) : ℚ := if neg then -1 else 1

@[simp] theorem signQ_true : signQ true = -1 := rfl

@[simp] theorem signQ_false : signQ false = 1 := rfl

theorem abs_signQ_mul {w : ℚ} (h : 0 ≤ w) : |signQ neg * w| = w := by
  cases neg <;> simp [abs_of_nonneg h]

theorem signQ_mul_neg_iff {w : ℚ} (pos : 0 < w) : signQ neg * w < 0 ↔ neg = true := by
  cases neg <;> simp [pos, pos.le]

theorem signQ_mul_pos_iff {w : ℚ} (pos : 0 < w) : 0 < signQ neg * w ↔ neg = false := by
  cases neg <;> simp [pos, pos.le]

theorem signQ_bne (a b : Bool) : signQ (a != b) = signQ a * signQ b := by cases a <;> cases b <;> simp

theorem signQ_div (a b : Bool) : signQ a / signQ b = signQ (a != b) := by cases a <;> cases b <;> simp

theorem FV.exact_fin (neg : Bool) (m : Nat) (e : Int) : (FV.fin neg m e).exact = signQ neg * (m * 2 ^ e) := mul_assoc ..

/-- The exact value of a dyadic. -/
def Dy.exact (x : Dy) : ℚ := x.m * 2 ^ x.e

theorem Dy.exact_of (neg : Bool) (m : Nat) (e : Int) : (Dy.of neg m e).exact = (FV.fin neg m e).exact := by
  cases neg <;> simp [Dy.of, Dy.exact, FV.exact]

theorem two_zpow_of_le {i j : Int} (h : i ≤ j) : (2 : ℚ) ^ j = 2 ^ (j - i).toNat * 2 ^ i := by
  rw [← zpow_natCast, ← zpow_add₀ two_ne_zero, Int.toNat_of_nonneg (by omega), sub_add_cancel]

theorem Dy.exact_add (x y : Dy) : (x.add y).exact = x.exact + y.exact := by
  unfold Dy.add
  split
  · next le => simp only [Dy.exact, two_zpow_of_le le]; push_cast; ring
  · next gt => simp only [Dy.exact, two_zpow_of_le (by omega : y.e ≤ x.e)]; push_cast; ring

theorem Dy.exact_ne_zero_iff (x : Dy) : x.exact ≠ 0 ↔ x.m ≠ 0 := by
  simp [Dy.exact, zpow_ne_zero]

theorem Dy.exact_eq_fin (x : Dy) : x.exact = (FV.fin (decide (x.m < 0)) x.m.natAbs x.e).exact := by
  rw [FV.exact_fin, Dy.exact, Nat.cast_natAbs, ← mul_assoc]
  rcases lt_or_ge x.m 0 with lt | ge
  · simp [lt, abs_of_neg lt]
  · simp [not_lt.mpr ge, abs_of_nonneg ge]

theorem FV.exact_mul (n n' : Bool) (m m' : Nat) (e e' : Int) :
    (FV.fin (n != n') (m * m') (e + e')).exact = (FV.fin n m e).exact * (FV.fin n' m' e').exact := by
  simp only [FV.exact_fin, signQ_bne, zpow_add₀ (two_ne_zero (α := ℚ))]
  push_cast
  ring

theorem FV.exact_div (n n' : Bool) (m m' : Nat) (e e' : Int) :
    (FV.fin n m e).exact / (FV.fin n' m' e').exact = signQ (n != n') * (m / m' * 2 ^ (e - e')) := by
  simp only [FV.exact_fin, ← signQ_div, zpow_sub₀ (two_ne_zero (α := ℚ)), mul_div_mul_comm]

theorem FV.exact_fin_ne_zero {n : Bool} {m : Nat} {e : Int} (h : (FV.fin n m e).exact ≠ 0) : m ≠ 0 := by
  rintro rfl
  exact h (by simp [FV.exact])

/-! ### A magnitude rounded to an integer (R68) -/

/-- `k` is the next integer from `w`, upward or downward. -/
def Directed (upward : Bool) (w : ℚ) (k : Nat) : Prop := if upward then w ≤ k ∧ k < w + 1 else k ≤ w ∧ w < k + 1

/-- The integer `k` that a magnitude `w`, of a value of this sign, is taken to under each mode. -/
def RoundsMagnitude (rm : Rm) (neg : Bool) (w : ℚ) (k : Nat) : Prop :=
  match rm with
  | .rne => 2 * |w - k| ≤ 1 ∧ (2 * |w - k| = 1 → k % 2 = 0)
  | .rna => 2 * |w - k| ≤ 1 ∧ (2 * |w - k| = 1 → w ≤ k)
  | .rtz => Directed false w k
  | .rdn => Directed neg w k
  | .rup => Directed (!neg) w k

section

variable {r d : Nat}

theorem remainder_fraction (lt : r < d) : 0 ≤ (r : ℚ) / d ∧ (r : ℚ) / d < 1 :=
  ⟨by positivity, (div_lt_one (by exact_mod_cast (Nat.zero_le r).trans_lt lt)).mpr (by exact_mod_cast lt)⟩

/-- In the directed modes a quotient is taken upward for a remainder that is not 0. -/
theorem directed_remainder (upward : Bool) (q : Nat) (lt : r < d) : Directed upward (q + r / d) (if upward && decide (0 < r) then q + 1 else q) := by
  obtain ⟨f0, f1⟩ := remainder_fraction lt
  cases upward with
  | false => exact ⟨by simpa using f0, by simpa using f1⟩
  | true =>
    rcases Nat.eq_zero_or_pos r with rfl | pos
    · simp [Directed]
    · have fpos : (0 : ℚ) < r / d := div_pos (by exact_mod_cast pos) (by exact_mod_cast pos.trans lt)
      simp only [Directed, pos, decide_true, Bool.and_self, if_true]
      push_cast
      constructor <;> linarith

/-- A quotient taken upward from one half at the least and downward to one half at the most is within one half, and at it for such a remainder only. -/
theorem nearest_remainder (q : Nat) (lt : r < d) {up : Bool} (hup : up = true → d ≤ 2 * r) (hdown : up = false → 2 * r ≤ d) :
    2 * |(q : ℚ) + r / d - (if up then q + 1 else q : Nat)| ≤ 1
      ∧ (2 * |(q : ℚ) + r / d - (if up then q + 1 else q : Nat)| = 1 → 2 * r = d) := by
  obtain ⟨f0, f1⟩ := remainder_fraction lt
  have dpos : (0 : ℚ) < d := by exact_mod_cast (Nat.zero_le r).trans_lt lt
  have tie : 2 * ((r : ℚ) / d) = 1 → 2 * r = d := by
    rw [← mul_div_assoc, div_eq_one_iff_eq dpos.ne']
    exact_mod_cast id
  cases up with
  | true =>
    have half : 1 ≤ 2 * ((r : ℚ) / d) := by
      rw [← mul_div_assoc, one_le_div dpos]
      exact_mod_cast hup rfl
    have gap : |(q : ℚ) + r / d - (q + 1 : Nat)| = 1 - r / d := by
      rw [abs_of_nonpos (by push_cast; linarith)]
      push_cast
      ring
    simp only [if_true, gap]
    exact ⟨by linarith, fun e => tie (by linarith)⟩
  | false =>
    have half : 2 * ((r : ℚ) / d) ≤ 1 := by
      rw [← mul_div_assoc, div_le_one dpos]
      exact_mod_cast hdown rfl
    have gap : |(q : ℚ) + r / d - q| = r / d := by rw [add_sub_cancel_left, abs_of_nonneg f0]
    simp only [Bool.false_eq_true, if_false, gap]
    exact ⟨half, tie⟩

/-- A quotient and its remainder, taken upward where the mode says so. -/
theorem roundsMagnitude_up (q : Nat) (lt : r < d) : RoundsMagnitude rm neg (q + r / d) (if rm.up neg q r d then q + 1 else q) := by
  cases rm with
  | rne =>
    obtain ⟨near, tie⟩ := nearest_remainder q lt (up := Rm.up .rne neg q r d)
      (by simp only [Rm.up, Bool.or_eq_true, Bool.and_eq_true, decide_eq_true_eq]; omega)
      (by simp only [Rm.up, Bool.or_eq_false_iff, decide_eq_false_iff_not]; omega)
    refine ⟨near, fun e => ?_⟩
    have half := tie e
    simp only [Rm.up, half, lt_irrefl, decide_false, Bool.false_or, decide_true, Bool.true_and, decide_eq_true_eq]
    split <;> omega
  | rna =>
    obtain ⟨near, tie⟩ := nearest_remainder q lt (up := Rm.up .rna neg q r d) of_decide_eq_true
      fun e => (not_le.mp (of_decide_eq_false e)).le
    refine ⟨near, fun e => ?_⟩
    have half := tie e
    simp only [Rm.up, half, le_refl, decide_true, if_true]
    push_cast
    linarith [(remainder_fraction lt).2]
  | rtz => exact directed_remainder false q lt
  | rdn => exact directed_remainder neg q lt
  | rup => exact directed_remainder (!neg) q lt

end

theorem rndDiv_rounds (n : Nat) {d : Nat} (pos : 0 < d) : RoundsMagnitude rm neg (n / d) (rndDiv rm neg n d) := by
  have split : (n : ℚ) / d = (n / d : Nat) + (n % d : Nat) / d := by
    have : (d : ℚ) ≠ 0 := by positivity
    field_simp
    exact_mod_cast (Nat.div_add_mod n d).symm
  rw [split]
  exact roundsMagnitude_up _ (Nat.mod_lt n pos)

theorem rndScaled_rounds (n : Nat) {d : Nat} (pos : 0 < d) (k : Int) :
    RoundsMagnitude rm neg (n / d * 2 ^ k) (rndScaled rm neg n d k) := by
  unfold rndScaled
  split
  · next ge =>
    have scale : (n : ℚ) / d * 2 ^ k = (n * 2 ^ k.toNat : Nat) / d := by
      rw [two_zpow_of_le ge, zpow_zero, mul_one, sub_zero, div_mul_eq_mul_div]
      push_cast
      rfl
    rw [scale]
    exact rndDiv_rounds _ pos
  · next lt =>
    have scale : (n : ℚ) / d * 2 ^ k = n / (d * 2 ^ (-k).toNat : Nat) := by
      have := two_zpow_of_le (by omega : k ≤ 0)
      rw [zpow_zero, zero_sub] at this
      push_cast
      rw [eq_div_iff (by positivity)]
      field_simp
      linear_combination (-(n : ℚ)) * this
    rw [scale]
    exact rndDiv_rounds _ (by positivity)

theorem Directed.near {upward : Bool} {w : ℚ} {k : Nat} (h : Directed upward w k) : |w - k| < 1 := by
  rw [abs_lt]
  cases upward <;>
  · obtain ⟨lower, upper⟩ := h
    constructor <;> linarith

theorem RoundsMagnitude.near {w : ℚ} {k : Nat} (h : RoundsMagnitude rm neg w k) : |w - k| < 1 := by
  cases rm with
  | rne | rna => linarith [h.1]
  | rtz | rdn | rup => exact Directed.near h

theorem RoundsMagnitude.le_of_le {w : ℚ} {k b : Nat} (h : RoundsMagnitude rm neg w k) (bound : w ≤ b) : k ≤ b := by
  have : (k : ℚ) < b + 1 := by linarith [(abs_lt.mp h.near).1]
  exact Nat.lt_succ_iff.mp (by exact_mod_cast this)

theorem RoundsMagnitude.ge_of_ge {w : ℚ} {k b : Nat} (h : RoundsMagnitude rm neg w k) (bound : b ≤ w) : b ≤ k := by
  have : (b : ℚ) < k + 1 := by linarith [(abs_lt.mp h.near).2]
  exact Nat.lt_succ_iff.mp (by exact_mod_cast this)

/-- Rounding in units of `2 ^ q` is rounding of the magnitude counted in them (R68). -/
theorem RoundsMagnitude.rounds {w : ℚ} {k : Nat} {q : Int} (h : RoundsMagnitude rm neg w k) (w0 : 0 ≤ w)
    (unit : t.spacing (signQ neg * (w * 2 ^ q)) q) : Rounds t rm (signQ neg * (w * 2 ^ q)) (signQ neg * (k * 2 ^ q)) := by
  obtain ⟨p, hp⟩ : ∃ p : ℚ, p = 2 ^ q := ⟨_, rfl⟩
  have p0 : 0 < p := by rw [hp]; positivity
  refine ⟨q, if neg then -k else k, unit, by cases neg <;> simp, ?_⟩
  rw [← hp]
  have absW : |signQ neg * (w * p)| = w * p := abs_signQ_mul (by positivity)
  have absK : |signQ neg * (k * p)| = k * p := abs_signQ_mul (by positivity)
  have gap : |signQ neg * (w * p) - signQ neg * (k * p)| = |w - k| * p := by
    rw [← mul_sub, ← sub_mul, ← abs_of_pos p0, ← abs_mul, abs_of_pos p0]
    cases neg <;> simp
  have within : 2 * (|w - k| * p) ≤ p ↔ 2 * |w - k| ≤ 1 := by
    rw [← mul_assoc]; exact mul_le_iff_le_one_left p0
  have tie : 2 * (|w - k| * p) = p ↔ 2 * |w - k| = 1 := by
    rw [← mul_assoc]; exact mul_eq_right₀ p0.ne'
  cases rm with
  | rne =>
    dsimp only
    rw [gap, within, tie]
    refine ⟨h.1, fun e => ?_⟩
    have even := h.2 e
    split <;> omega
  | rna =>
    dsimp only
    rw [gap, within, tie, absW, absK]
    exact ⟨h.1, fun e => mul_le_mul_of_nonneg_right (h.2 e) p0.le⟩
  | rtz =>
    dsimp only
    rw [gap, absW, absK]
    exact ⟨mul_lt_of_lt_one_left p0 h.near, mul_le_mul_of_nonneg_right h.1 p0.le⟩
  | rdn | rup =>
    cases neg <;>
    · obtain ⟨lower, upper⟩ := h
      simp only [signQ_true, signQ_false]
      constructor <;> nlinarith

/-! ### The spacing around a value (R69) -/

theorem floorLog2_bounds {n d : Nat} (npos : 0 < n) (dpos : 0 < d) :
    (2 : ℚ) ^ floorLog2 n d ≤ n / d ∧ (n : ℚ) / d < 2 ^ (floorLog2 n d + 1) := by
  have d0 : (0 : ℚ) < d := by exact_mod_cast dpos
  have nLower : (2 : ℚ) ^ (n.log2 : Int) ≤ n := by exact_mod_cast Nat.log2_self_le npos.ne'
  have nUpper : (n : ℚ) < 2 ^ ((n.log2 : Int) + 1) := by exact_mod_cast Nat.lt_log2_self (n := n)
  have dLower : (2 : ℚ) ^ (d.log2 : Int) ≤ d := by exact_mod_cast Nat.log2_self_le dpos.ne'
  have dUpper : (d : ℚ) < 2 ^ ((d.log2 : Int) + 1) := by exact_mod_cast Nat.lt_log2_self (n := d)
  obtain ⟨l, hl⟩ : ∃ l : Int, l = n.log2 - d.log2 := ⟨_, rfl⟩
  have upper : (n : ℚ) / d < 2 ^ (l + 1) := by
    rw [div_lt_iff₀ d0]
    calc (n : ℚ) < 2 ^ (l + 1) * 2 ^ (d.log2 : Int) := by rwa [← zpow_add₀ two_ne_zero, (by omega : l + 1 + d.log2 = n.log2 + 1)]
      _ ≤ _ := by gcongr
  have lower : (2 : ℚ) ^ (l - 1) ≤ n / d := by
    rw [le_div_iff₀ d0]
    calc (2 : ℚ) ^ (l - 1) * d ≤ 2 ^ (l - 1) * 2 ^ ((d.log2 : Int) + 1) := by gcongr
      _ ≤ n := by rwa [← zpow_add₀ two_ne_zero, (by omega : l - 1 + (d.log2 + 1) = (n.log2 : Int))]
  have test : (if 0 ≤ l then decide (d * 2 ^ l.toNat ≤ n) else decide (d ≤ n * 2 ^ (-l).toNat)) = true ↔ (2 : ℚ) ^ l ≤ n / d := by
    rw [le_div_iff₀ d0]
    split
    · next ge =>
      have power : (2 : ℚ) ^ l = 2 ^ l.toNat := by simpa using two_zpow_of_le ge
      rw [decide_eq_true_eq, power, mul_comm]
      exact_mod_cast Iff.rfl
    · next lt =>
      have power : (2 : ℚ) ^ (-l).toNat * 2 ^ l = 1 := by simpa using (two_zpow_of_le (by omega : l ≤ 0)).symm
      rw [decide_eq_true_eq, ← Nat.cast_le (α := ℚ), ← mul_le_mul_iff_left₀ (by positivity : (0 : ℚ) < 2 ^ l)]
      push_cast
      rw [mul_assoc, power, mul_one, mul_comm]
  unfold floorLog2
  simp only [← hl, test]
  split
  · next ge => exact ⟨ge, upper⟩
  · next lt => exact ⟨lower, by rwa [sub_add_cancel, ← not_le]⟩

/-- The exponent that `roundRat` rounds at is that of the spacing around its value. -/
theorem spacing_of_floorLog2 {n d : Nat} {e q : Int} (npos : 0 < n) (dpos : 0 < d) (hq : q = max (floorLog2 n d + e - t.fmt.fb) t.qMin) :
    t.spacing (signQ neg * (n / d * 2 ^ e)) q := by
  obtain ⟨lower, upper⟩ := floorLog2_bounds npos dpos
  have size : |signQ neg * ((n : ℚ) / d * 2 ^ e)| = n / d * 2 ^ e := abs_signQ_mul (by positivity)
  refine ⟨by omega, ?_, or_iff_not_imp_left.mpr fun ne => ?_⟩
  · rw [size]
    calc (n : ℚ) / d * 2 ^ e < 2 ^ (floorLog2 n d + 1) * 2 ^ e := by gcongr
      _ = 2 ^ (floorLog2 n d + 1 + e) := (zpow_add₀ two_ne_zero ..).symm
      _ ≤ 2 ^ (q + t.fmt.fb + 1) := zpow_le_zpow_right₀ one_le_two (by omega)
  · rw [size]
    calc (2 : ℚ) ^ (q + t.fmt.fb) = 2 ^ (floorLog2 n d + e) := by rw [(by omega : q + t.fmt.fb = floorLog2 n d + e)]
      _ = 2 ^ floorLog2 n d * 2 ^ e := zpow_add₀ two_ne_zero ..
      _ ≤ n / d * 2 ^ e := by gcongr

/-! ### The value of a magnitude's pattern (R63) -/

/-- The value of a pattern without its sign, by R63's formula, as if no exponent stood for infinities and NaNs. -/
def Ty.magnitude (t : Ty) (p : Nat) : ℚ :=
  if p / 2 ^ t.fmt.fb = 0 then (p % 2 ^ t.fmt.fb : Nat) * 2 ^ t.qMin
  else (2 ^ t.fmt.fb + p % 2 ^ t.fmt.fb : Nat) * 2 ^ (t.qMin + (p / 2 ^ t.fmt.fb - 1 : Nat))

/-- `k` units of the j-th binade, or of the subnormals where j is 0; `2 ^ (fb + 1)` units are the least value of the next binade. -/
theorem Ty.magnitude_units {j k : Nat} (le : k ≤ 2 ^ (t.fmt.fb + 1)) (normal : j = 0 ∨ 2 ^ t.fmt.fb ≤ k) :
    t.magnitude (j * 2 ^ t.fmt.fb + k) = k * 2 ^ (t.qMin + j) := by
  rw [pow_succ] at le
  have pos : 0 < 2 ^ t.fmt.fb := by positivity
  unfold Ty.magnitude
  generalize 2 ^ t.fmt.fb = F at *
  rcases lt_or_ge k F with sub | ge
  · obtain rfl : j = 0 := normal.resolve_right (by omega)
    simp [Nat.div_eq_of_lt sub, Nat.mod_eq_of_lt sub]
  rcases le.lt_or_eq with lt | rfl
  · have form : j * F + k = (k - F) + F * (j + 1) := by rw [mul_add, mul_one, mul_comm]; omega
    rw [form, Nat.add_mul_div_left _ _ pos, Nat.add_mul_mod_self_left, Nat.div_eq_of_lt (by omega), Nat.mod_eq_of_lt (by omega), zero_add,
      if_neg (by omega), Nat.add_sub_cancel, Nat.add_sub_cancel' ge]
  · rw [(by ring : j * F + F * 2 = F * (j + 2)), Nat.mul_div_cancel_left _ pos, Nat.mul_mod_right, if_neg (by omega), add_zero,
      (by push_cast; omega : t.qMin + ((j + 2 - 1 : Nat) : Int) = t.qMin + j + 1), zpow_add_one₀ two_ne_zero]
    push_cast
    ring

theorem Ty.magnitude_strictMono : StrictMono t.magnitude := by
  have pos : 0 < 2 ^ t.fmt.fb := by positivity
  refine strictMono_nat_of_lt_succ fun p => ?_
  obtain ⟨j, k, hp, lt, normal⟩ : ∃ j k, p = j * 2 ^ t.fmt.fb + k ∧ k < 2 ^ (t.fmt.fb + 1) ∧ (j = 0 ∨ 2 ^ t.fmt.fb ≤ k) := by
    have bound := Nat.mod_lt p pos
    have split := Nat.div_add_mod p (2 ^ t.fmt.fb)
    rcases h : p / 2 ^ t.fmt.fb with _ | j
    · exact ⟨0, p % 2 ^ t.fmt.fb, by rw [h, mul_zero] at split; rw [zero_mul, split], by rw [pow_succ]; omega, .inl rfl⟩
    · exact ⟨j, 2 ^ t.fmt.fb + p % 2 ^ t.fmt.fb, by rw [← add_assoc, ← Nat.succ_mul, mul_comm, Nat.succ_eq_add_one, ← h, split], by rw [pow_succ]; omega, .inr (by omega)⟩
  rw [hp, add_assoc, magnitude_units lt.le normal, magnitude_units lt (by omega)]
  push_cast
  gcongr
  linarith

theorem Ty.magnitude_normal : t.magnitude (2 ^ t.fmt.fb) = 2 ^ (t.qMin + t.fmt.fb) := by
  have := magnitude_units (t := t) (j := 0) (k := 2 ^ t.fmt.fb) (Nat.pow_le_pow_right (by omega) (by omega)) (.inl rfl)
  rw [zero_mul, zero_add] at this
  rw [this, Nat.cast_zero, add_zero, zpow_add₀ two_ne_zero, mul_comm, zpow_natCast, Nat.cast_pow, Nat.cast_ofNat]

theorem Ty.maxBits_lt (h : t.isFloat = true) : t.maxBits false < 2 ^ (t.width - 1) := by
  revert h
  cases t <;> decide

theorem Ty.maxBits_of_ne (h : t.isFloat = true) (ne : t ≠ .e4m3) : t.maxBits false + 1 = (2 ^ t.fmt.eb - 1) * 2 ^ t.fmt.fb := by
  revert h ne
  cases t <;> decide

theorem Ty.floatOf_of_le_maxBits (h : t.isFloat = true) {p : Nat} (le : p ≤ t.maxBits false) :
    t.floatOf (p + t.signBit neg) = if p / 2 ^ t.fmt.fb = 0 then .fin neg (p % 2 ^ t.fmt.fb) t.qMin
      else .fin neg (2 ^ t.fmt.fb + p % 2 ^ t.fmt.fb) (t.qMin + (p / 2 ^ t.fmt.fb - 1 : Nat)) := by
  have lt : p < 2 ^ (t.width - 1) := le.trans_lt (maxBits_lt h)
  have sign : decide (2 ^ (t.width - 1) ≤ p + t.signBit neg) = neg := by cases neg <;> simp [Ty.signBit, lt]
  have mag : (p + t.signBit neg) % 2 ^ (t.width - 1) = p := by cases neg <;> simp [Ty.signBit, Nat.mod_eq_of_lt lt]
  unfold Ty.floatOf
  simp only [sign, mag]
  split
  · next e =>
    subst e
    exact if_neg (by have : p ≤ 0x7E := le; omega)
  · next ne =>
    refine if_neg fun top => ?_
    have := maxBits_of_ne h ne
    have := Nat.div_mul_le_self p (2 ^ t.fmt.fb)
    rw [top] at this
    omega

theorem Ty.floatOf_magnitude (h : t.isFloat = true) {p : Nat} (le : p ≤ t.maxBits false) :
    ∃ m e, t.floatOf (p + t.signBit neg) = .fin neg m e ∧ (m : ℚ) * 2 ^ e = t.magnitude p := by
  rw [floatOf_of_le_maxBits h le, Ty.magnitude]
  split <;> exact ⟨_, _, rfl, rfl⟩

theorem Ty.exact_maxBits (h : t.isFloat = true) : (t.floatOf (t.maxBits false)).exact = t.magnitude (t.maxBits false) := by
  obtain ⟨m, e, value, size⟩ := floatOf_magnitude (neg := false) h le_rfl
  have plain : t.maxBits false + t.signBit false = t.maxBits false := rfl
  rw [plain] at value
  rw [value, FV.exact_fin, signQ_false, one_mul, size]

/-! ### One rounding (R68 to R70) -/

/-- The table of R69 as `IsRound` states it, for a value of this sign. -/
theorem overflowBits_eq {x : ℚ} (negative : x < 0 ↔ neg = true) (positive : 0 < x ↔ neg = false) : overflowBits t rm sat neg =
    if sat = true ∨ rm = .rtz ∨ (rm = .rup ∧ x < 0) ∨ (rm = .rdn ∧ 0 < x) then t.maxBits neg else t.infBits neg := by
  simp only [negative, positive]
  unfold overflowBits
  cases rm <;> cases neg <;> simp

theorem overflowBits_cases (t : Ty) (rm : Rm) (sat neg : Bool) :
    overflowBits t rm sat neg = t.maxBits neg ∨ overflowBits t rm sat neg = t.infBits neg := ite_eq_or_eq ..

theorem Ty.overflowBits_lt (h : t.isFloat = true) : overflowBits t rm sat neg < 2 ^ t.width := by
  have patterns : ∀ b, t.maxBits b < 2 ^ t.width ∧ t.infBits b < 2 ^ t.width := by
    revert h
    cases t <;> decide
  rcases overflowBits_cases t rm sat neg with e | e <;> rw [e]
  · exact (patterns neg).1
  · exact (patterns neg).2

/-- What `roundRat` answers for a rounded value whose magnitude's pattern is `p`, below or beyond the largest finite value. -/
def roundedPattern (t : Ty) (rm : Rm) (sat neg : Bool) (p : Nat) : Nat × Ev :=
  if t.maxBits false < p then (overflowBits t rm sat neg, Ev.oneSat) else (p + t.signBit neg, if p < 2 ^ t.fmt.fb then Ev.oneUnf else Ev.zero)

theorem roundRat_eq {n d : Nat} {e q : Int} (hq : q = max (floorLog2 n d + e - t.fmt.fb) t.qMin) :
    roundRat t rm sat neg n d e = roundedPattern t rm sat neg ((q - t.qMin).toNat * 2 ^ t.fmt.fb + rndScaled rm neg n d (e - q)) := by
  subst hq
  rfl

theorem isRound_of_magnitude (h : t.isFloat = true) {x y : ℚ} {p : Nat} (rounds : Rounds t rm x y) (size : |y| = t.magnitude p)
    (negative : x < 0 ↔ neg = true) (positive : 0 < x ↔ neg = false) : IsRound t rm sat x (roundedPattern t rm sat neg p) := by
  have sign : decide (x < 0) = neg := by simp [negative]
  refine ⟨y, rounds, ?_⟩
  unfold roundedPattern
  simp only [Ty.exact_maxBits h, size, ← Ty.magnitude_normal, Ty.magnitude_strictMono.le_iff_le, Ty.magnitude_strictMono.lt_iff_lt, sign]
  split
  · next beyond => exact ⟨Ty.overflowBits_lt h, fun le => absurd beyond le.not_gt, fun _ => ⟨rfl, overflowBits_eq negative positive⟩⟩
  · next fits =>
    refine ⟨?_, fun le => ⟨Ty.floatOf_magnitude h le, rfl⟩, fun beyond => absurd beyond fits⟩
    have below := Ty.maxBits_lt h
    have half := Nat.two_pow_pred_mul_two t.width_pos
    have bit : t.signBit neg ≤ 2 ^ (t.width - 1) := by cases neg <;> simp [Ty.signBit]
    dsimp only
    omega

/-- A magnitude of `w` units of its spacing, rounded to `k` of them. -/
theorem isRound_of_units (h : t.isFloat = true) {w : ℚ} {k : Nat} {q : Int} (pos : 0 < w) (rounded : RoundsMagnitude rm neg w k)
    (unit : t.spacing (signQ neg * (w * 2 ^ q)) q) :
    IsRound t rm sat (signQ neg * (w * 2 ^ q)) (roundedPattern t rm sat neg ((q - t.qMin).toNat * 2 ^ t.fmt.fb + k)) := by
  have q0 : (0 : ℚ) < 2 ^ q := by positivity
  have rounds := rounded.rounds pos.le unit
  obtain ⟨least, upper, lower⟩ := unit
  rw [abs_signQ_mul (by positivity)] at upper lower
  have kUpper : k ≤ 2 ^ (t.fmt.fb + 1) := rounded.le_of_le (by
    rw [add_assoc, add_comm, zpow_add₀ two_ne_zero, mul_lt_mul_iff_left₀ q0] at upper
    exact_mod_cast upper.le)
  have kLower : (q - t.qMin).toNat = 0 ∨ 2 ^ t.fmt.fb ≤ k := lower.imp (by omega) fun le => rounded.ge_of_ge (by
    rw [add_comm, zpow_add₀ two_ne_zero, mul_le_mul_iff_left₀ q0] at le
    exact_mod_cast le)
  have size : |signQ neg * (k * 2 ^ q)| = t.magnitude ((q - t.qMin).toNat * 2 ^ t.fmt.fb + k) := by
    rw [Ty.magnitude_units kUpper kLower, abs_signQ_mul (by positivity), (by omega : t.qMin + (q - t.qMin).toNat = q)]
  exact isRound_of_magnitude h rounds size (signQ_mul_neg_iff (by positivity)) (signQ_mul_pos_iff (by positivity))

/-- `roundRat` rounds the exact quotient (R69, R70). -/
theorem roundRat_isRound (h : t.isFloat = true) {n d : Nat} (npos : 0 < n) (dpos : 0 < d) (e : Int) :
    IsRound t rm sat (signQ neg * (n / d * 2 ^ e)) (roundRat t rm sat neg n d e) := by
  obtain ⟨q, hq⟩ : ∃ q, q = max (floorLog2 n d + e - t.fmt.fb) t.qMin := ⟨_, rfl⟩
  have unit := spacing_of_floorLog2 (neg := neg) npos dpos hq
  have scale : (n : ℚ) / d * 2 ^ e = n / d * 2 ^ (e - q) * 2 ^ q := by rw [mul_assoc, ← zpow_add₀ two_ne_zero, sub_add_cancel]
  rw [roundRat_eq hq]
  rw [scale] at unit ⊢
  exact isRound_of_units h (by positivity) (rndScaled_rounds n dpos (e - q)) unit

theorem roundDy_isRound (h : t.isFloat = true) {m : Nat} {e : Int} (ne : (FV.fin neg m e).exact ≠ 0) :
    IsRound t rm sat (FV.fin neg m e).exact (roundDy t rm sat neg m e) := by
  have m0 := FV.exact_fin_ne_zero ne
  unfold roundDy
  rw [if_neg m0, FV.exact_fin]
  simpa using roundRat_isRound (rm := rm) (sat := sat) (neg := neg) h (Nat.pos_of_ne_zero m0) Nat.one_pos e

/-! ### Finite operands (R138) -/

section

variable {n n' : Bool} {m m' : Nat} {e e' : Int}

theorem fAdd_isRound (h : t.isFloat = true) (ne : (FV.fin n m e).exact + (FV.fin n' m' e').exact ≠ 0) :
    IsRound t rm sat ((FV.fin n m e).exact + (FV.fin n' m' e').exact) (fAdd t rm sat (.fin n m e) (.fin n' m' e')) := by
  obtain ⟨s, hs⟩ : ∃ s, s = Dy.sum [Dy.of n m e, Dy.of n' m' e'] := ⟨_, rfl⟩
  have sum : s.exact = (FV.fin n m e).exact + (FV.fin n' m' e').exact := by
    have zero : (⟨0, 0⟩ : Dy).exact = 0 := by simp [Dy.exact]
    simp only [hs, Dy.sum, List.foldl_cons, List.foldl_nil, Dy.exact_add, Dy.exact_of, zero, zero_add]
  rw [← sum] at ne ⊢
  have unfolded : fAdd t rm sat (.fin n m e) (.fin n' m' e') = roundSigned t rm sat s := by
    simp only [fAdd, roundSum, List.map_cons, List.map_nil, ← hs]
    exact if_neg ((Dy.exact_ne_zero_iff s).mp ne)
  rw [unfolded, roundSigned]
  rw [Dy.exact_eq_fin] at ne ⊢
  exact roundDy_isRound h ne

theorem fMul_isRound (h : t.isFloat = true) (ne : (FV.fin n m e).exact * (FV.fin n' m' e').exact ≠ 0) :
    IsRound t rm sat ((FV.fin n m e).exact * (FV.fin n' m' e').exact) (fMul t rm sat (.fin n m e) (.fin n' m' e')) := by
  rw [← FV.exact_mul] at ne ⊢
  exact roundDy_isRound h ne

theorem fDiv_isRound (h : t.isFloat = true) (ne : (FV.fin n m e).exact ≠ 0) (ne' : (FV.fin n' m' e').exact ≠ 0) :
    IsRound t rm sat ((FV.fin n m e).exact / (FV.fin n' m' e').exact) (fDiv t rm sat (.fin n m e) (.fin n' m' e')) := by
  have m0 := FV.exact_fin_ne_zero ne
  have m0' := FV.exact_fin_ne_zero ne'
  rw [FV.exact_div, fDiv, if_neg m0', if_neg m0]
  exact roundRat_isRound h (Nat.pos_of_ne_zero m0) (Nat.pos_of_ne_zero m0') _

theorem fFma_isRound (h : t.isFloat = true) {k : Bool} {j : Nat} {i : Int}
    (ne : (FV.fin n m e).exact * (FV.fin n' m' e').exact + (FV.fin k j i).exact ≠ 0) :
    IsRound t rm sat ((FV.fin n m e).exact * (FV.fin n' m' e').exact + (FV.fin k j i).exact)
      (fFma t rm sat (.fin n m e) (.fin n' m' e') (.fin k j i)) := by
  rw [← FV.exact_mul] at ne ⊢
  exact fAdd_isRound h ne

end

/-! ### NaN operands and invalid operations (R65 to R67) -/

theorem FV.exists_nan {x : FV} (h : x.isNan = true) : ∃ sig, x = .nan sig := by
  cases x with
  | nan sig => exact ⟨sig, rfl⟩
  | inf _ | fin _ _ _ => cases h

/-- The ops of two operands on a NaN: the canonical NaN, and an event for each signalling one (R65, R66). -/
theorem binary_nan {x y : FV} (h : x.isNan = true ∨ y.isNan = true) : fAdd t rm sat x y = (t.nanBits, ⟨0, x.sig + y.sig, 0⟩)
    ∧ fMul t rm sat x y = (t.nanBits, ⟨0, x.sig + y.sig, 0⟩) ∧ fDiv t rm sat x y = (t.nanBits, ⟨0, x.sig + y.sig, 0⟩) := by
  have events : nanResult t [x, y] = (t.nanBits, ⟨0, x.sig + y.sig, 0⟩) := by simp [nanResult, Ev.nans]
  rw [← events]
  rcases h with h | h
  · obtain ⟨_, rfl⟩ := FV.exists_nan h
    exact ⟨rfl, rfl, rfl⟩
  · obtain ⟨_, rfl⟩ := FV.exists_nan h
    cases x <;> exact ⟨rfl, rfl, rfl⟩

theorem fFma_nan {x y z : FV} (h : x.isNan = true ∨ y.isNan = true ∨ z.isNan = true) :
    fFma t rm sat x y z = (t.nanBits, ⟨0, x.sig + y.sig + z.sig, 0⟩) := by
  have any : (x.isNan || y.isNan || z.isNan) = true := by simpa [or_assoc] using h
  rw [fFma, if_pos any]
  simp [nanResult, Ev.nans]

theorem roots_nan {x : FV} (h : x.isNan = true) :
    fSqrt t rm sat x = (t.nanBits, ⟨0, x.sig, 0⟩) ∧ fRsq t rm sat x = (t.nanBits, ⟨0, x.sig, 0⟩) := by
  obtain ⟨sig, rfl⟩ := FV.exists_nan h
  simp [fSqrt, fRsq, nanResult, Ev.nans]

theorem fAdd_opposite_infs (b : Bool) : fAdd t rm sat (.inf b) (.inf !b) = invalid t := if_neg (by simp)

theorem fFma_invalid_product {x y z : FV} (hx : x.isNan = false) (hy : y.isNan = false) (hz : z.isNan = false) (h : FV.mul x y = none) :
    fFma t rm sat x y z = invalid t := by
  simp [fFma, hx, hy, hz, h]

theorem roots_of_negative {m : Nat} (pos : 0 < m) (e : Int) :
    fSqrt t rm sat (.fin true m e) = invalid t ∧ fRsq t rm sat (.fin true m e) = invalid t := by
  simp [fSqrt, fRsq, pos.ne']

/-! ### Minimum, maximum, comparison and class (R139, R140) -/

section

variable {a b : Nat}

theorem fMinMax_nan (mx : Bool) (ha : (t.floatOf a).isNan = true) (hb : (t.floatOf b).isNan = false) :
    (fMinMax t mx a b).1 = b ∧ (fMinMax t mx b a).1 = b := by
  simp [fMinMax, ha, hb]

theorem fMinMax_nans (mx : Bool) (ha : (t.floatOf a).isNan = true) (hb : (t.floatOf b).isNan = true) : (fMinMax t mx a b).1 = t.nanBits := by
  simp [fMinMax, ha, hb]

theorem fCmp_nan (c : CmpCond) (h : (t.floatOf a).isNan = true ∨ (t.floatOf b).isNan = true) :
    (fCmp t c a b).1 = (decide (c = .ne) || decide (c = .un)) := by
  have either : ((t.floatOf a).isNan || (t.floatOf b).isNan) = true := by simpa using h
  simp only [fCmp, either, if_true]

end

theorem Ty.floatOf_signBit (h : t.isFloat = true) (neg : Bool) : t.floatOf (t.signBit neg) = .fin neg 0 t.qMin := by
  have := floatOf_of_le_maxBits (neg := neg) h (Nat.zero_le _)
  rw [zero_add] at this
  simp [this]

theorem FV.lt_zeros (n n' : Bool) (e e' : Int) : FV.lt (.fin n 0 e) (.fin n' 0 e') = false := by
  have zero : ∀ n e, Dy.of n 0 e = ⟨0, e⟩ := fun n e => by cases n <;> rfl
  simp only [FV.lt, Dy.lt, zero, Dy.add]
  split <;> simp

/-- −0 equals +0, whichever of the two stands first (R139). -/
theorem fCmp_zeros (h : t.isFloat = true) (n n' : Bool) :
    (fCmp t .eq (t.signBit n) (t.signBit n')).1 = true ∧ (fCmp t .lt (t.signBit n) (t.signBit n')).1 = false := by
  simp [fCmp, Ty.floatOf_signBit h, FV.isNan, FV.lt_zeros]

theorem fClass_bit (t : Ty) (v : Nat) : ∃ i < 10, fClass t v = 2 ^ i := by
  unfold fClass
  split
  · exact ⟨8, by decide, rfl⟩
  · exact ⟨9, by decide, rfl⟩
  · next neg _ => exact ⟨if neg then 0 else 7, by cases neg <;> decide, by cases neg <;> rfl⟩
  · next neg m _ _ =>
    split
    · exact ⟨if neg then 3 else 4, by cases neg <;> decide, by cases neg <;> rfl⟩
    split
    · exact ⟨if neg then 2 else 5, by cases neg <;> decide, by cases neg <;> rfl⟩
    · exact ⟨if neg then 1 else 6, by cases neg <;> decide, by cases neg <;> rfl⟩

/-! ### The obligation -/

/-- Settles O33: the special values case by case, and one rounding of the exact value for each op on finite operands. -/
theorem floatSpecialValues : Obligations.FloatSpecialValues := by
  unfold Obligations.FloatSpecialValues
  intro t rm sat mem
  have h : t.isFloat = true := by
    simp only [List.mem_cons, List.not_mem_nil, or_false] at mem
    rcases mem with rfl | rfl | rfl | rfl | rfl <;> rfl
  refine ⟨fun x y z => ⟨binary_nan, fFma_nan, roots_nan⟩, fun b c m e e' z => ?_, fun a b ha hb => ?_, fun mx a b => fMinMax_nans mx,
    (fCmp_zeros h false true).1, (fCmp_zeros h true false).2, fClass_bit t, ?_⟩
  · exact ⟨fAdd_opposite_infs b, rfl, rfl, fun hz => ⟨fFma_invalid_product rfl rfl hz rfl, fFma_invalid_product rfl rfl hz rfl⟩, rfl, rfl,
      fun pos => roots_of_negative pos e, rfl, rfl, rfl⟩
  · exact ⟨fun mx => fMinMax_nan mx ha hb, fun c => ⟨fCmp_nan c (.inl ha), fCmp_nan c (.inr ha)⟩⟩
  · rintro n n' k m m' j e e' i x y z rfl rfl rfl
    exact ⟨fAdd_isRound h, fMul_isRound h, fDiv_isRound h, fFma_isRound h⟩

end Sys2Proof
end

section
/-! PROOF. Fields of encodings (O54, O55): bits joined and cut, the checks of the decoders, and the codes of single fields. -/
namespace Sys2Proof

/-! ### Joined and cut bits -/

theorem append_eq_iff {n m : Nat} {x : BitVec n} {y : BitVec m} {w : BitVec (n + m)} :
    x ++ y = w ↔ w.extractLsb' m n = x ∧ w.extractLsb' 0 m = y := by
  constructor
  · rintro rfl
    exact ⟨BitVec.extractLsb'_append_eq_left, BitVec.extractLsb'_append_eq_right⟩
  · rintro ⟨rfl, rfl⟩
    rw [BitVec.extractLsb'_append_extractLsb'_eq_extractLsb' (by simp)]
    exact BitVec.extractLsb'_eq_self

theorem eq_append_iff {n m : Nat} {x : BitVec n} {y : BitVec m} {w : BitVec (n + m)} :
    w = x ++ y ↔ w.extractLsb' m n = x ∧ w.extractLsb' 0 m = y := eq_comm.trans append_eq_iff

theorem extractLsb'_extractLsb' {k a n b m : Nat} (x : BitVec k) (h : b + m ≤ n) :
    (x.extractLsb' a n).extractLsb' b m = x.extractLsb' (a + b) m := by
  ext i hi
  simp [BitVec.getElem_extractLsb', show b + i < n by omega, Nat.add_assoc]

theorem append_append_eq_iff {n m l : Nat} {x : BitVec n} {y : BitVec m} {z : BitVec l} {w : BitVec (n + m + l)} :
    x ++ y ++ z = w ↔ w.extractLsb' (l + m) n = x ∧ w.extractLsb' l m = y ∧ w.extractLsb' 0 l = z := by
  rw [append_eq_iff, eq_append_iff, extractLsb'_extractLsb' _ (by omega), extractLsb'_extractLsb' _ (by omega), Nat.add_zero, and_assoc]

theorem extractLsb'_eq_ofBool_iff {k i : Nat} {x : BitVec k} {b : Bool} : x.extractLsb' i 1 = BitVec.ofBool b ↔ x.getLsbD i = b := by
  have bit : ∀ v : BitVec 1, v = BitVec.ofBool (v == 1#1) := by decide
  rw [bit (x.extractLsb' i 1), BitVec.ofBool_eq_iff_eq, BitVec.getLsbD_eq_extractLsb']

/-! ### Checks and codes -/

@[simp] theorem need_eq_ok {α : Type} {c : Bool} {r : Reject} {k : Except Reject α} {v : α} : need c r k = .ok v ↔ c = true ∧ k = .ok v := by
  cases c <;> simp [need]

@[simp] theorem field_eq_ok {α β : Type} {o : Option α} {k : α → Except Reject β} {v : β} :
    field o k = .ok v ↔ ∃ x, o = some x ∧ k x = .ok v := by
  cases o <;> simp [field]

/-- A field's decoder accepts exactly the codes, when it reads each value's code as that value and every value it answers has the code read. -/
theorem eq_some_iff_eq_code {α β : Type} {of : α → Option β} {code : β → α} (code_of : ∀ v, ∀ x ∈ of v, code x = v)
    (of_code : ∀ x, of (code x) = some x) {v : α} {x : β} : of v = some x ↔ v = code x :=
  ⟨fun h => (code_of v x h).symm, fun h => h ▸ of_code x⟩

@[simp] theorem condOfCode_eq_some {v t} : condOfCode v = some t ↔ v = t.code :=
  eq_some_iff_eq_code (by decide) (by rintro ⟨⟩ <;> rfl)
@[simp] theorem loadSizeOfCode_eq_some {v t} : loadSizeOfCode v = some t ↔ v = t.code :=
  eq_some_iff_eq_code (by decide) (by rintro ⟨⟩ <;> rfl)
@[simp] theorem ldOrderOfCode_eq_some {v t} : ldOrderOfCode v = some t ↔ v = t.code :=
  eq_some_iff_eq_code (by decide) (by rintro ⟨⟩ <;> rfl)
@[simp] theorem stOrderOfCode_eq_some {v t} : stOrderOfCode v = some t ↔ v = t.code :=
  eq_some_iff_eq_code (by decide) (by rintro ⟨⟩ <;> rfl)
@[simp] theorem orderOfCode_eq_some {v t} : orderOfCode v = some t ↔ v = t.code :=
  eq_some_iff_eq_code (by decide) (by rintro ⟨⟩ <;> rfl)
@[simp] theorem sscopeOfCode_eq_some {v t} : sscopeOfCode v = some t ↔ v = t.code :=
  eq_some_iff_eq_code (by decide) (by rintro ⟨⟩ <;> rfl)
@[simp] theorem predOf_eq_some {v p} : predOf v = some p ↔ v = predBits p :=
  eq_some_iff_eq_code (by decide) (by decide)
@[simp] theorem cregOfCode_eq_some {v t} : cregOfCode v = some t ↔ v = t.code := by
  refine eq_some_iff_eq_code (fun v x h => ?_) (by rintro ⟨⟩ <;> rfl)
  unfold cregOfCode at h
  split at h <;> cases h <;> exact (BitVec.eq_of_toNat_eq ‹_›).symm
@[simp] theorem cwregOfCode_eq_some {v t} : cwregOfCode v = some t ↔ v = t.code := by
  refine eq_some_iff_eq_code (fun v x h => ?_) (by rintro ⟨⟩ <;> rfl)
  unfold cwregOfCode at h
  split at h <;> cases h <;> exact (BitVec.eq_of_toNat_eq ‹_›).symm
@[simp] theorem sendKindOf_eq_some {k lv t} : sendKindOf k lv = some t ↔ k = t.code ∧ lv = t.level := by
  have code_of : ∀ k lv, ∀ t ∈ sendKindOf k lv, k = t.code ∧ lv = t.level := by decide
  have of_code : ∀ t : SendKind, sendKindOf t.code t.level = some t := by
    rintro (_ | l | _ | _)
    · rfl
    · revert l; decide
    · rfl
    · rfl
  refine ⟨code_of k lv t, ?_⟩
  rintro ⟨rfl, rfl⟩
  exact of_code t

theorem sizeOfCode_eq_iff {v t} : sizeOfCode v = t ↔ v = t.code := by
  cases t <;> revert v <;> decide
@[simp] theorem code_sizeOfCode (v : BitVec 2) : (sizeOfCode v).code = v := (sizeOfCode_eq_iff.mp rfl).symm
@[simp] theorem sizeOfCode_code (t : Size) : sizeOfCode t.code = t := sizeOfCode_eq_iff.mpr rfl

@[simp] theorem regBits_regOf (v : BitVec 5) : regBits (regOf v) = v := by simp [regBits, regOf]
@[simp] theorem regOf_regBits (r : Reg) : regOf (regBits r) = r := by simp [regBits, regOf]
@[simp] theorem bits3_toFin (v : BitVec 3) : bits3 v.toFin = v := by simp [bits3]
@[simp] theorem toFin_bits3 (n : Fin 8) : (bits3 n).toFin = n := by simp [bits3]
theorem regOf_eq_zero_iff {v : BitVec 5} : regOf v = 0 ↔ v = 0 := by
  revert v
  decide
theorem ofNat_toNat_self {n : Nat} (v : BitVec n) : BitVec.ofNat n v.toNat = v := by simp
theorem eq_bits3_iff {p : Fin 8} {v : BitVec 3} : v = bits3 p ↔ v.toFin = p := 
  ⟨fun h => by simp [h], fun h => by simp [← h]⟩

/-! ### Words and their fields (R108) -/

/-- The word joined from fields is the one that is cut into them. -/
theorem word_eq_iff {f : SeqFields} {w : BitVec 64} : f.word = w ↔ seqFields w = f := by
  obtain ⟨major, ⟨sense, p⟩, d, a, b, fn, imm⟩ := f
  unfold SeqFields.word
  rw [append_eq_iff]
  simp only [eq_append_iff]
  simp [extractLsb'_extractLsb', extractLsb'_eq_ofBool_iff, seqFields, eq_bits3_iff, and_assoc]

@[simp] theorem seqFields_word (f : SeqFields) : seqFields f.word = f := word_eq_iff.mp rfl
@[simp] theorem word_seqFields (w : BitVec 64) : (seqFields w).word = w := word_eq_iff.mpr rfl

end Sys2Proof
end

section
/-! PROOF. The decoder and the encoder of sequencer words (O54): arm by arm of the decoder, and instruction by instruction. -/
namespace Sys2Proof

/-! ### Immediate fields -/

theorem eq_ofNat_iff_toNat_eq {n : Fin 6} {v : BitVec 3} : v = BitVec.ofNat 3 n.val ↔ v.toNat = n.val := by
  revert n v
  decide

theorem wait_bits_eq_iff {x : WaitFields} {v : BitVec 32} :
    (0 : BitVec 2) ++ x.ld ++ x.st ++ x.dr ++ x.sr ++ x.sv ++ x.rn = v ↔ v.extractLsb' 30 2 = 0 ∧ waitOf v = x := by
  cases x
  rw [append_eq_iff]
  simp only [eq_append_iff]
  simp [waitOf, extractLsb'_extractLsb', and_assoc]

theorem txWordOf_eq_some_iff {x : TxWord} {v : BitVec 32} : txWordOf v = some x ↔
    v.getLsbD 20 = x.level ∧ v.extractLsb' 12 8 = x.count ∧ v.extractLsb' 10 2 = x.mode ∧ (v.extractLsb' 7 3).toFin = x.slot
      ∧ v.getLsbD 6 = x.valid ∧ (v.extractLsb' 3 3).toNat = x.dstDie ∧ (v.extractLsb' 0 3).toNat = x.srcDie := by
  obtain ⟨level, count, mode, slot, valid, dst, src⟩ := x
  unfold txWordOf
  split
  case isTrue => simp only [Option.some.injEq, TxWord.mk.injEq, Fin.ext_iff]
  case isFalse h =>
    simp only [reduceCtorEq, false_iff]
    rintro ⟨-, -, -, -, -, hd, hs⟩
    exact h ⟨hd ▸ dst.isLt, hs ▸ src.isLt⟩

theorem txWord_bits_eq_iff {x : TxWord} {v : BitVec 32} : x.bits = v ↔ v.extractLsb' 21 11 = 0 ∧ txWordOf v = some x := by
  unfold TxWord.bits
  rw [append_eq_iff, txWordOf_eq_some_iff]
  simp only [eq_append_iff]
  simp only [extractLsb'_extractLsb', Nat.reduceAdd, Nat.reduceLeDiff, extractLsb'_eq_ofBool_iff, eq_bits3_iff, eq_ofNat_iff_toNat_eq,
    and_assoc]

theorem send_bits_eq_iff {c : Reg} {sl : Fin 8} {b : Bool} {sc : SScope} {v : BitVec 32} :
    regBits c ++ (0 : BitVec 21) ++ bits3 sl ++ BitVec.ofBool b ++ sc.code = v ↔
      v.extractLsb' 27 5 = regBits c ∧ v.extractLsb' 6 21 = 0 ∧ (v.extractLsb' 3 3).toFin = sl ∧ v.getLsbD 2 = b
        ∧ v.extractLsb' 0 2 = sc.code := by
  rw [append_eq_iff]
  simp only [eq_append_iff]
  simp only [extractLsb'_extractLsb', Nat.reduceAdd, Nat.reduceLeDiff, extractLsb'_eq_ofBool_iff, eq_bits3_iff, and_assoc]

theorem atom_bits_eq_iff {c : BitVec 5} {o : Order} {sc : SScope} {v : BitVec 32} :
    c ++ (0 : BitVec 22) ++ sc.code ++ o.code = v ↔
      v.extractLsb' 27 5 = c ∧ v.extractLsb' 5 22 = 0 ∧ v.extractLsb' 3 2 = sc.code ∧ v.extractLsb' 0 3 = o.code := by
  rw [append_eq_iff]
  simp only [eq_append_iff]
  simp only [extractLsb'_extractLsb', Nat.reduceAdd, Nat.reduceLeDiff, and_assoc]

/-! ### From fields to instructions -/

/-- An instruction that its encoding admits, whose word joins these fields. -/
def IsWordOf (i : Instr) (f : SeqFields) : Prop := i.wf = true ∧ encodeSeq i = some f.word

theorem IsWordOf.intro {i : Instr} {m m' : BitVec 8} {g : Guard} {d a b fn d' a' b' fn' : BitVec 5} {imm imm' : BitVec 32}
    (wf : i.wf = true) (enc : encodeSeq i = some (seqWord m g d a b fn imm)) (major : m'.toNat = m.toNat)
    (same : d = d' ∧ a = a' ∧ b = b' ∧ fn = fn' ∧ imm = imm') : IsWordOf i ⟨m', g, d', a', b', fn', imm'⟩ := by
  obtain ⟨rfl, rfl, rfl, rfl, rfl⟩ := same
  obtain rfl : m' = m := BitVec.eq_of_toNat_eq major
  exact ⟨wf, enc⟩

theorem aluOf_encodes {n : Nat} {op : Guard → Reg → Reg → Reg → Instr} (h : aluOf n = some op) (g : Guard) (d a b : Reg) :
    (op g d a b).wf = true ∧ encodeSeq (op g d a b) = some (seqWord 0x01 g (regBits d) (regBits a) (regBits b) (BitVec.ofNat 5 n) 0) := by
  unfold aluOf at h
  split at h <;> cases h <;> exact ⟨rfl, rfl⟩

theorem aluImmOf_encodes {n : Nat} {op : Guard → Reg → Reg → BitVec 32 → Instr} (h : aluImmOf n = some op) (g : Guard) (d a : Reg)
    (imm : BitVec 32) :
    (op g d a imm).wf = true ∧ encodeSeq (op g d a imm) = some (seqWord 0x02 g (regBits d) (regBits a) 0 (BitVec.ofNat 5 n) imm) := by
  unfold aluImmOf at h
  split at h <;> cases h <;> exact ⟨rfl, rfl⟩

theorem atomOf_encodes {n : Nat} {op : Guard → ASize → Order → SScope → Reg → Reg → Reg → Instr} (h : atomOf n = some op) (g : Guard)
    (sz : ASize) (o : Order) (sc : SScope) (d a b : Reg) :
    (op g sz o sc d a b).wf = true ∧ encodeSeq (op g sz o sc d a b) = some (seqWord 0x2A g (regBits d) (regBits a) (regBits b)
      (sz.bit ++ BitVec.ofNat 4 n) ((0 : BitVec 5) ++ (0 : BitVec 22) ++ sc.code ++ o.code)) := by
  unfold atomOf at h
  split at h <;> cases h <;> exact ⟨rfl, rfl⟩

theorem asize_bit_eq (v : BitVec 5) : v.extractLsb' 4 1 = (if v.getLsbD 4 then ASize.d else .w).bit := by
  revert v
  decide

/-- A function field whose upper bits are zero is its bit 0. -/
theorem eq_bit_zero {v : BitVec 5} (h : v.extractLsb' 1 4 = 0) : v = if v.getLsbD 0 then 1 else 0 := by
  revert v
  decide

section
variable {i : Instr} {g : Guard} {d a b fn : BitVec 5} {imm : BitVec 32}

theorem isWordOf_alu (h : decodeFields ⟨0x01, g, d, a, b, fn, imm⟩ = .ok i) : IsWordOf i ⟨0x01, g, d, a, b, fn, imm⟩ := by
  obtain ⟨hi, h⟩ := need_eq_ok.mp h
  obtain rfl : imm = 0 := beq_iff_eq.mp hi
  dsimp only at h
  split_ifs at h with clz popc
  · obtain ⟨hb, ⟨⟩⟩ := need_eq_ok.mp h
    exact .intro rfl rfl rfl ⟨regBits_regOf _, regBits_regOf _, (beq_iff_eq.mp hb).symm, clz.symm, rfl⟩
  · obtain ⟨hb, ⟨⟩⟩ := need_eq_ok.mp h
    exact .intro rfl rfl rfl ⟨regBits_regOf _, regBits_regOf _, (beq_iff_eq.mp hb).symm, popc.symm, rfl⟩
  · obtain ⟨op, hop, ⟨⟩⟩ := field_eq_ok.mp h
    obtain ⟨wf, enc⟩ := aluOf_encodes hop g (regOf d) (regOf a) (regOf b)
    exact .intro wf enc rfl (by simp)

theorem isWordOf_aluImm (h : decodeFields ⟨0x02, g, d, a, b, fn, imm⟩ = .ok i) : IsWordOf i ⟨0x02, g, d, a, b, fn, imm⟩ := by
  obtain ⟨hb, h⟩ := need_eq_ok.mp h
  obtain rfl : b = 0 := beq_iff_eq.mp hb
  dsimp only at h
  split_ifs at h with clz popc
  · obtain ⟨hi, ⟨⟩⟩ := need_eq_ok.mp h
    exact .intro rfl rfl rfl ⟨regBits_regOf _, regBits_regOf _, rfl, clz.symm, (beq_iff_eq.mp hi).symm⟩
  · obtain ⟨hi, ⟨⟩⟩ := need_eq_ok.mp h
    exact .intro rfl rfl rfl ⟨regBits_regOf _, regBits_regOf _, rfl, popc.symm, (beq_iff_eq.mp hi).symm⟩
  · obtain ⟨op, hop, ⟨⟩⟩ := field_eq_ok.mp h
    obtain ⟨wf, enc⟩ := aluImmOf_encodes hop g (regOf d) (regOf a) imm
    exact .intro wf enc rfl (by simp)

theorem isWordOf_sendq (h : decodeFields ⟨0x1A, g, d, a, b, fn, imm⟩ = .ok i) : IsWordOf i ⟨0x1A, g, d, a, b, fn, imm⟩ := by
  obtain ⟨zero, h⟩ := need_eq_ok.mp h
  obtain ⟨k, hk, h⟩ := field_eq_ok.mp h
  simp only [Bool.and_eq_true, beq_iff_eq, ← extractLsb'_eq_ofBool_iff] at zero
  obtain ⟨⟨rfl, hf⟩, hi⟩ := zero
  obtain ⟨hk, hl⟩ := sendKindOf_eq_some.mp hk
  dsimp only at h
  split_ifs at h with reg
  · obtain ⟨hi', ⟨⟩⟩ := need_eq_ok.mp h
    exact .intro rfl rfl rfl ⟨rfl, regBits_regOf _, regBits_regOf _,
      append_append_eq_iff.mpr ⟨hf, hk, extractLsb'_eq_ofBool_iff.mpr reg⟩, append_append_eq_iff.mpr ⟨hi, hl, beq_iff_eq.mp hi'⟩⟩
  · obtain ⟨hb, h⟩ := need_eq_ok.mp h
    obtain ⟨wf, ⟨⟩⟩ := need_eq_ok.mp h
    exact .intro wf rfl rfl ⟨rfl, regBits_regOf _, (beq_iff_eq.mp hb).symm,
      append_append_eq_iff.mpr ⟨hf, hk, extractLsb'_eq_ofBool_iff.mpr (Bool.eq_false_iff.mpr reg)⟩, append_append_eq_iff.mpr ⟨hi, hl, rfl⟩⟩

theorem isWordOf_atomg (h : decodeFields ⟨0x2A, g, d, a, b, fn, imm⟩ = .ok i) : IsWordOf i ⟨0x2A, g, d, a, b, fn, imm⟩ := by
  obtain ⟨hi, h⟩ := need_eq_ok.mp h
  obtain ⟨o, ho, h⟩ := field_eq_ok.mp h
  obtain ⟨sc, hsc, h⟩ := field_eq_ok.mp h
  rw [orderOfCode_eq_some] at ho
  rw [sscopeOfCode_eq_some] at hsc
  rw [beq_iff_eq] at hi
  have size := asize_bit_eq fn
  dsimp only at h
  generalize (if fn.getLsbD 4 then ASize.d else .w) = sz at h size
  split_ifs at h with cas
  · cases h
    exact .intro rfl rfl rfl ⟨regBits_regOf _, regBits_regOf _, regBits_regOf _, append_eq_iff.mpr ⟨size, cas⟩,
      atom_bits_eq_iff.mpr ⟨(regBits_regOf _).symm, hi, hsc, ho⟩⟩
  · obtain ⟨op, hop, h⟩ := field_eq_ok.mp h
    obtain ⟨hc, ⟨⟩⟩ := need_eq_ok.mp h
    obtain ⟨wf, enc⟩ := atomOf_encodes hop g sz o sc (regOf d) (regOf a) (regOf b)
    exact .intro wf enc rfl ⟨regBits_regOf _, regBits_regOf _, regBits_regOf _, append_eq_iff.mpr ⟨size, (ofNat_toNat_self _).symm⟩,
      atom_bits_eq_iff.mpr ⟨beq_iff_eq.mp hc, hi, hsc, ho⟩⟩

theorem isWordOf_talloc (h : decodeFields ⟨0x30, g, d, a, b, fn, imm⟩ = .ok i) : IsWordOf i ⟨0x30, g, d, a, b, fn, imm⟩ := by
  obtain ⟨zero, h⟩ := need_eq_ok.mp h
  simp only [Bool.and_eq_true, beq_iff_eq] at zero
  obtain ⟨rfl, hf⟩ := zero
  dsimp only at h
  split_ifs at h with reg
  · obtain ⟨hi, ⟨⟩⟩ := need_eq_ok.mp h
    exact .intro rfl rfl rfl ⟨regBits_regOf _, regBits_regOf _, rfl,
      append_eq_iff.mpr ⟨hf, extractLsb'_eq_ofBool_iff.mpr reg⟩, (beq_iff_eq.mp hi).symm⟩
  · simp only [need_eq_ok, Bool.and_eq_true, beq_iff_eq, Except.ok.injEq] at h
    obtain ⟨⟨rfl, hi⟩, wf, rfl⟩ := h
    exact .intro wf rfl rfl ⟨regBits_regOf _, rfl, rfl,
      append_eq_iff.mpr ⟨hf, extractLsb'_eq_ofBool_iff.mpr (Bool.eq_false_iff.mpr reg)⟩, append_eq_iff.mpr ⟨hi, rfl⟩⟩

theorem isWordOf_waitt (h : decodeFields ⟨0x49, g, d, a, b, fn, imm⟩ = .ok i) : IsWordOf i ⟨0x49, g, d, a, b, fn, imm⟩ := by
  obtain ⟨zero, h⟩ := need_eq_ok.mp h
  simp only [Bool.and_eq_true, beq_iff_eq] at zero
  obtain ⟨⟨⟨rfl, rfl⟩, rfl⟩, hi⟩ := zero
  have low : ∀ v : BitVec 3, BitVec.ofNat 32 v.toNat = (0 : BitVec 29) ++ v := by decide
  dsimp only at h
  split_ifs at h with range
  cases h
  exact .intro rfl rfl rfl ⟨rfl, regBits_regOf _, rfl, rfl, (low _).trans (append_eq_iff.mpr ⟨hi, rfl⟩)⟩

theorem isWordOf_rstop (h : decodeFields ⟨0x41, g, d, a, b, fn, imm⟩ = .ok i) : IsWordOf i ⟨0x41, g, d, a, b, fn, imm⟩ := by
  obtain ⟨zero, ⟨⟩⟩ := need_eq_ok.mp h
  simp only [Bool.and_eq_true, beq_iff_eq] at zero
  obtain ⟨⟨⟨rfl, rfl⟩, hf⟩, rfl⟩ := zero
  have last := eq_bit_zero hf
  dsimp only
  split_ifs at last ⊢ <;> exact .intro rfl rfl rfl ⟨rfl, regBits_regOf _, rfl, last.symm, rfl⟩

theorem isWordOf_cinv (h : decodeFields ⟨0x57, g, d, a, b, fn, imm⟩ = .ok i) : IsWordOf i ⟨0x57, g, d, a, b, fn, imm⟩ := by
  obtain ⟨zero, ⟨⟩⟩ := need_eq_ok.mp h
  simp only [Bool.and_eq_true, beq_iff_eq] at zero
  obtain ⟨⟨rfl, hf⟩, rfl⟩ := zero
  have last := eq_bit_zero hf
  dsimp only
  split_ifs at last ⊢ <;> exact .intro rfl rfl rfl ⟨rfl, regBits_regOf _, regBits_regOf _, last.symm, rfl⟩

theorem isWordOf_fence (h : decodeFields ⟨0x4A, g, d, a, b, fn, imm⟩ = .ok i) : IsWordOf i ⟨0x4A, g, d, a, b, fn, imm⟩ := by
  obtain ⟨zero, h⟩ := need_eq_ok.mp h
  simp only [Bool.and_eq_true, beq_iff_eq, ← extractLsb'_eq_ofBool_iff] at zero
  obtain ⟨⟨⟨⟨rfl, rfl⟩, rfl⟩, hf⟩, rfl⟩ := zero
  obtain ⟨sc, hsc, ⟨⟩⟩ := field_eq_ok.mp h
  rw [sscopeOfCode_eq_some] at hsc
  have orders : ∀ v : BitVec 2, v = 0 ∨ v = 1 ∨ v = 2 ∨ v = 3 := by decide
  have word {o : BitVec 2} (order : fn.extractLsb' 2 2 = o) : (0 : BitVec 1) ++ o ++ sc.code = fn :=
    append_append_eq_iff.mpr ⟨hf, order, hsc⟩
  dsimp only
  rcases orders (fn.extractLsb' 2 2) with order | order | order | order
  all_goals
    rw [order]
    exact .intro rfl rfl rfl ⟨rfl, rfl, rfl, word order, rfl⟩

/-- SAFEPT's fields: its stub and its predicates are cut across the register fields (R112). -/
theorem decodeFields_safept (g : Guard) (d a b fn : BitVec 5) (imm : BitVec 32) :
    decodeFields ⟨0x50, g, d, a, b, fn, imm⟩ = if imm.getLsbD 0 then
        .ok (.safept g (imm.extractLsb' 1 31) (b.extractLsb' 0 2 ++ fn) (some (d ++ a ++ b.extractLsb' 2 3)))
      else need (d ++ a ++ b.extractLsb' 2 3 == 0) .nonzeroField
        (.ok (.safept g (imm.extractLsb' 1 31) (b.extractLsb' 0 2 ++ fn) none)) := rfl

theorem isWordOf_safept (h : decodeFields ⟨0x50, g, d, a, b, fn, imm⟩ = .ok i) : IsWordOf i ⟨0x50, g, d, a, b, fn, imm⟩ := by
  rw [decodeFields_safept] at h
  obtain ⟨hd, ha, hb⟩ := append_append_eq_iff.mp (rfl : d ++ a ++ b.extractLsb' 2 3 = _)
  obtain ⟨pb, pf⟩ := append_eq_iff.mp (rfl : b.extractLsb' 0 2 ++ fn = _)
  generalize d ++ a ++ b.extractLsb' 2 3 = s at h hd ha hb
  split_ifs at h with stub
  · cases h
    exact .intro rfl rfl rfl ⟨hd, ha, append_eq_iff.mpr ⟨hb.symm, pb.symm⟩, pf,
      append_eq_iff.mpr ⟨rfl, extractLsb'_eq_ofBool_iff.mpr stub⟩⟩
  · obtain ⟨zero, ⟨⟩⟩ := need_eq_ok.mp h
    cases beq_iff_eq.mp zero
    exact .intro rfl rfl rfl ⟨hd, ha, append_eq_iff.mpr ⟨hb.symm, pb.symm⟩, pf,
      append_eq_iff.mpr ⟨rfl, extractLsb'_eq_ofBool_iff.mpr (Bool.eq_false_iff.mpr stub)⟩⟩

/-- What the fields of a word decode to has that word: arm by arm of the decoder, the checks passed give back each field. -/
theorem isWordOf_of_decodeFields {f : SeqFields} (h : decodeFields f = .ok i) : IsWordOf i f := by
  obtain ⟨m, g, d, a, b, fn, imm⟩ := f
  have fields := h
  unfold decodeFields at h
  split at h
  all_goals
    rename_i hm
    simp only [need_eq_ok, field_eq_ok, Bool.and_eq_true, beq_iff_eq, Except.ok.injEq, reduceCtorEq, condOfCode_eq_some, loadSizeOfCode_eq_some,
      ldOrderOfCode_eq_some, stOrderOfCode_eq_some, sscopeOfCode_eq_some, predOf_eq_some, cregOfCode_eq_some, cwregOfCode_eq_some] at h
  -- registers, an immediate and zero fields alone
  case h_3 | h_4 | h_10 | h_12 | h_14 | h_15 | h_16 | h_17 | h_18 | h_26 | h_27 | h_35 | h_37 | h_38 | h_39 | h_43 | h_44 | h_45 | h_46 | h_48
      | h_49 | h_51 =>
    obtain ⟨zero, rfl⟩ := h
    exact .intro rfl rfl hm (by simp [zero])
  -- instructions with codes in their function fields
  case h_1 => cases (BitVec.eq_of_toNat_eq hm : m = 0x01); exact isWordOf_alu fields
  case h_2 => cases (BitVec.eq_of_toNat_eq hm : m = 0x02); exact isWordOf_aluImm fields
  case h_19 => cases (BitVec.eq_of_toNat_eq hm : m = 0x1A); exact isWordOf_sendq fields
  case h_24 => cases (BitVec.eq_of_toNat_eq hm : m = 0x2A); exact isWordOf_atomg fields
  case h_25 => cases (BitVec.eq_of_toNat_eq hm : m = 0x30); exact isWordOf_talloc fields
  case h_36 => cases (BitVec.eq_of_toNat_eq hm : m = 0x41); exact isWordOf_rstop fields
  case h_41 => cases (BitVec.eq_of_toNat_eq hm : m = 0x49); exact isWordOf_waitt fields
  case h_42 => cases (BitVec.eq_of_toNat_eq hm : m = 0x4A); exact isWordOf_fence fields
  case h_47 => cases (BitVec.eq_of_toNat_eq hm : m = 0x50); exact isWordOf_safept fields
  case h_54 => cases (BitVec.eq_of_toNat_eq hm : m = 0x57); exact isWordOf_cinv fields
  case h_5 => -- SEL
    obtain ⟨zero, x, hx, rfl⟩ := h
    exact .intro rfl rfl hm (by simp [zero, hx])
  case h_6 | h_7 => -- SETP, SETPI
    obtain ⟨zero, x, hx, y, hy, rfl⟩ := h
    exact .intro rfl rfl hm (by simp [zero, hx, hy])
  case h_8 => -- PLOG
    obtain ⟨⟨hi, hf⟩, x, hd, y, ha, z, hb, rfl⟩ := h
    exact .intro rfl rfl hm ⟨hd.symm, ha.symm, hb.symm, append_eq_iff.mpr ⟨extractLsb'_eq_ofBool_iff.mpr hf, rfl⟩, hi.symm⟩
  case h_9 | h_11 => -- BR, CALL
    obtain ⟨zero, wf, rfl⟩ := h
    exact .intro wf rfl hm (by simp [zero])
  case h_13 => -- LOOP
    obtain ⟨zero, hd, wf, rfl⟩ := h
    exact .intro (by simpa [Instr.wf, wf, regOf_eq_zero_iff] using hd) rfl hm (by simp [zero])
  case h_20 => -- LD
    obtain ⟨⟨hb, hf⟩, x, hx, rfl⟩ := h
    exact .intro rfl rfl hm ⟨regBits_regOf _, regBits_regOf _, hb.symm, append_eq_iff.mpr ⟨hf, hx⟩, rfl⟩
  case h_21 => -- ST
    obtain ⟨⟨hb, hf⟩, rfl⟩ := h
    exact .intro rfl rfl hm ⟨regBits_regOf _, regBits_regOf _, hb.symm, append_eq_iff.mpr ⟨hf, (code_sizeOfCode _).symm⟩, rfl⟩
  case h_22 => -- LDG
    obtain ⟨hf, x, hx, y, hy, z, hz, rfl⟩ := h
    exact .intro rfl rfl hm ⟨regBits_regOf _, regBits_regOf _, append_eq_iff.mpr ⟨hz, hy⟩, append_eq_iff.mpr ⟨hf, hx⟩, rfl⟩
  case h_23 => -- STG
    obtain ⟨hf, x, hx, y, hy, rfl⟩ := h
    exact .intro rfl rfl hm
      ⟨regBits_regOf _, regBits_regOf _, append_eq_iff.mpr ⟨hy, hx⟩, append_eq_iff.mpr ⟨hf, (code_sizeOfCode _).symm⟩, rfl⟩
  case h_28 => -- TLOAD
    obtain ⟨hf, x, hx, rfl⟩ := h
    exact .intro rfl rfl hm ⟨regBits_regOf _, regBits_regOf _, regBits_regOf _, append_eq_iff.mpr ⟨hf, hx⟩, rfl⟩
  case h_29 => -- TSTORE
    obtain ⟨hf, rfl⟩ := h
    exact .intro rfl rfl hm
      ⟨regBits_regOf _, regBits_regOf _, regBits_regOf _, append_eq_iff.mpr ⟨hf, (code_sizeOfCode _).symm⟩, rfl⟩
  case h_30 => -- TXFER
    obtain ⟨⟨⟨hb, hf⟩, hi⟩, x, hx, mode, rfl⟩ := h
    exact .intro mode rfl hm ⟨regBits_regOf _, regBits_regOf _, hb.symm, hf.symm, txWord_bits_eq_iff.mpr ⟨hi, hx⟩⟩
  case h_31 => -- DRAW
    obtain ⟨⟨hf, hi⟩, wf, rfl⟩ := h
    exact .intro wf rfl hm ⟨regBits_regOf _, regBits_regOf _, regBits_regOf _, hf.symm, append_eq_iff.mpr ⟨hi, rfl⟩⟩
  case h_32 => -- DRAWS
    obtain ⟨⟨hd, hf⟩, wf, rfl⟩ := h
    exact .intro wf rfl hm ⟨hd.symm, regBits_regOf _, regBits_regOf _, append_eq_iff.mpr ⟨hf, (ofNat_toNat_self _).symm⟩,
      append_eq_iff.mpr ⟨(regBits_regOf _).symm, rfl⟩⟩
  case h_33 => -- SEND
    obtain ⟨⟨⟨hd, hf⟩, hi⟩, sc, hsc, rfl⟩ := h
    exact .intro rfl rfl hm ⟨hd.symm, regBits_regOf _, regBits_regOf _, hf.symm,
      send_bits_eq_iff.mpr ⟨(regBits_regOf _).symm, hi, rfl, rfl, hsc⟩⟩
  case h_34 => -- COPYM
    obtain ⟨⟨⟨hd, hf⟩, hi⟩, x, hx, rfl⟩ := h
    exact .intro rfl rfl hm ⟨hd.symm, regBits_regOf _, regBits_regOf _, hf.symm,
      append_append_eq_iff.mpr ⟨(regBits_regOf _).symm, hi, hx⟩⟩
  case h_40 => -- WAIT
    obtain ⟨⟨⟨⟨⟨hd, ha⟩, hb⟩, hf⟩, hi⟩, rfl⟩ := h
    exact .intro rfl rfl hm ⟨hd.symm, ha.symm, hb.symm, hf.symm, wait_bits_eq_iff.mpr ⟨hi, rfl⟩⟩
  case h_50 => -- FWCALL
    obtain ⟨⟨⟨hb, hf⟩, hi⟩, rfl⟩ := h
    exact .intro rfl rfl hm ⟨regBits_regOf _, regBits_regOf _, hb.symm, hf.symm, append_eq_iff.mpr ⟨hi, rfl⟩⟩
  case h_52 | h_53 => -- CRD, CWR
    obtain ⟨zero, x, hx, rfl⟩ := h
    exact .intro rfl rfl hm (by simp [zero, append_eq_iff.mp hx])
  case h_55 => -- ILOAD
    obtain ⟨⟨⟨⟨hd, hb⟩, hf⟩, hi⟩, low, rfl⟩ := h
    exact .intro rfl rfl hm ⟨hd.symm, regBits_regOf _, hb.symm, hf.symm, append_append_eq_iff.mpr ⟨hi, rfl, low⟩⟩

end

/-! ### From instructions to fields -/

section
variable {i : Instr} {g : Guard} {w : BitVec 64}

/-- A word written with these fields decodes to what the fields decode to. -/
theorem decodeSeq_of_fields {m : BitVec 8} {d a b fn : BitVec 5} {imm : BitVec 32} (enc : some (seqWord m g d a b fn imm) = some w)
    (major : m ≠ 0) (dec : decodeFields ⟨m, g, d, a, b, fn, imm⟩ = .ok i) : decodeSeq w = .ok i := by
  cases enc
  have fields : seqFields (seqWord m g d a b fn imm) = ⟨m, g, d, a, b, fn, imm⟩ := seqFields_word _
  have nonzero : seqWord m g d a b fn imm ≠ 0 := fun h => major (by rw [h] at fields; exact (congrArg SeqFields.major fields).symm)
  rw [decodeSeq, if_neg nonzero, fields, dec]

theorem decodeFields_alu {n : BitVec 5} {op : Guard → Reg → Reg → Reg → Instr} (h : aluOf n.toNat = some op) (d a b : Reg) :
    decodeFields ⟨0x01, g, regBits d, regBits a, regBits b, n, 0⟩ = .ok (op g d a b) := by
  have clz : n ≠ 20#5 := by rintro rfl; cases h
  have popc : n ≠ 21#5 := by rintro rfl; cases h
  change need _ _ _ = _
  simp [need, field, clz, popc, h]

theorem decodeFields_aluImm {n : BitVec 5} {op : Guard → Reg → Reg → BitVec 32 → Instr} (h : aluImmOf n.toNat = some op) (d a : Reg)
    (imm : BitVec 32) : decodeFields ⟨0x02, g, regBits d, regBits a, 0, n, imm⟩ = .ok (op g d a imm) := by
  have clz : n ≠ 20#5 := by rintro rfl; cases h
  have popc : n ≠ 21#5 := by rintro rfl; cases h
  change need _ _ _ = _
  simp [need, field, clz, popc, h]

theorem asize_of_bit {sz : ASize} {v : BitVec 5} (h : v.extractLsb' 4 1 = sz.bit) : (if v.getLsbD 4 then ASize.d else .w) = sz := by
  rw [asize_bit_eq] at h
  revert h
  cases sz <;> split <;> simp [ASize.bit]

theorem decodeFields_atomg {n : BitVec 4} {op : Guard → ASize → Order → SScope → Reg → Reg → Reg → Instr} (h : atomOf n.toNat = some op)
    (sz : ASize) (o : Order) (sc : SScope) (d a b : Reg) :
    decodeFields ⟨0x2A, g, regBits d, regBits a, regBits b, sz.bit ++ n, (0 : BitVec 5) ++ (0 : BitVec 22) ++ sc.code ++ o.code⟩
      = .ok (op g sz o sc d a b) := by
  have cas : n ≠ 9 := by rintro rfl; cases h
  generalize imm_eq : (0 : BitVec 5) ++ (0 : BitVec 22) ++ sc.code ++ o.code = imm
  obtain ⟨hc, hi, hsc, ho⟩ := atom_bits_eq_iff.mp imm_eq
  generalize fn_eq : sz.bit ++ n = fn
  obtain ⟨size, code⟩ := append_eq_iff.mp fn_eq
  change need _ _ _ = _
  simp only [need_eq_ok, field_eq_ok, asize_of_bit size, code, cas, if_false]
  refine ⟨beq_iff_eq.mpr hi, o, orderOfCode_eq_some.mpr ho, sc, sscopeOfCode_eq_some.mpr hsc, op, h, beq_iff_eq.mpr hc, ?_⟩
  simp

/-- The word of an instruction that its encoding admits decodes to it. -/
theorem decodeSeq_of_encodeSeq (wf : i.wf = true) (enc : encodeSeq i = some w) : decodeSeq w = .ok i := by
  cases i with
  | add g d a b | sub g d a b | mul g d a b | mulh g d a b | mulhn g d a b | div g d a b | divn g d a b | rem g d a b | remn g d a b
  | and g d a b | or g d a b | xor g d a b | andn g d a b | shl g d a b | shr g d a b | sar g d a b | min g d a b | minn g d a b
  | max g d a b | maxn g d a b | sext g d a b | zext g d a b =>
    exact decodeSeq_of_fields enc (by decide) (decodeFields_alu rfl d a b)
  | addImm g d a imm | subImm g d a imm | mulImm g d a imm | mulhImm g d a imm | mulhnImm g d a imm | divImm g d a imm
  | divnImm g d a imm | remImm g d a imm | remnImm g d a imm | andImm g d a imm | orImm g d a imm | xorImm g d a imm
  | andnImm g d a imm | shlImm g d a imm | shrImm g d a imm | sarImm g d a imm | minImm g d a imm | minnImm g d a imm
  | maxImm g d a imm | maxnImm g d a imm | sextImm g d a imm | zextImm g d a imm =>
    exact decodeSeq_of_fields enc (by decide) (decodeFields_aluImm rfl d a imm)
  | clz | clzImm | popc | popcImm | li | lui | sel | setp | setpi | brx | ret | tend | yield | nop | waitch | recv | tallocReg | tseal | tstat
  | run | rstopSafe | rstopNow | rswap | resume | glaunch | gjoin | gleave | garr | gwait | trap | eret | rdts | cinvCfg | cinvCode =>
    refine decodeSeq_of_fields enc (by decide) ?_
    change need _ _ _ = _
    simp
  | br g o | call g o =>
    have wf : offWf o = true := wf
    refine decodeSeq_of_fields enc (by decide) ?_
    change need _ _ _ = _
    simp [wf]
  | loop g d o =>
    refine decodeSeq_of_fields enc (by decide) ?_
    simp only [Instr.wf, Bool.and_eq_true, bne_iff_ne] at wf
    obtain ⟨offset, counter⟩ := wf
    have counter : regBits d ≠ 0 := fun h => counter (by rw [← regOf_regBits d, h]; rfl)
    change need _ _ _ = _
    simpa [offset] using counter
  | atomgAdd g sz o sc d a b | atomgMin g sz o sc d a b | atomgMax g sz o sc d a b | atomgMinn g sz o sc d a b | atomgMaxn g sz o sc d a b
  | atomgAnd g sz o sc d a b | atomgOr g sz o sc d a b | atomgXor g sz o sc d a b | atomgXchg g sz o sc d a b =>
    exact decodeSeq_of_fields enc (by decide) (decodeFields_atomg rfl sz o sc d a b)
  | atomgCas g sz o sc d a b c =>
    refine decodeSeq_of_fields enc (by decide) ?_
    generalize imm_eq : regBits c ++ (0 : BitVec 22) ++ sc.code ++ o.code = imm
    generalize fn_eq : sz.bit ++ (9 : BitVec 4) = fn
    obtain ⟨hc, hi, hsc, ho⟩ := atom_bits_eq_iff.mp imm_eq
    obtain ⟨size, cas⟩ := append_eq_iff.mp fn_eq
    change need _ _ _ = _
    simp only [need_eq_ok, field_eq_ok, asize_of_bit size, cas, if_true, hc]
    exact ⟨beq_iff_eq.mpr hi, o, orderOfCode_eq_some.mpr ho, sc, sscopeOfCode_eq_some.mpr hsc, by simp⟩
  | sendq g k a ep =>
    refine decodeSeq_of_fields enc (by decide) ?_
    generalize imm_eq : (0 : BitVec 13) ++ k.level ++ ep = imm
    generalize fn_eq : (0 : BitVec 1) ++ k.code ++ (0 : BitVec 1) = fn
    obtain ⟨hi, level, endpoint⟩ := append_append_eq_iff.mp imm_eq
    obtain ⟨top, code, form⟩ := append_append_eq_iff.mp fn_eq
    have top : fn.getLsbD 4 = false := extractLsb'_eq_ofBool_iff.mp top
    have form : fn.getLsbD 0 = false := extractLsb'_eq_ofBool_iff.mp form
    have wf : endpointWf ep = true := wf
    change need _ _ _ = _
    simp only [need_eq_ok, field_eq_ok, top, form]
    exact ⟨by simp [hi], k, sendKindOf_eq_some.mpr ⟨code, level⟩, by simp [endpoint, wf]⟩
  | sendqReg g k a b =>
    refine decodeSeq_of_fields enc (by decide) ?_
    generalize imm_eq : (0 : BitVec 13) ++ k.level ++ (0 : BitVec 16) = imm
    generalize fn_eq : (0 : BitVec 1) ++ k.code ++ (1 : BitVec 1) = fn
    obtain ⟨hi, level, low⟩ := append_append_eq_iff.mp imm_eq
    obtain ⟨top, code, form⟩ := append_append_eq_iff.mp fn_eq
    have top : fn.getLsbD 4 = false := extractLsb'_eq_ofBool_iff.mp top
    have form : fn.getLsbD 0 = true := extractLsb'_eq_ofBool_iff.mp form
    change need _ _ _ = _
    simp only [need_eq_ok, field_eq_ok, top, form]
    exact ⟨by simp [hi], k, sendKindOf_eq_some.mpr ⟨code, level⟩, by simp [low]⟩
  | talloc g d desc =>
    refine decodeSeq_of_fields enc (by decide) ?_
    generalize imm_eq : (0 : BitVec 5) ++ desc = imm
    obtain ⟨hi, low⟩ := append_eq_iff.mp imm_eq
    have wf : descWf desc = true := wf
    change need _ _ _ = _
    simp [hi, low, wf]
  | txfer g d a x =>
    refine decodeSeq_of_fields enc (by decide) ?_
    obtain ⟨zero, hx⟩ := txWord_bits_eq_iff.mp (rfl : x.bits = _)
    change need _ _ _ = _
    simpa [zero, hx] using bne_iff_ne.mp wf
  | plog g p pa pb t =>
    refine decodeSeq_of_fields enc (by decide) ?_
    generalize fn_eq : (0 : BitVec 1) ++ t = fn
    obtain ⟨zero, table⟩ := append_eq_iff.mp fn_eq
    have zero : fn.getLsbD 4 = false := extractLsb'_eq_ofBool_iff.mp zero
    change need _ _ _ = _
    simp only [need_eq_ok, field_eq_ok, zero, table]
    simp
  | ld g sz | tload g sz =>
    refine decodeSeq_of_fields enc (by decide) ?_
    generalize fn_eq : (0 : BitVec 2) ++ sz.code = fn
    obtain ⟨zero, size⟩ := append_eq_iff.mp fn_eq
    change need _ _ _ = _
    simp [zero, size]
  | st g sz | tstore g sz =>
    refine decodeSeq_of_fields enc (by decide) ?_
    generalize fn_eq : (0 : BitVec 3) ++ sz.code = fn
    obtain ⟨zero, size⟩ := append_eq_iff.mp fn_eq
    change need _ _ _ = _
    simp [zero, size]
  | ldg g sz o sc =>
    refine decodeSeq_of_fields enc (by decide) ?_
    generalize fn_eq : (0 : BitVec 2) ++ sz.code = fn
    generalize b_eq : sc.code ++ o.code = b
    obtain ⟨zero, size⟩ := append_eq_iff.mp fn_eq
    obtain ⟨scope, order⟩ := append_eq_iff.mp b_eq
    change need _ _ _ = _
    simp [zero, size, scope, order]
  | stg g sz o sc =>
    refine decodeSeq_of_fields enc (by decide) ?_
    generalize fn_eq : (0 : BitVec 3) ++ sz.code = fn
    generalize b_eq : sc.code ++ o.code = b
    obtain ⟨zero, size⟩ := append_eq_iff.mp fn_eq
    obtain ⟨scope, order⟩ := append_eq_iff.mp b_eq
    change need _ _ _ = _
    simp [zero, size, scope, order]
  | crd g d cr | cwr g cr =>
    refine decodeSeq_of_fields enc (by decide) ?_
    have code : cr.code.extractLsb' 5 5 ++ cr.code.extractLsb' 0 5 = cr.code := append_eq_iff.mpr ⟨rfl, rfl⟩
    change need _ _ _ = _
    simp [code]
  | iload g a x =>
    refine decodeSeq_of_fields enc (by decide) ?_
    generalize imm_eq : (0 : BitVec 16) ++ x ++ (0 : BitVec 3) = imm
    obtain ⟨hi, dst, low⟩ := append_append_eq_iff.mp imm_eq
    change need _ _ _ = _
    simp [hi, dst, low]
  | wait g x =>
    refine decodeSeq_of_fields enc (by decide) ?_
    generalize imm_eq : (0 : BitVec 2) ++ x.ld ++ x.st ++ x.dr ++ x.sr ++ x.sv ++ x.rn = imm
    obtain ⟨zero, counters⟩ := wait_bits_eq_iff.mp imm_eq
    change need _ _ _ = _
    simp [zero, counters]
  | copym g a b c sc =>
    refine decodeSeq_of_fields enc (by decide) ?_
    generalize imm_eq : regBits c ++ (0 : BitVec 25) ++ sc.code = imm
    obtain ⟨count, zero, scope⟩ := append_append_eq_iff.mp imm_eq
    change need _ _ _ = _
    simp [count, zero, scope]
  | send g a b c sl v sc =>
    refine decodeSeq_of_fields enc (by decide) ?_
    generalize imm_eq : regBits c ++ (0 : BitVec 21) ++ bits3 sl ++ BitVec.ofBool v ++ sc.code = imm
    obtain ⟨count, zero, slot, valid, scope⟩ := send_bits_eq_iff.mp imm_eq
    change need _ _ _ = _
    simp only [need_eq_ok, field_eq_ok, count, slot, valid]
    exact ⟨by simp [zero], sc, sscopeOfCode_eq_some.mpr scope, by simp⟩
  | fenceAcq g sc | fenceAr g sc | fenceRel g sc | fenceOrd g sc =>
    refine decodeSeq_of_fields enc (by decide) ?_
    change need _ _ _ = _
    cases sc <;> simp [need, SScope.code]
  | safept g regs preds stub =>
    refine decodeSeq_of_fields enc (by decide) ?_
    generalize b_eq : (stub.getD 0).extractLsb' 0 3 ++ preds.extractLsb' 5 2 = b
    generalize imm_eq : regs ++ BitVec.ofBool stub.isSome = imm
    obtain ⟨stubLow, predsHigh⟩ := append_eq_iff.mp b_eq
    obtain ⟨live, some⟩ := append_eq_iff.mp imm_eq
    have stub_eq : (stub.getD 0).extractLsb' 8 5 ++ (stub.getD 0).extractLsb' 3 5 ++ b.extractLsb' 2 3 = stub.getD 0 :=
      append_append_eq_iff.mpr ⟨rfl, rfl, stubLow.symm⟩
    have preds_eq : b.extractLsb' 0 2 ++ preds.extractLsb' 0 5 = preds := append_eq_iff.mpr ⟨predsHigh.symm, rfl⟩
    rw [decodeFields_safept, live, stub_eq, preds_eq, extractLsb'_eq_ofBool_iff.mp some]
    cases stub <;> rfl
  | waitt g a st =>
    refine decodeSeq_of_fields enc (by decide) ?_
    change need _ _ _ = _
    fin_cases st <;> simp
  | fwcall g d a v =>
    refine decodeSeq_of_fields enc (by decide) ?_
    generalize imm_eq : (0 : BitVec 16) ++ v = imm
    obtain ⟨zero, service⟩ := append_eq_iff.mp imm_eq
    change need _ _ _ = _
    simp [zero, service]
  | draw g d a b x =>
    refine decodeSeq_of_fields enc (by decide) ?_
    generalize imm_eq : (0 : BitVec 5) ++ x = imm
    obtain ⟨zero, desc⟩ := append_eq_iff.mp imm_eq
    have wf : drawDescWf x = true := wf
    change need _ _ _ = _
    simp [zero, desc, wf]
  | draws g a b c dim x =>
    refine decodeSeq_of_fields enc (by decide) ?_
    generalize imm_eq : regBits c ++ x = imm
    generalize fn_eq : (0 : BitVec 3) ++ BitVec.ofNat 2 dim.val = fn
    obtain ⟨count, desc⟩ := append_eq_iff.mp imm_eq
    obtain ⟨zero, dims⟩ := append_eq_iff.mp fn_eq
    have wf : drawDescWf x = true := wf
    change need _ _ _ = _
    simp only [need_eq_ok, count, desc, dims, wf]
    exact ⟨by simp [zero], by simp⟩
  | _ => cases enc

end

/-- Settles O54: what a word decodes to has that word, arm by arm of the decoder, and the word of an instruction decodes to it, instruction by
instruction. -/
theorem sequencerWordsRoundTrip : Obligations.SequencerWordsRoundTrip := by
  unfold Obligations.SequencerWordsRoundTrip
  refine fun i w => ⟨fun h => ?_, fun ⟨wf, enc⟩ => decodeSeq_of_encodeSeq wf enc⟩
  have fields : decodeFields (seqFields w) = .ok i := by
    unfold decodeSeq at h
    split at h
    · cases h
    · exact h
  obtain ⟨wf, enc⟩ := isWordOf_of_decodeFields fields
  exact ⟨wf, word_seqFields w ▸ enc⟩

end Sys2Proof
end

section
/-! PROOF. The decoder and the encoder of frames (O55): the bits of a frame field by field, then each class. -/
namespace Sys2Proof

/-! ### Results that are no rejection -/

theorem bind_eq_ok {α β ε : Type} {x : Except ε α} {k : α → Except ε β} {v : β} : (x >>= k) = .ok v ↔ ∃ y, x = .ok y ∧ k y = .ok v := by
  cases x with
  | error e => simp [bind, Except.bind]
  | ok a => simp [bind, Except.bind]

theorem map_eq_ok {ε α β : Type} {x : Except ε α} {g : α → β} {v : β} : x.map g = .ok v ↔ ∃ y, x = .ok y ∧ g y = v := by
  cases x <;> simp [Except.map]

/-! ### Codes and bits of single fields (R60, R68, R96 to R104) -/

theorem extractLsb'_eq_zero_iff {k i : Nat} {x : BitVec k} : x.extractLsb' i 1 = 0 ↔ x.getLsbD i = false :=
  extractLsb'_eq_ofBool_iff (b := false)

theorem eq_ofNat_iff {k n : Nat} {v : BitVec k} (h : n < 2 ^ k) : v = BitVec.ofNat k n ↔ v.toNat = n := by
  rw [← BitVec.toNat_inj, BitVec.toNat_ofNat, Nat.mod_eq_of_lt h]

theorem tyOfCode_eq_some {v t} : tyOfCode v = some t ↔ v = Ty.code t :=
  eq_some_iff_eq_code (by decide) (by rintro ⟨⟩ <;> rfl)

theorem rmOfCode_eq_some {v t} : rmOfCode v = some t ↔ v = Rm.code t :=
  eq_some_iff_eq_code (by decide) (by rintro ⟨⟩ <;> rfl)

theorem stopOfCode_eq_some {v t} : stopOfCode v = some t ↔ v = StopAct.code t :=
  eq_some_iff_eq_code (by decide) (by rintro ⟨⟩ <;> rfl)

theorem agModeOfCode_eq_some {v t} : agModeOfCode v = some t ↔ v = AGMode.code t :=
  eq_some_iff_eq_code (by decide) (by rintro ⟨⟩ <;> rfl)

theorem scopeOfCode_eq_iff {v t} : scopeOfCode v = t ↔ v = Scope.code t := by
  cases t <;> revert v <;> decide

theorem srcOfCode_eq_some {v t} : srcOfCode v = some t ↔ v = Src.code t := by
  refine eq_some_iff_eq_code (by decide) ?_
  rintro (n | n | n | _ | _ | n | _)
  case imm | zero | unused => rfl
  all_goals
    revert n
    decide

theorem dstOfCode_eq_some {v t} : dstOfCode v = some t ↔ v = Dst.code t := by
  refine eq_some_iff_eq_code (by decide) ?_
  rintro (n | n | n | n | _)
  case none => rfl
  all_goals
    revert n
    decide

theorem psrcOfCode_eq_some {v t} : psrcOfCode v = some t ↔ v = PSrc.code t := by
  refine eq_some_iff_eq_code (by decide) ?_
  rintro (n | n | n | _)
  case none => rfl
  all_goals
    revert n
    decide

theorem pdstOfCode_eq_some {v t} : pdstOfCode v = some t ↔ v = PDst.code t := by
  refine eq_some_iff_eq_code (by decide) ?_
  rintro (n | n | n | n | _)
  case none => rfl
  all_goals
    revert n
    decide

theorem sndstOfCode_eq_some {v t} : sndstOfCode v = some t ↔ v = SNDst.code t := by
  refine eq_some_iff_eq_code (by decide) ?_
  rintro (n | n | n | _)
  case none => rfl
  all_goals
    revert n
    decide

theorem portOf_eq_ok {v p} : portOf v = .ok p ↔ Port.bits p = v := by
  obtain ⟨src, hold, neg, abs, bcast, lane⟩ := p
  unfold Port.bits portOf
  rw [append_eq_iff]
  simp only [eq_append_iff]
  simp only [need_eq_ok, field_eq_ok, srcOfCode_eq_some, Except.ok.injEq, Port.mk.injEq, extractLsb'_extractLsb', Nat.reduceAdd,
    Nat.reduceLeDiff, extractLsb'_eq_ofBool_iff, extractLsb'_eq_zero_iff, ↓existsAndEq, true_and, beq_iff_eq, and_assoc]
  simp only [and_comm, and_left_comm, and_assoc]

theorem outOf_eq_ok {v o} : outOf v = .ok o ↔ OutF.bits o = v := by
  obtain ⟨dst, stop⟩ := o
  unfold OutF.bits outOf
  rw [append_append_eq_iff]
  simp only [need_eq_ok, field_eq_ok, dstOfCode_eq_some, stopOfCode_eq_some, Except.ok.injEq, OutF.mk.injEq, ↓existsAndEq, beq_iff_eq,
    and_true, Nat.reduceAdd]
  exact and_left_comm

/-! ### The bits of a frame, field by field (R90 to R104) -/

theorem addr_eq_iff {w : Frame} {cls : BitVec 4} {index slot : Nat} (hi : index < 32) (hs : slot < 8) :
    w.extractLsb' 240 16 = addrBits cls index slot ↔ w.extractLsb' 252 4 = cls ∧ (w.extractLsb' 247 5).toNat = index
      ∧ (w.extractLsb' 244 3).toNat = slot ∧ w.extractLsb' 240 4 = 0 := by
  unfold addrBits
  rw [eq_comm, append_eq_iff]
  simp only [eq_append_iff]
  simp only [extractLsb'_extractLsb', Nat.reduceAdd, Nat.reduceLeDiff, eq_ofNat_iff (k := 5) hi, eq_ofNat_iff (k := 3) hs, and_assoc]

theorem CCFrame.bits_eq_iff {f : CCFrame} {op : BitVec 10} {w : Frame} : f.bits op = w ↔
    w.extractLsb' 240 16 = addrBits 1 f.cell.val f.stage.val ∧ w.extractLsb' 230 10 = op ∧ w.extractLsb' 226 4 = f.ty.code
      ∧ w.extractLsb' 204 22 = f.a.bits ∧ w.extractLsb' 182 22 = f.b.bits ∧ w.extractLsb' 160 22 = f.c.bits
      ∧ w.extractLsb' 144 16 = f.oa.bits ∧ w.extractLsb' 128 16 = f.ob.bits ∧ w.extractLsb' 122 6 = f.pin.code
      ∧ w.getLsbD 121 = f.psense ∧ w.getLsbD 120 = false ∧ w.extractLsb' 113 7 = f.pout.code ∧ w.extractLsb' 110 3 = f.rm.code
      ∧ w.getLsbD 109 = f.sat ∧ w.getLsbD 108 = f.stats ∧ w.extractLsb' 103 5 = f.silt ∧ w.extractLsb' 100 3 = f.level
      ∧ w.extractLsb' 96 4 = f.flags ∧ w.extractLsb' 32 64 = f.imm ∧ w.extractLsb' 0 32 = f.ext := by
  unfold CCFrame.bits
  rw [append_eq_iff]
  simp only [eq_append_iff]
  simp only [extractLsb'_extractLsb', Nat.reduceAdd, Nat.reduceLeDiff, extractLsb'_eq_ofBool_iff, extractLsb'_eq_zero_iff, and_assoc]

theorem MCFrame.bits_eq_iff {f : MCFrame} {op : BitVec 10} {w : Frame} : f.bits op = w ↔
    w.extractLsb' 240 16 = addrBits 2 f.cell.val 0 ∧ w.extractLsb' 230 10 = op ∧ w.extractLsb' 226 4 = f.ty.code
      ∧ w.extractLsb' 206 20 = f.handle ∧ w.getLsbD 205 = f.fromC
      ∧ w.extractLsb' 183 22 = f.a.bits ∧ w.extractLsb' 161 22 = f.b.bits ∧ w.extractLsb' 139 22 = f.c.bits
      ∧ w.extractLsb' 123 16 = f.oa.bits ∧ w.extractLsb' 107 16 = f.ob.bits ∧ w.extractLsb' 101 6 = f.pin.code
      ∧ w.getLsbD 100 = f.psense ∧ w.getLsbD 99 = false ∧ w.extractLsb' 92 7 = f.pout.code ∧ w.getLsbD 91 = f.consume
      ∧ w.extractLsb' 88 3 = f.level ∧ w.extractLsb' 86 2 = f.scope.code ∧ w.extractLsb' 82 4 = f.subop ∧ w.getLsbD 81 = f.sat
      ∧ w.getLsbD 80 = f.sealEnd ∧ w.extractLsb' 75 5 = f.silt ∧ w.getLsbD 74 = f.stats ∧ w.extractLsb' 10 64 = f.imm
      ∧ w.extractLsb' 0 10 = 0 := by
  unfold MCFrame.bits
  rw [append_eq_iff]
  simp only [eq_append_iff]
  simp only [extractLsb'_extractLsb', Nat.reduceAdd, Nat.reduceLeDiff, extractLsb'_eq_ofBool_iff, extractLsb'_eq_zero_iff, and_assoc]

theorem AGFrame.bits_eq_iff {f : AGFrame} {w : Frame} : f.bits = w ↔
    w.extractLsb' 240 16 = addrBits 2 f.cell.val 1 ∧ w.extractLsb' 236 4 = f.mode.code ∧ w.extractLsb' 232 4 = BitVec.ofNat 4 f.dims.val
      ∧ w.extractLsb' 216 16 = f.d3.count ∧ w.extractLsb' 192 24 = f.d3.stride ∧ w.extractLsb' 176 16 = f.d2.count
      ∧ w.extractLsb' 152 24 = f.d2.stride ∧ w.extractLsb' 136 16 = f.d1.count ∧ w.extractLsb' 112 24 = f.d1.stride
      ∧ w.extractLsb' 96 16 = f.d0.count ∧ w.extractLsb' 72 24 = f.d0.stride ∧ w.extractLsb' 40 32 = f.base
      ∧ w.extractLsb' 37 3 = f.d3.stop ∧ w.extractLsb' 34 3 = f.d2.stop ∧ w.extractLsb' 31 3 = f.d1.stop ∧ w.extractLsb' 28 3 = f.d0.stop
      ∧ w.getLsbD 27 = f.d3.argEn ∧ w.getLsbD 26 = f.d3.argSel ∧ w.getLsbD 25 = f.d2.argEn ∧ w.getLsbD 24 = f.d2.argSel
      ∧ w.getLsbD 23 = f.d1.argEn ∧ w.getLsbD 22 = f.d1.argSel ∧ w.getLsbD 21 = f.d0.argEn ∧ w.getLsbD 20 = f.d0.argSel
      ∧ w.extractLsb' 0 20 = 0 := by
  unfold AGFrame.bits
  rw [append_eq_iff]
  simp only [eq_append_iff]
  simp only [extractLsb'_extractLsb', Nat.reduceAdd, Nat.reduceLeDiff, extractLsb'_eq_ofBool_iff, and_assoc]

theorem SWFrame.bits_eq_iff {f : SWFrame} {op : BitVec 10} {w : Frame} : f.bits op = w ↔
    w.extractLsb' 240 16 = addrBits 3 f.index.val 0 ∧ w.extractLsb' 230 10 = op ∧ w.extractLsb' 226 4 = f.ty.code
      ∧ w.extractLsb' 220 6 = f.ins[7].code ∧ w.extractLsb' 214 6 = f.ins[6].code ∧ w.extractLsb' 208 6 = f.ins[5].code
      ∧ w.extractLsb' 202 6 = f.ins[4].code ∧ w.extractLsb' 196 6 = f.ins[3].code ∧ w.extractLsb' 190 6 = f.ins[2].code
      ∧ w.extractLsb' 184 6 = f.ins[1].code ∧ w.extractLsb' 178 6 = f.ins[0].code ∧ w.extractLsb' 156 22 = f.idx.bits
      ∧ w.extractLsb' 140 16 = f.outs[7].bits ∧ w.extractLsb' 124 16 = f.outs[6].bits ∧ w.extractLsb' 108 16 = f.outs[5].bits
      ∧ w.extractLsb' 92 16 = f.outs[4].bits ∧ w.extractLsb' 76 16 = f.outs[3].bits ∧ w.extractLsb' 60 16 = f.outs[2].bits
      ∧ w.extractLsb' 44 16 = f.outs[1].bits ∧ w.extractLsb' 28 16 = f.outs[0].bits ∧ w.extractLsb' 24 4 = f.flags
      ∧ w.extractLsb' 21 3 = f.level ∧ w.extractLsb' 0 21 = 0 := by
  unfold SWFrame.bits
  rw [append_eq_iff]
  simp only [eq_append_iff]
  simp only [extractLsb'_extractLsb', Nat.reduceAdd, Nat.reduceLeDiff, and_assoc]

theorem PNFrame.bits_eq_iff {f : PNFrame} {op : BitVec 10} {w : Frame} : f.bits op = w ↔
    w.extractLsb' 240 16 = addrBits 4 f.index.val 0 ∧ w.extractLsb' 230 10 = op ∧ w.extractLsb' 226 4 = 0
      ∧ w.extractLsb' 220 6 = f.in2.code ∧ w.getLsbD 219 = f.sense2 ∧ w.extractLsb' 213 6 = f.in1.code ∧ w.getLsbD 212 = f.sense1
      ∧ w.extractLsb' 206 6 = f.in0.code ∧ w.getLsbD 205 = f.sense0 ∧ w.extractLsb' 197 8 = f.table
      ∧ w.extractLsb' 190 7 = f.out3.code ∧ w.extractLsb' 183 7 = f.out2.code ∧ w.extractLsb' 176 7 = f.out1.code
      ∧ w.extractLsb' 169 7 = f.out0.code ∧ w.extractLsb' 166 3 = f.level ∧ w.extractLsb' 160 6 = 0 ∧ w.extractLsb' 128 32 = f.pattern
      ∧ w.extractLsb' 123 5 = f.plen ∧ w.extractLsb' 0 123 = 0 := by
  unfold PNFrame.bits
  rw [append_eq_iff]
  simp only [eq_append_iff]
  simp only [extractLsb'_extractLsb', Nat.reduceAdd, Nat.reduceLeDiff, extractLsb'_eq_ofBool_iff, and_assoc]

theorem SNFrame.bits_eq_iff {f : SNFrame} {op : BitVec 10} {w : Frame} : f.bits op = w ↔
    w.extractLsb' 240 16 = addrBits 5 f.index.val 0 ∧ w.extractLsb' 230 10 = op ∧ w.extractLsb' 226 4 = 0
      ∧ w.extractLsb' 219 7 = f.dst.code ∧ w.extractLsb' 214 5 = f.inputs ∧ w.extractLsb' 194 20 = f.handle ∧ w.getLsbD 193 = f.mode
      ∧ w.extractLsb' 187 6 = f.row ∧ w.extractLsb' 0 187 = 0 := by
  unfold SNFrame.bits
  rw [append_eq_iff]
  simp only [eq_append_iff]
  simp only [extractLsb'_extractLsb', Nat.reduceAdd, Nat.reduceLeDiff, extractLsb'_eq_ofBool_iff, and_assoc]

theorem HDFrame.bits_eq_iff {f : HDFrame} {w : Frame} : f.bits = w ↔
    w.extractLsb' 240 16 = addrBits 0 0 0 ∧ w.extractLsb' 228 12 = f.vs ∧ w.extractLsb' 225 3 = f.round ∧ w.extractLsb' 222 3 = f.safe
      ∧ w.getLsbD 221 = f.first ∧ w.getLsbD 220 = f.last ∧ w.getLsbD 219 = f.stateful ∧ w.extractLsb' 203 16 = f.bitmap
      ∧ w.extractLsb' 187 16 = f.ccMask ∧ w.extractLsb' 155 32 = f.carried ∧ w.extractLsb' 123 32 = f.crc ∧ w.extractLsb' 115 8 = f.length
      ∧ w.extractLsb' 0 115 = 0 := by
  unfold HDFrame.bits
  rw [append_eq_iff]
  simp only [eq_append_iff]
  simp only [extractLsb'_extractLsb', Nat.reduceAdd, Nat.reduceLeDiff, extractLsb'_eq_ofBool_iff, and_assoc]

/-! ### Opcodes (R105) -/

theorem ccOf_parts {n : Nat} {op} (h : ccOf n = some op) (f : CCFrame) : ccParts (op f) = some (BitVec.ofNat 10 n, f) ∧ (op f).wf = f.wf := by
  unfold ccOf at h
  split at h <;> cases h <;> exact ⟨rfl, rfl⟩

theorem ccParts_of {i c f} (h : ccParts i = some (c, f)) : i.wf = f.wf ∧ ∃ op, ccOf c.toNat = some op ∧ op f = i := by
  cases i <;> cases h <;> exact ⟨rfl, _, rfl, rfl⟩

theorem mcOf_parts {n : Nat} {op} (h : mcOf n = some op) (f : MCFrame) : mcParts (op f) = some (BitVec.ofNat 10 n, f) ∧ (op f).wf = f.wf := by
  unfold mcOf at h
  split at h <;> cases h <;> exact ⟨rfl, rfl⟩

theorem mcParts_of {i c f} (h : mcParts i = some (c, f)) : i.wf = f.wf ∧ ∃ op, mcOf c.toNat = some op ∧ op f = i := by
  cases i <;> cases h <;> exact ⟨rfl, _, rfl, rfl⟩

theorem swOf_parts {n : Nat} {op} (h : swOf n = some op) (f : SWFrame) : swParts (op f) = some (BitVec.ofNat 10 n, f) ∧ (op f).wf = f.wf := by
  unfold swOf at h
  split at h <;> cases h <;> exact ⟨rfl, rfl⟩

theorem swParts_of {i c f} (h : swParts i = some (c, f)) : i.wf = f.wf ∧ ∃ op, swOf c.toNat = some op ∧ op f = i := by
  cases i <;> cases h <;> exact ⟨rfl, _, rfl, rfl⟩

theorem pnOf_parts {n : Nat} {op} (h : pnOf n = some op) (f : PNFrame) : pnParts (op f) = some (BitVec.ofNat 10 n, f) ∧ (op f).wf = f.wf := by
  unfold pnOf at h
  split at h <;> cases h <;> exact ⟨rfl, rfl⟩

theorem pnParts_of {i c f} (h : pnParts i = some (c, f)) : i.wf = f.wf ∧ ∃ op, pnOf c.toNat = some op ∧ op f = i := by
  cases i <;> cases h <;> exact ⟨rfl, _, rfl, rfl⟩

theorem snOf_parts {n : Nat} {op} (h : snOf n = some op) (f : SNFrame) : snParts (op f) = some (BitVec.ofNat 10 n, f) ∧ (op f).wf = f.wf := by
  unfold snOf at h
  split at h <;> cases h <;> exact ⟨rfl, rfl⟩

theorem snParts_of {i c f} (h : snParts i = some (c, f)) : i.wf = f.wf ∧ ∃ op, snOf c.toNat = some op ∧ op f = i := by
  cases i <;> cases h <;> exact ⟨rfl, _, rfl, rfl⟩

theorem ccParts_of_mcParts {i p} (h : mcParts i = some p) : ccParts i = none := by
  cases i <;> cases h <;> rfl

theorem parts_of_swParts {i p} (h : swParts i = some p) : ccParts i = none ∧ mcParts i = none := by
  cases i <;> cases h <;> exact ⟨rfl, rfl⟩

theorem parts_of_pnParts {i p} (h : pnParts i = some p) : ccParts i = none ∧ mcParts i = none ∧ swParts i = none := by
  cases i <;> cases h <;> exact ⟨rfl, rfl, rfl⟩

theorem parts_of_snParts {i p} (h : snParts i = some p) : ccParts i = none ∧ mcParts i = none ∧ swParts i = none ∧ pnParts i = none := by
  cases i <;> cases h <;> exact ⟨rfl, rfl, rfl, rfl⟩

/-- An instruction's frame is the frame of the one class whose op it is. -/
theorem encodeFrame_eq (i : Instr) : encodeFrame i = ((ccParts i).map fun p => p.2.bits p.1).or (((mcParts i).map fun p => p.2.bits p.1).or
    (((swParts i).map fun p => p.2.bits p.1).or (((pnParts i).map fun p => p.2.bits p.1).or ((snParts i).map fun p => p.2.bits p.1)))) := by
  unfold encodeFrame
  rcases ccParts i with _ | p
  · rcases mcParts i with _ | p
    · rcases swParts i with _ | p
      · rcases pnParts i with _ | p
        · rcases snParts i with _ | p <;> rfl
        · rfl
      · rfl
    · rfl
  · rfl

theorem encodeFrame_eq_some_iff {i w} : encodeFrame i = some w ↔
    (∃ c f, ccParts i = some (c, f) ∧ f.bits c = w) ∨ (∃ c f, mcParts i = some (c, f) ∧ f.bits c = w)
      ∨ (∃ c f, swParts i = some (c, f) ∧ f.bits c = w) ∨ (∃ c f, pnParts i = some (c, f) ∧ f.bits c = w)
      ∨ (∃ c f, snParts i = some (c, f) ∧ f.bits c = w) := by
  rw [encodeFrame_eq]
  simp only [Option.or_eq_some_iff, Option.map_eq_some_iff, Option.map_eq_none_iff, Prod.exists]
  constructor
  · rintro (cc | ⟨-, mc | ⟨-, sw | ⟨-, pn | ⟨-, sn⟩⟩⟩⟩)
    · exact .inl cc
    · exact .inr (.inl mc)
    · exact .inr (.inr (.inl sw))
    · exact .inr (.inr (.inr (.inl pn)))
    · exact .inr (.inr (.inr (.inr sn)))
  · rintro (cc | ⟨c, f, mc, bits⟩ | ⟨c, f, sw, bits⟩ | ⟨c, f, pn, bits⟩ | ⟨c, f, sn, bits⟩)
    · exact .inl cc
    · exact .inr ⟨ccParts_of_mcParts mc, .inl ⟨c, f, mc, bits⟩⟩
    · obtain ⟨cc, mc⟩ := parts_of_swParts sw
      exact .inr ⟨cc, .inr ⟨mc, .inl ⟨c, f, sw, bits⟩⟩⟩
    · obtain ⟨cc, mc, sw⟩ := parts_of_pnParts pn
      exact .inr ⟨cc, .inr ⟨mc, .inr ⟨sw, .inl ⟨c, f, pn, bits⟩⟩⟩⟩
    · obtain ⟨cc, mc, sw, pn⟩ := parts_of_snParts sn
      exact .inr ⟨cc, .inr ⟨mc, .inr ⟨sw, .inr ⟨pn, c, f, sn, bits⟩⟩⟩⟩

/-! ### Each class of frames (R92 to R104) -/

theorem decodeCC_eq_ok_iff {w i} (cls : w.extractLsb' 252 4 = 1) (low : w.extractLsb' 240 4 = 0) :
    decodeCC w = .ok i ↔ ∃ c f, ccParts i = some (c, f) ∧ f.wf = true ∧ f.bits c = w := by
  constructor
  · intro h
    obtain ⟨op, hop, h⟩ := bind_eq_ok.mp h
    split at hop
    case h_2 => cases hop
    case h_1 o code =>
    cases hop
    split_ifs at h with range
    simp only [bind_eq_ok, portOf_eq_ok, outOf_eq_ok, field_eq_ok, need_eq_ok, tyOfCode_eq_some, psrcOfCode_eq_some, pdstOfCode_eq_some,
      rmOfCode_eq_some, beq_iff_eq, Except.ok.injEq] at h
    obtain ⟨a, ha, b, hb, c, hc, oa, hoa, ob, hob, ty, hty, pin, hpin, pout, hpout, rm, hrm, zero, wf, rfl⟩ := h
    refine ⟨_, _, (ccOf_parts code _).1, wf, CCFrame.bits_eq_iff.mpr ?_⟩
    rw [addr_eq_iff (by dsimp only; omega) (by dsimp only; omega)]
    exact ⟨⟨cls, rfl, rfl, low⟩, (ofNat_toNat_self _).symm, hty, ha.symm, hb.symm, hc.symm, hoa.symm, hob.symm, hpin, rfl, zero, hpout,
      hrm, rfl, rfl, rfl, rfl, rfl, rfl, rfl⟩
  · rintro ⟨code, f, parts, wf, bits⟩
    obtain ⟨-, op, hop, rfl⟩ := ccParts_of parts
    obtain ⟨addr, hcode, hty, ha, hb, hc, hoa, hob, hpin, hps, zero, hpout, hrm, hsat, hstats, hsilt, hlevel, hflags, himm, hext⟩ :=
      CCFrame.bits_eq_iff.mp bits
    obtain ⟨-, hcell, hstage, -⟩ := (addr_eq_iff (by omega) (by omega)).mp addr
    obtain ⟨cell, stage, ty, a, b, c, oa, ob, pin, ps, pout, rm, sat, stats, silt, level, flags, imm, ext⟩ := f
    have range : (w.extractLsb' 247 5).toNat < 16 ∧ (w.extractLsb' 244 3).toNat < 6 := by omega
    unfold decodeCC
    rw [hcode, hop]
    refine bind_eq_ok.mpr ⟨op, rfl, ?_⟩
    rw [dif_pos range]
    simp only [bind_eq_ok, portOf_eq_ok, outOf_eq_ok, field_eq_ok, need_eq_ok, tyOfCode_eq_some, psrcOfCode_eq_some, pdstOfCode_eq_some,
      rmOfCode_eq_some, hps, zero, hsat, hstats, hsilt, hlevel, hflags, himm, hext, hcell, hstage, Fin.eta]
    exact ⟨a, ha.symm, b, hb.symm, c, hc.symm, oa, hoa.symm, ob, hob.symm, ty, hty, pin, hpin, pout, hpout, rm, hrm, rfl, wf, rfl⟩

theorem decodeHD_eq_ok_iff {w f} (addr : w.extractLsb' 240 16 = addrBits 0 0 0) : decodeHD w = .ok f ↔ f.bits = w := by
  rw [HDFrame.bits_eq_iff]
  unfold decodeHD
  simp only [addr, true_and, need_eq_ok, beq_iff_eq, Except.ok.injEq]
  constructor
  · rintro ⟨zero, rfl⟩
    exact ⟨rfl, rfl, rfl, rfl, rfl, rfl, rfl, rfl, rfl, rfl, rfl, zero⟩
  · rintro ⟨vs, round, safe, first, last, stateful, bitmap, ccMask, carried, crc, length, zero⟩
    exact ⟨zero, by rw [vs, round, safe, first, last, stateful, bitmap, ccMask, carried, crc, length]⟩

theorem decodeAG_eq_ok_iff {w f} (cls : w.extractLsb' 252 4 = 2) (slot : (w.extractLsb' 244 3).toNat = 1) (low : w.extractLsb' 240 4 = 0) :
    decodeAG w = .ok f ↔ f.wf = true ∧ f.bits = w := by
  constructor
  · intro h
    unfold decodeAG at h
    split_ifs at h with cell dims
    · simp only [field_eq_ok, agModeOfCode_eq_some, need_eq_ok, beq_iff_eq, Except.ok.injEq] at h
      obtain ⟨mode, hmode, zero, wf, rfl⟩ := h
      refine ⟨wf, AGFrame.bits_eq_iff.mpr ?_⟩
      rw [addr_eq_iff (by dsimp only; omega) (by decide)]
      exact ⟨⟨cls, rfl, slot, low⟩, hmode, (ofNat_toNat_self _).symm, rfl, rfl, rfl, rfl, rfl, rfl, rfl, rfl, rfl, rfl, rfl, rfl, rfl, rfl, rfl,
        rfl, rfl, rfl, rfl, rfl, rfl, zero⟩
    · simp at h
  · rintro ⟨wf, bits⟩
    obtain ⟨cell, mode, dims, ⟨c0, s0, p0, e0, a0⟩, ⟨c1, s1, p1, e1, a1⟩, ⟨c2, s2, p2, e2, a2⟩, ⟨c3, s3, p3, e3, a3⟩, base⟩ := f
    obtain ⟨addr, hmode, hdims, hc3, hs3, hc2, hs2, hc1, hs1, hc0, hs0, hbase, hp3, hp2, hp1, hp0, he3, ha3, he2, ha2, he1, ha1, he0, ha0, zero⟩ :=
      AGFrame.bits_eq_iff.mp bits
    obtain ⟨-, hcell, -, -⟩ := (addr_eq_iff (by omega) (by omega)).mp addr
    replace hdims : (w.extractLsb' 232 4).toNat = dims.val := (eq_ofNat_iff (by omega)).mp hdims
    have range : (w.extractLsb' 247 5).toNat < 16 := by omega
    have used : (w.extractLsb' 232 4).toNat < 5 := by omega
    unfold decodeAG
    rw [dif_pos range]
    refine field_eq_ok.mpr ⟨mode, agModeOfCode_eq_some.mpr hmode, ?_⟩
    rw [dif_pos used]
    simp only [need_eq_ok, agDimOf, Nat.reduceAdd, Nat.reduceMul, *]
    exact ⟨rfl, trivial, trivial⟩

theorem decodeMC_eq_ok_iff {w i} (cls : w.extractLsb' 252 4 = 2) (slot : (w.extractLsb' 244 3).toNat = 0) (low : w.extractLsb' 240 4 = 0) :
    decodeMC w = .ok i ↔ ∃ c f, mcParts i = some (c, f) ∧ f.wf = true ∧ f.bits c = w := by
  constructor
  · intro h
    obtain ⟨op, hop, h⟩ := bind_eq_ok.mp h
    split at hop
    case h_2 => cases hop
    case h_1 o code =>
    cases hop
    split_ifs at h with range
    simp only [bind_eq_ok, portOf_eq_ok, outOf_eq_ok, field_eq_ok, need_eq_ok, tyOfCode_eq_some, psrcOfCode_eq_some, pdstOfCode_eq_some,
      Bool.and_eq_true, beq_iff_eq, Except.ok.injEq] at h
    obtain ⟨a, ha, b, hb, c, hc, oa, hoa, ob, hob, ty, hty, pin, hpin, pout, hpout, ⟨zero, tail⟩, wf, rfl⟩ := h
    refine ⟨_, _, (mcOf_parts code _).1, wf, MCFrame.bits_eq_iff.mpr ?_⟩
    rw [addr_eq_iff (by dsimp only; omega) (by decide)]
    exact ⟨⟨cls, rfl, slot, low⟩, (ofNat_toNat_self _).symm, hty, rfl, rfl, ha.symm, hb.symm, hc.symm, hoa.symm, hob.symm, hpin, rfl, zero,
      hpout, rfl, rfl, scopeOfCode_eq_iff.mp rfl, rfl, rfl, rfl, rfl, rfl, rfl, tail⟩
  · rintro ⟨code, f, parts, wf, bits⟩
    obtain ⟨-, op, hop, rfl⟩ := mcParts_of parts
    obtain ⟨addr, hcode, hty, hhandle, hfrom, ha, hb, hc, hoa, hob, hpin, hps, zero, hpout, hconsume, hlevel, hscope, hsub, hsat, hend, hsilt,
      hstats, himm, tail⟩ := MCFrame.bits_eq_iff.mp bits
    obtain ⟨-, hcell, -, -⟩ := (addr_eq_iff (by omega) (by omega)).mp addr
    have range : (w.extractLsb' 247 5).toNat < 16 := by omega
    obtain ⟨cell, ty, handle, fromC, a, b, c, oa, ob, pin, ps, pout, consume, level, scope, subop, sat, sealEnd, silt, stats, imm⟩ := f
    unfold decodeMC
    rw [hcode, hop]
    refine bind_eq_ok.mpr ⟨op, rfl, ?_⟩
    rw [dif_pos range]
    simp only [bind_eq_ok, portOf_eq_ok, outOf_eq_ok, field_eq_ok, need_eq_ok, tyOfCode_eq_some, psrcOfCode_eq_some, pdstOfCode_eq_some,
      hcell, hhandle, hfrom, hps, zero, hconsume, hlevel, scopeOfCode_eq_iff.mpr hscope, hsub, hsat, hend, hsilt, hstats, himm, tail, Fin.eta]
    exact ⟨a, ha.symm, b, hb.symm, c, hc.symm, oa, hoa.symm, ob, hob.symm, ty, hty, pin, hpin, pout, hpout, rfl, wf, rfl⟩

theorem vector_eight {α : Type} (v : Vector α 8) : #v[v[0], v[1], v[2], v[3], v[4], v[5], v[6], v[7]] = v := by
  ext i hi
  interval_cases i <;> rfl

theorem decodeSW_eq_ok_iff {w i} (cls : w.extractLsb' 252 4 = 3) (slot : (w.extractLsb' 244 3).toNat = 0) (low : w.extractLsb' 240 4 = 0) :
    decodeSW w = .ok i ↔ ∃ c f, swParts i = some (c, f) ∧ f.wf = true ∧ f.bits c = w := by
  constructor
  · intro h
    obtain ⟨op, hop, h⟩ := bind_eq_ok.mp h
    split at hop
    case h_2 => cases hop
    case h_1 o code =>
    cases hop
    split_ifs at h with range
    simp only [bind_eq_ok, portOf_eq_ok, outOf_eq_ok, field_eq_ok, need_eq_ok, tyOfCode_eq_some, srcOfCode_eq_some, beq_iff_eq,
      Except.ok.injEq] at h
    obtain ⟨idx, hidx, o0, ho0, o1, ho1, o2, ho2, o3, ho3, o4, ho4, o5, ho5, o6, ho6, o7, ho7, ty, hty, i0, hi0, i1, hi1, i2, hi2, i3, hi3,
      i4, hi4, i5, hi5, i6, hi6, i7, hi7, zero, wf, rfl⟩ := h
    refine ⟨_, _, (swOf_parts code _).1, wf, SWFrame.bits_eq_iff.mpr ?_⟩
    rw [addr_eq_iff (by dsimp only; omega) (by decide)]
    exact ⟨⟨cls, rfl, slot, low⟩, (ofNat_toNat_self _).symm, hty, hi7, hi6, hi5, hi4, hi3, hi2, hi1, hi0, hidx.symm, ho7.symm, ho6.symm,
      ho5.symm, ho4.symm, ho3.symm, ho2.symm, ho1.symm, ho0.symm, rfl, rfl, zero⟩
  · rintro ⟨code, f, parts, wf, bits⟩
    obtain ⟨-, op, hop, rfl⟩ := swParts_of parts
    obtain ⟨addr, hcode, hty, hi7, hi6, hi5, hi4, hi3, hi2, hi1, hi0, hidx, ho7, ho6, ho5, ho4, ho3, ho2, ho1, ho0, hflags, hlevel, zero⟩ :=
      SWFrame.bits_eq_iff.mp bits
    obtain ⟨-, hindex, -, -⟩ := (addr_eq_iff (by omega) (by omega)).mp addr
    have range : (w.extractLsb' 247 5).toNat < 4 := by omega
    obtain ⟨index, ty, ins, idx, outs, flags, level⟩ := f
    unfold decodeSW
    rw [hcode, hop]
    refine bind_eq_ok.mpr ⟨op, rfl, ?_⟩
    rw [dif_pos range]
    simp only [bind_eq_ok, portOf_eq_ok, outOf_eq_ok, field_eq_ok, need_eq_ok, tyOfCode_eq_some, srcOfCode_eq_some, zero, hflags, hlevel,
      hindex, Fin.eta]
    refine ⟨idx, hidx.symm, _, ho0.symm, _, ho1.symm, _, ho2.symm, _, ho3.symm, _, ho4.symm, _, ho5.symm, _, ho6.symm, _, ho7.symm, ty, hty,
      _, hi0, _, hi1, _, hi2, _, hi3, _, hi4, _, hi5, _, hi6, _, hi7, rfl, ?_⟩
    rw [vector_eight, vector_eight]
    exact ⟨wf, rfl⟩

theorem decodePN_eq_ok_iff {w i} (cls : w.extractLsb' 252 4 = 4) (slot : (w.extractLsb' 244 3).toNat = 0) (low : w.extractLsb' 240 4 = 0) :
    decodePN w = .ok i ↔ ∃ c f, pnParts i = some (c, f) ∧ f.wf = true ∧ f.bits c = w := by
  constructor
  · intro h
    obtain ⟨op, hop, h⟩ := bind_eq_ok.mp h
    split at hop
    case h_2 => cases hop
    case h_1 o code =>
    cases hop
    split_ifs at h with range
    simp only [field_eq_ok, need_eq_ok, psrcOfCode_eq_some, pdstOfCode_eq_some, Bool.and_eq_true, beq_iff_eq, Except.ok.injEq] at h
    obtain ⟨in0, h0, in1, h1, in2, h2, out0, k0, out1, k1, out2, k2, out3, k3, ⟨⟨ty, mid⟩, tail⟩, wf, rfl⟩ := h
    refine ⟨_, _, (pnOf_parts code _).1, wf, PNFrame.bits_eq_iff.mpr ?_⟩
    rw [addr_eq_iff (by dsimp only; omega) (by decide)]
    exact ⟨⟨cls, rfl, slot, low⟩, (ofNat_toNat_self _).symm, ty, h2, rfl, h1, rfl, h0, rfl, rfl, k3, k2, k1, k0, rfl, mid, rfl, rfl, tail⟩
  · rintro ⟨code, f, parts, wf, bits⟩
    obtain ⟨-, op, hop, rfl⟩ := pnParts_of parts
    obtain ⟨addr, hcode, hty, h2, hs2, h1, hs1, h0, hs0, htable, k3, k2, k1, k0, hlevel, mid, hpattern, hplen, tail⟩ := PNFrame.bits_eq_iff.mp bits
    obtain ⟨-, hindex, -, -⟩ := (addr_eq_iff (by omega) (by omega)).mp addr
    have range : (w.extractLsb' 247 5).toNat < 8 := by omega
    unfold decodePN
    rw [hcode, hop]
    refine bind_eq_ok.mpr ⟨op, rfl, ?_⟩
    rw [dif_pos range]
    simp only [field_eq_ok, need_eq_ok, psrcOfCode_eq_some, pdstOfCode_eq_some, hty, hs2, hs1, hs0, htable, hlevel, mid, hpattern, hplen, tail,
      hindex, Fin.eta]
    exact ⟨_, h0, _, h1, _, h2, _, k0, _, k1, _, k2, _, k3, rfl, wf, rfl⟩

theorem decodeSN_eq_ok_iff {w i} (cls : w.extractLsb' 252 4 = 5) (slot : (w.extractLsb' 244 3).toNat = 0) (low : w.extractLsb' 240 4 = 0) :
    decodeSN w = .ok i ↔ ∃ c f, snParts i = some (c, f) ∧ f.wf = true ∧ f.bits c = w := by
  constructor
  · intro h
    obtain ⟨op, hop, h⟩ := bind_eq_ok.mp h
    split at hop
    case h_2 => cases hop
    case h_1 o code =>
    cases hop
    split_ifs at h with range
    simp only [field_eq_ok, need_eq_ok, sndstOfCode_eq_some, Bool.and_eq_true, beq_iff_eq, Except.ok.injEq] at h
    obtain ⟨dst, hdst, ⟨ty, tail⟩, wf, rfl⟩ := h
    refine ⟨_, _, (snOf_parts code _).1, wf, SNFrame.bits_eq_iff.mpr ?_⟩
    rw [addr_eq_iff (by dsimp only; omega) (by decide)]
    exact ⟨⟨cls, rfl, slot, low⟩, (ofNat_toNat_self _).symm, ty, hdst, rfl, rfl, rfl, rfl, tail⟩
  · rintro ⟨code, f, parts, wf, bits⟩
    obtain ⟨-, op, hop, rfl⟩ := snParts_of parts
    obtain ⟨addr, hcode, hty, hdst, hinputs, hhandle, hmode, hrow, tail⟩ := SNFrame.bits_eq_iff.mp bits
    obtain ⟨-, hindex, -, -⟩ := (addr_eq_iff (by omega) (by omega)).mp addr
    have range : (w.extractLsb' 247 5).toNat < 8 := by omega
    unfold decodeSN
    rw [hcode, hop]
    refine bind_eq_ok.mpr ⟨op, rfl, ?_⟩
    rw [dif_pos range]
    simp only [field_eq_ok, need_eq_ok, sndstOfCode_eq_some, hty, hinputs, hhandle, hmode, hrow, tail, hindex, Fin.eta]
    exact ⟨_, hdst, rfl, wf, rfl⟩

/-! ### Frames by their class (R90) -/

/-- What a decoded frame says of the bits it was read from: they are its encoding, and an op stands at its own address. -/
def AnyFrame.Encodes (w : Frame) : AnyFrame → Prop
  | .hd f => f.bits = w
  | .op a i => (a.index = (w.extractLsb' 247 5).toNat ∧ a.slot = (w.extractLsb' 244 3).toNat) ∧ i.wf = true ∧ encodeFrame i = some w
  | .gen f => f.wf = true ∧ f.bits = w
  | .depths d => addrBits 7 0 0 ++ d = w
  | .last => addrBits 15 0 0 ++ (0 : BitVec 240) = w

theorem encodes_of_decodeFrame {w x} (h : decodeFrame w = .ok x) : x.Encodes w := by
  unfold decodeFrame at h
  obtain ⟨low, h⟩ := need_eq_ok.mp h
  rw [beq_iff_eq] at low
  have addr {cls : BitVec 4} (index slot : Nat) (hi : index < 32) (hs : slot < 8) (hc : (w.extractLsb' 252 4).toNat = cls.toNat)
      (hw : ((w.extractLsb' 247 5).toNat == index && (w.extractLsb' 244 3).toNat == slot) = true) :
      w.extractLsb' 240 16 = addrBits cls index slot := by
    rw [Bool.and_eq_true, beq_iff_eq, beq_iff_eq] at hw
    exact (addr_eq_iff hi hs).mpr ⟨BitVec.eq_of_toNat_eq hc, hw.1, hw.2, low⟩
  split at h
  case h_1 cls =>
    obtain ⟨zero, h⟩ := need_eq_ok.mp h
    obtain ⟨f, dec, rfl⟩ := map_eq_ok.mp h
    exact (decodeHD_eq_ok_iff (addr 0 0 (by decide) (by decide) cls zero)).mp dec
  case h_2 cls =>
    obtain ⟨i, dec, rfl⟩ := map_eq_ok.mp h
    obtain ⟨c, f, parts, wf, bits⟩ := (decodeCC_eq_ok_iff (BitVec.eq_of_toNat_eq cls) low).mp dec
    exact ⟨⟨rfl, rfl⟩, (ccParts_of parts).1.trans wf, encodeFrame_eq_some_iff.mpr (.inl ⟨c, f, parts, bits⟩)⟩
  case h_3 cls =>
    split at h
    case isTrue slot =>
      obtain ⟨i, dec, rfl⟩ := map_eq_ok.mp h
      obtain ⟨c, f, parts, wf, bits⟩ := (decodeMC_eq_ok_iff (BitVec.eq_of_toNat_eq cls) slot low).mp dec
      exact ⟨⟨rfl, slot.symm⟩, (mcParts_of parts).1.trans wf, encodeFrame_eq_some_iff.mpr (.inr (.inl ⟨c, f, parts, bits⟩))⟩
    case isFalse =>
      obtain ⟨slot, h⟩ := need_eq_ok.mp h
      obtain ⟨f, dec, rfl⟩ := map_eq_ok.mp h
      exact (decodeAG_eq_ok_iff (BitVec.eq_of_toNat_eq cls) (beq_iff_eq.mp slot) low).mp dec
  case h_4 cls =>
    obtain ⟨slot, h⟩ := need_eq_ok.mp h
    obtain ⟨i, dec, rfl⟩ := map_eq_ok.mp h
    obtain ⟨c, f, parts, wf, bits⟩ := (decodeSW_eq_ok_iff (BitVec.eq_of_toNat_eq cls) (beq_iff_eq.mp slot) low).mp dec
    exact ⟨⟨rfl, (beq_iff_eq.mp slot).symm⟩, (swParts_of parts).1.trans wf, encodeFrame_eq_some_iff.mpr (.inr (.inr (.inl ⟨c, f, parts, bits⟩)))⟩
  case h_5 cls =>
    obtain ⟨slot, h⟩ := need_eq_ok.mp h
    obtain ⟨i, dec, rfl⟩ := map_eq_ok.mp h
    obtain ⟨c, f, parts, wf, bits⟩ := (decodePN_eq_ok_iff (BitVec.eq_of_toNat_eq cls) (beq_iff_eq.mp slot) low).mp dec
    exact ⟨⟨rfl, (beq_iff_eq.mp slot).symm⟩, (pnParts_of parts).1.trans wf,
      encodeFrame_eq_some_iff.mpr (.inr (.inr (.inr (.inl ⟨c, f, parts, bits⟩))))⟩
  case h_6 cls =>
    obtain ⟨slot, h⟩ := need_eq_ok.mp h
    obtain ⟨i, dec, rfl⟩ := map_eq_ok.mp h
    obtain ⟨c, f, parts, wf, bits⟩ := (decodeSN_eq_ok_iff (BitVec.eq_of_toNat_eq cls) (beq_iff_eq.mp slot) low).mp dec
    exact ⟨⟨rfl, (beq_iff_eq.mp slot).symm⟩, (snParts_of parts).1.trans wf,
      encodeFrame_eq_some_iff.mpr (.inr (.inr (.inr (.inr ⟨c, f, parts, bits⟩))))⟩
  case h_7 cls =>
    obtain ⟨zero, ⟨⟩⟩ := need_eq_ok.mp h
    exact append_eq_iff.mpr ⟨addr 0 0 (by decide) (by decide) cls zero, rfl⟩
  case h_8 cls =>
    obtain ⟨zero, h⟩ := need_eq_ok.mp h
    obtain ⟨payload, ⟨⟩⟩ := need_eq_ok.mp h
    exact append_eq_iff.mpr ⟨addr 0 0 (by decide) (by decide) cls zero, beq_iff_eq.mp payload⟩
  case h_9 => cases h

theorem decodeFrame_of_hd {f : HDFrame} {w} (bits : f.bits = w) : decodeFrame w = .ok (.hd f) := by
  have addr := (HDFrame.bits_eq_iff.mp bits).1
  obtain ⟨cls, index, slot, low⟩ := (addr_eq_iff (by decide) (by decide)).mp addr
  simp only [decodeFrame, cls, index, slot, low, (decodeHD_eq_ok_iff addr).mpr bits]
  rfl

theorem decodeFrame_of_gen {f : AGFrame} {w} (wf : f.wf = true) (bits : f.bits = w) : decodeFrame w = .ok (.gen f) := by
  obtain ⟨cls, index, slot, low⟩ := (addr_eq_iff (by omega) (by decide)).mp (AGFrame.bits_eq_iff.mp bits).1
  simp only [decodeFrame, cls, slot, low, (decodeAG_eq_ok_iff cls slot low).mpr ⟨wf, bits⟩]
  rfl

theorem decodeFrame_of_depths {d : BitVec 240} {w : Frame} (bits : addrBits 7 0 0 ++ d = w) : decodeFrame w = .ok (.depths d) := by
  obtain ⟨addr, payload⟩ := append_eq_iff.mp bits
  obtain ⟨cls, index, slot, low⟩ := (addr_eq_iff (by decide) (by decide)).mp addr
  simp only [decodeFrame, cls, index, slot, low, payload]
  rfl

theorem decodeFrame_of_last {w : Frame} (bits : addrBits 15 0 0 ++ (0 : BitVec 240) = w) : decodeFrame w = .ok .last := by
  obtain ⟨addr, payload⟩ := append_eq_iff.mp bits
  obtain ⟨cls, index, slot, low⟩ := (addr_eq_iff (by decide) (by decide)).mp addr
  simp only [decodeFrame, cls, index, slot, low, payload]
  rfl

theorem decodeFrame_of_op {i w} (wf : i.wf = true) (enc : encodeFrame i = some w) : ∃ a, decodeFrame w = .ok (.op a i) := by
  rcases encodeFrame_eq_some_iff.mp enc with ⟨c, f, parts, bits⟩ | ⟨c, f, parts, bits⟩ | ⟨c, f, parts, bits⟩ |
    ⟨c, f, parts, bits⟩ | ⟨c, f, parts, bits⟩
  · obtain ⟨cls, index, slot, low⟩ := (addr_eq_iff (by omega) (by omega)).mp (CCFrame.bits_eq_iff.mp bits).1
    have op := (decodeCC_eq_ok_iff cls low).mpr ⟨c, f, parts, (ccParts_of parts).1 ▸ wf, bits⟩
    simp only [decodeFrame, cls, low, op]
    exact ⟨_, rfl⟩
  · obtain ⟨cls, index, slot, low⟩ := (addr_eq_iff (by omega) (by omega)).mp (MCFrame.bits_eq_iff.mp bits).1
    have op := (decodeMC_eq_ok_iff cls slot low).mpr ⟨c, f, parts, (mcParts_of parts).1 ▸ wf, bits⟩
    simp only [decodeFrame, cls, slot, low, op]
    exact ⟨_, rfl⟩
  · obtain ⟨cls, index, slot, low⟩ := (addr_eq_iff (by omega) (by omega)).mp (SWFrame.bits_eq_iff.mp bits).1
    have op := (decodeSW_eq_ok_iff cls slot low).mpr ⟨c, f, parts, (swParts_of parts).1 ▸ wf, bits⟩
    simp only [decodeFrame, cls, slot, low, op]
    exact ⟨_, rfl⟩
  · obtain ⟨cls, index, slot, low⟩ := (addr_eq_iff (by omega) (by omega)).mp (PNFrame.bits_eq_iff.mp bits).1
    have op := (decodePN_eq_ok_iff cls slot low).mpr ⟨c, f, parts, (pnParts_of parts).1 ▸ wf, bits⟩
    simp only [decodeFrame, cls, slot, low, op]
    exact ⟨_, rfl⟩
  · obtain ⟨cls, index, slot, low⟩ := (addr_eq_iff (by omega) (by omega)).mp (SNFrame.bits_eq_iff.mp bits).1
    have op := (decodeSN_eq_ok_iff cls slot low).mpr ⟨c, f, parts, (snParts_of parts).1 ▸ wf, bits⟩
    simp only [decodeFrame, cls, slot, low, op]
    exact ⟨_, rfl⟩

/-- Settles O55: a decoded frame is the encoding of what it says, and every encoding of a class decodes to what it encodes. -/
theorem framesRoundTrip : Obligations.FramesRoundTrip := by
  unfold Obligations.FramesRoundTrip
  refine ⟨fun i w => ⟨fun ⟨a, h⟩ => (encodes_of_decodeFrame h).2, fun ⟨wf, enc⟩ => decodeFrame_of_op wf enc⟩,
    fun f w => ⟨encodes_of_decodeFrame, fun ⟨wf, bits⟩ => decodeFrame_of_gen wf bits⟩,
    fun f w => ⟨encodes_of_decodeFrame, decodeFrame_of_hd⟩, fun d w => ⟨encodes_of_decodeFrame, decodeFrame_of_depths⟩,
    fun w => ⟨encodes_of_decodeFrame, decodeFrame_of_last⟩, fun i w a h => (encodes_of_decodeFrame h).1⟩

end Sys2Proof
end

section
/-! PROOF. The manual's worked examples (O53): each word is the encoding of its instruction, so the round trip of O54 decodes it. -/
namespace Sys2Proof

theorem decodeSeq_of_encoding {i : Instr} {w : BitVec 64} (wf : i.wf = true) (enc : encodeSeq i = some w) : decodeSeq w = .ok i :=
  (sequencerWordsRoundTrip i w).mpr ⟨wf, enc⟩

/-- Settles O53: the words and the generator's frame by the round trips, the two frames of ops by evaluation of the decoder. -/
theorem exampleWordsDecode : Obligations.ExampleWordsDecode := by
  unfold Obligations.ExampleWordsDecode
  refine ⟨decodeSeq_of_encoding rfl rfl, decodeSeq_of_encoding rfl rfl, decodeSeq_of_encoding rfl rfl, decodeSeq_of_encoding rfl rfl,
    decodeSeq_of_encoding rfl rfl, decodeSeq_of_encoding rfl rfl, decodeSeq_of_encoding rfl rfl, decodeSeq_of_encoding rfl rfl,
    decodeSeq_of_encoding rfl rfl, decodeSeq_of_encoding rfl rfl, decodeSeq_of_encoding rfl rfl, decodeSeq_of_encoding rfl rfl,
    rfl, ?_, ?_, decodeFrame_of_gen rfl rfl⟩
  · decide +kernel
  · decide +kernel

end Sys2Proof
end

section
/-! PROOF. RDTS, CRD and CWR of every control register (O27). -/
namespace Sys2Proof.Machine

/-! ### The counters word and the addresses that CWR writes (R114, R278) -/

theorem toNat_append_eq_add {n m : Nat} (x : BitVec n) (y : BitVec m) : (x ++ y).toNat = x.toNat * 2 ^ m + y.toNat := by
  rw [BitVec.toNat_append, ← Nat.shiftLeft_add_eq_or_of_lt y.isLt, Nat.shiftLeft_eq]

theorem Counters.word_eq_append (c : Counters) : c.word = (0 : BitVec 16) ++ c.ld ++ c.st ++ c.dr ++ c.sr ++ c.sv ++ c.rn := by
  apply BitVec.eq_of_toNat_eq
  simp only [Counters.word, BitVec.toNat_ofNat, toNat_append_eq_add]
  have ld := c.ld.isLt
  have st := c.st.isLt
  have dr := c.dr.isLt
  have sr := c.sr.isLt
  have sv := c.sv.isLt
  have rn := c.rn.isLt
  have zero : (0 : BitVec 16).toNat = 0 := rfl
  omega

theorem codeAddr_eq_append (w : Word) : codeAddr w = w.extractLsb' 3 13 ++ (0 : BitVec 3) := by
  refine (eq_append_iff (n := 13) (m := 3)).mpr ⟨?_, ?_⟩
  · rw [codeAddr, BitVec.extractLsb'_and, extractLsb'_extractLsb' _ (by decide)]
    exact BitVec.and_allOnes
  · rw [codeAddr, BitVec.extractLsb'_and]
    exact BitVec.and_zero

/-! ### Reads and writes of a control register -/

theorem execRdts_writes {g : Guard} {d : Reg} {s : State} (h : Issues g .free [] [d] s) : execRdts g d s = .next (s.wrote d s.timestamp) :=
  (seqExec_issues h).trans (finish_wrote ..)

theorem execCrd_writes {g : Guard} {d : Reg} {s : State} (cr : CReg) (h : Issues g .free [] [d] s) :
    execCrd g d cr s = .next (s.wrote d (s.controlReg cr)) :=
  (seqExec_issues h).trans (finish_wrote ..)

/-- A change of the task's record that leaves its pc completes the instruction. -/
theorem finish_updMe {s : State} {f : Task → Task} (pc : (f s.me).pc = s.me.pc) :
    (SeqRes.done (s.updMe f)).finish = .next ((s.updMe f).onTo (s.me.pc + 8)) := by
  simp only [SeqRes.finish, State.nextPc, State.me_updMe, pc, State.onTo]

/-- A task's record with a control register written (R278). -/
def Task.withControl (x : Task) (v : Word) : CWReg → Task
  | .entry => { x with entry := codeAddr v }
  | .hvec => { x with hvec := codeAddr v }
  | .epc => { x with epc := codeAddr v }
  | .safegap => { x with safegap := v.extractLsb' 0 32 }

theorem execCwr_writes {g : Guard} {a : Reg} {s : State} (cr : CWReg) (h : Issues g .free [a] [] s) :
    execCwr g cr a s = .next ((s.updMe fun x => x.withControl (s.r a) cr).onTo (s.me.pc + 8)) := by
  cases cr <;> exact (seqExec_issues h).trans (finish_updMe rfl)

/-- Settles O27, register by register. -/
theorem controlRegistersComplete : Obligations.ControlRegistersComplete := by
  unfold Obligations.ControlRegistersComplete
  simp only [← Counters.word_eq_append, ← codeAddr_eq_append]
  refine ⟨fun g d s h => ?_, fun g a s h => ?_⟩
  · exact ⟨execRdts_writes h, execCrd_writes .entry h, execCrd_writes .hvec h, execCrd_writes .epc h, execCrd_writes .safegap h,
      execCrd_writes .frec0 h, execCrd_writes .frec1 h, execCrd_writes .frec2 h, execCrd_writes .frec3 h, execCrd_writes .taskid h,
      execCrd_writes .partition h, execCrd_writes .spcount h, execCrd_writes .counters h⟩
  · exact ⟨execCwr_writes .entry h, execCwr_writes .hvec h, execCwr_writes .epc h, execCwr_writes .safegap h⟩

end Sys2Proof.Machine
end

section
/-! PROOF. CINV and ILOAD (O29): what reads of code leave of a state, and the words that an image's body is written in. -/
namespace Sys2Proof.Machine

variable {s t u : State}

/-! ### What a read leaves of a state -/

/-- `t` is `s` but for the sealed-block cache, its events, the free values drawn and what requests have brought. -/
def Reading (s t : State) : Prop :=
  t.mem = s.mem ∧ t.stale = s.stale ∧ t.seqs = s.seqs ∧ t.tasks = s.tasks ∧ t.cur = s.cur ∧ t.partitions = s.partitions

theorem Reading.refl (s : State) : Reading s s := ⟨rfl, rfl, rfl, rfl, rfl, rfl⟩

theorem Reading.trans (h : Reading s t) (k : Reading t u) : Reading s u := by
  obtain ⟨mem, stale, seqs, tasks, cur, parts⟩ := h
  obtain ⟨mem1, stale1, seqs1, tasks1, cur1, parts1⟩ := k
  exact ⟨mem1.trans mem, stale1.trans stale, seqs1.trans seqs, tasks1.trans tasks, cur1.trans cur, parts1.trans parts⟩

theorem Reading.task (h : Reading s t) (k : Nat) : t.task k = s.task k := State.task_of_tasks h.2.2.2.1 k

theorem Reading.cur (h : Reading s t) : t.cur = s.cur := h.2.2.2.2.1

theorem Reading.me (h : Reading s t) : t.me = s.me := by rw [State.me, h.cur, h.task, State.me]

theorem Reading.sequencer (h : Reading s t) (r : Nat) : t.sequencer r = s.sequencer r := congrArg (Tab.get · _ r) h.2.2.1

theorem Reading.myDie (h : Reading s t) : t.myDie = s.myDie := congrArg taskDie h.cur

theorem Reading.myAsid (h : Reading s t) : t.myAsid = s.myAsid := by rw [State.myAsid, h.me, State.myAsid]

theorem Reading.myPart (h : Reading s t) : t.myPart = s.myPart := by
  obtain ⟨-, -, -, -, cur, parts⟩ := h
  simp only [State.myPart, State.partOf, State.ringPart, cur, parts]

theorem Reading.sameHbm (h : Reading s t) : SameHbm s t := by
  obtain ⟨mem, stale, -⟩ := h
  intro die pa hbm
  simp [State.view, hbm, mem, stale]

theorem Reading.sealBlock (s : State) (block part : Nat) : Reading s (s.sealBlock block part) := by
  unfold State.sealBlock
  dsimp only
  split
  · exact .refl s
  · split
    · exact .refl s
    · exact .refl s

theorem Reading.writeBack (s : State) (block : Nat) : Reading s (s.writeBack block) := by
  unfold State.writeBack
  dsimp only
  split
  · exact .refl s
  split
  · exact .refl s
  split
  · exact .refl s
  split
  · exact .refl s
  split
  · exact .refl s
  · exact .sealBlock ..

theorem Reading.evict (s : State) (pa : Nat) : Reading s (s.evict pa) := by
  unfold State.evict
  extract_lets own share
  split
  · exact .refl s
  dsimp only
  split
  · exact .refl s
  split
  · exact .writeBack s.drawNat.2 _
  · exact .refl s

theorem Reading.cacheBlock (s : State) (shared : Bool) (pa : Nat) : Reading s (s.cacheBlock shared pa) := by
  unfold State.cacheBlock
  dsimp only
  split
  · exact .refl s
  show Reading s (if _ then s else s.evict pa)
  split
  · exact .refl s
  · exact .evict ..

theorem Reading.leaveBlock (s : State) (cls : BitVec 2) (shared : Bool) (pa : Nat) : Reading s (s.leaveBlock cls shared pa) := by
  unfold State.leaveBlock
  dsimp only
  split
  · exact .refl s
  split
  · exact .writeBack ..
  · exact .refl s

theorem Reading.touchPieces (die part asid fuel va n : Nat) (s : State) : Reading s (State.touchPieces die part asid fuel va n s) := by
  induction fuel generalizing va n s with
  | zero => exact .refl s
  | succ fuel ih =>
    unfold State.touchPieces
    split
    · exact .refl s
    · refine Reading.trans ?_ (ih ..)
      split
      · exact (Reading.cacheBlock ..).trans (.leaveBlock ..)
      · exact .refl s

theorem Reading.touchV (s : State) (die part asid va n : Nat) : Reading s (s.touchV die part asid va n) := .touchPieces ..

theorem Reading.sameRegsBut (h : Reading s t) (k : Nat) (d : Reg) : SameRegsBut s t k d :=
  ⟨fun j r _ => congrArg (Task.reg · r) (h.task j), fun j p => congrArg (Task.pred · p) (h.task j)⟩

/-! ### CINV (R279) -/

@[simp] theorem State.onTo_pc (s : State) (npc : BitVec 16) : (s.onTo npc).me.pc = npc := by rw [State.onTo, State.complete, State.me_updMe]

theorem execCinvCfg_drops {g : Guard} {a b : Reg} (h : Issues g .store [a, b] [] s) :
    execCinvCfg g a b s = .next (State.onTo { s with caches := s.caches.map fun c => (c.1, c.2.filter fun e =>
      !(e.partition == s.myPart && cinvMeets (s.r a).toNat (s.r b).toNat e.va (32 * e.length))) } (s.me.pc + 8)) := seqExec_issues h

theorem execCinvCode_drops {g : Guard} {a b : Reg} (h : Issues g .store [a, b] [] s) :
    execCinvCode g a b s = .next (State.onTo { s with codeCopies := s.codeCopies.filter fun e =>
      !(e.part == s.myPart && cinvMeets (s.r a).toNat (s.r b).toNat e.va e.bytes.length) } (s.me.pc + 8)) := seqExec_issues h

/-- A copy is kept exactly when it is another partition's or does not meet the range. -/
theorem kept_iff {p q : Nat} {meets : Bool} : (!(p == q && meets)) = true ↔ p ≠ q ∨ meets = false := by
  cases meets <;> simp

/-! ### The words of a body (R280) -/

/-- The state in which a word has been written to the code store of the running task's ring. -/
def State.withWord (s : State) (x : Nat) (bs : List Byte) : State :=
  s.setSequencer (taskRing s.cur) { s.sequencer (taskRing s.cur) with
    istore := Memory.writeBytes (s.sequencer (taskRing s.cur)).istore x bs
    ibad := (s.sequencer (taskRing s.cur)).ibad.filter fun y => y != x / 8 }

/-- A word written, whatever the write then changes of the task but its registers, is one event of the load. -/
theorem loadsWord_updMe {l : List (Nat × List Byte)} {k x : Nat} {bs : List Byte} {f : Task → Task} (h : Reading s u)
    (word : l[k]? = some (x, bs)) (wf : (s.sequencer (taskRing s.cur)).istore.wf = true)
    (regs : (f s.me).regs = s.me.regs) (preds : (f s.me).preds = s.me.preds)
    (last : l.length = 1 → (f s.me).pc = s.me.pc + 8 ∧ (f s.me).waitFor = none)
    (more : l.length ≠ 1 → (f s.me).pc = s.me.pc ∧ (f s.me).waitFor = some (.words (l.eraseIdx k))) :
    LoadsWord s ((u.withWord x bs).updMe f) l := by
  have me : (u.withWord x bs).me = s.me := h.me
  have store : (((u.withWord x bs).updMe f).sequencer (taskRing s.cur)) = { s.sequencer (taskRing s.cur) with
      istore := Memory.writeBytes (s.sequencer (taskRing s.cur)).istore x bs
      ibad := (s.sequencer (taskRing s.cur)).ibad.filter fun y => y != x / 8 } := by
    rw [← h.cur, ← h.sequencer]
    exact State.sequencer_setSequencer ..
  refine ⟨?_, h.sameHbm, fun r hr => ?_, ?_, k, x, bs, word, fun i hi => ?_, fun y hy => ?_, ?_, ?_⟩
  · have kept : SameRegsBut s (u.withWord x bs) s.cur 0 := h.sameRegsBut _ _
    rw [← h.cur] at kept ⊢
    refine kept.trans (SameRegsBut.updTask (s := u.withWord x bs) 0 ?_ ?_)
    · show (f (u.withWord x bs).me).regs = (u.withWord x bs).me.regs
      rw [me, regs]
    · show (f (u.withWord x bs).me).preds = (u.withWord x bs).me.preds
      rw [me, preds]
  · rw [← h.cur] at hr
    exact (State.sequencer_setSequencer_ne u hr _).trans (h.sequencer r)
  · rw [store]
  · rw [store, Memory.read_writeBytes x bs _ wf, if_pos (by omega), Nat.add_sub_cancel_left]
  · rw [store, Memory.read_writeBytes x bs _ wf, if_neg (by omega)]
  · rwa [State.me_updMe, me]
  · rwa [State.me_updMe, me]

theorem loadWord_loads {l : List (Nat × List Byte)} (h : Reading s u) (some : l ≠ [])
    (wf : (s.sequencer (taskRing s.cur)).istore.wf = true) : ∃ t, (loadWord l u).finish = .next t ∧ LoadsWord s t l := by
  have drawn : Reading s u.drawNat.2 := h
  obtain ⟨k, hk⟩ : ∃ k, u.drawNat.1 % l.length = k := ⟨_, rfl⟩
  have lt : k < l.length := hk ▸ Nat.mod_lt _ (List.length_pos_iff.mpr some)
  have word : l[k]? = .some l[k] := List.getElem?_eq_getElem lt
  have event : loadWord l u = if (l.eraseIdx k).isEmpty then .done (u.drawNat.2.withWord l[k].1 l[k].2)
      else .more (.words (l.eraseIdx k)) (u.drawNat.2.withWord l[k].1 l[k].2) := by
    unfold loadWord
    dsimp only
    rw [hk, word]
    rfl
  have rest : (l.eraseIdx k).isEmpty = true ↔ l.length = 1 := by
    rw [List.isEmpty_iff_length_eq_zero, List.length_eraseIdx_of_lt lt]
    omega
  rw [event]
  split
  case isTrue none =>
    refine ⟨_, rfl, loadsWord_updMe drawn word wf rfl rfl (fun _ => ⟨?_, rfl⟩) fun two => absurd (rest.mp none) two⟩
    exact congrArg (·.pc + 8) h.me
  case isFalse left => exact ⟨_, rfl, loadsWord_updMe drawn word wf rfl rfl (fun one => absurd (rest.mpr one) left) fun _ => ⟨rfl, rfl⟩⟩

theorem eightsAt_eq_map (n x : Nat) (bs : List Byte) (len : bs.length = 8 * n) :
    eightsAt n x bs = (List.range n).map fun j => (x + 8 * j, (bs.drop (8 * j)).take 8) := by
  induction n generalizing x bs with
  | zero => rfl
  | succ n ih =>
    have more : bs.isEmpty = false := by
      cases bs with
      | nil => simp at len
      | cons => rfl
    rw [eightsAt, more, if_neg Bool.false_ne_true, ih _ _ (by simp [len]; omega), List.range_succ_eq_map, List.map_cons, List.map_map]
    simp [Function.comp_def, Nat.mul_add, Nat.add_assoc, Nat.add_comm]

/-! ### Reading an image (R115, R280) -/

/-- Bytes of which no copy is held are those of memory. -/
theorem mixBytes_nil (f base va : Nat) (bs : List Byte) : mixBytes f base va [] bs = bs := by
  apply List.ext_getElem
  · simp [mixBytes]
  · intro i h1 h2
    simp [mixBytes, h2]

theorem readBytes_ok {va n : Nat} {bs : List Byte} (k : List Byte → State → SeqRes)
    (h : s.readV s.myDie s.myPart s.myAsid (.task s.cur) va n = .ok bs) :
    readBytes va n s k = k bs (s.touchV s.myDie s.myPart s.myAsid va n) := by
  unfold readBytes
  dsimp only
  rw [h]

/-- A turn of an ILOAD of which no copy is held: the bytes `got` that the header or earlier turns gave, with which it stands at `u`, and the
`n` of the `left` bytes that it reads as `b0`. The header is right. -/
structure ImagePart (a : Reg) (dst : BitVec 13) (s u : State) (got b0 : List Byte) (left n : Nat) : Prop where
  reads : ∀ l, s.me.waitFor ≠ some (.words l)
  noCopy : ∀ c ∈ s.codeCopies, ¬ (c.part = s.myPart ∧ c.asid = s.myAsid ∧ c.va = (s.r a).toNat)
  head : s.movedBytes = [] ∧ s.drawNat.2.readV s.myDie s.myPart s.myAsid (.task s.cur) (s.r a).toNat 16 = .ok got
      ∧ u = s.drawNat.2.touchV s.myDie s.myPart s.myAsid (s.r a).toNat 16
    ∨ s.movedBytes = got ∧ got ≠ [] ∧ u = s.drawNat.2
  rest : left = 16 + fieldAt got 0 4 - got.length
  size : n = if Config.freeNat (s.freeCtr + 1) % 2 = 0 then left else min left (2048 - ((s.r a).toNat + got.length) % 2048)
  body : u.readV s.myDie s.myPart s.myAsid (.task s.cur) ((s.r a).toNat + got.length) n = .ok b0
  header : 0 < fieldAt got 0 4 ∧ fieldAt got 0 4 % 8 = 0 ∧ fieldAt got 8 8 = 0 ∧ 8 * dst.toNat + fieldAt got 0 4 ≤ 65536

section
variable {g : Guard} {a : Reg} {dst : BitVec 13} {got b0 : List Byte} {left n : Nat}

theorem ImagePart.reading (p : ImagePart a dst s u got b0 left n) : Reading s u := by
  rcases p.head with ⟨-, -, rfl⟩ | ⟨-, -, rfl⟩
  · exact .touchV s.drawNat.2 ..
  · exact .refl s

theorem ImagePart.withHead_eq (p : ImagePart a dst s u got b0 left n) (f : Nat) (k : List Byte → State → SeqRes) :
    withHead (s.r a).toNat f [] s.movedBytes s.drawNat.2 k = k got u := by
  unfold withHead
  rcases p.head with ⟨none, head, rfl⟩ | ⟨rfl, some, rfl⟩
  · rw [none, List.isEmpty_nil, if_pos rfl, readBytes_ok (s := s.drawNat.2) _ head, mixBytes_nil]
    rfl
  · rw [if_neg (by simpa using some)]

/-- The code copies that an ILOAD looks for. -/
theorem ImagePart.find_copy (p : ImagePart a dst s u got b0 left n) :
    (s.codeCopies.find? fun c => c.part == s.myPart && c.asid == s.myAsid && c.va == (s.r a).toNat) = none := by
  refine List.find?_eq_none.mpr fun c hc found => p.noCopy c hc ?_
  simpa [and_assoc] using found

/-- A turn that reads a part which is not the last ends with it; the last part is checked and its words are written. -/
theorem execIload_reads (h : Issues g .store [a] [] s) (p : ImagePart a dst s u got b0 left n) : ∃ v, Reading s v
    ∧ (n < left → execIload g a dst s = .next (v.updMe fun x => { x with waitFor := some (.parts (got ++ b0)) }))
    ∧ (n = left → crc32c ((got ++ b0).drop 16) = BitVec.ofNat 32 (fieldAt (got ++ b0) 4 4) → ∃ w, Reading s w
      ∧ execIload g a dst s = (loadWord (eightsAt (fieldAt got 0 4 / 8) (dst.toNat * 8) ((got ++ b0).drop 16)) w).finish) := by
  have body : u.readV u.myDie u.myPart u.myAsid (.task u.cur) ((s.r a).toNat + got.length) n = .ok b0 := by
    rw [p.reading.myDie, p.reading.myPart, p.reading.myAsid, p.reading.cur, p.body]
  obtain ⟨pos, eights, zero, fits⟩ := p.header
  have good : (fieldAt got 0 4 = 0 || fieldAt got 0 4 % 8 ≠ 0 || fieldAt got 8 8 ≠ 0
      || decide (65536 < dst.toNat * 8 + fieldAt got 0 4)) = false := by
    simp [eights, zero]
    omega
  have size : (if Config.freeNat s.drawNat.2.freeCtr % 2 = 0 then left
      else min left (2048 - ((s.r a).toNat + got.length) % 2048)) = n := p.size.symm
  have exec : execIload g a dst s = _ := seqExec_issues h
  rw [exec]
  split
  case h_1 l words => exact absurd words (p.reads l)
  simp only [p.find_copy, p.withHead_eq, List.drop_nil, mixBytes_nil, good, Bool.false_eq_true, if_false, ← p.rest, size,
    readBytes_ok _ body]
  have touched := p.reading.trans (.touchV u u.myDie u.myPart u.myAsid ((s.r a).toNat + got.length) n)
  refine ⟨_, touched, fun part => ?part, fun whole crc => ?whole⟩
  case part =>
    rw [if_pos part]
    rfl
  case whole =>
    rw [if_neg (by omega), crc, bne_self_eq_false, if_neg Bool.false_ne_true]
    refine ⟨_, ?_, rfl⟩
    exact touched

end

/-- Settles O29: CINV by what its filters keep; an ILOAD's turn by the part it reads, and by the word it writes. -/
theorem codeAndCachesComplete : Obligations.CodeAndCachesComplete := by
  unfold Obligations.CodeAndCachesComplete
  refine ⟨fun g a b s h => ⟨?_, ?_⟩, fun g a dst s h => ⟨?_, fun l words some _ wf => ?_⟩⟩
  · refine ⟨_, execCinvCfg_drops h, State.onTo_pc .., SameRegsBut.updTask (s := { s with caches := _ }) 0 rfl rfl,
      ⟨fun _ _ => rfl, rfl, fun _ => ⟨rfl, rfl⟩⟩, fun c hc e he mine => ?_, fun c hc e he keep => ?_⟩
    · obtain ⟨c0, -, rfl⟩ := List.mem_map.mp hc
      exact (kept_iff.mp (List.mem_filter.mp he).2).resolve_left (· mine)
    · exact ⟨_, List.mem_map_of_mem hc, rfl, List.mem_filter.mpr ⟨he, kept_iff.mpr keep⟩⟩
  · refine ⟨_, execCinvCode_drops h, State.onTo_pc .., SameRegsBut.updTask (s := { s with codeCopies := _ }) 0 rfl rfl,
      ⟨fun _ _ => rfl, rfl, fun _ => ⟨rfl, rfl⟩⟩, fun e he mine => ?_, fun e he keep => ?_⟩
    · exact (kept_iff.mp (List.mem_filter.mp he).2).resolve_left (· mine)
    · exact List.mem_filter.mpr ⟨he, kept_iff.mpr keep⟩
  · rintro u got b0 len left n reads noCopy head rest size body - b0len rfl pos eights zero fits
    have part : ImagePart a dst s u got b0 left n := ⟨reads, noCopy, head, rest, size, body, pos, eights, zero, fits⟩
    obtain ⟨v, hv, on, done⟩ := execIload_reads h part
    refine ⟨fun less => ⟨_, on less, ?_, ?_, ?_, ?_, fun r => hv.sequencer r⟩, fun whole short crc wf => ?_⟩
    · rw [State.me_updMe, hv.me]
    · rw [State.movedBytes, State.me_updMe]
    · rw [← hv.cur]
      exact (hv.sameRegsBut _ _).trans (.updTask 0 rfl rfl)
    · exact hv.sameHbm
    · obtain ⟨w, hw, exec⟩ := done whole (by rw [← crc, BitVec.ofNat_toNat, BitVec.setWidth_eq])
      rw [eightsAt_eq_map _ _ _ (by simp; omega), Nat.mul_comm dst.toNat 8] at exec
      obtain ⟨t, ht, loads⟩ := loadWord_loads (l := (List.range (fieldAt got 0 4 / 8)).map _) hw (by simp; omega) wf
      exact ⟨t, exec.trans ht, loads⟩
  · have exec : execIload g a dst s = _ := seqExec_issues h
    obtain ⟨t, ht, loads⟩ := loadWord_loads (.refl s) some wf
    refine ⟨t, exec.trans ?_, loads⟩
    rw [words, ht]

end Sys2Proof.Machine
end

section
/-! PROOF. SENDQ (O9): what a delivery comes to at each kind of endpoint, and what the instruction makes of it. -/
namespace Sys2Proof.Machine

variable {s : State} {ep : BitVec 16} {ring part : Nat} {e : QEntry}

/-! ### Deliveries (R113, R117, R240) -/

theorem deliver_reserved (reserved : endpointOf ep = none) : s.deliver part ep e = .perm := by
  unfold State.deliver
  rw [reserved]

theorem deliver_disabled {ch : Nat} (off : endpointOf ep = some ⟨false, ring, ch⟩) : s.deliver part ep e = .none := by
  unfold State.deliver
  rw [off]
  rfl

theorem deliver_outside {ch : Nat} (on : endpointOf ep = some ⟨true, ring, ch⟩) (outside : s.ringPart ring ≠ some part) :
    s.deliver part ep e = .perm := by
  unfold State.deliver
  simp only [on, outside, Bool.not_true, Bool.false_eq_true, if_false, ne_eq, not_false_eq_true, if_true]

theorem deliver_channel_eq {ch : Nat} (on : endpointOf ep = some ⟨true, ring, ch⟩) (inside : s.ringPart ring = some part) (chan : ch < 8) :
    s.deliver part ep e = if (s.queue (8 * ring + ch)).length < 32 then .done (s.pushQ (8 * ring + ch) e) else .full := by
  unfold State.deliver
  simp only [on, inside, chan, Bool.not_true, Bool.false_eq_true, if_false, ne_eq, not_true_eq_false, if_true]

/-- The token that an entry becomes in an input FIFO, with the writes that its release orders before it (R240, R241). -/
def QEntry.asToken (e : QEntry) : Token := { entryToken e.kind e.level e.slice e.word with deps := e.deps }

/-- The state in which an input FIFO of a run has taken an entry; a STOP of level 7 closes it (R117). -/
def State.acceptIn (s : State) (r : Run) (j : Fin 8) (e : QEntry) : State :=
  let taken : InBind := { r.ins[j].accept r.cutRule e.asToken with closed := decide (e.kind = 1) && decide (e.level = 7) }
  s.updRun r.serial fun y => { y with ins := y.ins.set j.val taken }

section
variable {j : Fin 8} (on : endpointOf ep = some ⟨true, ring, 8 + j.val⟩) (inside : s.ringPart ring = some part)
include on inside

theorem deliver_noRun (none : s.runOnRing ring = none) : s.deliver part ep e = .perm := by
  unfold State.deliver
  simp only [on, inside, none, Bool.not_true, Bool.false_eq_true, if_false, ne_eq, not_true_eq_false, show ¬ 8 + j.val < 8 by omega]

theorem deliver_input {r : Run} (run : s.runOnRing ring = some r) : s.deliver part ep e =
    if bindKind r.recd.ifb[j] ≠ 2 then .perm else if r.ins[j].closed then .none
    else if r.ins[j].room then .done (s.acceptIn r j e) else .full := by
  have binding : r.recd.ifb.toList[j.val]? = some r.recd.ifb[j] := by simp
  unfold State.deliver
  simp only [on, inside, run, Bool.not_true, Bool.false_eq_true, if_false, ne_eq, not_true_eq_false, show ¬ 8 + j.val < 8 by omega,
    Nat.add_sub_cancel_left, binding, j.isLt, dif_pos]
  rfl

end

/-- A request to a die whose present incarnation is known does not miss it (R385). -/
theorem misses_of_knows {die home : Nat} (known : s.knows die home) : s.misses die home = (false, s) := by
  unfold State.misses
  split
  · rfl
  next other =>
    have aim : s.aim die home = (s.inc home, s) := if_pos (known.resolve_left other)
    simp only [aim, bne_self_eq_false]

/-! ### The instruction (R225, R240, R241) -/

section
variable {k : SendKind} {w : Word} (first : s.me.waitFor = none)
include first

/-- An endpoint that refuses is a precise PERM, whatever is outstanding. -/
theorem sendTo_refused (perm : ∀ e, s.deliver s.myPart ep e = .perm) :
    (sendTo k w ep s).finish = .next (s.takeFault s.cur 0 s.me.pc (s.report fPERM 0 0)) := by
  unfold sendTo
  rw [first, perm]
  rfl

/-- An endpoint that takes nothing lets the instruction complete, whatever is outstanding. -/
theorem sendTo_nowhere (none : ∀ e, s.deliver s.myPart ep e = .none) : (sendTo k w ep s).finish = .next (s.onTo (s.me.pc + 8)) := by
  unfold sendTo
  rw [first, none]
  rfl

variable {room : Bool} {put : QEntry → State} (reach : ∀ e, s.deliver s.myPart ep e = if room then .done (put e) else .full)
  (waits : s.waitOver s.cur (.deliver ep (s.endpointRun ep)) = ((s.accessesOf s.cur).isEmpty && s.epRoom s.myPart ep))
include reach

omit first in
theorem epRoom_eq_room : s.epRoom s.myPart ep = room := by
  unfold State.epRoom
  rw [reach]
  cases room <;> rfl

theorem sendTo_eq_sendNow : sendTo k w ep s = sendNow k w ep (s.endpointRun ep) s := by
  unfold sendTo
  rw [first, reach]
  cases room <;> rfl

include waits

theorem sendTo_blocks (why : room = false ∨ s.accessesOf s.cur ≠ []) :
    (sendTo k w ep s).finish = .next (s.block (.deliver ep (s.endpointRun ep))) := by
  have held : s.waitOver s.cur (.deliver ep (s.endpointRun ep)) = false := by
    rw [waits, epRoom_eq_room reach]
    rcases why with full | busy
    · rw [full, Bool.and_false]
    · rw [List.isEmpty_eq_false_iff.mpr busy, Bool.false_and]
  rw [sendTo_eq_sendNow first reach, sendNow, if_neg (by rw [held]; exact Bool.false_ne_true)]
  rfl

theorem sendTo_delivers (free : room = true) (idle : s.accessesOf s.cur = []) (known : s.knows s.myDie (endpointDie ep))
    (pc : ∀ e, (put e).me.pc = s.me.pc) :
    (sendTo k w ep s).finish = .next ((put ⟨k.code, k.level, false, w, s.sendDeps ep⟩).onTo (s.me.pc + 8)) := by
  have goes : s.waitOver s.cur (.deliver ep (s.endpointRun ep)) = true := by
    rw [waits, epRoom_eq_room reach, free, idle]
    rfl
  rw [sendTo_eq_sendNow first reach, sendNow, if_pos goes, if_neg (by simp), misses_of_knows known]
  simp only [reach, free, if_true, SeqRes.finish, State.nextPc, pc, State.onTo]

end

theorem me_pushQ_pc (s : State) (n : Nat) (e : QEntry) : (s.pushQ n e).me.pc = s.me.pc := by
  show (((s.setQueue n (s.queue n ++ [e])).updTask n fun x => { x with parked := false }).task s.cur).pc = s.me.pc
  by_cases mine : s.cur = n
  · rw [← mine, State.task_updTask]
    rfl
  · rw [State.task_updTask_ne _ mine]
    rfl

/-! ### Who takes an entry (R117, R240) -/

/-- A run that occupies a ring holds its rings, so it is not over. -/
theorem placed_of_runOnRing {r : Run} (run : s.runOnRing ring = some r) : r.placed = true := by
  unfold State.runOnRing at run
  dsimp only at run
  split at run
  case h_1 r1 moved =>
    obtain ⟨g, -, found⟩ := Option.bind_eq_some_iff.mp moved
    cases run
    exact (Bool.and_eq_true _ _ ▸ List.find?_some found).1
  case h_2 => exact (Bool.and_eq_true _ _ ▸ List.find?_some run).1

theorem waitOver_channel {ch : Nat} (on : endpointOf ep = some ⟨true, ring, ch⟩) (chan : ch < 8) : s.endpointRun ep = none
    ∧ s.waitOver s.cur (.deliver ep (s.endpointRun ep)) = ((s.accessesOf s.cur).isEmpty && s.epRoom s.myPart ep) := by
  have none : s.endpointRun ep = none := by
    unfold State.endpointRun
    simp [on, chan]
  rw [none]
  exact ⟨rfl, rfl⟩

theorem waitOver_input {j : Fin 8} {r : Run} (on : endpointOf ep = some ⟨true, ring, 8 + j.val⟩) (run : s.runOnRing ring = some r)
    (serial : s.run r.serial = some r) : s.endpointRun ep = some r.serial
    ∧ s.waitOver s.cur (.deliver ep (s.endpointRun ep)) = ((s.accessesOf s.cur).isEmpty && s.epRoom s.myPart ep) := by
  have placed := placed_of_runOnRing run
  have alive : r.over = false := by
    revert placed
    unfold Run.placed Run.over
    cases r.phase <;> simp
  have some : s.endpointRun ep = some r.serial := by
    unfold State.endpointRun
    simp [on, run]
  rw [some]
  refine ⟨rfl, ?_⟩
  simp only [State.waitOver, serial, placed, alive, Bool.false_or, Bool.true_and]
  rfl

/-- The token that a SENDQ's entry becomes: a STOP of its level, or the word in lanes 1:0 (R117). -/
theorem asToken_of_kind (k : SendKind) (w : Word) (deps : List Nat) (x : Token) (hx : x = (⟨k.code, k.level, false, w, deps⟩ : QEntry).asToken) :
    x.kind = k.code ∧ (∀ l, k = .stop l → x.level.toNat = l.val + 1) ∧ ((∀ l, k ≠ .stop l) → x.mask = 3 ∧ lanes10 x.payload = w) ∧ x.deps = deps := by
  have lanes : lanes10 (wordPayload w) = w := by
    unfold lanes10 wordPayload
    ext i hi
    simp [hi]
    omega
  subst hx
  cases k with
  | stop l =>
    refine ⟨rfl, ?_, fun h => absurd rfl (h l), rfl⟩
    rintro _ ⟨⟩
    have : (BitVec.ofNat 3 (l.val + 1)).toNat = l.val + 1 := by
      simp
      omega
    exact this
  | data => exact ⟨rfl, nofun, fun _ => ⟨rfl, lanes⟩, rfl⟩
  | safe => exact ⟨rfl, nofun, fun _ => ⟨rfl, lanes⟩, rfl⟩
  | mark => exact ⟨rfl, nofun, fun _ => ⟨rfl, lanes⟩, rfl⟩

/-- What closes a binding is a STOP of level 7 (R117). -/
theorem closes_iff (k : SendKind) : (decide (k.code = 1) && decide (k.level = 7)) = decide (k = .stop 6) := by
  cases k with
  | stop l =>
    fin_cases l <;> decide
  | data | safe | mark => decide

/-- Settles O9: by the endpoint, what a delivery comes to there, and what the instruction makes of it. -/
theorem sendqDelivers : Obligations.SendqDelivers := by
  unfold Obligations.SendqDelivers
  intro g k a b ep s i first form
  have body : exec i s = (sendTo k (s.r a) ep s).finish := by
    rcases form with ⟨rfl, issues⟩ | ⟨rfl, rfl, issues⟩
    · exact (seqExec_issues issues : execSendq g k a ep s = _)
    · exact (seqExec_issues issues : execSendqReg g k a b s = _)
  rw [body]
  refine ⟨fun ring ch on inside chan known => ?_, fun ring j on inside => ⟨fun none => ?_, fun r run serial =>
    ⟨fun kind => ?_, fun kind closed => ?_, fun kind closed => ?_⟩⟩, fun ring ch off => ?_, ?_⟩
  · have reach (e : QEntry) : s.deliver s.myPart ep e =
        if decide ((s.queue (8 * ring + ch)).length < 32) then .done (s.pushQ (8 * ring + ch) e) else .full := by
      rw [deliver_channel_eq on inside chan]
      simp only [decide_eq_true_eq]
    have home : endpointDie ep = ringDie ring := by rw [endpointDie, on]
    obtain ⟨run, waits⟩ := waitOver_channel (s := s) on chan
    refine ⟨fun room idle => ?_, fun held => ?_⟩
    · exact sendTo_delivers first reach waits (decide_eq_true room) idle (home ▸ known) (me_pushQ_pc s _)
    · rw [sendTo_blocks first reach waits (held.imp_left fun full => by simpa using full), run]
  · exact sendTo_refused first fun e => deliver_noRun on inside none
  · exact sendTo_refused first fun e => (deliver_input on inside run).trans (if_pos kind)
  · exact sendTo_nowhere first fun e => by rw [deliver_input on inside run, if_neg (not_not.mpr kind), if_pos closed]
  · have reach (e : QEntry) : s.deliver s.myPart ep e = if r.ins[j].room then .done (s.acceptIn r j e) else .full := by
      rw [deliver_input on inside run, if_neg (not_not.mpr kind), if_neg (by rw [closed]; exact Bool.false_ne_true)]
    have home : endpointDie ep = ringDie ring := by rw [endpointDie, on]
    obtain ⟨named, waits⟩ := waitOver_input on run serial
    refine ⟨fun held => ?_, fun room idle known => ?_⟩
    · rw [sendTo_blocks first reach waits held, named]
    · obtain ⟨code, level, word, deps⟩ := asToken_of_kind k (s.r a) (s.sendDeps ep) _ rfl
      refine ⟨_, code, level, word, deps, ?_⟩
      rw [sendTo_delivers first reach waits room idle (home ▸ known) fun _ => rfl, State.acceptIn, closes_iff]
  · exact sendTo_nowhere first fun e => deliver_disabled off
  · rintro (reserved | ⟨ring, ch, on, outside⟩)
    · exact sendTo_refused first fun e => deliver_reserved reserved
    · exact sendTo_refused first fun e => deliver_outside on outside

end Sys2Proof.Machine
end

section
/-! PROOF. What the ops of O32 and O34 share: what a DATA firing keeps of an op's registers, elements and mask bits one by one, and the end of a
firing that counts events. -/
namespace Sys2Proof.Machine

/-! ### What a DATA firing keeps of an op's registers (R29, R131) -/

/-- A work whose op differs from another's in its held tokens only. -/
def Work.HeldOnly (w x : Work) : Prop := ∃ h, x.op = { w.op with held := h }

theorem Work.HeldOnly.trans {w x y : Work} (h : w.HeldOnly x) (k : x.HeldOnly y) : w.HeldOnly y := by
  obtain ⟨held, e⟩ := h
  obtain ⟨held', e'⟩ := k
  exact ⟨held', by rw [e', e]⟩

@[simp] theorem Work.pop_op (w : Work) (src : Src) (r : Reader) : (w.pop src r).op = w.op := by
  unfold Work.pop
  extract_lets w1
  split
  · rfl
  · split
    · split <;> rfl
    · rfl
  · rfl

@[simp] theorem Work.pop_s0 (w : Work) (src : Src) (r : Reader) : (w.pop src r).s0 = w.s0 := (w.consumed_pop src r).1

theorem Work.heldOnly_take (w : Work) (n : PortName) (p : Port) : w.HeldOnly (w.take n p) := by
  unfold Work.take
  split
  · exact ⟨_, rfl⟩
  · exact ⟨_, rfl⟩
  · exact ⟨_, w.pop_op ..⟩
  · split
    · dsimp only
      split <;> exact ⟨_, rfl⟩
    · split
      · exact ⟨_, rfl⟩
      · dsimp only
        split
        · exact ⟨_, w.pop_op ..⟩
        · exact ⟨_, by rw [w.pop_op]⟩

theorem Work.heldOnly_takePred (w : Work) (src : PSrc) : w.HeldOnly (w.takePred src) := by
  unfold Work.takePred
  split
  · exact ⟨_, rfl⟩
  · unfold Work.ppop
    dsimp only
    split <;> exact ⟨_, rfl⟩

/-- An op that has used its ports and its predicate bit keeps its registers: of its state, only the held tokens are others. -/
theorem Work.heldOnly_used (f : CCFrame) (w : Work) : w.HeldOnly (w.used f) :=
  ((w.heldOnly_take ..).trans ((Work.heldOnly_take ..).trans (Work.heldOnly_take ..))).trans (Work.heldOnly_takePred ..)

section
variable {f : CCFrame} {b : Behave} {s : State} {w x : Work} {a y c t : Token} {ev : Ev}

theorem DataDue.used_outs {bit : Bool} (due : DataDue f bit s w a y c) : (w.used f).outs = [] := by
  obtain ⟨-, outs, -⟩ := w.consumed_used f
  obtain ⟨-, -, none⟩ := due.1.fresh
  exact outs.trans none

theorem DataDue.used_s0 {bit : Bool} (due : DataDue f bit s w a y c) : (w.used f).s0 = s := by
  obtain ⟨same, -⟩ := w.consumed_used f
  exact same.trans due.1.fresh.1

/-! ### The end of a firing that counts events (R84, R126) -/

theorem Work.count_eq (w : Work) (on : Bool) (ev : Ev) :
    w.count on ev = { w with op := { w.op with silt := if on then w.op.silt.count ev else w.op.silt } } := by
  cases on <;> rfl

/-- A firing that counts its events and writes one token to OA and OB. -/
theorem Work.count_emit2 (h : w.outs = []) (on : Bool) : (w.count on ev).emit2 t =
    { w with outs := [(0, t), (1, t)], op := { w.op with silt := if on then w.op.silt.count ev else w.op.silt } } := by
  rw [Work.count_eq]
  exact emit2_eq h

/-- An op whose DATA firing counts its events and writes one token to OA and OB. -/
theorem counted_comes (due : DataDue f true s w a y c) (h : b.data (w.used f) a y c = ((w.used f).count f.stats ev).emit2 t) :
    Comes [f.oa, f.ob] f.silt s { w.used f with
      outs := [(0, t), (1, t)], op := { (w.used f).op with silt := if f.stats then (w.used f).op.silt.count ev else (w.used f).op.silt } } (ccExec f b s) :=
  ccExec_comes due (h.trans (Work.count_emit2 due.used_outs _)) rfl

/-- A turn of an op that reads no register, when its firing answers. -/
theorem ccTotal_comes {fire : Work → Option Work} (ready : Ready s w) (h : fire w = some x) (s0 : x.s0 = w.s0) :
    Comes [f.oa, f.ob] f.silt s x (ccTotal f fire s) := by
  rw [ccTotal_ready ready h, ← ready.fresh.1, ← s0]
  exact commit_comes ..

/-- The DATA firing of an op that reads a counter, a carry or a flag. -/
theorem ccTurn_data_comes (due : DataDue f true s w a y c) (hx : b.data (w.used f) a y c = x) (s0 : x.s0 = (w.used f).s0) :
    Comes [f.oa, f.ob] f.silt s x (ccTurn f (ccFire f b) s) := by
  have start : x.s0 = s := s0.trans due.used_s0
  rw [ccTurn_ready due.1 (ccFire_data due), if_pos rfl, hx, ← start]
  exact commit_comes ..

end

/-! ### Elements and mask bits one by one (R21, R22) -/

theorem elem_packElems_map {w n e : Nat} (g : Nat → Nat) (he : e < n) (hn : n ≤ 512 / w) :
    elem (packElems w ((List.range n).map g)) w e = g e % 2 ^ w := by
  rw [elem_packElems _ (he.trans_le hn)]
  simp [List.getD_eq_getElem?_getD, he]

theorem first_element (t : Ty) : 0 < 512 / t.width := by cases t <;> decide

/-- A mask whose bits are set one by one. -/
theorem getLsbD_setBits {W l : Nat} (p : Nat → Bool) (m : BitVec W) (n : Nat) (hl : l < W) :
    ((List.range n).foldl (fun m i => if p i then m ||| BitVec.twoPow W i else m) m).getLsbD l = (m.getLsbD l || (decide (l < n) && p l)) := by
  induction n with
  | zero => simp
  | succ n ih =>
    have step (x : BitVec W) : (if p n then x ||| BitVec.twoPow W n else x).getLsbD l = (x.getLsbD l || (decide (n = l) && p n)) := by
      have inside : (decide (n < W) && decide (n = l)) = decide (n = l) := by
        rw [← Bool.decide_and, decide_eq_decide]
        omega
      by_cases hp : p n = true
      · rw [if_pos hp, BitVec.getLsbD_or, BitVec.getLsbD_twoPow, inside, hp, Bool.and_true]
      · rw [if_neg hp, Bool.eq_false_iff.mpr hp, Bool.and_false, Bool.or_false]
    rw [List.range_succ, List.foldl_append, List.foldl_cons, List.foldl_nil, step, ih, Bool.or_assoc]
    congr 1
    rcases Nat.lt_trichotomy l n with below | rfl | above
    · simp [below, Nat.lt_succ_of_lt below, below.ne']
    · simp
    · simp [above.ne, Nat.not_lt.mpr above, Nat.not_lt.mpr above.le]

end Sys2Proof.Machine
end

section
/-! PROOF. The float ops and the conversions (O32): each op's result element by element, and the lanes of a conversion's output. -/
namespace Sys2Proof.Machine

/-! ### The lanes of a conversion's output (R142) -/

/-- The elements of width w that lie in a lane, or hold it. -/
def laneElems (w l : Nat) : List Nat := if w = 64 then [l / 2] else (List.range (32 / w)).map fun i => 32 / w * l + i

theorem mem_laneElems {w l e : Nat} (hw : 32 / w * w = 32 ∨ w = 64) : e ∈ laneElems w l ↔ w * e < 32 * (l + 1) ∧ 32 * l < w * (e + 1) := by
  rcases hw with parts | rfl
  · have narrow : w ≠ 64 := by rintro rfl; exact absurd parts (by decide)
    have positive : 0 < w := Nat.pos_of_ne_zero (by rintro rfl; exact absurd parts (by decide))
    rw [laneElems, if_neg narrow]
    generalize 32 / w = k at parts
    have below : w * e < 32 * (l + 1) ↔ e < k * l + k := by
      rw [← parts, show k * w * (l + 1) = w * (k * l + k) by ring, Nat.mul_lt_mul_left positive]
    have above : 32 * l < w * (e + 1) ↔ k * l < e + 1 := by
      rw [← parts, show k * w * l = w * (k * l) by ring, Nat.mul_lt_mul_left positive]
    rw [below, above, List.mem_map]
    constructor
    · rintro ⟨i, hi, rfl⟩
      have := List.mem_range.mp hi
      omega
    · rintro ⟨hlt, hle⟩
      exact ⟨e - k * l, List.mem_range.mpr (by omega), by omega⟩
  · rw [laneElems, if_pos rfl, List.mem_singleton]
    omega

theorem width_parts (t : Ty) : 32 / t.width * t.width = 32 ∨ t.width = 64 := by cases t <;> decide

/-- An output lane is valid when every element in it is computed. -/
theorem convMask_getLsbD {w n l : Nat} (hw : 32 / w * w = 32 ∨ w = 64) (computed : Nat → Bool) (hl : l < 16) :
    (convMask w n computed).getLsbD l = true ↔ ∀ e, w * e < 32 * (l + 1) → 32 * l < w * (e + 1) → e < n ∧ computed e = true := by
  have mask : (convMask w n computed).getLsbD l = (laneElems w l).all fun e => decide (e < n) && computed e :=
    (getLsbD_setBits (fun i => (laneElems w i).all fun e => decide (e < n) && computed e) 0 16 hl).trans (by simp [hl])
  simp only [mask, List.all_eq_true, mem_laneElems hw, Bool.and_eq_true, decide_eq_true_eq, and_imp]

section
variable {f : CCFrame} {s : State} {w : Work} {a y c : Token}

theorem destTy_eq {u : Ty} (h : tyOfCode (f.ext.extractLsb' 0 4) = some u) : destTy f = u := by rw [destTy, h, Option.getD_some]

/-- A conversion, due for a DATA firing: every valid element converted, zero elsewhere. -/
theorem convert_comes {u : Ty} (g : Token → Nat → Nat × Ev) (due : DataDue f true s w a y c) :
    ∃ t x, Comes [f.oa, f.ob] f.silt s { w.used f with outs := [(0, t), (1, t)], op := { (w.used f).op with silt := x } } (ccExec f (convert f u g) s)
      ∧ t.kind = 0
      ∧ (∀ e < 512 / max f.ty.width u.width, elem t.payload u.width e =
          if validE a.mask f.ty.width e then (g y (readElem f.ty f.a a e)).1 % 2 ^ u.width else 0)
      ∧ (∀ l < 16, t.mask.getLsbD l = true ↔ ∀ e, u.width * e < 32 * (l + 1) → 32 * l < u.width * (e + 1) →
          e < 512 / max f.ty.width u.width ∧ validE a.mask f.ty.width e = true) := by
  refine ⟨_, _, counted_comes due rfl, rfl, fun e he => ?_, fun l hl => convMask_getLsbD (width_parts u) _ hl⟩
  have fits : 512 / max f.ty.width u.width ≤ 512 / u.width := Nat.div_le_div_left (le_max_right ..) u.width_pos
  refine (congrArg (fun vs => elem (packElems u.width vs) u.width e) (List.map_map ..)).trans ((elem_packElems_map _ he fits).trans ?_)
  dsimp only [Function.comp]
  split
  · rfl
  · exact Nat.zero_mod _

end

/-- Settles O32: a float op is an element op with its row's result, a conversion is `convert` with its row's. -/
theorem floatAndConversionOpsComplete : Obligations.FloatAndConversionOpsComplete := by
  unfold Obligations.FloatAndConversionOpsComplete
  refine ⟨fun f s w a y c due row hrow => ?_, fun f s w a y c u due hu row hrow => ?_⟩
  · have run : exec (row.1 f) s = ccExec f (elementwise f row.2) s := by
      revert row
      simp only [List.forall_mem_cons, List.not_mem_nil, false_imp_iff, implies_true, and_true]
      and_intros <;> rfl
    rw [run]
    exact ⟨_, _, elementwise_comes row.2 due, isElems_mapElems fun e _ => rfl, fun off => by rw [off, if_neg Bool.false_ne_true]⟩
  · obtain rfl := destTy_eq hu
    have run : exec (row.1 f) s = ccExec f (convert f (destTy f) fun b v => row.2 (lane b.payload 0) v) s := by
      revert row
      simp only [List.forall_mem_cons, List.not_mem_nil, false_imp_iff, implies_true, and_true]
      and_intros <;> rfl
    rw [run]
    exact convert_comes _ due

end Sys2Proof.Machine
end

section
/-! PROOF. Lane moves, PACK and UNPK, and the reductions (O34): each op's DATA firing, clause by clause. -/
namespace Sys2Proof.Machine

section
variable {f : CCFrame} {s : State} {w : Work} {a y c t : Token}

/-! ### Lane moves (R147) -/

/-- A move of lanes, due for a DATA firing: each lane and its mask bit from the source lane. -/
theorem moveLanes_comes (src : Token → Nat → Nat) (due : DataDue f true s w a y c) :
    ∃ t, Comes [f.oa, f.ob] f.silt s { w.used f with outs := [(0, t), (1, t)] } (ccExec f (moveLanes f src) s)
      ∧ t.kind = 0 ∧ ∀ l < 16, lane t.payload l = lane (readPayload f.ty f.a a) (src y l) ∧ t.mask.getLsbD l = a.mask.getLsbD (src y l) := by
  refine ⟨_, ccExec_comes due (emit2_eq due.used_outs) rfl, rfl, fun l hl => ⟨?_, ?_⟩⟩
  · exact (elem_packElems_map _ hl (by decide)).trans (Nat.mod_eq_of_lt (elem_lt ..))
  · exact (getLsbD_setBits (fun i => a.mask.getLsbD (src y i)) 0 16 hl).trans (by simp [hl])

theorem moveBy_eq (f : CCFrame) (y : Token) :
    moveBy f y = if f.flags.getLsbD 0 then lane (readPayload f.ty f.b y) 0 % 16 else f.ext.toNat % 16 := by
  simp [moveBy, fromB, BitVec.extractLsb'_toNat]

theorem toNat_nibble (x : Word) (l : Nat) : (x.extractLsb' (4 * l) 4).toNat = x.toNat / 2 ^ (4 * l) % 16 := by
  rw [BitVec.extractLsb'_toNat, Nat.shiftRight_eq_div_pow]

/-! ### PACK and UNPK (R144, R145) -/

/-- An op's buffer with one part more, from the low part of a token. -/
def OpState.addPart (x : OpState) (r : Nat) (t : Token) : OpState :=
  { x with tot := x.tot ||| ((t.payload.setWidth (512 / r)).setWidth 512 <<< (512 / r * x.part))
           bufMask := x.bufMask ||| ((t.mask.setWidth (16 / r)).setWidth 16 <<< (16 / r * x.part)) }

/-- What PACK emits when a token gives the buffer its last part. -/
def OpState.packed (x : OpState) (r : Nat) (t : Token) : Token := dataTok (x.addPart r t).bufMask (x.addPart r t).tot

theorem packFire_data (port : w.portTok f.ty f.imm .a f.a = some t) (data : t.kind = 0) : packFire f w = some (
    if w.op.part + 1 = packR f then
      Work.emit2 { w.pop f.a.src (.port w.o .a) with op := packClear (w.op.addPart (packR f) t) } (packOut (w.op.addPart (packR f) t))
    else { w.pop f.a.src (.port w.o .a) with op := { w.op.addPart (packR f) t with part := w.op.part + 1 } }) := by
  have noErr : t.isErr = false := by simp [Token.isErr, data]
  have isData : t.isData = true := by simp [Token.isData, data]
  unfold packFire
  simp only [port, isData, noErr, Bool.or_false, if_true, Bool.false_eq_true, if_false, Work.pop_op]
  by_cases last : w.op.part + 1 = packR f
  · rw [if_pos last, if_pos last]
    rfl
  · rw [if_neg last, if_neg last]
    rfl

/-- The op once UNPK has written a part: its token is consumed with the last. -/
def Work.unpacked (w : Work) (f : CCFrame) (t : Token) : Work :=
  if w.op.part + 1 = packR f then w.pop f.a.src (.port w.o .a) else { w with deps := t.deps }

theorem Work.unpacked_keeps (w : Work) (f : CCFrame) (t : Token) :
    (w.unpacked f t).op = w.op ∧ (w.unpacked f t).outs = w.outs ∧ (w.unpacked f t).s0 = w.s0 := by
  obtain ⟨s0, outs, -⟩ := w.consumed_pop f.a.src (.port w.o .a)
  unfold Work.unpacked
  split
  · exact ⟨w.pop_op .., outs, s0⟩
  · exact ⟨rfl, rfl, rfl⟩

theorem unpkFire_data (port : w.portTok f.ty f.imm .a f.a = some t) (data : t.kind = 0) : unpkFire f w = some (Work.emit2 { w.unpacked f t with
    op := { (w.unpacked f t).op with part := if w.op.part + 1 = packR f then 0 else w.op.part + 1, erred := none } } (unpkPart (packR f) w.op.part t)) := by
  have noErr : t.isErr = false := by simp [Token.isErr, data]
  have isData : t.isData = true := by simp [Token.isData, data]
  unfold unpkFire
  simp only [port, isData, noErr, Bool.or_false, if_true, Bool.false_eq_true, if_false, Bool.false_and]
  rfl

/-- A field of a word, moved to its low end. -/
theorem toNat_field {n : Nat} (x : BitVec n) (k m : Nat) (hm : m ≤ n) : (((x >>> k).setWidth m).setWidth n).toNat = x.toNat / 2 ^ k % 2 ^ m := by
  rw [BitVec.toNat_setWidth, BitVec.toNat_setWidth, BitVec.toNat_ushiftRight, Nat.shiftRight_eq_div_pow]
  exact Nat.mod_eq_of_lt ((Nat.mod_lt _ (Nat.two_pow_pos m)).trans_le (Nat.pow_le_pow_right (by decide) hm))

theorem pack_comes_part (ready : Ready s w) (port : w.portTok f.ty f.imm .a f.a = some t) (data : t.kind = 0) (more : w.op.part + 1 ≠ packR f) :
    Comes [f.oa, f.ob] f.silt s { w.pop f.a.src (.port w.o .a) with op := { w.op.addPart (packR f) t with part := w.op.part + 1 } } (exec (.pack f) s) :=
  ccTotal_comes ready ((packFire_data port data).trans (by rw [if_neg more])) (w.pop_s0 ..)

theorem pack_comes_last (ready : Ready s w) (port : w.portTok f.ty f.imm .a f.a = some t) (data : t.kind = 0) (last : w.op.part + 1 = packR f)
    (sound : w.op.erred = none) :
    Comes [f.oa, f.ob] f.silt s { w.pop f.a.src (.port w.o .a) with
      outs := [(0, w.op.packed (packR f) t), (1, w.op.packed (packR f) t)]
      op := packClear w.op } (exec (.pack f) s) := by
  have outs : (w.pop f.a.src (.port w.o .a)).outs = [] := (w.consumed_pop ..).2.1.trans ready.fresh.2.2
  have out : packOut (w.op.addPart (packR f) t) = w.op.packed (packR f) t := by
    have kept : (w.op.addPart (packR f) t).erred = none := sound
    rw [packOut, kept]
    rfl
  refine ccTotal_comes ready ((packFire_data port data).trans ?_) (w.pop_s0 ..)
  rw [if_pos last, out]
  exact congrArg some (emit2_eq outs)

theorem unpk_comes (ready : Ready s w) (port : w.portTok f.ty f.imm .a f.a = some t) (data : t.kind = 0) :
    Comes [f.oa, f.ob] f.silt s { w.unpacked f t with
      outs := [(0, unpkPart (packR f) w.op.part t), (1, unpkPart (packR f) w.op.part t)]
      op := { w.op with part := if w.op.part + 1 = packR f then 0 else w.op.part + 1, erred := none } } (exec (.unpk f) s) := by
  obtain ⟨op, outs, s0⟩ := w.unpacked_keeps f t
  have fire := unpkFire_data port data
  rw [op] at fire
  exact ccTotal_comes ready (fire.trans (congrArg some (emit2_eq (outs.trans ready.fresh.2.2)))) s0

/-! ### The valid elements of a token (R22, R148) -/

/-- The valid elements among the first n of a token, as the op reads them at port A. -/
def validValues (f : CCFrame) (a : Token) (n : Nat) : List Nat := ((List.range n).filter fun e => validE a.mask f.ty.width e).map (readElem f.ty f.a a)

theorem elemsOf_values (f : CCFrame) (a : Token) :
    ((elemsOf f a).filter Prod.snd).map (fun e => readElem f.ty f.a a e.1) = validValues f a (512 / f.ty.width) := by
  simp [validValues, elemsOf, List.filter_map, Function.comp_def]

theorem elemsOf_take {k : Nat} (f : CCFrame) (a : Token) (hk : k ≤ 512 / f.ty.width) :
    (((elemsOf f a).take k).filter Prod.snd).map (fun e => readElem f.ty f.a a e.1) = validValues f a k := by
  simp [validValues, elemsOf, ← List.map_take, List.take_range, Nat.min_eq_left hk, List.filter_map, Function.comp_def]

/-! ### SCAN (R148) -/

/-- Each output of a scan: the combination of the terms it began with and the valid elements before it, its own among them unless exclusive. -/
theorem scanOuts_getElem? (f : CCFrame) (a : Token) (excl : Bool) (l : List (Nat × Bool)) (terms : List Nat) (i : Nat) :
    (scanOuts f a excl l terms)[i]? = l[i]?.map fun x =>
      if x.2 then comb f.ty f.rm f.sat (kindOf f)
        (terms ++ ((l.take (if excl then i else i + 1)).filter Prod.snd).map fun e => readElem f.ty f.a a e.1)
      else (elem a.payload f.ty.width x.1, Ev.zero) := by
  induction l generalizing terms i with
  | nil => simp [scanOuts]
  | cons x l ih =>
    obtain ⟨e, ok⟩ := x
    cases ok with
    | false =>
      cases i with
      | zero => simp [scanOuts]
      | succ i => cases excl <;> simp [scanOuts, ih]
    | true =>
      cases i with
      | zero => cases excl <;> simp [scanOuts]
      | succ i => cases excl <;> simp [scanOuts, ih]

/-- The values a scan begins with: the carried one, if any. -/
def OpState.carried (x : OpState) : List Nat := match x.carry with | some c => [c.toNat] | none => []

/-- The elements that SCAN writes. -/
theorem isElems_scanOuts (f : CCFrame) (a : Token) (excl : Bool) (terms : List Nat) :
    IsElems f.ty.width a (dataTok a.mask (packElems f.ty.width ((scanOuts f a excl (elemsOf f a) terms).map Prod.fst))) fun e =>
      (comb f.ty f.rm f.sat (kindOf f) (terms ++ validValues f a (if excl then e else e + 1))).1 % 2 ^ f.ty.width := by
  refine ⟨rfl, rfl, fun e he => (elem_packElems _ he).trans ?_⟩
  have upTo_le : (if excl then e else e + 1) ≤ 512 / f.ty.width := by split <;> omega
  have here : (elemsOf f a)[e]? = some (e, validE a.mask f.ty.width e) := by simp [elemsOf, he]
  rw [List.getD_eq_getElem?_getD, List.getElem?_map, scanOuts_getElem?, here, Option.map_some, Option.map_some, Option.getD_some, elemsOf_take f a upTo_le]
  dsimp only
  split
  · rfl
  · exact Nat.mod_eq_of_lt (elem_lt ..)

/-- SCAN's DATA firing: it keeps the combination of the whole as its carry where an element is valid. -/
theorem scanBehave_data (f : CCFrame) (w : Work) (a y c : Token) {vals : List Nat}
    (hv : vals = validValues f a (512 / f.ty.width)) :
    ∃ ev, (scanBehave f).data w a y c = (Work.count { w with op := { w.op with
        carry := if vals = [] then w.op.carry else some (BitVec.ofNat 64 (comb f.ty f.rm f.sat (kindOf f) (w.op.carried ++ vals)).1) } } f.stats ev).emit2
      (dataTok a.mask (packElems f.ty.width ((scanOuts f a (f.flags.getLsbD 3) (elemsOf f a) w.op.carried).map Prod.fst))) := by
  unfold scanBehave Behave.plain
  dsimp only
  rw [elemsOf_values, ← hv]
  cases vals with
  | nil => exact ⟨_, rfl⟩
  | cons v vs => exact ⟨_, rfl⟩

theorem scan_comes {vals : List Nat} (due : DataDue f true s w a y c)
    (hv : vals = validValues f a (512 / f.ty.width)) :
    ∃ t x cy, Comes [f.oa, f.ob] f.silt s { w.used f with outs := [(0, t), (1, t)], op := { (w.used f).op with silt := x, carry := cy } } (exec (.scan f) s)
      ∧ IsElems f.ty.width a t (fun e => (comb f.ty f.rm f.sat (kindOf f) (w.op.carried ++ validValues f a (if f.flags.getLsbD 3 then e else e + 1))).1
          % 2 ^ f.ty.width)
      ∧ cy = if vals = [] then w.op.carry else some (BitVec.ofNat 64 (comb f.ty f.rm f.sat (kindOf f) (w.op.carried ++ vals)).1) := by
  obtain ⟨held, op⟩ := w.heldOnly_used f
  have carry : (w.used f).op.carry = w.op.carry := by rw [op]
  have carried : (w.used f).op.carried = w.op.carried := by rw [op]; rfl
  obtain ⟨ev, fire⟩ := scanBehave_data f (w.used f) a y c hv
  rw [carry, carried] at fire
  have comes := ccTurn_data_comes due (fire.trans (Work.count_emit2 (by exact due.used_outs) _)) rfl
  exact ⟨_, _, _, comes, isElems_scanOuts f a _ _, rfl⟩

/-! ### RED and LIDX (R149, R150) -/

theorem red_comes {vals : List Nat} (due : DataDue f true s w a y c)
    (hv : vals = validValues f a (512 / f.ty.width)) :
    ∃ t x, Comes [f.oa, f.ob] f.silt s { w.used f with outs := [(0, t), (1, t)], op := { (w.used f).op with silt := x } } (exec (.red f) s)
      ∧ t.kind = 0 ∧ elem t.payload f.ty.width 0 = (comb f.ty f.rm f.sat (kindOf f) vals).1 % 2 ^ f.ty.width
      ∧ t.mask = (if vals = [] then 0 else if f.ty.width = 64 then 3 else 1) := by
  change ∃ t x, Comes _ _ _ _ (execRed f s) ∧ _
  unfold execRed
  refine ⟨_, _, counted_comes due rfl, rfl, ?_, ?_⟩
  · rw [elemsOf_values, ← hv]
    exact elem_packElems _ (first_element f.ty)
  · rw [elemsOf_values, ← hv]
    cases vals <;> rfl

theorem lidx_comes (due : DataDue f true s w a y c) :
    ∃ t x, Comes [f.oa, f.ob] f.silt s { w.used f with outs := [(0, t), (1, t)], op := { (w.used f).op with silt := x } } (exec (.lidx f) s)
      ∧ t.kind = 0 ∧ t.mask = a.mask
      ∧ ∀ e < 512 / f.ty.width, elem t.payload f.ty.width e = (finInt f.ty f.sat (f.ty.intOf (readElem f.ty f.b y 0) + e)).1 % 2 ^ f.ty.width := by
  change ∃ t x, Comes _ _ _ _ (execLidx f s) ∧ _
  unfold execLidx
  refine ⟨_, _, counted_comes due rfl, rfl, rfl, fun e he => ?_⟩
  simp only [dataTok, elemsOf, List.map_map]
  exact elem_packElems_map _ he le_rfl

/-! ### ACC and COUNT (R159, R160) -/

/-- What ACC and COUNT write before their sequence ends: port A's token to OB, where OB carries its stream. -/
theorem emit_through (h : w.outs = []) : (if through f then w.emit 1 a else w) = { w with outs := if f.flags.getLsbD 3 then [(1, a)] else [] } := by
  unfold through
  split
  · simp [Work.emit, h]
  · rw [← h]

/-- Element e of the totals after a DATA firing of ACC, with its events. -/
def accTerm (f : CCFrame) (x : OpState) (a : Token) (e : Nat) : Nat × Ev :=
  if validE a.mask f.ty.width e then
    if x.nonEmpty.getLsbD e then comb f.ty f.rm f.sat (kindOf f) [elem x.tot f.ty.width e, readElem f.ty f.a a e]
    else ((if kindOf f ≤ 2 then firstTerm f.ty (readElem f.ty f.a a e) else readElem f.ty f.a a e), Ev.zero)
  else (elem x.tot f.ty.width e, Ev.zero)

/-- The elements that have a total after a DATA firing of ACC. -/
def accFull (f : CCFrame) (x : OpState) (a : Token) : BitVec 128 :=
  (List.range (512 / f.ty.width)).foldl (fun m e => if validE a.mask f.ty.width e then m ||| BitVec.twoPow 128 e else m) x.nonEmpty

/-- An op's totals and the elements that have one after a DATA firing of ACC. -/
def OpState.total (x : OpState) (f : CCFrame) (a : Token) : OpState :=
  { x with tot := packElems f.ty.width (((List.range (512 / f.ty.width)).map (accTerm f x a)).map Prod.fst), nonEmpty := accFull f x a }

theorem accBehave_data (f : CCFrame) (w : Work) (a y c : Token) : ∃ ev, (accBehave f).data w a y c =
    if through f then (Work.count { w with op := w.op.total f a } f.stats ev).emit 1 a else Work.count { w with op := w.op.total f a } f.stats ev :=
  ⟨_, rfl⟩

theorem accFull_getLsbD {e : Nat} (f : CCFrame) (x : OpState) (a : Token) (he : e < 512 / f.ty.width) :
    (accFull f x a).getLsbD e = (x.nonEmpty.getLsbD e || validE a.mask f.ty.width e) := by
  have inside : e < 128 := he.trans_le (by cases f.ty <;> decide)
  exact (getLsbD_setBits (fun i => validE a.mask f.ty.width i) x.nonEmpty _ inside).trans (by rw [decide_eq_true he, Bool.true_and])

theorem elem_total {e : Nat} (f : CCFrame) (x : OpState) (a : Token) (he : e < 512 / f.ty.width) :
    elem (x.total f a).tot f.ty.width e = (accTerm f x a e).1 % 2 ^ f.ty.width := by
  rw [OpState.total, List.map_map]
  exact elem_packElems_map _ he le_rfl

theorem firstTerm_int {t : Ty} (h : t.isFlt = false) (v : Nat) : firstTerm t v = v := by simp [firstTerm, h]

theorem acc_comes (due : DataDue f true s w a y c) :
    ∃ x tot full, Comes [f.oa, f.ob] f.silt s
        { w.used f with outs := if f.flags.getLsbD 3 then [(1, a)] else [], op := { (w.used f).op with silt := x, tot := tot, nonEmpty := full } } (exec (.acc f) s)
      ∧ ∀ e < 512 / f.ty.width, full.getLsbD e = (w.op.nonEmpty.getLsbD e || validE a.mask f.ty.width e)
        ∧ (validE a.mask f.ty.width e = false → elem tot f.ty.width e = elem w.op.tot f.ty.width e)
        ∧ (validE a.mask f.ty.width e = true → w.op.nonEmpty.getLsbD e = true → elem tot f.ty.width e =
            (comb f.ty f.rm f.sat (kindOf f) [elem w.op.tot f.ty.width e, readElem f.ty f.a a e]).1 % 2 ^ f.ty.width)
        ∧ (validE a.mask f.ty.width e = true → w.op.nonEmpty.getLsbD e = false → f.ty.isFlt = false → elem tot f.ty.width e = readElem f.ty f.a a e) := by
  obtain ⟨held, op⟩ := w.heldOnly_used f
  have tot : (w.used f).op.tot = w.op.tot := by rw [op]
  have nonEmpty : (w.used f).op.nonEmpty = w.op.nonEmpty := by rw [op]
  obtain ⟨ev, fire⟩ := accBehave_data f (w.used f) a y c
  rw [Work.count_eq] at fire
  refine ⟨_, _, _, ccExec_comes due (fire.trans (emit_through (by exact due.used_outs))) rfl, fun e he => ⟨?_, ?_⟩⟩
  · exact nonEmpty ▸ accFull_getLsbD f (w.used f).op a he
  · rw [← tot, ← nonEmpty]
    refine ⟨fun off => ?_, fun valid filled => ?_, fun valid empty int => ?_⟩
    · refine (elem_total f (w.used f).op a he).trans ?_
      rw [accTerm, off, if_neg Bool.false_ne_true]
      exact Nat.mod_eq_of_lt (elem_lt ..)
    · refine (elem_total f (w.used f).op a he).trans ?_
      rw [accTerm, if_pos valid, if_pos filled]
    · refine (elem_total f (w.used f).op a he).trans ?_
      rw [accTerm, if_pos valid, empty, if_neg Bool.false_ne_true, firstTerm_int int, ite_self]
      exact Nat.mod_eq_of_lt (readElem_lt ..)

theorem raiseCount_eq (f : CCFrame) (w : Work) (n : Nat) : ∃ x, raiseCount f w n =
    { w with op := { w.op with silt := x, count := BitVec.ofNat 32 (min (w.op.count.toNat + n) 0xFFFFFFFF) } } := by
  unfold raiseCount
  dsimp only
  split
  · exact ⟨_, Work.count_eq ..⟩
  · exact ⟨_, rfl⟩

/-- What COUNT adds at a DATA firing. -/
def countStep (f : CCFrame) (a : Token) : Nat := if f.flags.getLsbD 0 then (validValues f a (512 / f.ty.width)).length else 1

theorem countBehave_data (f : CCFrame) (w : Work) (a y c : Token) : (countBehave f).data w a y c =
    if through f then (raiseCount f w (countStep f a)).emit 1 a else raiseCount f w (countStep f a) := by
  rw [countStep, ← elemsOf_values, List.length_map]
  rfl

theorem count_comes (due : DataDue f true s w a y c) :
    ∃ x n, Comes [f.oa, f.ob] f.silt s
        { w.used f with outs := if f.flags.getLsbD 3 then [(1, a)] else [], op := { (w.used f).op with silt := x, count := n } } (exec (.count f) s)
      ∧ n.toNat = min (w.op.count.toNat + countStep f a) (2 ^ 32 - 1) := by
  obtain ⟨held, op⟩ := w.heldOnly_used f
  have count : (w.used f).op.count = w.op.count := by rw [op]
  obtain ⟨x, raised⟩ := raiseCount_eq f (w.used f) (countStep f a)
  have fire := countBehave_data f (w.used f) a y c
  rw [raised, count] at fire
  refine ⟨_, _, ccExec_comes due (fire.trans (emit_through (by exact due.used_outs))) rfl, ?_⟩
  rw [BitVec.toNat_ofNat]
  omega

end

/-- Settles O34, op by op. -/
theorem laneOpsAndReductionsComplete : Obligations.LaneOpsAndReductionsComplete := by
  unfold Obligations.LaneOpsAndReductionsComplete
  refine ⟨fun f s w => ⟨fun a y c p due hp => ?_, fun t r ready port data hr => ?_⟩, fun f s w a y c vals k due hk hv => ?_⟩
  · subst hp
    simp only [List.forall_mem_cons, List.not_mem_nil, false_imp_iff, implies_true, and_true]
    refine ⟨?_, ?_, ?_⟩
    · simp only [← toNat_nibble]
      exact moveLanes_comes _ due
    · simp only [← moveBy_eq]
      exact moveLanes_comes _ due
    · simp only [← moveBy_eq]
      exact moveLanes_comes _ due
  · obtain rfl : r = packR f := hr
    have parts : 512 / packR f ≤ 512 ∧ 16 / packR f ≤ 16 := ⟨Nat.div_le_self .., Nat.div_le_self ..⟩
    refine ⟨fun more => pack_comes_part ready port data more.ne, fun last sound => ⟨_, pack_comes_last ready port data last sound, rfl, rfl, rfl⟩,
      fun _ => ⟨_, _, unpk_comes ready port data, data, ?_, ?_, fun last => if_pos last, fun more => ?_⟩⟩
    · exact toNat_field t.payload _ _ parts.1
    · exact toNat_field t.mask _ _ parts.2
    · rw [Work.unpacked, if_neg more.ne]
  · obtain rfl : k = kindOf f := hk
    subst hv
    refine ⟨red_comes due rfl, lidx_comes due, ?_, acc_comes due, count_comes due⟩
    obtain ⟨t, x, cy, comes, elems, carry⟩ := scan_comes due rfl
    have carried : (w.op.carry.map BitVec.toNat).toList = w.op.carried := by
      unfold OpState.carried
      cases w.op.carry <;> rfl
    rw [carried]
    exact ⟨t, x, cy, comes, elems, fun none => carry.trans (if_pos none), fun some => carry.trans (if_neg some)⟩

end Sys2Proof.Machine
end

section
/-! PROOF. The predicate-node ops (O35): a copy that PDUP makes of a bit before its last is ordered after the writes that the bit is ordered after. -/
namespace Sys2Proof.Machine

/-- A PDUP that writes each bit of PL0 twice to Q0. -/
def dupFrame : PNFrame :=
  { index := 0, in0 := .pl 0, sense0 := false, in1 := .none, sense1 := false, in2 := .none, sense2 := false, table := 0, out0 := .q 0, out1 := .none
    out2 := .none, out3 := .none, level := 1, pattern := 0, plen := 1 }

/-- A stripe with that node, and at PL0 a bit that is ordered after a write on its way, the write numbered 5. -/
def dupStripe : Stripe :=
  Stripe.make 0 0 (Image.single ⟨.pn, 0, 0⟩ (.pdup dupFrame)) false false false (fun _ => []) fun _ => [⟨true, [5]⟩]

/-- A run of that stripe, on ring 0. -/
def dupRun : Run :=
  { Run.init 0 0 0 (.task 0 0) .ended RunRec.bare 0 0 [] with phase := .running, rings := [0], phys := [0], stripes := [(0, dupStripe)] }

/-- The machine with that run, at the node's turn. -/
def dupState : State := { State.reset with runs := [dupRun], focus := ⟨0, 0, ⟨.pn, 0, 0⟩⟩ }

/-- The node at its turn. -/
def dupWork : Work :=
  { s0 := dupState, s := dupState, run := dupRun, slot := 0, st := dupStripe, o := ⟨.pn, 0, 0⟩, op := OpState.init, outs := [], bits := [], silt := false
    deps := [] }

theorem ready_dupWork : Ready dupState dupWork := ⟨rfl, rfl, rfl, rfl⟩

/-- What stands in Q0 after a turn. -/
def queued : Out → List QEntry
  | .next t => t.queue 0
  | _ => []

/-- The first copy: a DATA entry of 1, ordered after the write that the bit is ordered after. -/
theorem queued_pdup : queued (exec (.pdup dupFrame) dupState) = [⟨0, 0, false, 1, [5]⟩] := by decide +kernel

/-- The statement's copy is ordered after no write. -/
theorem queued_unordered : queued (.next ((pnWrite dupFrame true { dupWork with op := { dupWork.op with count := dupWork.op.count + 1 } }).done [] 0))
    = [⟨0, 0, false, 1, []⟩] := by decide +kernel

/-- Refutes O35: before its last copy PDUP keeps the bit at its input, and the statement has it write the copy as if the bit were ordered after no
write; a bit that is ordered after one hands that order on with each copy (R295). -/
theorem not_predicateOpsComplete : ¬ Obligations.PredicateOpsComplete := by
  unfold Obligations.PredicateOpsComplete
  rintro ⟨-, -, nodes⟩
  obtain ⟨-, copies⟩ := nodes dupFrame dupState dupWork ready_dupWork
  obtain ⟨first, -⟩ := copies true rfl
  have room : (pnWrite dupFrame true { dupWork with op := { dupWork.op with count := dupWork.op.count + 1 } }).canCommit [] 0 = true := by decide +kernel
  have same := congrArg queued ((first (by decide)).1 room)
  rw [queued_pdup, queued_unordered] at same
  exact absurd same (by decide)

end Sys2Proof.Machine
end

section
/-! PROOF. The stream ops (O36): the firing of each op on DATA, and of those that end sequences on their STOPs. -/
namespace Sys2Proof.Machine

section
variable {f : CCFrame} {s : State} {w x : Work} {a y c t : Token}

/-! ### What the ops share -/

theorem Ready.no_outs (ready : Ready s w) : w.outs = [] := by
  obtain ⟨-, -, none⟩ := ready.fresh
  exact none

/-- The turn of an op that reads a counter or a flag, when its firing answers. -/
theorem ccTurn_comes {fire : Work → Option Work} (ready : Ready s w) (h : fire w = some x) (s0 : x.s0 = w.s0) :
    Comes [f.oa, f.ob] f.silt s x (ccTurn f fire s) := by
  rw [ccTurn_ready ready h, ← ready.fresh.1, ← s0]
  exact commit_comes ..

@[simp] theorem Work.pop_o (w : Work) (src : Src) (r : Reader) : (w.pop src r).o = w.o := by
  unfold Work.pop
  extract_lets w1
  split
  · rfl
  · split
    · split <;> rfl
    · rfl
  · rfl

@[simp] theorem Work.takePred_o (w : Work) (src : PSrc) : (w.takePred src).o = w.o := by
  unfold Work.takePred Work.ppop
  split
  · rfl
  · dsimp only
    split <;> rfl

/-! ### Where tokens go (R156 to R158) -/

theorem steerFire_data {b : Bool} (head : w.head .a f.a = some t) (data : t.kind = 0) (hb : w.predBit f.pin f.psense = some b)
    (port : w.portTok f.ty f.imm .a f.a = some a) :
    steerFire f w = some (((w.take .a f.a).takePred f.pin).emit (if b then 0 else 1) a) := by
  unfold steerFire
  simp only [head, Token.isData, data, hb, port, BEq.rfl, Bool.true_or, if_true]

theorem steer_comes {b : Bool} (ready : Ready s w) (head : w.head .a f.a = some t) (data : t.kind = 0) (hb : w.predBit f.pin f.psense = some b)
    (port : w.portTok f.ty f.imm .a f.a = some a) :
    Comes [f.oa, f.ob] f.silt s { (w.take .a f.a).takePred f.pin with outs := [(if b then 0 else 1, a)] } (exec (.steer f) s) := by
  obtain ⟨s0, outs, -⟩ := (w.consumed_take .a f.a).trans (Work.consumed_takePred _ f.pin)
  refine ccTotal_comes ready ((steerFire_data head data hb port).trans ?_) s0
  rw [Work.emit, outs, ready.no_outs, List.nil_append]

/-- The lanes that FILT keeps valid: port A's, where port B's lane is not zero. -/
def filtMask (f : CCFrame) (a y : Token) : BitVec 16 :=
  (List.range 16).foldl (fun m l => if a.mask.getLsbD l && lane (readPayload f.ty f.b y) l != 0 then m ||| BitVec.twoPow 16 l else m) 0

theorem filt_comes (due : DataDue f true s w a y c) : ∃ m : BitVec 16,
    (∀ l < 16, m.getLsbD l = (a.mask.getLsbD l && lane (readPayload f.ty f.b y) l != 0))
    ∧ Comes [f.oa, f.ob] f.silt s { w.used f with
        outs := if f.flags.getLsbD 0 && m == 0 then [] else [(0, { a with mask := m, deps := [] }), (1, { a with mask := m, deps := [] })] }
      (exec (.filt f) s) := by
  refine ⟨filtMask f a y, fun l hl => ?_, ccExec_comes due ?_ rfl⟩
  · exact (getLsbD_setBits (fun i => a.mask.getLsbD i && lane (readPayload f.ty f.b y) i != 0) 0 16 hl).trans (by simp [hl])
  · show (if f.flags.getLsbD 0 && filtMask f a y == 0 then w.used f else (w.used f).emit2 { a with mask := filtMask f a y, deps := [] }) = _
    rw [emit2_eq due.used_outs]
    split
    · rw [← due.used_outs]
    · rfl

/-- A merge takes a DATA token from a port and writes it as it stands. -/
theorem takeFrom_data {n : PortName} {p : Port} (data : t.kind = 0) (plain : p.bcast = false) :
    takeFrom f n p t w = some ((w.pop p.src (.port w.o n)).emit2 t) := by
  have same : broadcast f.ty p t = t := by simp [broadcast, plain]
  unfold takeFrom
  simp only [Token.isStop, Token.isData, data, same, BEq.rfl, if_true, show ((0 : BitVec 3) == 1) = false from rfl, Bool.false_eq_true, if_false]
  rfl

theorem mergeFire_data {x y : Token} {pass : Bool} {choose : Work → Bool → Bool → Option Token → Option Token → Option Work}
    (hx : w.head .a f.a = some x) (hy : w.head .b f.b = some y) (dx : x.kind = 0) (dy : y.kind = 0) :
    mergeFire f pass choose w = choose w true true (some x) (some y) := by
  unfold mergeFire
  simp [hx, hy, Token.isMarker, Token.isStop, dx, dy]

section
variable {x y : Token} (ready : Ready s w) (hx : w.head .a f.a = some x) (hy : w.head .b f.b = some y) (dx : x.kind = 0) (dy : y.kind = 0)
  (plainA : f.a.bcast = false) (plainB : f.b.bcast = false)
include ready hx hy dx dy plainA plainB

omit plainB in
theorem merge_comes_unbidden (none : f.pin = .none) :
    Comes [f.oa, f.ob] f.silt s { w.pop f.a.src (.port w.o .a) with outs := [(0, x), (1, x)] } (exec (.merge f) s) := by
  obtain ⟨s0, outs, -⟩ := w.consumed_pop f.a.src (.port w.o .a)
  refine ccTotal_comes ready ((mergeFire_data hx hy dx dy).trans ?_) s0
  unfold mergeChoose
  simp only [none, if_true, takeFrom_data dx plainA]
  exact congrArg some (emit2_eq (outs.trans ready.no_outs))

theorem merge_comes_bit {b : Bool} (used : f.pin ≠ .none) (hb : w.predBit f.pin f.psense = some b) :
    Comes [f.oa, f.ob] f.silt s { (w.takePred f.pin).pop (if b then f.a.src else f.b.src) (.port w.o (if b then .a else .b)) with
      outs := [(0, if b then x else y), (1, if b then x else y)] } (exec (.merge f) s) := by
  obtain ⟨s0, outs, -⟩ := (w.consumed_takePred f.pin).trans
    (Work.consumed_pop _ (if b then f.a.src else f.b.src) (.port w.o (if b then .a else .b)))
  refine ccTotal_comes ready ((mergeFire_data hx hy dx dy).trans ?_) s0
  have fire : mergeChoose f w true true (some x) (some y)
      = some (((w.takePred f.pin).pop (if b then f.a.src else f.b.src) (.port w.o (if b then .a else .b))).emit2 (if b then x else y)) := by
    unfold mergeChoose
    split
    · exact absurd ‹_› used
    · cases b <;> simp [hb, takeFrom_data dx plainA, takeFrom_data dy plainB]
  exact fire.trans (congrArg some (emit2_eq (outs.trans ready.no_outs)))

/-- CMERGE takes from the port that it did not take from last. -/
theorem cmerge_comes {b : Bool} (other : b = !w.op.flag) :
    Comes [f.oa, f.ob] f.silt s { Work.pop { w with op := { w.op with flag := b } } (if b then f.a.src else f.b.src) (.port w.o (if b then .a else .b)) with
      outs := [(0, if b then x else y), (1, if b then x else y)] } (exec (.cmerge f) s) := by
  obtain ⟨s0, outs, -⟩ := Work.consumed_pop { w with op := { w.op with flag := b } } (if b then f.a.src else f.b.src) (.port w.o (if b then .a else .b))
  refine ccTurn_comes ready ((mergeFire_data hx hy dx dy).trans ?_) s0
  have fire : cmergeChoose f w true true (some x) (some y)
      = some ((Work.pop { w with op := { w.op with flag := b } } (if b then f.a.src else f.b.src) (.port w.o (if b then .a else .b))).emit2
        (if b then x else y)) := by
    unfold cmergeChoose
    simp only [Bool.not_true, Bool.false_or, Bool.true_and, ← other]
    cases b <;> simp [takeFrom_data dx plainA, takeFrom_data dy plainB]
  exact fire.trans (congrArg some (emit2_eq (outs.trans ready.no_outs)))

end

/-! ### How many tokens (R161, R162) -/

theorem Work.consumed_takeAll (f : CCFrame) (w : Work) : w.Consumed (w.takeAll f) :=
  (w.consumed_take ..).trans ((Work.consumed_take ..).trans (Work.consumed_take ..))

/-- The values of GEN's sequence: `n` of them, from port B's element 0 in steps of the extension. -/
def genElem (f : CCFrame) (y : Token) (n k : Nat) : Nat :=
  if k < n then (finInt f.ty f.sat (f.ty.intOf (readElem f.ty f.b y 0) + (k : Int) * f.ext.toInt)).1 % 2 ^ f.ty.width else 0

/-- A sequence of n values has a token i when its values before token i are not all of them. -/
theorem tokens_iff (t : Ty) (i n : Nat) : i < (n + 512 / t.width - 1) / (512 / t.width) ↔ i * (512 / t.width) < n := by
  have positive := first_element t
  rw [← Nat.succ_le_iff, Nat.le_div_iff_mul_le positive, Nat.succ_mul]
  omega

theorem elem_genToken {n i j : Nat} (hj : j < 512 / f.ty.width) :
    elem (genToken f (f.ty.intOf (readElem f.ty f.b y 0)) n i).1.payload f.ty.width j = genElem f y n (i * (512 / f.ty.width) + j) := by
  unfold genToken genElem
  dsimp only [dataTok]
  rw [List.map_map, elem_packElems_map _ hj le_rfl]
  dsimp only [Function.comp]
  split
  · rfl
  · exact Nat.zero_mod _

section
variable (ready : Ready s w) (shown : ccReady f w = some (a, y, c))
include shown

theorem genFire_next (more : w.op.count.toNat * (512 / f.ty.width) < readElem f.ty f.c c 0 % 2 ^ 32) : ∃ ev, genFire f w = some
    ((Work.count { w with op := { w.op with count := w.op.count + 1 } } f.stats ev).emit2
      (genToken f (f.ty.intOf (readElem f.ty f.b y 0)) (readElem f.ty f.c c 0 % 2 ^ 32) w.op.count.toNat).1) := by
  have inside : w.op.count.toNat < (readElem f.ty f.c c 0 % 2 ^ 32 + 512 / f.ty.width - 1) / (512 / f.ty.width) :=
    (tokens_iff f.ty _ _).mpr more
  unfold genFire
  simp only [shown, inside, if_true]
  exact ⟨_, rfl⟩

theorem genFire_last (past : readElem f.ty f.c c 0 % 2 ^ 32 ≤ w.op.count.toNat * (512 / f.ty.width)) : genFire f w = some
    (Work.emit2 { w.takeAll f with op := { (w.takeAll f).op with count := 0 } } (stopTok f.level Ride.none)) := by
  have outside : ¬ w.op.count.toNat < (readElem f.ty f.c c 0 % 2 ^ 32 + 512 / f.ty.width - 1) / (512 / f.ty.width) :=
    fun inside => past.not_gt ((tokens_iff f.ty _ _).mp inside)
  unfold genFire
  simp only [shown, outside, if_false]

include ready

theorem gen_comes_next (more : w.op.count.toNat * (512 / f.ty.width) < readElem f.ty f.c c 0 % 2 ^ 32) :
    ∃ t x, Comes [f.oa, f.ob] f.silt s { w with outs := [(0, t), (1, t)], op := { w.op with count := w.op.count + 1, silt := x } } (exec (.gen f) s)
      ∧ t.kind = 0 ∧ ∀ j < 512 / f.ty.width, elem t.payload f.ty.width j =
        genElem f y (readElem f.ty f.c c 0 % 2 ^ 32) (w.op.count.toNat * (512 / f.ty.width) + j) := by
  obtain ⟨ev, fire⟩ := genFire_next shown more
  rw [Work.count_emit2 (by exact ready.no_outs)] at fire
  exact ⟨_, _, ccTurn_comes ready fire rfl, rfl, fun j hj => elem_genToken hj⟩

theorem gen_comes_last (past : readElem f.ty f.c c 0 % 2 ^ 32 ≤ w.op.count.toNat * (512 / f.ty.width)) :
    Comes [f.oa, f.ob] f.silt s { w.takeAll f with
      outs := [(0, stopTok f.level Ride.none), (1, stopTok f.level Ride.none)], op := { (w.takeAll f).op with count := 0 } } (exec (.gen f) s) := by
  obtain ⟨s0, outs, -⟩ := w.consumed_takeAll f
  have fire := genFire_last shown past
  rw [emit2_eq (by exact outs.trans ready.no_outs)] at fire
  exact ccTurn_comes ready fire s0

end

/-- The copies that REPL makes of a token (R162). -/
def replCount (f : CCFrame) (y : Token) : Nat :=
  if f.flags.getLsbD 0 then lane (readPayload f.ty f.b y) 0 % 65536 else (f.ext.extractLsb' 0 16).toNat

/-- The STOP with which REPL closes its copies, to both outputs, where it writes one. -/
def replStop (f : CCFrame) : List (Nat × Token) :=
  if f.flags.getLsbD 1 then [(0, stopTok f.level Ride.none), (1, stopTok f.level Ride.none)] else []

theorem close_eq (f : CCFrame) (x : Work) :
    (if f.flags.getLsbD 1 then x.emit2 (stopTok f.level Ride.none) else x) = { x with outs := x.outs ++ replStop f } := by
  unfold replStop
  split
  · simp [Work.emit2, Work.emit]
  · rw [List.append_nil]

theorem replFire_eq (shown : ccReady f w = some (a, y, c)) : replFire f w = some (
    if replCount f y = 0 then { w.takeAll f with outs := (w.takeAll f).outs ++ replStop f }
    else if w.op.count.toNat + 1 < replCount f y then Work.emit2 { w with op := { w.op with count := w.op.count + 1 }, deps := a.deps } a
    else { w.takeAll f with outs := ((w.takeAll f).emit2 a).outs ++ replStop f, op := { (w.takeAll f).op with count := 0 } }) := by
  unfold replFire
  simp only [shown, close_eq]
  show (if replCount f y = 0 then _ else if w.op.count.toNat + 1 < replCount f y then _ else _) = _
  split
  · rfl
  split <;> rfl

section
variable (ready : Ready s w) (shown : ccReady f w = some (a, y, c))
include ready shown

theorem repl_comes_none (none : replCount f y = 0) : Comes [f.oa, f.ob] f.silt s { w.takeAll f with outs := replStop f } (exec (.repl f) s) := by
  obtain ⟨s0, outs, -⟩ := w.consumed_takeAll f
  have fire := replFire_eq shown
  rw [if_pos none, outs, ready.no_outs, List.nil_append] at fire
  exact ccTurn_comes ready fire s0

theorem repl_comes_copy (more : w.op.count.toNat + 1 < replCount f y) :
    Comes [f.oa, f.ob] f.silt s { w with outs := [(0, a), (1, a)], op := { w.op with count := w.op.count + 1 }, deps := a.deps } (exec (.repl f) s) := by
  have fire := replFire_eq shown
  rw [if_neg (Nat.ne_zero_of_lt more), if_pos more, emit2_eq (by exact ready.no_outs)] at fire
  exact ccTurn_comes ready fire rfl

theorem repl_comes_last (last : w.op.count.toNat + 1 = replCount f y) :
    Comes [f.oa, f.ob] f.silt s { w.takeAll f with outs := [(0, a), (1, a)] ++ replStop f, op := { (w.takeAll f).op with count := 0 } } (exec (.repl f) s) := by
  obtain ⟨s0, outs, -⟩ := w.consumed_takeAll f
  have fire := replFire_eq shown
  rw [if_neg (by omega), if_neg (by omega), emit2_eq (outs.trans ready.no_outs)] at fire
  exact ccTurn_comes ready fire s0

end

/-! ### Where sequences end (R163 to R166) -/

/-- A STOP of LEVUP's own level is counted; the k-th leaves one level higher (R163). -/
theorem levup_comes (ready : Ready s w) (head : w.head .a f.a = some t) (stop : t.kind = 1) (own : t.level = f.level) :
    ∃ w1 l n, Comes [f.oa, f.ob] f.silt s { w1 with outs := [(0, stopTok l t.ride), (1, stopTok l t.ride)], op := { w1.op with count := n }, silt := f.stats }
        (exec (.levup f) s)
      ∧ w1 = (w.pop f.a.src (.port w.o .a)).passStop t.level t.ride
      ∧ (w.op.count.toNat + 1 = (f.ext.extractLsb' 0 16).toNat → l = f.level + 1 ∧ n = 0)
      ∧ (w.op.count.toNat + 1 ≠ (f.ext.extractLsb' 0 16).toNat → l = f.level ∧ n = w.op.count + 1) := by
  obtain ⟨s0, outs, -⟩ := (w.consumed_pop f.a.src (.port w.o .a)).trans (Work.consumed_passStop _ t.level t.ride)
  have fire : levupFire f w = some (Work.emit2 { (w.pop f.a.src (.port w.o .a)).passStop t.level t.ride with
      op := { ((w.pop f.a.src (.port w.o .a)).passStop t.level t.ride).op with count := if w.op.count.toNat + 1 = extK f then 0 else w.op.count + 1 }
      silt := f.stats } (stopTok (if w.op.count.toNat + 1 = extK f then f.level + 1 else f.level) t.ride)) := by
    unfold levupFire
    simp only [head]
    by_cases kth : w.op.count.toNat + 1 = extK f <;> simp [Token.isStop, stop, own, kth, Work.reader]
  rw [emit2_eq (by exact outs.trans ready.no_outs)] at fire
  exact ⟨(w.pop f.a.src (.port w.o .a)).passStop t.level t.ride, _, _, ccTurn_comes ready fire s0, rfl, fun kth => ⟨if_pos kth, if_pos kth⟩, fun before => ⟨if_neg before, if_neg before⟩⟩

/-- After k tokens LEVDN writes a STOP of its level before the next (R164). -/
theorem levdn_comes_stop (ready : Ready s w) (head : w.head .a f.a = some t) (data : t.kind = 0) (full : extK f ≤ w.op.count.toNat) :
    Comes [f.oa, f.ob] f.silt s { w with outs := [(0, stopTok f.level Ride.none), (1, stopTok f.level Ride.none)], op := { w.op with count := 0 } }
      (exec (.levdn f) s) := by
  have fire : levdnFire f w = some (Work.emit2 { w with op := { w.op with count := 0 } } (stopTok f.level Ride.none)) := by
    unfold levdnFire
    simp [head, Token.isData, data, full]
  rw [emit2_eq (by exact ready.no_outs)] at fire
  exact ccTurn_comes ready fire rfl

theorem levdn_comes_data (due : DataDue f true s w a y c) (room : w.op.count.toNat < extK f) (head : w.head .a f.a ≠ none) :
    Comes [f.oa, f.ob] f.silt s { w.used f with outs := [(0, a), (1, a)], op := { (w.used f).op with count := w.op.count + 1 } } (exec (.levdn f) s) := by
  obtain ⟨t, head⟩ := Option.ne_none_iff_exists'.mp head
  obtain ⟨s0, -⟩ := w.consumed_used f
  obtain ⟨held, op⟩ := w.heldOnly_used f
  have count : (w.used f).op.count = w.op.count := by rw [op]
  have fire : levdnFire f w = some (Work.emit2 { w.used f with op := { (w.used f).op with count := w.op.count + 1 } } a) := by
    unfold levdnFire
    simp only [head, room.not_ge, decide_false, Bool.and_false, Bool.false_eq_true, if_false]
    rw [ccFire_data due, if_pos rfl, ← count]
  rw [emit2_eq (by exact due.used_outs)] at fire
  exact ccTurn_comes due.1 fire s0

theorem sink_comes (ready : Ready s w) (head : w.head .a f.a = some t) (data : t.kind = 0) :
    Comes [f.oa, f.ob] f.silt s (w.pop f.a.src (.port w.o .a)) (exec (.sink f) s) := by
  refine ccTotal_comes ready ?_ (w.pop_s0 ..)
  have quiet : (w.pop f.a.src (.port w.o .a)).absorb t = w.pop f.a.src (.port w.o .a) := absorb_quiet (by simp [data]) (by simp [data])
  unfold sinkFire
  simp [head, Token.isStop, data, Work.passMarker, Work.reader, quiet]

theorem stopat_comes_first (due : DataDue f true s w a y c) (before : w.op.flag = false) (keep : f.flags.getLsbD 0 = false) :
    Comes [f.oa, f.ob] f.silt s { w.used f with outs := [(0, a), (1, a)], op := { (w.used f).op with flag := true } } (exec (.stopat f) s) := by
  obtain ⟨held, op⟩ := w.heldOnly_used f
  have flag : (w.used f).op.flag = false := by rw [op]; exact before
  refine ccTurn_data_comes due ?_ rfl
  simp only [stopatBehave, flag, keep, Bool.false_eq_true, if_false]
  exact emit2_eq due.used_outs

theorem stopat_comes_after (due : DataDue f true s w a y c) (after : w.op.flag = true) :
    Comes [f.oa, f.ob] f.silt s (w.used f) (exec (.stopat f) s) := by
  obtain ⟨held, op⟩ := w.heldOnly_used f
  have flag : (w.used f).op.flag = true := by rw [op]; exact after
  refine ccTurn_data_comes due ?_ rfl
  simp only [stopatBehave, flag, if_true]

end

/-- Settles O36, op by op. -/
theorem streamOpsComplete : Obligations.StreamOpsComplete := by
  unfold Obligations.StreamOpsComplete
  rintro f s w ready -
  refine ⟨fun t a b head data hb port => steer_comes ready head data hb port, fun a y c due => filt_comes due, fun x y hx hy dx dy plainA plainB =>
      ⟨merge_comes_unbidden ready hx hy dx dy plainA, fun b used hb => merge_comes_bit ready hx hy dx dy plainA plainB used hb,
        fun b other => ⟨_, cmerge_comes ready hx hy dx dy plainA plainB other, rfl⟩⟩,
    fun a y c due shown => ⟨fun n hn => ⟨fun more => ?_, fun past => ?_⟩, fun k z hk hz => ?_⟩,
    fun t head stop _ own => levup_comes ready head stop own, fun t head data => ⟨levdn_comes_stop ready head data, sink_comes ready head data⟩,
    fun a y c due => ⟨levdn_comes_data due, stopat_comes_first due, stopat_comes_after due⟩⟩
  · subst hn
    exact gen_comes_next ready shown more
  · subst hn
    exact gen_comes_last ready shown past
  · obtain rfl : k = replCount f y := hk
    obtain rfl : z = replStop f := hz
    exact ⟨repl_comes_none ready shown, repl_comes_copy ready shown, repl_comes_last ready shown⟩

end Sys2Proof.Machine
end

section
/-! PROOF. The Silt nodes (O38): where a waiting word goes, the row of a SNSINK, and the sums that a node keeps. -/
namespace Sys2Proof.Machine

section
variable {f : SNFrame} {s : State} {w : Work} {i : Instr} {x : Word} {xs : List Word}

/-! ### The turn of a node (R173) -/

/-- The machine once a node's first waiting word has gone. -/
def Work.wordGone (f : SNFrame) (w : Work) : State := w.updNode f fun m => { m with outq := m.outq.drop 1 }

theorem snTurn_waiting {done : SnNode → SnNode} {flush : Word → Work → Out} (hw : s.workAt s.focus = some w)
    (hq : (w.st.sn f.index.val).outq = x :: xs) : snTurn f done flush s = flush x w := by
  unfold snTurn
  simp only [hw, hq]

theorem snTurn_idle {done : SnNode → SnNode} {flush : Word → Work → Out} (hw : s.workAt s.focus = some w)
    (idle : (w.st.sn f.index.val).outq = []) :
    snTurn f done flush s = .next (w.updNode f fun m => if m.complete f = true then done m else m.accept) := by
  unfold snTurn
  simp only [hw, idle]

/-- SNADD, and SNSINK of mode 1, write a waiting word to their destination. -/
theorem exec_snFlush (hw : s.workAt s.focus = some w) (hq : (w.st.sn f.index.val).outq = x :: xs)
    (hi : i = .snadd f ∨ i = .snsink f ∧ f.mode = true) : exec i s = snFlush f x w := by
  rcases hi with rfl | ⟨rfl, mode⟩
  · exact snTurn_waiting hw hq
  · refine (snTurn_waiting hw hq).trans ?_
    rw [if_pos mode]

/-- SNSINK of mode 0 writes its row. -/
theorem exec_snWrite (hw : s.workAt s.focus = some w) (hq : (w.st.sn f.index.val).outq = x :: xs) (mode : f.mode = false) :
    exec (.snsink f) s = snWrite f x w := by
  refine (snTurn_waiting hw hq).trans ?_
  rw [mode, if_neg Bool.false_ne_true]

/-! ### Where a waiting word goes (R38, R174, R175) -/

theorem snFlush_none (hd : f.dst = .none) : snFlush f x w = .next (w.wordGone f) := by
  unfold snFlush
  simp only [hd, Work.wordGone]

section
variable (start : w.s0 = s) (now : w.s = s)
include start now

theorem snFlush_q {k : Fin 8} (hd : f.dst = .q k) : snFlush f x w = .next (if (s.queue (w.qTask k)).length < 32 then
    Work.wordGone f { w with s := s.pushQ (w.qTask k) ⟨0, 0, false, x, []⟩ } else s) := by
  unfold snFlush Work.wordGone
  simp only [hd, start, now]
  split <;> rfl

theorem snFlush_here {k : Fin 8} (hd : f.dst = .here k) : snFlush f x w = .next (if (w.st.sn k.val).queue.length < 16 then
    Work.wordGone f { w with s := s.updStripe w.run.serial w.slot fun p => p.updSn k.val fun m => { m with queue := m.queue ++ [x] } } else s) := by
  unfold snFlush Work.wordGone
  simp only [hd, start, now, decide_eq_true_eq]
  split <;> rfl

theorem snFlush_direct {k : Fin 8} {slot : Nat} {p : Stripe} (hd : f.dst = .next k) (way : w.onward (.sn k) = .direct slot p) :
    snFlush f x w = .next (if (p.sn k.val).queue.length < 16 then
      Work.wordGone f { w with s := s.updStripe w.run.serial slot fun y => y.updSn k.val fun m => { m with queue := m.queue ++ [x] } } else s) := by
  unfold snFlush Work.wordGone
  simp only [hd, way, start, now, decide_eq_true_eq]
  split <;> rfl

theorem snFlush_seam {k : Fin 8} (hd : f.dst = .next k) (way : w.onward (.sn k) = .seam) :
    snFlush f x w = .next (if s.seamRoom w.run.serial w.nextVs (.sn k) = true then
      Work.wordGone f { w with s := (s.seamGrow w.run.serial w.nextVs (.sn k)).seamPut w.run.serial w.nextVs (.sn k) fun q =>
        { q with words := q.words ++ [x] } } else s.seamAsk w.run.serial w.nextVs (.sn k)) := by
  unfold snFlush Work.wordGone
  simp only [hd, way, start, now]
  split <;> rfl

end

theorem snFlush_wait {k : Fin 8} (start : w.s0 = s) (hd : f.dst = .next k) (way : w.onward (.sn k) = .wait) : snFlush f x w = .next s := by
  unfold snFlush
  simp only [hd, way, start]

/-! ### The row of a SNSINK of mode 0 (R176) -/

theorem snWrite_filling {u : Tile} (now : w.s = s) (going : (w.st.sn f.index.val).stalled = false) (ht : s.tile w.die w.run.partition f.handle.toNat = some u)
    (entry : u.bad = false) (filling : u.state = .filling) (inRows : f.row.toNat < u.rows)
    (good : s.hbBad u 0 (f.row.toNat * u.rowBytes) 64 = false) :
    snWrite f x w = .next (Work.updNode { w with
      s := (s.setTileData u (f.row.toNat * u.rowBytes) (snRow (w.st.sn f.index.val) (x.setWidth 16))).updTile u.uid fun y =>
        { y with valid := y.valid ||| BitVec.twoPow 64 f.row.toNat } } f fun m => { m with outq := m.outq.drop 1, resumed := false }) := by
  unfold snWrite
  simp only [now, going, ht, entry, filling, inRows, good, decide_true, Bool.and_self, Bool.false_eq_true, if_false, if_true]

/-- With no tile, or one that is not FILLING or has no such row, the node stalls with a TSTATE record. -/
theorem snWrite_stalls (now : w.s = s) (going : (w.st.sn f.index.val).stalled = false)
    (ht : s.tile w.die w.run.partition f.handle.toNat = none
      ∨ ∃ u, s.tile w.die w.run.partition f.handle.toNat = some u ∧ u.bad = false ∧ (u.state ≠ .filling ∨ u.rows ≤ f.row.toNat)) :
    snWrite f x w = .next ((w.updNode f fun m => { m with stalled := true }).runRecord w.run.serial
      (w.record 3 2 fTSTATE (tileVa w.die f.handle.toNat) s.timestamp)) := by
  unfold snWrite
  rcases ht with none | ⟨u, ht, entry, unfit⟩
  · simp only [now, going, none, Bool.false_eq_true, if_false]
  · have unfit : ¬ (u.state = .filling ∧ f.row.toNat < u.rows) := fun h => unfit.elim (absurd h.1) (absurd h.2 ∘ Nat.not_lt.mpr)
    simp only [now, going, ht, entry, unfit, Bool.and_eq_true, decide_eq_true_eq, Bool.false_eq_true, if_false]

end

/-! ### The sums of a node (R173, R175) -/

theorem SnNode.sum_seqNo (n : SnNode) (q : BitVec 16) : (n.sum q).seqNo = q := by
  unfold SnNode.sum
  cases h : n.sums.find? fun x => x.seqNo == q with
  | none => rfl
  | some y => simpa using List.find?_some h

theorem SnSum.add_seqNo (y : SnSum) (x : Word) : (y.add x).seqNo = y.seqNo := by
  unfold SnSum.add
  dsimp only
  split <;> rfl

section
variable {n : SnNode} {x : Word} {xs : List Word} (hq : n.queue = x :: xs) (counted : x.getLsbD 34 = false)
include hq counted

theorem accept_within (within : (x.extractLsb' 48 16 - n.oldest).toNat < 4) : n.accept = { n with
    queue := xs
    sums := n.sums.filter (fun y => y.seqNo != x.extractLsb' 48 16) ++ [(n.sum (x.extractLsb' 48 16)).add x] } := by
  unfold SnNode.accept
  simp only [hq, counted, within.not_ge, Bool.false_eq_true, if_false]

theorem accept_beyond (beyond : 4 ≤ (x.extractLsb' 48 16 - n.oldest).toNat) : n.accept = n := by
  unfold SnNode.accept
  simp only [hq, counted, beyond, Bool.false_eq_true, if_false, if_true]

/-- A token within the window enters the sum of its sequence number and no other. -/
theorem accept_sum (within : (x.extractLsb' 48 16 - n.oldest).toNat < 4) (q : BitVec 16) :
    n.accept.sum q = if q = x.extractLsb' 48 16 then (n.sum q).add x else n.sum q := by
  have entry : ((n.sum (x.extractLsb' 48 16)).add x).seqNo = x.extractLsb' 48 16 := (SnSum.add_seqNo ..).trans (n.sum_seqNo _)
  have found : n.accept.sum q = (((n.sums.filter fun y => y.seqNo != x.extractLsb' 48 16).find? fun y => y.seqNo == q).or
      (if x.extractLsb' 48 16 = q then some ((n.sum (x.extractLsb' 48 16)).add x) else none)).getD (SnSum.empty q) := by
    rw [accept_within hq counted within, SnNode.sum, List.find?_append, List.find?_singleton, entry]
    simp only [beq_iff_eq]
  rw [found]
  by_cases same : q = x.extractLsb' 48 16
  · have gone : ((n.sums.filter fun y => y.seqNo != x.extractLsb' 48 16).find? fun y => y.seqNo == q) = none := by
      simp [same]
    rw [gone, if_pos same.symm, if_pos same, ← same]
    rfl
  · have kept : ((n.sums.filter fun y => y.seqNo != x.extractLsb' 48 16).find? fun y => y.seqNo == q) = n.sums.find? fun y => y.seqNo == q := by
      rw [List.find?_filter]
      congr 1
      funext y
      by_cases e : y.seqNo = q <;> simp [e, same]
    rw [kept, if_neg (Ne.symm same), if_neg same, Option.or_none]
    rfl

end

/-- Settles O38: a waiting word goes as its destination says, and the sums are those of `accept` and `total`. -/
theorem siltNodesComplete : Obligations.SiltNodesComplete := by
  unfold Obligations.SiltNodesComplete
  intro f s w n hw hn
  subst hn
  obtain ⟨start, now, -⟩ := workAt_s0 hw
  refine ⟨fun idle => ⟨snTurn_idle hw idle, snTurn_idle hw idle⟩, fun x xs hq i hi => ?_, fun x xs hq mode going => ?_,
    fun x xs hq counted within => ⟨?_, ?_, fun q other => ?_⟩, fun x xs hq counted beyond => accept_beyond hq counted beyond, rfl, rfl, rfl⟩
  · rw [exec_snFlush hw hq hi]
    refine ⟨fun hd => snFlush_none hd, fun k hd room => ?_, fun k hd full => ?_, fun k hd => ⟨fun room => ?_, fun full => ?_⟩,
      fun k hd => ⟨fun slot p way => ⟨fun room => ?_, fun full => ?_⟩, fun way => ⟨fun room => ?_, fun full => ?_⟩, fun way => snFlush_wait start hd way⟩⟩
    · rw [snFlush_q start now hd, if_pos room, Work.wordGone]
    · rw [snFlush_q start now hd, if_neg full.not_gt]
    · rw [snFlush_here start now hd, if_pos room, Work.wordGone]
    · rw [snFlush_here start now hd, if_neg full.not_gt]
    · rw [snFlush_direct start now hd way, if_pos room, Work.wordGone]
    · rw [snFlush_direct start now hd way, if_neg full.not_gt]
    · rw [snFlush_seam start now hd way, if_pos room, Work.wordGone]
    · rw [snFlush_seam start now hd way, full, if_neg Bool.false_ne_true]
  · rw [exec_snWrite hw hq mode]
    refine ⟨fun u ht entry filling inRows good => snWrite_filling now going ht entry filling inRows good, fun t ht e => ?_⟩
    rw [e]
    exact snWrite_stalls now going ht
  · rw [accept_within hq counted within]
  · rw [accept_sum hq counted within, if_pos rfl]
  · rw [accept_sum hq counted within, if_neg other]

end Sys2Proof.Machine
end

section
/-! PROOF. The matrix unit of an op at its turn (O39): what consuming leaves of it, and what a change of it makes. -/
namespace Sys2Proof

theorem Tab.find_upd_self {α : Type} (t : Tab α) (k : Nat) (f : α → α) : Tab.find (Tab.upd t k f) k = (Tab.find t k).map f := by
  unfold Tab.upd
  cases h : Tab.find t k with
  | none => exact h
  | some v => exact Tab.find_set_self ..

namespace Machine

/-! ### The unit as it stands -/

/-- The op's stripe is resident, and the matrix unit of its cell there is `m`. -/
def Work.UnitIs (w : Work) (m : Matrix) : Prop :=
  ∃ r st, w.s.run w.run.serial = some r ∧ Tab.find r.stripes w.slot = some st ∧ st.matrix w.o.index = m

section
variable {s : State} {w : Work} {m : Matrix}

theorem Work.UnitIs.unit (h : w.UnitIs m) : w.unit = m := by
  obtain ⟨r, st, run, stripe, rfl⟩ := h
  unfold Work.unit Work.cur
  rw [run]
  dsimp only
  rw [stripe, Option.getD_some]

theorem unitIs_of_workAt {p : OpPlace} (h : s.workAt p = some w) : w.UnitIs w.unit := by
  suffices ∃ m, w.UnitIs m by
    obtain ⟨m, hm⟩ := this
    rwa [hm.unit]
  have found := (Option.filter_eq_some_iff.1 h).1
  unfold State.workOf at found
  split at found
  · cases found
  rename_i r run
  split at found
  · cases found
  rename_i st stripe
  split at found
  · cases found
  cases found
  exact ⟨_, r, st, (run_serial run).symm ▸ run, stripe, rfl⟩

theorem Work.UnitIs.updRun {g : Run → Run} (h : w.UnitIs m) (serial : ∀ r, (g r).serial = r.serial) (stripes : ∀ r, (g r).stripes = r.stripes) :
    Work.UnitIs { w with s := w.s.updRun w.run.serial g } m := by
  obtain ⟨r, st, run, stripe, unit⟩ := h
  exact ⟨g r, st, run_updRun run serial, (stripes r).symm ▸ stripe, unit⟩

/-- A change of the op's stripe, by what it makes of the cells. -/
theorem Work.UnitIs.updStripe {g : Stripe → Stripe} {m1 : Matrix} (h : w.UnitIs m) (cell : ∀ st, st.matrix w.o.index = m → (g st).matrix w.o.index = m1) :
    Work.UnitIs { w with s := w.s.updStripe w.run.serial w.slot g } m1 := by
  obtain ⟨r, st, run, stripe, unit⟩ := h
  refine ⟨_, g st, run_updRun run fun _ => rfl, ?_, cell st unit⟩
  rw [Tab.find_upd_self, stripe, Option.map_some]

theorem Work.UnitIs.updUnit {g : Matrix → Matrix} (h : w.UnitIs m) : (w.updUnit g).UnitIs (g m) :=
  h.updStripe fun _ unit => (Tab.get_set_self ..).trans (congrArg g unit)

/-! ### What a DATA firing consumes leaves the unit as it is -/

theorem Work.UnitIs.pop (h : w.UnitIs m) (src : Src) (r : Reader) : (w.pop src r).UnitIs m := by
  unfold Work.pop
  extract_lets w1
  have h1 : w1.UnitIs m := h
  split
  · exact h1
  · split
    · split
      · exact h1.updRun (fun _ => rfl) fun _ => rfl
      · exact h1
    · exact h1.updStripe fun _ unit => unit
  · exact h1.updStripe fun _ unit => unit

theorem Work.UnitIs.take (h : w.UnitIs m) (n : PortName) (p : Port) : (w.take n p).UnitIs m := by
  unfold Work.take
  split
  · exact h
  · exact h
  · exact h.pop ..
  · split
    · dsimp only
      split <;> exact h
    · split
      · exact h
      · dsimp only
        split <;> exact h.pop p.src (w.reader n)

theorem Work.UnitIs.takePred (h : w.UnitIs m) (src : PSrc) : (w.takePred src).UnitIs m := by
  unfold Work.takePred
  split
  · exact h
  · unfold Work.ppop
    extract_lets w1
    have h1 : w1.UnitIs m := h
    split
    · exact h1
    · exact h1.updStripe fun _ unit => unit

theorem Work.UnitIs.used (h : w.UnitIs m) (f : CCFrame) : (w.used f).UnitIs m := (((h.take ..).take ..).take ..).takePred ..

theorem DataDue.unitIs {f : CCFrame} {bit : Bool} {a y c : Token} (due : DataDue f bit s w a y c) : (w.used f).UnitIs w.unit :=
  (unitIs_of_workAt due.1.1).used f

end

/-! ### Planes of a unit (R178) -/

section
variable (m : Matrix)

/-- A unit whose shadow plane has one row or column more. -/
def Matrix.filled (p : Plane) : Matrix := { m.setShadow p with fill := m.fill + 1 }

@[simp] theorem Matrix.filled_fill (p : Plane) : (m.filled p).fill = m.fill + 1 := rfl

@[simp] theorem Matrix.filled_shadow (p : Plane) : (m.filled p).shadow = p := by
  unfold Matrix.filled Matrix.setShadow Matrix.shadow
  cases m.activeB <;> rfl

@[simp] theorem Matrix.filled_active (p : Plane) : (m.filled p).active = m.active := by
  unfold Matrix.filled Matrix.setShadow Matrix.active
  cases m.activeB <;> rfl

@[simp] theorem Matrix.acc_setAcc_self (one : Bool) (p : AccPlane) : (m.setAcc one p).acc one = p := by cases one <;> rfl

@[simp] theorem Matrix.acc_setAcc_not (one : Bool) (p : AccPlane) : (m.setAcc one p).acc (!one) = m.acc (!one) := by cases one <;> rfl

end

/-! ### Elements and lanes of a plane's rows (R21, R180) -/

theorem lane_maskLanes {l : Nat} (m : BitVec 16) (p : Payload) (hl : l < 16) :
    lane (maskLanes m p) l = if m.getLsbD l then lane p l else 0 := by
  refine (elem_packElems_map _ hl (by decide)).trans ?_
  split
  · exact Nat.mod_eq_of_lt (elem_lt ..)
  · rfl

/-- A byte of a payload is a byte of its lane. -/
theorem elem_eight_eq_lane (p : Payload) (n : Nat) : elem p 8 n = lane p (n / 4) / 2 ^ (8 * (n % 4)) % 2 ^ 8 := by
  have place : 32 * (n / 4) + 8 * (n % 4) = 8 * n := by omega
  have inside : n % 4 < 4 := Nat.mod_lt _ (by decide)
  rw [lane, elem_eq, elem_eq]
  refine Nat.eq_of_testBit_eq fun i => ?_
  simp only [Nat.testBit_mod_two_pow, Nat.testBit_div_two_pow]
  by_cases hi : i < 8
  · rw [show i + 8 * n = i + 8 * (n % 4) + 32 * (n / 4) by omega]
    simp [hi, show i + 8 * (n % 4) < 32 by omega]
  · simp [hi]

theorem elem_maskLanes {n : Nat} (m : BitVec 16) (p : Payload) (hn : n < 64) :
    elem (maskLanes m p) 8 n = if m.getLsbD (n / 4) then elem p 8 n else 0 := by
  rw [elem_eight_eq_lane, lane_maskLanes m p (by omega), elem_eight_eq_lane]
  split
  · rfl
  · simp

theorem elem_setElem {w e i v : Nat} (p : Payload) (hi : i < 512 / w) :
    elem (setElem p w e v) w i = if i = e then v % 2 ^ w else elem p w i := by
  refine (elem_packElems_map _ hi le_rfl).trans ?_
  split
  · rfl
  · exact Nat.mod_eq_of_lt (elem_lt ..)

theorem accElem_lt (r : BitVec 2048) (n : Nat) : accElem r n < 2 ^ 32 := BitVec.isLt _

theorem accElem_accRow {n : Nat} (vs : List Nat) (hn : n < 64) : accElem (accRow vs) n = vs.getD n 0 % 2 ^ 32 := by
  rw [accElem, accRow, BitVec.extractLsb'_toNat, BitVec.toNat_ofNat, Nat.shiftRight_eq_div_pow, ← packFrom_element]
  refine Nat.eq_of_testBit_eq fun i => ?_
  simp only [Nat.testBit_mod_two_pow, Nat.testBit_div_two_pow]
  by_cases hi : i < 32
  · simp [hi, show i + 32 * n < 2048 by omega]
  · simp [hi]

theorem accElem_accRow_map {n : Nat} (g : Nat → Nat) (hn : n < 64) : accElem (accRow ((List.range 64).map g)) n = g n % 2 ^ 32 := by
  rw [accElem_accRow _ hn]
  simp [List.getD_eq_getElem?_getD, hn]

/-- Rows written one by one. -/
theorem get_setRows {α : Type} {k n : Nat} (t : Tab α) (d : α) (g : Nat → α) (hn : n < k) :
    Tab.get ((List.range k).foldl (fun t i => Tab.set t i (g i)) t) d n = g n := by
  induction k with
  | zero => cases hn
  | succ k ih =>
    rw [List.range_succ, List.foldl_append, List.foldl_cons, List.foldl_nil]
    rcases Nat.lt_succ_iff_lt_or_eq.mp hn with below | rfl
    · rw [Tab.get_set_ne _ _ below.ne, ih below]
    · exact Tab.get_set_self ..

end Machine
end Sys2Proof
end

section
/-! PROOF. The matrix ops (O39): loading, multiplying, clearing, filling and dumping, each at its DATA firing. -/
namespace Sys2Proof.Machine

section
variable {f : CCFrame} {s : State} {w : Work} {m : Matrix} {a y c t : Token}

/-! ### The turn of a matrix op (R178) -/

theorem matTurn_comes {fire : Work → Option Work} {x : Work} (ready : Ready s w) (turn : w.yields = false) (h : fire w = some x) (s0 : x.s0 = s) :
    Comes [f.oa, f.ob] f.silt s x (matTurn f fire s) := by
  refine ccTurn_comes ready ?_ (s0.trans ready.fresh.1.symm)
  rw [turn, if_neg Bool.false_ne_true, h]

/-- A matrix op, due and first in its cell, does at a DATA firing what its behaviour says. -/
theorem matTurn_data_comes {fire : Work → Option Work} {b : Behave} (due : DataDue f true s w a y c) (turn : w.yields = false)
    (follows : fire w = ccFire f b w) (s0 : (b.data (w.used f) a y c).s0 = (w.used f).s0) :
    Comes [f.oa, f.ob] f.silt s (b.data (w.used f) a y c) (matTurn f fire s) :=
  matTurn_comes due.1 turn (follows.trans (ccFire_data due)) (s0.trans due.used_s0)

/-! ### Loading (R180, R420) -/

theorem loaderFire_room {b : Behave} (room : w.unit.fill < 64) : loaderFire f b w = ccFire f b w := by
  have incomplete : w.unit.complete = false := decide_eq_false room.not_ge
  unfold loaderFire
  rw [incomplete]
  simp only [Bool.and_false, Bool.false_and, Bool.false_eq_true, if_false]
  split <;> rfl

theorem filled_eq {g : Matrix → Plane} : filled f w g =
    if (w.updUnit fun m => m.filled (g m)).unit.complete && f.flags.getLsbD 0 then (w.updUnit fun m => m.filled (g m)).emit2 planeTok
    else w.updUnit fun m => m.filled (g m) := rfl

/-- One row or column more: the shadow plane is the one given, and a PLANE token goes out when it completes, if the op asks for it. -/
theorem filled_unit {g : Matrix → Plane} (h : w.UnitIs m) (room : m.fill < 64) (outs : w.outs = []) :
    (filled f w g).unit = m.filled (g m)
    ∧ (filled f w g).outs = (if m.fill = 63 ∧ f.flags.getLsbD 0 = true then [(0, planeTok), (1, planeTok)] else [])
    ∧ (filled f w g).s0 = w.s0 := by
  have unit : (w.updUnit fun m => m.filled (g m)).unit = m.filled (g m) := h.updUnit.unit
  have closes : ((w.updUnit fun m => m.filled (g m)).unit.complete && f.flags.getLsbD 0) = true ↔ m.fill = 63 ∧ f.flags.getLsbD 0 = true := by
    rw [unit, Bool.and_eq_true, Matrix.complete, decide_eq_true_iff, Matrix.filled_fill]
    exact and_congr_left' (by omega)
  rw [filled_eq]
  by_cases last : m.fill = 63 ∧ f.flags.getLsbD 0 = true
  · rw [if_pos (closes.mpr last), if_pos last]
    have both := emit2_eq (w := w.updUnit fun m => m.filled (g m)) (t := planeTok) outs
    rw [both]
    exact ⟨unit, rfl, rfl⟩
  · rw [if_neg (mt closes.mp last), if_neg last]
    exact ⟨unit, outs, rfl⟩

theorem lds_comes (due : DataDue f true s w a y c) (turn : w.yields = false) (room : w.unit.fill < 64) :
    ∃ w1, Comes [f.oa, f.ob] f.silt s w1 (exec (.lds f) s) ∧ w1.unit.fill = w.unit.fill + 1 ∧ w1.unit.active = w.unit.active
      ∧ (∀ l < 16, lane (w1.unit.shadow.row w.unit.fill) l = if a.mask.getLsbD l then lane a.payload l else 0)
      ∧ (∀ j, j ≠ w.unit.fill → w1.unit.shadow.row j = w.unit.shadow.row j)
      ∧ w1.outs = if w.unit.fill = 63 ∧ f.flags.getLsbD 0 = true then [(0, planeTok), (1, planeTok)] else [] := by
  obtain ⟨unit, outs, s0⟩ := filled_unit (f := f) due.unitIs room due.used_outs
  refine ⟨_, matTurn_data_comes (b := ldsBehave f) due turn (loaderFire_room room) s0, ?_⟩
  simp only [ldsBehave, unit, outs, Matrix.filled_fill, Matrix.filled_shadow, Matrix.filled_active, Plane.row, Tab.get_set_self, true_and, and_true]
  exact ⟨fun l hl => lane_maskLanes _ _ hl, fun j other => Tab.get_set_ne _ _ other _⟩

/-- A plane with element e of every row from a token's elements. -/
def Plane.setColumn (p : Plane) (e : Nat) (x : Payload) : Plane :=
  { p with rows := (List.range 64).foldl (fun t n => Tab.set t n (setElem (p.row n) 8 e (elem x 8 n))) p.rows }

theorem Plane.setColumn_row {n : Nat} (p : Plane) (e : Nat) (x : Payload) (hn : n < 64) :
    (p.setColumn e x).row n = setElem (p.row n) 8 e (elem x 8 n) := by
  rw [Plane.setColumn, Plane.row]
  dsimp only
  exact get_setRows p.rows 0 (fun n => setElem (p.row n) 8 e (elem x 8 n)) hn

theorem mtrn_comes (due : DataDue f true s w a y c) (turn : w.yields = false) (room : w.unit.fill < 64) :
    ∃ w1, Comes [f.oa, f.ob] f.silt s w1 (exec (.mtrn f) s) ∧ w1.unit.fill = w.unit.fill + 1 ∧ w1.unit.active = w.unit.active
      ∧ (∀ n < 64, elem (w1.unit.shadow.row n) 8 w.unit.fill = if a.mask.getLsbD (n / 4) then elem a.payload 8 n else 0)
      ∧ (∀ n < 64, ∀ e < 64, e ≠ w.unit.fill → elem (w1.unit.shadow.row n) 8 e = elem (w.unit.shadow.row n) 8 e) := by
  obtain ⟨unit, -, s0⟩ := filled_unit (f := f) (g := fun m => m.shadow.setColumn m.fill (maskLanes a.mask a.payload)) due.unitIs room due.used_outs
  refine ⟨filled f (w.used f) fun m => m.shadow.setColumn m.fill (maskLanes a.mask a.payload),
    matTurn_data_comes (b := mtrnBehave f) due turn (loaderFire_room room) s0, ?_⟩
  rw [unit, Matrix.filled_shadow]
  refine ⟨rfl, Matrix.filled_active .., fun n hn => ?_, fun n hn e he other => ?_⟩
  · rw [Plane.setColumn_row _ _ _ hn, elem_setElem _ (by exact room), if_pos rfl, Nat.mod_eq_of_lt (elem_lt ..), elem_maskLanes _ _ hn]
  · rw [Plane.setColumn_row _ _ _ hn, elem_setElem _ (by exact he), if_neg other]

/-! ### Multiplying (R181 to R183) -/

theorem mulFire_data {b : Behave} (head : w.head .a f.a = some t) (data : t.kind = 0) : mulFire f b w = ccFire f b w := by
  unfold mulFire
  simp [head, data]

theorem fireRow_s0 (grouped : Bool) (toks : List Token) : (fireRow f grouped toks w).s0 = w.s0 := by
  unfold fireRow
  dsimp only
  rw [Work.count_eq]
  rfl

theorem mma_comes (due : DataDue f true s w a y c) (turn : w.yields = false) (head : w.head .a f.a = some t) (data : t.kind = 0) :
    Comes [f.oa, f.ob] f.silt s (((fireRow f false [a] (w.used f)).emit 0 a).emit 1 a) (exec (.mma f) s) :=
  matTurn_data_comes (b := mulBehave f false false) due turn (mulFire_data head data) (fireRow_s0 ..)

theorem mmaq_comes (due : DataDue f true s w a y c) (turn : w.yields = false) (head : w.head .a f.a = some t) (data : t.kind = 0) :
    Comes [f.oa, f.ob] f.silt s ((mulBehave f true (weightTy f = .q4)).data (w.used f) a y c) (exec (.mmaq f) s) :=
  matTurn_data_comes due turn (mulFire_data head data) (fireRow_s0 ..)

/-- Each element of the row that a firing updates, from the products of its column's weights. -/
theorem accElem_fireRow {grouped : Bool} {toks : List Token} {n : Nat} (h : w.UnitIs m) (hn : n < 64) :
    accElem (((fireRow f grouped toks w).unit.acc (accOf f)).row w.op.row) n
      = (addChunks f (weightTy f) m.active grouped (toks.length * (512 / f.ty.width)) (activations f.ty toks) n
          (accElem ((m.acc (accOf f)).row w.op.row) n)).1 % 2 ^ 32 := by
  unfold fireRow
  extract_lets u m1 plane acc row xs k rs marks acc1 w1
  have here : m1 = m := h.unit
  have unit : w1.unit = m.setAcc (accOf f) acc1 := (h.updUnit (g := fun x => x.setAcc (accOf f) acc1)).unit
  have updated : AccPlane.row acc1 row = accRow (rs.map Prod.fst) := Tab.get_set_self ..
  rw [Work.count_eq]
  show accElem (AccPlane.row (w1.unit.acc (accOf f)) row) n = _
  rw [unit, Matrix.acc_setAcc_self, updated, List.map_map, ← here]
  exact accElem_accRow_map _ hn

/-- The exact sum over the elements that a test picks. -/
theorem foldl_filterMap_sum (n : Nat) (p : Nat → Bool) (h : Nat → Nat × Nat) (g : Nat × Nat → Int) :
    (((List.range n).filterMap fun e => if p e then some (h e) else none).map g).foldl (· + ·) 0
      = ∑ e ∈ (Finset.range n).filter fun e => p e = true, g (h e) := by
  rw [Finset.sum_filter]
  induction n with
  | zero => rfl
  | succ n ih =>
    rw [List.range_succ, List.filterMap_append, List.map_append, List.foldl_append, ih, Finset.sum_range_succ]
    by_cases hp : p n = true <;> simp [hp]

theorem wrapNat_intOf {v : Nat} (hv : v < 2 ^ 32) : wrapNat 32 (Ty.i32.intOf v) = v := by
  unfold wrapNat Ty.intOf
  simp only [Ty.isSigned, Ty.width, Bool.true_and]
  split <;> omega

/-- The activations of one I8 token: its valid elements by number. -/
theorem activations_i8 (a : Token) : activations .i8 [a]
    = (List.range 64).filterMap fun e => if validE a.mask 8 e then some (e, elem a.payload 8 e) else none := by
  simp [activations, Ty.width]

/-- The 64 elements of an I8 token are one chunk. -/
theorem addChunks_one {u : Ty} {p : Plane} {grouped : Bool} {n v : Nat} {xs : List (Nat × Nat)} (int : f.ty = .i8) :
    (addChunks f u p grouped 64 xs n v).1 = (addChunk f u p grouped n v (xs.filter fun x => x.1 / 64 == 0)).1 := by
  have depth : (if f.ty.width = 16 then 32 else 64) = 64 := if_neg (by rw [int]; decide)
  unfold addChunks
  rw [depth]
  rfl

theorem addChunk_i8 {p : Plane} {n v : Nat} {xs : List (Nat × Nat)} (int : f.ty = .i8) (wrap : f.sat = false) :
    addChunk f .i8 p false n v xs = if xs.isEmpty then (v, Ev.zero) else
      finInt .i32 false (Ty.i32.intOf v + (xs.map fun x => Ty.i8.intOf x.2 * Ty.i8.intOf (elem (p.row n) 8 x.1)).foldl (· + ·) 0) := by
  have fixedPoint : (f.ty.isFloat || false) = false := by rw [int]; rfl
  unfold addChunk
  rw [fixedPoint, if_neg Bool.false_ne_true, int, wrap]
  rfl

/-- An I8 row of MMA without saturation adds the exact sum of its products, wrapped to 32 bits. -/
theorem addChunks_i8 {p : Plane} {n v : Nat} (int : f.ty = .i8) (wrap : f.sat = false) (hv : v < 2 ^ 32) :
    (addChunks f .i8 p false 64 (activations .i8 [a]) n v).1 % 2 ^ 32
      = ((Ty.i32.intOf v + ∑ e ∈ (Finset.range 64).filter fun e => validE a.mask 8 e = true,
          Ty.i8.intOf (elem a.payload 8 e) * Ty.i8.intOf (elem (p.row n) 8 e)) % 2 ^ 32).toNat := by
  have oneChunk : (activations .i8 [a]).filter (fun x => x.1 / 64 == 0) = activations .i8 [a] := by
    rw [List.filter_eq_self, activations_i8]
    intro x hx
    obtain ⟨e, he, hx⟩ := List.mem_filterMap.mp hx
    have inside := List.mem_range.mp he
    split at hx
    · cases hx
      simp [Nat.div_eq_of_lt inside]
    · cases hx
  have sum : ((activations .i8 [a]).map fun x => Ty.i8.intOf x.2 * Ty.i8.intOf (elem (p.row n) 8 x.1)).foldl (· + ·) 0
      = ∑ e ∈ (Finset.range 64).filter fun e => validE a.mask 8 e = true, Ty.i8.intOf (elem a.payload 8 e) * Ty.i8.intOf (elem (p.row n) 8 e) := by
    rw [activations_i8]
    exact foldl_filterMap_sum 64 (fun e => validE a.mask 8 e) (fun e => (e, elem a.payload 8 e)) _
  rw [addChunks_one int, oneChunk, addChunk_i8 int wrap, ← wrapNat_eq, ← sum]
  cases activations .i8 [a] with
  | nil => simpa [wrapNat_intOf hv] using hv
  | cons x xs => exact Nat.mod_eq_of_lt (wrapNat_lt ..)

/-! ### The accumulator planes (R184 to R186) -/

/-- The op's accumulator plane is zero. -/
def Work.clearAcc (f : CCFrame) (w : Work) : Work := w.updUnit fun m => m.setAcc (accOf f) ⟨[], 0, []⟩

/-- ACCZ clears its plane; of the stripe it changes besides only the ops that use it. -/
theorem acczFire_data (due : DataDue f true s w a y c) : ∃ g : Stripe → Stripe,
    acczFire f w = some (Work.emit2 { (w.used f).clearAcc f with
      s := ((w.used f).clearAcc f).s.updStripe ((w.used f).clearAcc f).run.serial ((w.used f).clearAcc f).slot g } a)
    ∧ ∀ st, (g st).cells = st.cells :=
  ⟨_, ccFire_data due, fun _ => rfl⟩

theorem accz_comes (due : DataDue f true s w a y c) (turn : w.yields = false) :
    ∃ w1, Comes [f.oa, f.ob] f.silt s w1 (exec (.accz f) s) ∧ w1.unit.acc (accOf f) = ⟨[], 0, []⟩ ∧ w1.unit.acc (!accOf f) = w.unit.acc (!accOf f)
      ∧ w1.outs = [(0, a), (1, a)] := by
  obtain ⟨g, fire, cells⟩ := acczFire_data due
  rw [emit2_eq (by exact due.used_outs)] at fire
  have cleared : ((w.used f).clearAcc f).UnitIs (w.unit.setAcc (accOf f) ⟨[], 0, []⟩) := due.unitIs.updUnit
  have unit := (cleared.updStripe (g := g) fun st unit => (congrArg (fun t => Tab.get t Matrix.init _) (cells st)).trans unit).unit
  refine ⟨_, matTurn_comes due.1 turn fire due.used_s0, ?_, ?_, rfl⟩
  · exact (congrArg (Matrix.acc · (accOf f)) unit).trans (Matrix.acc_setAcc_self ..)
  · exact (congrArg (Matrix.acc · (!accOf f)) unit).trans (Matrix.acc_setAcc_not ..)

/-- A plane with 16 elements of a row, the j-th such group, from a token's lanes. -/
def AccPlane.setGroup (p : AccPlane) (r j : Nat) (x : Payload) : AccPlane :=
  { p with rows := Tab.set p.rows r (accRow ((List.range 64).map fun n => if n / 16 = j then lane x (n % 16) else accElem (p.row r) n))
           high := max p.high (r + 1) }

theorem AccPlane.setGroup_elem {n : Nat} (p : AccPlane) (r j : Nat) (x : Payload) (hn : n < 64) :
    accElem ((p.setGroup r j x).row r) n = if n / 16 = j then lane x (n % 16) else accElem (p.row r) n := by
  have row : (p.setGroup r j x).row r = accRow ((List.range 64).map fun n => if n / 16 = j then lane x (n % 16) else accElem (p.row r) n) :=
    Tab.get_set_self ..
  rw [row, accElem_accRow_map _ hn]
  refine Nat.mod_eq_of_lt ?_
  split
  · exact elem_lt ..
  · exact accElem_lt ..

theorem accinFire_data (due : DataDue f true s w a y c) : ∃ op : OpState, op.col = (w.op.col + 1) % 4 ∧ accinFire f w = some
    { (w.used f).updUnit fun m => m.setAcc (accOf f) ((m.acc (accOf f)).setGroup w.op.row w.op.col (maskLanes a.mask a.payload)) with op := op } := by
  obtain ⟨held, op⟩ := w.heldOnly_used f
  have row : (w.used f).op.row = w.op.row := by rw [op]
  have col : (w.used f).op.col = w.op.col := by rw [op]
  rw [← row, ← col]
  exact ⟨_, rfl, ccFire_data due⟩

theorem accin_comes (due : DataDue f true s w a y c) (turn : w.yields = false) :
    ∃ w1, Comes [f.oa, f.ob] f.silt s w1 (exec (.accin f) s) ∧ w1.outs = [] ∧ w1.op.col = (w.op.col + 1) % 4
      ∧ (∀ n < 64, accElem ((w1.unit.acc (accOf f)).row w.op.row) n =
          if n / 16 = w.op.col then (if a.mask.getLsbD (n % 16) then lane a.payload (n % 16) else 0) else accElem ((w.unit.acc (accOf f)).row w.op.row) n)
      ∧ (w1.unit.acc (accOf f)).high = max (w.unit.acc (accOf f)).high (w.op.row + 1) := by
  obtain ⟨op, col, fire⟩ := accinFire_data due
  have unit := (due.unitIs.updUnit (g := fun m =>
    m.setAcc (accOf f) ((m.acc (accOf f)).setGroup w.op.row w.op.col (maskLanes a.mask a.payload)))).unit
  have acc := (congrArg (Matrix.acc · (accOf f)) unit).trans (Matrix.acc_setAcc_self ..)
  refine ⟨_, matTurn_comes due.1 turn fire due.used_s0, due.used_outs, col, fun n hn => ?_, congrArg AccPlane.high acc⟩
  refine (congrArg (fun p => accElem (AccPlane.row p w.op.row) n) acc).trans ?_
  rw [AccPlane.setGroup_elem _ _ _ _ hn, lane_maskLanes _ _ (Nat.mod_lt n (by decide))]

theorem dumpRow_s0 (u : Ty) (p : AccPlane) (r : Nat) : (dumpRow f u p r w).s0 = w.s0 := by
  unfold dumpRow
  refine (List.foldlRecOn (motive := fun x : Work => x.s0 = w.s0) _ _ ?_ fun x hx i _ => ?_)
  · rw [Work.count_eq]
  · split <;> exact hx

theorem dump_s0 : (dump f w).s0 = w.s0 := by
  have rows (n : Nat) (p : AccPlane) : ((List.range n).foldl (fun x r =>
      if r + 1 < n then (dumpRow f (weightTy f) p r x).emit2 (stopTok f.level Ride.none) else dumpRow f (weightTy f) p r x) w).s0 = w.s0 :=
    List.foldlRecOn (motive := fun x : Work => x.s0 = w.s0) _ _ rfl fun x hx r _ => by
      split <;> exact (dumpRow_s0 ..).trans hx
  unfold dump
  dsimp only
  split <;> exact rows ..

theorem accout_comes (due : DataDue f true s w a y c) (turn : w.yields = false) :
    Comes [f.oa, f.ob] f.silt s (dump f (w.used f)) (exec (.accout f) s) :=
  matTurn_comes due.1 turn (ccFire_data due) (dump_s0.trans due.used_s0)

end

/-- Settles O39, op by op. -/
theorem matrixOpsComplete : Obligations.MatrixOpsComplete := by
  unfold Obligations.MatrixOpsComplete
  intro f s w a y c due turn
  refine ⟨fun room _ => ⟨lds_comes due turn room, mtrn_comes due turn room⟩, fun ⟨t, head, data⟩ => ⟨mma_comes due turn head data, fun one => ?_, fun two => ?_⟩,
    fun int weights wrap _ n hn => ?_, accz_comes due turn, fun _ => accin_comes due turn, accout_comes due turn⟩
  · have comes := mmaq_comes due turn head data
    simpa only [mulBehave, one, decide_false, Bool.false_eq_true, if_false] using comes
  · have comes := mmaq_comes due turn head data
    simpa only [mulBehave, two, decide_true, if_true] using comes
  · have held : (w.used f).op.row = w.op.row := by
      obtain ⟨held, op⟩ := w.heldOnly_used f
      rw [op]
    have element := accElem_fireRow (f := f) (grouped := false) (toks := [a]) due.unitIs hn
    rw [held, weights, int] at element
    exact element.trans (addChunks_i8 int wrap (accElem_lt ..))

end Sys2Proof.Machine
end

section
/-! PROOF. The switch ops (O42): what stands at a switch's inputs, and the DATA firing of each op. -/
namespace Sys2Proof

/-- No input of a switch is used twice. -/
theorem SWFrame.eq_of_mem_used {f : SWFrame} {p q : Nat × Src} (hp : p ∈ f.used) (hq : q ∈ f.used) (same : p.1 = q.1) : p = q := by
  have names : (((List.range 8).zip f.ins.toList).map Prod.fst).Nodup := by
    rw [List.map_fst_zip (by simp)]
    exact List.nodup_range
  exact List.inj_on_of_nodup_map names (List.mem_of_mem_filter hp) (List.mem_of_mem_filter hq) same

namespace Machine

section
variable {f : SWFrame} {s : State} {w x : Work} {p q : Nat × Src} {i t : Token} {n : Nat}

/-! ### What stands at the inputs (R218) -/

/-- The tokens at the used inputs, lowest input first. -/
def Work.inHeads (f : SWFrame) (w : Work) : List ((Nat × Src) × Token) := f.used.filterMap fun x => (w.inHead x).map fun t => (x, t)

theorem mem_inHeads : (q, t) ∈ w.inHeads f ↔ q ∈ f.used ∧ w.inHead q = some t := by
  simp only [Work.inHeads, List.mem_filterMap, Option.map_eq_some_iff, Prod.mk.injEq]
  constructor
  · rintro ⟨x, hx, u, hu, rfl, rfl⟩
    exact ⟨hx, hu⟩
  · rintro ⟨hq, ht⟩
    exact ⟨q, hq, t, ht, rfl, rfl⟩

/-- Not every input is parked while one has no token that parks it. -/
theorem inHeads_filter_length_ne {park : (Nat × Src) × Token → Bool} (hq : q ∈ f.used) (free : ∀ t, w.inHead q = some t → park (q, t) = false) :
    ((w.inHeads f).filter park).length ≠ f.used.length := by
  intro all
  rw [Work.inHeads, List.filter_filterMap, List.filterMap_length_eq_length] at all
  have here := all q hq
  cases head : w.inHead q with
  | none => simp [head] at here
  | some t => simp [head, free t head] at here

/-- The one token that stands at an input. -/
theorem find_inHeads {can : (Nat × Src) × Token → Bool} (hq : q ∈ f.used) (head : w.inHead q = some t) (free : can (q, t) = true) (name : q.1 = n) :
    ((w.inHeads f).filter can).find? (fun x => x.1.1 == n) = some (q, t) := by
  have mem : (q, t) ∈ (w.inHeads f).filter can := List.mem_filter.mpr ⟨mem_inHeads.mpr ⟨hq, head⟩, free⟩
  obtain ⟨⟨p, u⟩, found⟩ := Option.isSome_iff_exists.mp (List.find?_isSome (p := fun x : (Nat × Src) × Token => x.1.1 == n).mpr
    ⟨_, mem, beq_iff_eq.mpr name⟩)
  obtain ⟨hp, headP⟩ := mem_inHeads.mp (List.mem_of_mem_filter (List.mem_of_find?_eq_some found))
  obtain rfl : p = q := SWFrame.eq_of_mem_used hp hq ((beq_iff_eq.mp (List.find?_some found :)).trans name.symm)
  obtain rfl : u = t := Option.some.inj (headP.symm.trans head)
  exact found

theorem swTake_data (data : t.kind = 0) : swTake f (q, t) w = (w.inPop q).emitAll f t := by
  simp [swTake, Token.isStop, data]

/-! ### The turn of a switch op (R218) -/

theorem swTurn_comes {fire : Work → Option Work} (ready : Ready s w) (unmarked : swMarker f w = none) (h : fire w = some x) (s0 : x.s0 = w.s0) :
    Comes f.outs.toList 0 s x (swTurn f fire s) := by
  have same : swTurn f fire s = x.commit f.outs.toList 0 := by
    unfold swTurn
    rw [ready.1]
    exact turn_ready ready (by simp [unmarked, h])
  rw [same, ← ready.fresh.1, ← s0]
  exact commit_comes ..

@[simp] theorem emitAll_s0 (t : Token) : (w.emitAll f t).s0 = w.s0 :=
  List.foldlRecOn (motive := fun x : Work => x.s0 = w.s0) f.outUsed _ rfl fun _ h _ _ => h

@[simp] theorem emitLow_s0 (t : Token) : (w.emitLow f t).s0 = w.s0 := by
  unfold Work.emitLow
  split <;> rfl

@[simp] theorem inPop_s0 (p : Nat × Src) : (w.inPop p).s0 = w.s0 := w.pop_s0 ..

@[simp] theorem takeIdx_s0 : (w.takeIdx f).s0 = w.s0 := by
  unfold Work.takeIdx
  split
  · rfl
  · rfl
  · exact w.pop_s0 ..
  · split
    · split
      · rfl
      · split <;> rfl
    · split
      · rfl
      · dsimp only
        split <;> exact w.pop_s0 ..

@[simp] theorem err_s0 (code : Nat) : (w.err code).2.s0 = w.s0 := by
  unfold Work.err
  split <;> rfl

/-- An ERR that an op creates has the code it is created with (R31). -/
theorem err_fields (w : Work) {code : Nat} (small : code < 2 ^ 16) : (w.err code).1.kind = 2 ∧ (w.err code).1.payload.toNat % 2 ^ 16 = code := by
  have fields (time : Word) (vs cell slot : Nat) : (errTok time vs cell slot code).payload.toNat % 2 ^ 16 = code := by
    simp only [errTok, BitVec.toNat_ofNat]
    omega
  unfold Work.err
  split <;> exact ⟨rfl, fields ..⟩

/-! ### SELX and DIST (R219, R220) -/

theorem selxFire_data (index : w.idxTok f = some i) (data : i.kind = 0) (hq : q ∈ f.used) (name : q.1 = lane i.payload 0)
    (head : w.inHead q = some t) (token : t.kind = 0) : selxFire f w = some (((w.takeIdx f).inPop q).emitAll f t) := by
  have free : ∀ u, w.inHead q = some u → u.isStop = false := fun u hu => by
    obtain rfl : u = t := Option.some.inj (hu.symm.trans head)
    simp [Token.isStop, token]
  have awake := inHeads_filter_length_ne (park := fun x => x.2.isStop) hq free
  have used : f.used.any (fun x => x.1 == lane i.payload 0) = true := List.any_eq_true.mpr ⟨q, hq, beq_iff_eq.mpr name⟩
  have found := find_inHeads (can := fun _ => true) hq head rfl name
  rw [List.filter_true] at found
  unfold Work.inHeads at awake found
  unfold selxFire
  simp only [awake, index, Token.isErr, data, used, found, free t head, swTake_data token]
  rfl

theorem selxFire_range (index : w.idxTok f = some i) (data : i.kind = 0) (unused : ∀ q ∈ f.used, q.1 ≠ lane i.payload 0) (hp : p ∈ f.used)
    (free : ∀ u, w.inHead p = some u → u.kind = 0) :
    selxFire f w = some (((w.takeIdx f).err eIDXRANGE).2.emitAll f ((w.takeIdx f).err eIDXRANGE).1) := by
  have awake := inHeads_filter_length_ne (w := w) (park := fun x => x.2.isStop) hp fun u hu => by simp [Token.isStop, free u hu]
  have none : f.used.any (fun x => x.1 == lane i.payload 0) = false := List.any_eq_false.mpr fun q hq => by simpa using unused q hq
  unfold Work.inHeads at awake
  unfold selxFire
  simp only [awake, index, Token.isErr, data, none]
  rfl

theorem distFire_data (index : w.idxTok f = some i) (data : i.kind = 0) (head : w.inHead (0, f.ins[0]) = some t) (token : t.kind = 0) :
    distFire f w = some (if lane i.payload 0 ∈ f.outUsed then ((w.takeIdx f).inPop (0, f.ins[0])).emit (lane i.payload 0) t
      else (((w.takeIdx f).inPop (0, f.ins[0])).err eIDXRANGE).2.emitLow f (((w.takeIdx f).inPop (0, f.ins[0])).err eIDXRANGE).1) := by
  unfold distFire
  simp only [head, Token.isStop, token, index, Token.isErr, data, List.contains_iff_mem, apply_ite some]
  rfl

/-! ### ARB and JOIN (R221, R222) -/

/-- The first number that answers. -/
theorem findSome_range {α : Type} {g : Nat → Option α} {x : α} {k n : Nat} (hk : k < n) (before : ∀ j < k, g j = none) (here : g k = some x) :
    (List.range n).findSome? g = some x := by
  obtain ⟨m, rfl⟩ : ∃ m, n = k + (m + 1) := ⟨n - k - 1, by omega⟩
  have none : (List.range k).findSome? g = none := List.findSome?_eq_none_iff.mpr fun j hj => before j (List.mem_range.mp hj)
  rw [List.range_add, List.findSome?_append, none, Option.none_or, List.range_succ_eq_map, List.map_cons, List.findSome?_cons, Nat.add_zero, here]

theorem arbFire_data {k : Nat} (hq : q ∈ f.used) (head : w.inHead q = some t) (token : t.kind = 0) (hk : k < 8) (turn : q.1 = (w.op.part + k) % 8)
    (passed : ∀ p ∈ f.used, (∃ j < k, p.1 = (w.op.part + j) % 8) →
      w.inHead p = none ∨ f.flags.getLsbD 0 = false ∧ ∃ u, w.inHead p = some u ∧ u.isStop = true) :
    arbFire f w = some ((Work.inPop { w with op := { w.op with part := (q.1 + 1) % 8 } } q).emitAll f t) := by
  have goes : t.isStop = false := by simp [Token.isStop, token]
  have awake := inHeads_filter_length_ne (park := fun x => x.2.isStop && !f.flags.getLsbD 0) hq fun u hu => by
    obtain rfl : u = t := Option.some.inj (hu.symm.trans head)
    simp [goes]
  have found := find_inHeads (can := fun x => !x.2.isStop || f.flags.getLsbD 0) hq head (by simp [goes]) turn
  have skipped : ∀ j < k, ((w.inHeads f).filter fun x => !x.2.isStop || f.flags.getLsbD 0).find? (fun x => x.1.1 == (w.op.part + j) % 8) = none := by
    intro j hj
    rw [List.find?_eq_none]
    rintro ⟨p, u⟩ hp here
    obtain ⟨mem, takeable⟩ := List.mem_filter.mp hp
    obtain ⟨used, headP⟩ := mem_inHeads.mp mem
    rcases passed p used ⟨j, hj, beq_iff_eq.mp here⟩ with nothing | ⟨quiet, v, hv, stop⟩
    · cases nothing.symm.trans headP
    · obtain rfl : v = u := Option.some.inj (hv.symm.trans headP)
      rw [stop, quiet] at takeable
      exact absurd takeable (by decide)
  have first : (List.range 8).findSome? (fun j => ((w.inHeads f).filter fun x => !x.2.isStop || f.flags.getLsbD 0).find?
      fun x => x.1.1 == (w.op.part + j) % 8) = some (q, t) :=
    findSome_range hk skipped found
  unfold Work.inHeads at awake first
  unfold arbFire
  simp only [awake, first, swTake_data token]
  rfl

theorem joinFire_data {rest : List (Nat × Src)} (free : w.op.resolving = none) (used : f.used = q :: rest)
    (heads : ∀ p ∈ f.used, ∃ u, w.inHead p = some u ∧ u.kind = 0) (head : w.inHead q = some t) :
    joinFire f w = some ((f.used.foldl (fun z x => z.inPop x) w).emitAll f t) := by
  have all : (w.inHeads f).length = f.used.length := by
    rw [Work.inHeads, List.filterMap_length_eq_length]
    intro p hp
    obtain ⟨u, hu, -⟩ := heads p hp
    simp [hu]
  have tokens : ∀ u ∈ (w.inHeads f).map Prod.snd, u.kind = 0 := by
    intro u hu
    obtain ⟨⟨p, u⟩, mem, rfl⟩ := List.mem_map.mp hu
    obtain ⟨hp, headP⟩ := mem_inHeads.mp mem
    obtain ⟨v, hv, data⟩ := heads p hp
    exact Option.some.inj (hv.symm.trans headP) ▸ data
  have top : topStop ((w.inHeads f).map Prod.snd) = 0 := topStop_zero fun u hu => by simp [Token.isStop, tokens u hu]
  have noErr : ((w.inHeads f).map Prod.snd).find? Token.isErr = none := by
    rw [List.find?_eq_none]
    exact fun u hu => by simp [Token.isErr, tokens u hu]
  have first : ∃ ts, (w.inHeads f).map Prod.snd = t :: ts := by
    simp only [Work.inHeads, used, List.filterMap_cons, head, Option.map_some, List.map_cons]
    exact ⟨_, rfl⟩
  obtain ⟨ts, first⟩ := first
  rw [first] at top noErr
  unfold Work.inHeads at all first
  unfold joinFire
  simp only [free, all, first, top, noErr, ne_eq, not_true_eq_false, if_false]

end

/-- Settles O42, op by op. -/
theorem switchOpsComplete : Obligations.SwitchOpsComplete := by
  unfold Obligations.SwitchOpsComplete
  intro f s w w1 ready unmarked free
  refine ⟨fun i q t index data hq name head token hw1 => ?_, fun i p index data unused hp heads => ?_,
    fun i t index data head token => ⟨fun out hw1 => ?_, fun out => ?_⟩,
    fun q t k hq head token hk turn passed hw1 => ?_, fun t q rest used heads head hw1 => ?_⟩
  · subst hw1
    exact swTurn_comes ready unmarked (selxFire_data index data hq name head token) (by simp)
  · exact ⟨_, _, swTurn_comes ready unmarked (selxFire_range index data unused hp heads) (by simp), rfl, err_fields _ (by decide)⟩
  · subst hw1
    refine swTurn_comes ready unmarked ((distFire_data index data head token).trans (congrArg some (if_pos out))) ?_
    exact (inPop_s0 _).trans takeIdx_s0
  · exact ⟨_, _, swTurn_comes ready unmarked ((distFire_data index data head token).trans (congrArg some (if_neg out))) (by simp), rfl,
      err_fields _ (by decide)⟩
  · subst hw1
    obtain ⟨-, -, -, good⟩ := id ready
    refine swTurn_comes ready unmarked ((throughRegister_good good).trans (arbFire_data hq head token hk turn passed)) ?_
    rw [emitAll_s0, inPop_s0]
  · subst hw1
    refine swTurn_comes ready unmarked (joinFire_data free used heads head) ((emitAll_s0 t).trans ?_)
    exact List.foldlRecOn (motive := fun x : Work => x.s0 = w.s0) f.used _ rfl fun _ h p _ => (inPop_s0 p).trans h

end Machine
end Sys2Proof
end

section
/-! PROOF. A memory-cell op at its DATA firing (O40, O41): when it fires, the tile that it finds, what it queues, and one lane a turn. -/
namespace Sys2Proof.Machine

/-! ### What an op sees of its ports -/

/-- Two works of one op that see the same at its ports: the same runs, held tokens and time, and the same free value to come. -/
structure Work.Alike (w x : Work) : Prop where
  run : x.run = w.run
  slot : x.slot = w.slot
  st : x.st = w.st
  o : x.o = w.o
  held : x.op.held = w.op.held
  runs : x.s.runs = w.s.runs
  time : x.s.timestamp = w.s.timestamp
  free : x.s.freeCtr = w.s.freeCtr

section
variable {w x : Work}

theorem Work.Alike.cur (h : w.Alike x) : x.cur = w.cur := by
  unfold Work.cur
  rw [run_congr h.runs, h.run, h.slot, h.st]

theorem Work.Alike.queue (h : w.Alike x) (src : Src) (r : Reader) : x.queue src r = w.queue src r := by
  unfold Work.queue Work.srcChan Work.first
  rw [run_congr h.runs, h.run, h.cur, h.st, h.o]

theorem Work.Alike.err (h : w.Alike x) (code : Nat) : (x.err code).1 = (w.err code).1 := by
  unfold Work.err State.drawNat
  rw [h.time, h.st, h.o, h.free]
  split <;> rfl

theorem Work.Alike.headAt (h : w.Alike x) (src : Src) (r : Reader) : x.headAt src r = w.headAt src r := by
  unfold Work.headAt
  rw [h.queue, h.err, h.err]

theorem Work.Alike.head (h : w.Alike x) (n : PortName) (p : Port) : x.head n p = w.head n p := by
  unfold Work.head Work.reader
  rw [h.headAt, h.o]

theorem Work.Alike.resident (h : w.Alike x) (n : PortName) : x.resident n = w.resident n := congrArg (Tab.find · n.idx) h.held

theorem Work.Alike.pheadTok (h : w.Alike x) (src : PSrc) (r : Reader) : x.pheadTok src r = w.pheadTok src r := by
  unfold Work.pheadTok Work.psrcChan
  rw [h.cur, h.o]

theorem Work.Alike.predBit (h : w.Alike x) (src : PSrc) (sense : Bool) : x.predBit src sense = w.predBit src sense := by
  unfold Work.predBit Work.phead
  rw [h.pheadTok, h.o]

theorem Work.Alike.tok (h : w.Alike x) (f : MCFrame) (n : PortName) (p : Port) : x.tok f n p = w.tok f n p := by
  unfold Work.tok Work.portTok
  rw [h.head, h.resident, h.run]

theorem Work.Alike.portDeps (h : w.Alike x) (f : MCFrame) : x.portDeps f = w.portDeps f := by
  unfold Work.portDeps Work.pdeps
  simp only [h.head, h.resident, h.pheadTok, h.o]

theorem Work.Alike.gen (h : w.Alike x) : x.gen = w.gen := by
  unfold Work.gen
  rw [h.st, h.o]

end

/-- A work whose firing has queued some number of answers. -/
def Work.from (w : Work) (n : Nat) : Work := { w with op := { w.op with part := n } }

theorem alike_from (w : Work) (n : Nat) : w.Alike (w.from n) := ⟨rfl, rfl, rfl, rfl, rfl, rfl, rfl, rfl⟩

section
variable {f : MCFrame} {b : McBehave} {s s1 : State} {w x : Work} {t : Tile} {n h : Nat} {r : McR}

/-! ### When it fires (R127, R189) -/

theorem McDue.now {bit : Bool} (due : McDue f bit s w) : w.s = s := (workAt_s0 due.1).2.1

theorem mcBegin_data (due : McDue f true s w) : mcBegin f b (w.from n) = some (b.data (w.from n)).out := by
  obtain ⟨-, -, -, free, -, -, good, heads, fresh, unmarked, bit⟩ := due
  have same := alike_from w n
  simp only [← same.head, ← same.resident] at good heads fresh unmarked
  rw [← same.predBit] at bit
  replace free : (w.from n).op.resolving = none := free
  clear same
  generalize w.from n = w at *
  have noMarker : markerAt ((f.streams ++ f.helds).map fun p => (p, w.head p.1 p.2)) f.streams = none := by
    refine markerAt_none fun y hy t ht => ?_
    obtain ⟨p, hp, rfl⟩ := List.mem_map.mp hy
    rcases List.mem_append.mp hp with hp | hp
    · obtain ⟨u, hu, data⟩ := heads p hp
      obtain rfl : u = t := Option.some.inj (hu.symm.trans ht)
      simp [Token.isMarker, data]
    · exact unmarked p hp t ht
  have shown : (f.streams.filterMap fun p => w.head p.1 p.2).length = f.streams.length := by
    rw [List.filterMap_length_eq_length]
    intro p hp
    obtain ⟨u, hu, -⟩ := heads p hp
    simp [hu]
  have noStop : topStop (f.streams.filterMap fun p => w.head p.1 p.2) = 0 := by
    refine topStop_zero fun t ht => ?_
    obtain ⟨p, hp, here⟩ := List.mem_filterMap.mp ht
    obtain ⟨u, hu, data⟩ := heads p hp
    obtain rfl : u = t := Option.some.inj (hu.symm.trans here)
    simp [Token.isStop, data]
  have noErr : (f.ports.filter fun p => (f.streams ++ f.helds).contains p && (w.errAt p).isSome) = [] := by
    refine List.filter_eq_nil_iff.mpr fun p _ => ?_
    rw [Bool.and_eq_true, not_and, List.contains_iff_mem, List.mem_append]
    intro used
    unfold Work.errAt
    cases resident : w.resident p.1 with
    | some held => simp [good p.1 held resident]
    | none =>
      obtain ⟨t, ht, data⟩ : ∃ t, w.head p.1 p.2 = some t ∧ t.kind = 0 := used.elim (heads p) fun hp => fresh p hp (by simp [resident])
      simp [ht, Token.isErr, data]
  have ready : ((w.unfilled f).all fun p => match w.head p.1 p.2 with | some t => t.isData | none => false) = true := by
    rw [List.all_eq_true]
    intro p hp
    obtain ⟨mem, empty⟩ := List.mem_filter.mp hp
    obtain ⟨t, ht, data⟩ := fresh p mem (by simpa using empty)
    simp [ht, Token.isData, data]
  unfold mcBegin
  simp only [free, noMarker, shown, noStop, noErr, List.filterMap_nil, bit, ne_eq, not_true_eq_false, if_false, if_true]
  exact if_pos ready

/-- The turn of an op that is due: it makes its DATA firing, or goes on with the one it is within. -/
theorem mcTurn_data (b : McBehave) (due : McDue f true s w) :
    ∃ n, mcTurn (mcFire f b) s = .next (b.data (w.from n)).out.store ∧ (b.mid w.op = false → n = 0) := by
  have fires : ∃ n, mcFire f b w = some (b.data (w.from n)).out ∧ (b.mid w.op = false → n = 0) := by
    obtain ⟨-, -, -, free, good, single, -⟩ := id due
    unfold mcFire
    rw [good, if_neg Bool.false_ne_true, free]
    cases mid : b.mid w.op with
    | true => exact ⟨w.op.part, if_pos rfl, nofun⟩
    | false =>
      refine ⟨0, ?_, fun _ => rfl⟩
      have alone : (w.op.mcq.any fun x => x.more) = false := List.any_eq_false.mpr fun x hx => by simp [single x hx]
      rw [Bool.false_and, if_neg Bool.false_ne_true, alone, if_neg Bool.false_ne_true]
      exact mcBegin_data due
  obtain ⟨n, fires, fresh⟩ := fires
  obtain ⟨here, noReq, free, -⟩ := due
  refine ⟨n, ?_, fresh⟩
  unfold mcTurn
  simp only [here, noReq, free, fires, Option.isSome_none, Bool.or_self, Bool.false_eq_true, if_false]

/-- The same of an instruction whose turns are those of the behaviour given. -/
theorem exec_data {i : Instr} (he : exec i s = mcTurn (mcFire f b) s) (due : McDue f true s w) :
    ∃ n, exec i s = .next (b.data (w.from n)).out.store ∧ (b.mid w.op = false → n = 0) := he ▸ mcTurn_data b due

/-! ### The tile that it finds (R193, R194) -/

/-- A work that has found a tile to read: it acquires what the tile's seal released (R194, R296). -/
def Work.reads (w : Work) (t : Tile) : Work := { w with deps := w.deps ++ t.deps }

theorem entry_good (found : w.s.tile w.die w.run.partition h = some t) (good : t.bad = false) : w.entry h = .ok (some t) := by
  unfold Work.entry
  simp [found, good]

theorem readTile_full (found : w.s.tile w.die w.run.partition h = some t) (good : t.bad = false) (full : t.state = .full) (peek : f.consume = false) :
    w.readTile f h = .ok (w.reads t, t) := by
  unfold Work.readTile
  rw [entry_good found good]
  simp [Except.bind, full, peek, Work.reads]

theorem writeTile_filling (found : w.s.tile w.die w.run.partition h = some t) (good : t.bad = false) (filling : t.state = .filling) (sp : t.hb = false)
    (access a m : Nat) : w.writeTile access h a m = .ok t := by
  unfold Work.writeTile
  rw [entry_good found good]
  simp [Except.bind, filling, State.hbBad, sp]

theorem handle_fixed (fixed : f.fromC = false) : w.handle f = f.handle.toNat := by
  unfold Work.handle
  rw [fixed, if_neg Bool.false_ne_true]

theorem tileToken_good {a : Nat} (full : t.state = .full) (good : w.s.tileBad t 0 a 64 = false) :
    w.tileToken t a = (dataTok 0xFFFF (payloadOf (w.s.tileData t a 64)), { w with s := w.s.touchTile t 0 a 64 }) := by
  unfold Work.tileToken
  simp [full, good]

theorem countOob_quiet (quiet : f.stats = false) (k : Nat) : w.countOob f.stats k = w := by
  unfold Work.countOob
  rw [quiet, if_neg Bool.false_ne_true]

/-! ### What it queues (R189) -/

theorem heldOnly_takeMc (w : Work) : w.HeldOnly (w.takeMc f) :=
  ((w.heldOnly_take ..).trans ((Work.heldOnly_take ..).trans (Work.heldOnly_take ..))).trans (Work.heldOnly_takePred ..)

@[simp] theorem takeMc_mcq (w : Work) : (w.takeMc f).op.mcq = w.op.mcq := by
  obtain ⟨held, e⟩ := heldOnly_takeMc (f := f) w
  rw [e]

@[simp] theorem endPass_mcq (w : Work) : (w.endPass f).op.mcq = w.op.mcq := by
  unfold Work.endPass
  dsimp only
  split <;> exact takeMc_mcq w

/-- A firing goes on from a work, with no more than further answers queued. -/
def Queues (w : Work) (r : McR) : Prop := ∃ y more, r = .ok y ∧ y.op.mcq = w.op.mcq ++ more

theorem Queues.refl (h : x.op.mcq = w.op.mcq) : Queues w (.ok x) := ⟨x, [], rfl, by rw [h, List.append_nil]⟩

theorem Queues.map {g : Work → Work} (h : Queues w r) (keeps : ∀ y, (g y).op.mcq = y.op.mcq) : Queues w (r.map g) := by
  obtain ⟨y, more, rfl, queue⟩ := h
  exact ⟨g y, more, rfl, (keeps y).trans queue⟩

theorem ownStop_queues (quiet : f.stats = false) (level : BitVec 3) (w : Work) : Queues w (w.ownStop f level) := by
  unfold Work.ownStop
  extract_lets r safe t1 w1
  split
  · rw [quiet, if_neg Bool.false_ne_true]
    exact ⟨_, _, rfl, rfl⟩
  · exact ⟨_, _, rfl, rfl⟩

theorem passOn_queues (quiet : f.stats = false) (g : AGFrame) (idx : List Nat) (w : Work) : Queues w (w.passOn f g idx) := by
  unfold Work.passOn
  extract_lets args
  split
  extract_lets w1 r
  have stops : Queues w r := by
    unfold r
    split
    · exact .refl rfl
    · exact ownStop_queues quiet ..
  exact stops.map fun y => by split <;> simp

theorem rowOn_queues (quiet : f.stats = false) (t : Tile) (w : Work) : Queues w (w.rowOn f t id) := by
  unfold Work.rowOn
  split
  · exact .refl rfl
  · dsimp only [id]
    split
    · exact ownStop_queues quiet ..
    · exact (ownStop_queues quiet f.level w).map fun _ => endPass_mcq _

/-! ### One lane a turn (R196, R294) -/

/-- A turn of an op that goes lane by lane, by what it makes of its first lane and what it does after the last. -/
theorem laneTurn_byLane {L : List (Nat × Int)} {v : List (BitVec 32)} {m : BitVec 16} {item : McItem → Prop} {a : Token} {unit : Nat}
    {access : Nat × Int → Work → Except Work Work} {done : Work → McR} {n0 n1 : OpState}
    (hL : L = (w.laneAddrs a unit).filter fun q => decide (w.op.col ≤ q.1)) (col : n0.col = w.op.col)
    (first : (match L with | [] => .ok { w with op := n0 } | q :: _ => access q { w with op := n0 }) = Except.ok { w with s := s1, op := n1 })
    (queue : n1.mcq = w.op.mcq) (vals : n1.vals = v) (mask : n1.bufMask = m)
    (last : ∀ n : OpState, n.mcq = w.op.mcq → n.vals = v → n.bufMask = m →
      ∃ (n2 : OpState) (y : McItem), done { w with s := s1, op := n } = .ok (Work.takeMc f { w with s := s1, op := n2 })
        ∧ n2.mcq = n.mcq ++ [y] ∧ n2.col = n.col ∧ n2.agIdx = n.agIdx ∧ y.out = none ∧ y.reads = [] ∧ item y) :
    LaneTurn f L w s1 v m item (.next (Work.byLane a unit access done { w with op := n0 }).out.store) := by
  have lanes : ((Work.laneAddrs { w with op := n0 } a unit).filter fun q => decide (n0.col ≤ q.1)) = L := by rw [col, hL]; rfl
  unfold Work.byLane
  dsimp only
  rw [lanes]
  have ends : ∃ (n : OpState) (y : McItem),
      done { w with s := s1, op := { n1 with agIdx := none, col := 0 } } = .ok (Work.takeMc f { w with s := s1, op := n })
      ∧ n.mcq = w.op.mcq ++ [y] ∧ n.col = 0 ∧ n.agIdx = none ∧ y.out = none ∧ y.reads = [] ∧ item y := by
    obtain ⟨n, y, e, rest⟩ := last { n1 with agIdx := none, col := 0 } queue vals mask
    rw [show ({ n1 with agIdx := none, col := 0 } : OpState).mcq = w.op.mcq from queue] at rest
    exact ⟨n, y, e, rest⟩
  obtain ⟨n, y, e, ends⟩ := ends
  match L, first with
  | [], first =>
    injection first with first
    injection first with _ now _ _ _ _ op
    subst now op
    refine ⟨nofun, fun _ => ⟨n, y, ?_, ends⟩⟩
    dsimp only
    rw [e]
    rfl
  | [q], first =>
    dsimp only at first ⊢
    rw [first]
    refine ⟨fun long => absurd long (lt_irrefl 1), fun _ => ⟨n, y, ?_, ends⟩⟩
    simp only [Except.bind, List.isEmpty_nil, if_true]
    rw [e]
    rfl
  | q :: _ :: _, first =>
    dsimp only at first ⊢
    rw [first]
    refine ⟨fun _ => ⟨_, rfl, vals, mask, rfl, queue, fun p hp => ?_⟩, fun short => absurd short (by simp)⟩
    rw [List.head?_cons] at hp
    injection hp with hp
    subst hp
    rfl

end
end Sys2Proof.Machine
end

section
/-! PROOF. The memory-cell ops that read and write a tile (O40): each op's DATA firing. -/
namespace Sys2Proof.Machine

section
variable {f : MCFrame} {s : State} {w : Work} {x : Tile} (due : McDue f true s w) (found : s.tile w.die w.run.partition f.handle.toNat = some x)
  (entry : x.bad = false)

/-! ### Reading: TRD and TRDC (R204, R206) -/

/-- TRD's answer for an address: 64 bytes of the tile, or zeros with no valid lane. -/
theorem trdAccess_answers {a : Int} (full : x.state = .full) (good : w.s.tileBad x 0 a.toNat 64 = false) :
    ∃ r m, (w.trdAccess f x a).op.mcq = w.op.mcq ++ [⟨some r, some r, none, m, none, none, []⟩] ∧ r.kind = 0
      ∧ (tokenIn x a = true ∧ rowValid x a.toNat = true → r.mask = 0xFFFF ∧ r.payload = payloadOf (w.s.tileData x a.toNat 64))
      ∧ (¬ (tokenIn x a = true ∧ rowValid x a.toNat = true) → r.mask = 0 ∧ r.payload = 0) := by
  have going : ¬ x.state = .poison := by simp [full]
  unfold Work.trdAccess
  rw [if_neg going, tileToken_good full good]
  by_cases inside : tokenIn x a = true ∧ rowValid x a.toNat = true
  · rw [if_pos (by simpa using inside)]
    exact ⟨_, _, rfl, rfl, fun _ => ⟨rfl, rfl⟩, fun out => absurd inside out⟩
  · rw [if_neg (by simpa using inside)]
    have queue : (w.countOob f.stats 1).op.mcq = w.op.mcq := by
      unfold Work.countOob
      split <;> rfl
    rw [← queue]
    exact ⟨_, _, rfl, rfl, fun ins => absurd ins inside, fun _ => ⟨rfl, rfl⟩⟩

/-- The address of TRD's next access: the generator's, or that of the token at its row and column. -/
def Work.trdAddr (w : Work) (x : Tile) : Int :=
  match w.gen with
  | some g => g.addr (w.op.agIdx.getD g.start) w.op.agPos
  | none => ((64 * x.k * w.op.row + 64 * w.op.col : Nat) : Int)

include found entry in
theorem trdData_queues (now : w.s = s) (quiet : f.stats = false) (fixed : f.fromC = false) (full : x.state = .full) (peek : f.consume = false)
    (pass : w.mayPass f = true) (some : ∀ g, w.gen = some g → g.empty w.run.recd.args = false) :
    Queues (Work.trdAccess f (w.reads x) x (w.trdAddr x)) (trdData f w) := by
  have read := readTile_full (f := f) (h := f.handle.toNat) (now.symm ▸ found) entry full peek
  unfold trdData Work.trdAddr
  rw [pass, handle_fixed fixed, read]
  cases gen : w.gen with
  | none => exact rowOn_queues quiet ..
  | some g =>
    simp only [some g gen, Bool.and_false]
    exact passOn_queues quiet ..

include due found entry in
theorem trd_answers {a : Int} (quiet : f.stats = false) (fixed : f.fromC = false) (full : x.state = .full) (peek : f.consume = false)
    (pass : w.mayPass f = true) (ha : a = w.trdAddr x) (some : ∀ g, w.gen = some g → g.empty w.run.recd.args = false)
    (good : s.tileBad x 0 a.toNat 64 = false) :
    ∃ (w1 : Work) (r : Token) (m : Bool) (more : List McItem), exec (.trd f) s = .next w1.store
      ∧ w1.op.mcq = w.op.mcq ++ ⟨.some r, .some r, none, m, none, none, []⟩ :: more ∧ r.kind = 0
      ∧ (tokenIn x a = true ∧ rowValid x a.toNat = true → r.mask = 0xFFFF ∧ r.payload = payloadOf (s.tileData x a.toNat 64))
      ∧ (¬ (tokenIn x a = true ∧ rowValid x a.toNat = true) → r.mask = 0 ∧ r.payload = 0) := by
  obtain ⟨n, turn, -⟩ := exec_data (i := .trd f) rfl due
  have gen := (alike_from w n).gen
  obtain ⟨y, more, fires, queue⟩ := trdData_queues (w := w.from n) found entry due.now quiet fixed full peek pass (gen ▸ some)
  have addr : (w.from n).trdAddr x = a := by
    rw [ha]
    unfold Work.trdAddr
    rw [gen]
    rfl
  rw [addr] at queue
  have now := due.now
  subst now
  obtain ⟨r, m, answer, rest⟩ := trdAccess_answers (f := f) (w := (w.from n).reads x) full good
  refine ⟨y, r, m, more, ?_, ?_, rest⟩
  · dsimp only at turn
    rw [fires] at turn
    exact turn
  · rw [queue]
    exact (congrArg (· ++ more) answer).trans (List.append_assoc ..)

/-- The lanes of a payload that are not zero. -/
def keptLanes (p : Payload) : List Nat := (List.range 16).filter fun l => lane p l != 0

theorem trdcData_keeps {p : Payload} (found : w.s.tile w.die w.run.partition f.handle.toNat = some x) (entry : x.bad = false) (fixed : f.fromC = false)
    (full : x.state = .full) (peek : f.consume = false) (pass : w.mayPass f = true)
    (hp : p = payloadOf (w.s.tileData x (64 * x.k * w.op.row + 64 * w.op.col) 64))
    (good : w.s.tileBad x 0 (64 * x.k * w.op.row + 64 * w.op.col) 64 = false) (valid : x.valid.getLsbD w.op.row = true) (inRow : w.op.col + 1 < x.k)
    (room : w.op.vals.length + (keptLanes p).length < 16) :
    trdcData f w = .ok { w.reads x with s := w.s.touchTile x 0 (64 * x.k * w.op.row + 64 * w.op.col) 64, op := { w.op with
      vals := w.op.vals ++ (keptLanes p).map fun l => BitVec.ofNat 32 (lane p l)
      coords := w.op.coords ++ (keptLanes p).map fun l => BitVec.ofNat 32 (w.op.row * 65536 + (16 * w.op.col + l))
      agIdx := some [], col := w.op.col + 1 } } := by
  have token : (w.reads x).tileToken x (64 * x.k * w.op.row + 64 * w.op.col) = (dataTok 0xFFFF p, _) :=
    hp ▸ tileToken_good (w := w.reads x) full good
  have going : ¬ x.state = .poison := by simp [full]
  have few : ¬ 16 ≤ (w.op.vals ++ (keptLanes p).map fun l => BitVec.ofNat 32 (lane p l)).length := by simpa using room
  unfold trdcData
  rw [pass, handle_fixed fixed, readTile_full found entry full peek]
  simp only [Bool.not_true, Bool.false_eq_true, if_false, Except.bind, if_neg going, valid, token]
  rw [if_neg (by exact Bool.false_ne_true), if_neg (by exact few)]
  exact if_pos inRow

include due found entry in
theorem trdc_keeps {p : Payload} (fixed : f.fromC = false) (full : x.state = .full) (peek : f.consume = false)
    (pass : w.mayPass f = true) (hp : p = payloadOf (s.tileData x (64 * x.k * w.op.row + 64 * w.op.col) 64))
    (good : s.tileBad x 0 (64 * x.k * w.op.row + 64 * w.op.col) 64 = false) (valid : x.valid.getLsbD w.op.row = true) (inRow : w.op.col + 1 < x.k)
    (room : w.op.vals.length + (keptLanes p).length < 16) :
    ∃ p1, exec (.trdc f) s = .next (Work.store { w with s := s.touchTile x 0 (64 * x.k * w.op.row + 64 * w.op.col) 64, op := { w.op with
      part := p1
      vals := w.op.vals ++ (keptLanes p).map fun l => BitVec.ofNat 32 (lane p l)
      coords := w.op.coords ++ (keptLanes p).map fun l => BitVec.ofNat 32 (w.op.row * 65536 + (16 * w.op.col + l))
      agIdx := some [], col := w.op.col + 1 } }) := by
  have now := due.now
  subst now
  obtain ⟨n, turn, -⟩ := exec_data (i := .trdc f) rfl due
  dsimp only at turn
  rw [trdcData_keeps (w := w.from n) found entry fixed full peek pass hp good valid inRow room] at turn
  exact ⟨n, turn⟩

/-! ### Gathering (R208) -/

/-- An element that does not fill GATH's buffer joins it. -/
theorem gathPut_joins {v : BitVec 32} (room : w.op.vals.length < 15) :
    w.gathPut f (some v) = { w.gather f with op := { (w.gather f).op with vals := w.op.vals ++ [v], valid := w.op.valid ++ [true] } } := by
  have few : ¬ 16 ≤ (w.op.vals ++ [v]).length := by
    rw [List.length_append, List.length_singleton]
    omega
  exact if_neg few

theorem elemAddr_fixed (i : Nat) : elemAddr none 4 i 0 = ((4 * i : Nat) : Int) := rfl

theorem elemIn_fixed {i : Nat} (inside : 4 * i + 4 ≤ x.dataBytes) : elemIn x ((4 * i : Nat) : Int) = true := by
  unfold elemIn
  simp only [Int.toNat_natCast, inside, Nat.mul_mod_right, Int.natCast_nonneg, decide_true, Bool.and_self]

theorem gathData_element {i : Nat} (found : w.s.tile w.die w.run.partition f.handle.toNat = some x) (entry : x.bad = false) (full : x.state = .full)
    (peek : f.consume = false) (taken : (w.tok f .a f.a).mask.getLsbD w.op.col = true) (more : w.op.col < 15) (single : f.c.src = .unused)
    (fixed : w.gen = none) (hi : i = lane (w.tok f .a f.a).payload w.op.col) (first : w.op.count = 0) (room : w.op.vals.length < 15)
    (inside : 4 * i + 4 ≤ x.dataBytes) (valid : x.valid.getLsbD (4 * i / x.rowBytes) = true) (good : w.s.tileBad x 0 (4 * i) 4 = false) :
    gathData f w = .ok { w.reads x with s := w.s.touchTile x 0 (4 * i) 4, op := { w.op with
      deps := (Work.gather f { w.reads x with s := w.s.touchTile x 0 (4 * i) 4 }).op.deps
      vals := w.op.vals ++ [BitVec.ofNat 32 (leNat (w.s.tileData x (4 * i) 4))], valid := w.op.valid ++ [true], agIdx := some []
      col := w.op.col + 1, count := 0 } } := by
  have going : ¬ x.state = .poison := by simp [full]
  have element : (w.reads x).gathRead f x ((4 * i : Nat) : Int)
      = Work.gathPut f (some (BitVec.ofNat 32 (leNat (w.s.tileData x (4 * i) 4)))) { w.reads x with s := w.s.touchTile x 0 (4 * i) 4 } := by
    unfold Work.gathRead
    rw [if_neg going, elemIn_fixed inside, Int.toNat_natCast, rowValid, valid, Bool.and_self, if_pos rfl]
    exact if_neg (ne_true_of_eq_false good)
  have next : w.op.col + 1 < 16 := by omega
  have zero : w.op.count.toNat = 0 := by rw [first]; rfl
  unfold gathData
  simp only [taken, Bool.not_true, Bool.false_eq_true, if_false, single, BEq.rfl, if_true, fixed, zero, one_ne_zero, Nat.zero_add, lt_irrefl,
    readTile_full found entry full peek,
    Except.bind, ← hi, elemAddr_fixed, element, gathPut_joins (w := { w.reads x with s := w.s.touchTile x 0 (4 * i) 4 }) room, next]
  rfl

include due found entry in
theorem gath_reads {i : Nat} (full : x.state = .full) (peek : f.consume = false) (taken : (w.tok f .a f.a).mask.getLsbD w.op.col = true)
    (more : w.op.col < 15) (single : f.c.src = .unused) (fixed : w.gen = none) (hi : i = lane (w.tok f .a f.a).payload w.op.col)
    (first : w.op.count = 0) (room : w.op.vals.length < 15) (inside : 4 * i + 4 ≤ x.dataBytes) (valid : x.valid.getLsbD (4 * i / x.rowBytes) = true)
    (good : s.tileBad x 0 (4 * i) 4 = false) :
    ∃ p1, exec (.gath f) s = .next (Work.store { w with s := s.touchTile x 0 (4 * i) 4, op := { w.op with
      part := p1, deps := (Work.gather f { w with s := s.touchTile x 0 (4 * i) 4, deps := w.deps ++ x.deps }).op.deps
      vals := w.op.vals ++ [BitVec.ofNat 32 (leNat (s.tileData x (4 * i) 4))], valid := w.op.valid ++ [true], agIdx := some []
      col := w.op.col + 1, count := 0 } }) := by
  have now := due.now
  subst now
  obtain ⟨n, turn, -⟩ := exec_data (i := .gath f) rfl due
  have same := alike_from w n
  dsimp only at turn
  rw [gathData_element (w := w.from n) found entry full peek (by rw [same.tok]; exact taken) more single (same.gen.trans fixed)
    (by rw [same.tok]; exact hi) first room inside valid good] at turn
  have deps : (Work.gather f { (w.from n).reads x with s := w.s.touchTile x 0 (4 * i) 4 }).op.deps
      = (Work.gather f { w with s := w.s.touchTile x 0 (4 * i) 4, deps := w.deps ++ x.deps }).op.deps := by
    unfold Work.gather
    have alike : Work.Alike { w with s := w.s.touchTile x 0 (4 * i) 4, deps := w.deps ++ x.deps }
      { (w.from n).reads x with s := w.s.touchTile x 0 (4 * i) 4 } := ⟨rfl, rfl, rfl, rfl, rfl, rfl, rfl, rfl⟩
    rw [alike.portDeps]
    rfl
  exact ⟨n, turn.trans (by rw [← deps]; rfl)⟩

/-! ### Writing: TWR and TWRC (R205, R207) -/

/-- A token at a row and column of a tile lies in it. -/
theorem tokenIn_place {i j : Nat} (row : i < x.rows) (col : j < x.k) : tokenIn x ((64 * x.k * i + 64 * j : Nat) : Int) = true := by
  have inside : 64 * x.k * i + 64 * j + 64 ≤ x.dataBytes := by
    unfold Tile.dataBytes Tile.rowBytes
    have rows : (i + 1) * x.k ≤ x.rows * x.k := Nat.mul_le_mul_right x.k row
    nlinarith
  have whole : (64 * x.k * i + 64 * j) % 64 = 0 := by
    rw [Nat.mul_assoc, ← Nat.mul_add]
    exact Nat.mul_mod_right ..
  unfold tokenIn
  simp only [Int.toNat_natCast, whole, inside, Int.natCast_nonneg, decide_true, Bool.and_self]

theorem twrData_places {p : Nat} (found : w.s.tile w.die w.run.partition f.handle.toNat = some x) (entry : x.bad = false) (fixed : f.fromC = false)
    (filling : x.state = .filling) (sp : x.hb = false) (none : w.gen = none) (col : w.op.col < x.k) (row : w.op.row < x.rows)
    (hp : p = 64 * x.k * w.op.row + 64 * w.op.col) :
    twrData f w = .ok (((({ w with s := w.s.writeLanes x p (w.tok f .b f.b), op := { w.op with col := w.op.col + 1 } } : Work).ack f
      (w.tok f .b f.b)).gather f).takeMc f) := by
  have write := writeTile_filling found entry filling sp 2 0 0
  have again := writeTile_filling (w := { w with op := { w.op with col := w.op.col + 1 } }) found entry filling sp 2 p 64
  subst hp
  unfold twrData
  simp only [handle_fixed fixed, write, Except.bind, none, col, row, decide_true, Bool.and_true, if_true,
    tokenIn_place row col, Int.toNat_natCast, again, Work.wrote, fixed, Bool.false_eq_true, if_false]

include due found entry in
theorem twr_places {p : Nat} (fixed : f.fromC = false) (filling : x.state = .filling) (sp : x.hb = false) (none : w.gen = none) (col : w.op.col < x.k)
    (row : w.op.row < x.rows) (hp : p = 64 * x.k * w.op.row + 64 * w.op.col) :
    exec (.twr f) s = .next (((({ w.from 0 with
      s := s.writeLanes x p (w.tok f .b f.b), op := { (w.from 0).op with col := w.op.col + 1 } } : Work).ack f
      (w.tok f .b f.b)).gather f).takeMc f).store := by
  have now := due.now
  subst now
  obtain ⟨n, turn, fresh⟩ := exec_data (i := .twr f) rfl due
  obtain rfl := fresh rfl
  have same := alike_from w 0
  dsimp only at turn
  rw [twrData_places (w := w.from 0) found entry fixed filling sp (same.gen.trans none) col row hp, same.tok] at turn
  exact turn

/-- Values put into a buffer one after another. -/
def putAll (place : Nat → Nat) (value : Nat → BitVec 32) (buf : List (BitVec 32)) (ls : List Nat) : List (BitVec 32) :=
  ls.foldl (fun v l => v.set (place l) (value l)) buf

@[simp] theorem putAll_length (place : Nat → Nat) (value : Nat → BitVec 32) (buf : List (BitVec 32)) (ls : List Nat) :
    (putAll place value buf ls).length = buf.length :=
  List.foldlRecOn (motive := fun v : List (BitVec 32) => v.length = buf.length) ls _ rfl fun _ h _ _ => (List.length_set ..).trans h

theorem putAll_getElem?_other {place : Nat → Nat} {value : Nat → BitVec 32} {buf : List (BitVec 32)} {ls : List Nat} {i : Nat}
    (other : ∀ l ∈ ls, place l ≠ i) : (putAll place value buf ls)[i]? = buf[i]? :=
  List.foldlRecOn (motive := fun v : List (BitVec 32) => v[i]? = buf[i]?) ls _ rfl fun _ h l hl => (List.getElem?_set_ne (other l hl)).trans h

/-- Where several values are put at one place, the last of them stays. -/
theorem putAll_getElem?_last {place : Nat → Nat} {value : Nat → BitVec 32} {buf : List (BitVec 32)} {ls : List Nat} {l : Nat}
    (ascending : ls.Pairwise (· < ·)) (hl : l ∈ ls) (inside : place l < buf.length) (last : ∀ m ∈ ls, l < m → place m ≠ place l) :
    (putAll place value buf ls)[place l]? = some (value l) := by
  obtain ⟨l1, l2, rfl⟩ := List.append_of_mem hl
  have after : ∀ m ∈ l2, l < m := fun m hm => List.rel_of_pairwise_cons (List.pairwise_append.mp ascending).2.1 hm
  have split : putAll place value buf (l1 ++ l :: l2) = putAll place value ((putAll place value buf l1).set (place l) (value l)) l2 := by
    unfold putAll
    rw [List.foldl_append, List.foldl_cons]
  rw [split, putAll_getElem?_other fun m hm => last m (by simp [hm]) (after m hm), List.getElem?_set_self (by simpa using inside)]

/-- Whether lane l of TWRC names an element of the row of the row counter (R207). -/
def inRowBuffer (x : Tile) (row : Nat) (a : Token) (l : Nat) : Bool :=
  decide (lane a.payload l / 65536 = row) && decide (lane a.payload l % 65536 < 16 * x.k)

/-- The row buffer after a firing of TWRC: each valid lane's value in the element that it names. -/
def Work.rowBuffer (x : Tile) (a b : Token) (w : Work) : List (BitVec 32) :=
  putAll (fun l => lane a.payload l % 65536) (fun l => BitVec.ofNat 32 (lane b.payload l))
    (if w.op.vals.length = 16 * x.k then w.op.vals else List.replicate (16 * x.k) 0)
    (((List.range 16).filter fun l => a.mask.getLsbD l).filter (inRowBuffer x w.op.row a))

theorem rowBuffer_length (a b : Token) : (w.rowBuffer x a b).length = 16 * x.k := by
  unfold Work.rowBuffer
  rw [putAll_length]
  split
  · assumption
  · exact List.length_replicate

theorem rowBuffer_last {a b : Token} {l i : Nat} (valid : a.mask.getLsbD l = true) (hl : l < 16) (name : lane a.payload l = w.op.row * 65536 + i)
    (inRow : i < 16 * x.k) (small : i < 65536)
    (last : ∀ m, l < m → m < 16 → a.mask.getLsbD m = true → lane a.payload m ≠ w.op.row * 65536 + i) :
    (w.rowBuffer x a b)[i]? = some (BitVec.ofNat 32 (lane b.payload l)) := by
  have place : lane a.payload l % 65536 = i := by omega
  have row : lane a.payload l / 65536 = w.op.row := by omega
  have here : l ∈ ((List.range 16).filter fun l => a.mask.getLsbD l).filter (inRowBuffer x w.op.row a) := by
    simp [inRowBuffer, hl, valid, place, row, inRow]
  have size := rowBuffer_length (w := w) (x := x) a b
  unfold Work.rowBuffer at size ⊢
  rw [putAll_length] at size
  refine place ▸ putAll_getElem?_last (place := fun l => lane a.payload l % 65536) (value := fun l => BitVec.ofNat 32 (lane b.payload l))
    ?_ here ?_ fun m hm after same => ?_
  · exact (List.pairwise_lt_range.filter _).filter _
  · rw [size]
    exact place.symm ▸ inRow
  · obtain ⟨inside, ⟨rowM, -⟩, validM⟩ : m < 16 ∧ (lane a.payload m / 65536 = w.op.row ∧ _) ∧ a.mask.getLsbD m = true := by
      simpa [inRowBuffer] using hm
    exact last m after inside validM (by omega)

theorem twrcData_buffers (found : w.s.tile w.die w.run.partition f.handle.toNat = some x) (entry : x.bad = false) (fixed : f.fromC = false)
    (quiet : f.stats = false) (filling : x.state = .filling) (sp : x.hb = false) :
    ∃ fl, twrcData f w = .ok (((({ w with op := { w.op with vals := w.rowBuffer x (w.tok f .a f.a) (w.tok f .b f.b), flag := fl } } : Work).ack f
      (w.tok f .b f.b)).gather f).takeMc f) := by
  unfold twrcData
  simp only [handle_fixed fixed, writeTile_filling found entry filling sp 2 0 0, Except.bind, countOob_quiet quiet,
    Work.wrote, fixed, Bool.false_eq_true, if_false]
  exact ⟨_, rfl⟩

include due found entry in
theorem twrc_buffers (fixed : f.fromC = false) (quiet : f.stats = false) (filling : x.state = .filling) (sp : x.hb = false) :
    ∃ fl, exec (.twrc f) s = .next (((({ w.from 0 with
      op := { (w.from 0).op with vals := w.rowBuffer x (w.tok f .a f.a) (w.tok f .b f.b), flag := fl } } : Work).ack f
      (w.tok f .b f.b)).gather f).takeMc f).store := by
  have now := due.now
  subst now
  obtain ⟨n, turn, fresh⟩ := exec_data (i := .twrc f) rfl due
  obtain rfl := fresh rfl
  have same := alike_from w 0
  obtain ⟨fl, data⟩ := twrcData_buffers (w := w.from 0) found entry fixed quiet filling sp
  dsimp only at turn
  rw [data, same.tok, same.tok] at turn
  exact ⟨fl, turn⟩

/-! ### Scattering (R209) -/

/-- What SCAT makes of its first lane. -/
theorem scatLane_writes {b : Token} {q : Nat × Int} (found : w.s.tile w.die w.run.partition f.handle.toNat = some x) (entry : x.bad = false)
    (quiet : f.stats = false) (filling : x.state = .filling) (sp : x.hb = false) :
    scatLane f x b q w = .ok { w with s := if elemIn x q.2 = true then w.s.setElem x q.2.toNat (leBytes 4 (lane b.payload q.1)) else w.s } := by
  unfold scatLane
  split
  · rw [writeTile_filling found entry filling sp]
    rfl
  · rw [countOob_quiet quiet]

include due found entry in
theorem scat_laneTurn {L : List (Nat × Int)} {b : Token} {s1 : State} (quiet : f.stats = false) (filling : x.state = .filling) (sp : x.hb = false)
    (hL : L = (w.laneAddrs (w.tok f .a f.a) 4).filter fun q => decide (w.op.col ≤ q.1)) (hb : b = w.tok f .b f.b)
    (hs : s1 = match (generalizing := false) L with
      | [] => s
      | q :: _ => if elemIn x q.2 = true then s.setElem x q.2.toNat (leBytes 4 (lane b.payload q.1)) else s) :
    LaneTurn f L w s1 w.op.vals w.op.bufMask
      (fun y => y.a = none ∧ y.bit = none ∧ ∃ r, y.b = some r ∧ r.kind = b.kind ∧ r.payload = b.payload ∧ r.mask = b.mask) (exec (.scat f) s) := by
  have now := due.now
  subst now
  obtain ⟨n, turn, -⟩ := exec_data (i := .scat f) rfl due
  have same := alike_from w n
  have data : scatData f (w.from n) = (w.from n).byLane (w.tok f .a f.a) 4 (scatLane f x b) fun y => .ok (((y.ack f b).gather f).takeMc f) := by
    unfold scatData
    rw [writeTile_filling (w := w.from n) found entry filling sp, same.tok, same.tok, hb]
    rfl
  dsimp only at turn
  rw [turn, data]
  refine laneTurn_byLane (n1 := (w.from n).op) hL rfl ?_ rfl rfl rfl
    fun n2 _ _ _ => ⟨_, _, rfl, rfl, rfl, rfl, rfl, rfl, rfl, rfl, _, rfl, rfl, rfl, rfl⟩
  subst hs
  cases L with
  | nil => rfl
  | cons q L => exact scatLane_writes (w := w.from n) found entry quiet filling sp

end

/-- Settles O40, op by op. -/
theorem tileCellOpsComplete : Obligations.TileCellOpsComplete := by
  unfold Obligations.TileCellOpsComplete
  intro f s w h x due fixed quiet hh found entry
  subst hh
  refine ⟨fun full peek pass => ⟨fun a ha some good => ?_, fun p hp good valid inRow room =>
        trdc_keeps due found entry fixed full peek pass hp good valid inRow room,
      fun l i hl taken more single none hi first room inside valid good => ?_⟩,
    fun w0 hw0 filling sp => ⟨fun b p hb none col row hp => ?_, ?_, fun L b s1 hL hb hs => scat_laneTurn due found entry quiet filling sp hL hb hs⟩⟩
  · obtain ⟨w1, r, m, more, turn, queue, data, inside, outside⟩ := trd_answers due found entry quiet fixed full peek pass ha some good
    have place : (tokenIn x a = true ∧ rowValid x a.toNat = true)
        ↔ 0 ≤ a ∧ a.toNat % 64 = 0 ∧ a.toNat + 64 ≤ x.dataBytes ∧ x.valid.getLsbD (a.toNat / x.rowBytes) = true := by
      simp [tokenIn, rowValid, and_assoc]
    rw [place] at inside outside
    exact ⟨w1, r, m, more, turn, queue, data, inside, outside⟩
  · subst hl
    exact gath_reads due found entry full peek taken more single none hi first room inside valid good
  · subst hw0 hb
    exact twr_places due found entry fixed filling sp none col row hp
  · obtain ⟨fl, turn⟩ := twrc_buffers due found entry fixed quiet filling sp
    subst hw0
    exact ⟨_, fl, turn, rowBuffer_length .., fun l i valid hl name inRow small last => rowBuffer_last valid hl name inRow small last⟩

end Sys2Proof.Machine
end

section
/-! PROOF. A memory cell's request of global memory (O41): what placing its block in the cache leaves, when it goes on, and what it takes after it. -/
namespace Sys2Proof.Machine

/-! ### What the sealed-block cache changes (R326) -/

/-- `t` is `s` but for the sealed-block cache, its counter tree, its events and the free values drawn. -/
def CacheOnly (s t : State) : Prop :=
  ∃ blocks counts sources free, t = { s with blocks := blocks, treeCounts := counts, sources := sources, freeCtr := free }

section
variable {s t u : State}

theorem CacheOnly.refl (s : State) : CacheOnly s s := ⟨_, _, _, _, rfl⟩

theorem CacheOnly.trans (h : CacheOnly s t) (k : CacheOnly t u) : CacheOnly s u := by
  obtain ⟨_, _, _, _, rfl⟩ := h
  obtain ⟨_, _, _, _, rfl⟩ := k
  exact ⟨_, _, _, _, rfl⟩

theorem CacheOnly.setBlock (s : State) (block : Nat) (b : Block) : CacheOnly s (s.setBlock block b) := ⟨_, _, _, _, rfl⟩

theorem CacheOnly.drawNat (s : State) : CacheOnly s s.drawNat.2 := ⟨_, _, _, _, rfl⟩

theorem CacheOnly.sealBlock (s : State) (block part : Nat) : CacheOnly s (s.sealBlock block part) := by
  unfold State.sealBlock
  dsimp only
  split
  · exact ⟨_, _, _, _, rfl⟩
  · split
    · exact .refl s
    · exact ⟨_, _, _, _, rfl⟩

theorem CacheOnly.writeBack (s : State) (block : Nat) : CacheOnly s (s.writeBack block) := by
  unfold State.writeBack
  dsimp only
  split
  · exact .refl s
  split
  · exact .setBlock ..
  split
  · exact .setBlock ..
  split
  · exact .setBlock ..
  split
  · exact .refl s
  · exact .sealBlock ..

theorem CacheOnly.evict (s : State) (pa : Nat) : CacheOnly s (s.evict pa) := by
  unfold State.evict
  extract_lets own share
  split
  · exact .refl s
  dsimp only
  split
  · exact .drawNat s
  split
  · exact (CacheOnly.drawNat s).trans (.writeBack ..)
  · exact (CacheOnly.drawNat s).trans (.setBlock ..)

theorem CacheOnly.cacheBlock (s : State) (shared : Bool) (pa : Nat) : CacheOnly s (s.cacheBlock shared pa) := by
  unfold State.cacheBlock
  dsimp only
  split
  · exact .refl s
  · refine CacheOnly.trans ?_ (.setBlock ..)
    split
    · exact .refl s
    · exact .evict ..

theorem CacheOnly.dirtyBlock (s : State) (pa : Nat) : CacheOnly s (s.dirtyBlock pa) := by
  unfold State.dirtyBlock
  dsimp only
  refine CacheOnly.trans ?_ (.setBlock ..)
  split
  · exact .refl s
  · exact .evict ..

theorem CacheOnly.leaveBlock (s : State) (cls : BitVec 2) (shared : Bool) (pa : Nat) : CacheOnly s (s.leaveBlock cls shared pa) := by
  unfold State.leaveBlock
  dsimp only
  split
  · exact .refl s
  split
  · exact .writeBack ..
  · exact .setBlock ..

/-- Writing back draws no free value. -/
theorem sealBlock_freeCtr (s : State) (block part : Nat) : (s.sealBlock block part).freeCtr = s.freeCtr := by
  unfold State.sealBlock
  dsimp only
  split
  · rfl
  · split <;> rfl

theorem leaveBlock_freeCtr (s : State) (cls : BitVec 2) (shared : Bool) (pa : Nat) : (s.leaveBlock cls shared pa).freeCtr = s.freeCtr := by
  unfold State.leaveBlock State.writeBack
  dsimp only
  split
  · rfl
  split
  · split
    · rfl
    split
    · rfl
    split
    · rfl
    split
    · rfl
    split
    · rfl
    · exact sealBlock_freeCtr ..
  · rfl

theorem CacheOnly.homeOf (h : CacheOnly s t) (pa : Nat) : t.homeOf pa = s.homeOf pa := by
  obtain ⟨_, _, _, _, rfl⟩ := h
  rfl

theorem CacheOnly.mem (h : CacheOnly s t) : t.mem = s.mem := by
  obtain ⟨_, _, _, _, rfl⟩ := h
  rfl

/-- A block that does not fail does not fail once it has been placed in the cache. -/
theorem blockFault_cacheBlock {shared : Bool} {pa : Nat} (good : s.blockFault shared pa = none) : (s.cacheBlock shared pa).blockFault shared pa = none := by
  unfold State.cacheBlock
  extract_lets b s1
  by_cases keeps : (shared || !paHbm pa || (b.cached && !b.lineBad) || (s.blockFault shared pa).isSome) = true
  · rw [if_pos keeps]
    exact good
  · rw [if_neg keeps]
    obtain ⟨⟨⟨sealed, hbm⟩, -⟩, -⟩ : ((shared = false ∧ paHbm pa = true) ∧ _) ∧ _ := by simpa using keeps
    unfold State.blockFault State.setBlock
    simp [sealed, hbm, Tab.get_set_self]

/-! ### The bytes of a read and of a write (R285, R294) -/

theorem viewBytes_congr {die : Nat} (mem : t.mem = s.mem) (stale : t.stale = s.stale) {pa n : Nat} (hbm : ∀ i < n, paHbm (pa + i) = true) :
    t.viewBytes die pa n = s.viewBytes die pa n := by
  induction n generalizing pa with
  | zero => rfl
  | succ n ih =>
    have here : paHbm pa = true := hbm 0 (Nat.succ_pos n)
    rw [State.viewBytes, State.viewBytes, ih fun i hi => by rw [Nat.add_right_comm]; exact hbm (i + 1) (Nat.succ_lt_succ hi)]
    simp [State.view, here, mem, stale]

theorem Memory.writeSome_map (m : Memory) (a : Nat) (bs : List Byte) : m.writeSome a (bs.map some) = m.writeBytes a bs := by
  induction bs generalizing m a with
  | nil => rfl
  | cons b bs ih => exact ih ..

theorem storeSome_mem {die : Nat} {task : Option Nat} {ord : Nat → Option Nat} {deps : Nat → List Nat} {shared : Bool} {pa : Nat} (hbm : paHbm pa = true)
    (bs : List (Option Byte)) : (s.storeSome die task ord deps shared pa bs).mem = s.mem.writeSome pa bs := by
  unfold State.storeSome
  rw [hbm, Bool.not_true, if_neg Bool.false_ne_true]
  dsimp only
  split
  · rfl
  · exact (CacheOnly.dirtyBlock ..).mem

theorem store_mem {die : Nat} {task : Option Nat} {ord : Nat → Option Nat} {deps : Nat → List Nat} {shared : Bool} {pa : Nat} (hbm : paHbm pa = true)
    (bs : List Byte) : (s.store die task ord deps shared pa bs).mem = s.mem.writeBytes pa bs :=
  (storeSome_mem hbm _).trans (Memory.writeSome_map ..)

theorem storeLanes_mem {die : Nat} {deps : List Nat} {shared : Bool} {pa : Nat} (hbm : paHbm pa = true) (b : Token) :
    (s.storeLanes die deps shared pa b).mem = if b.mask = 0 then s.mem else s.mem.writeSome pa b.laneBytes := by
  unfold State.storeLanes
  split
  · rfl
  · exact storeSome_mem hbm _

/-! ### When a request goes on (R195, R354, R385) -/

theorem aim_known {die home : Nat} (known : s.knownInc die home = s.inc home) : s.aim die home = (s.inc home, s) := if_pos known

theorem served_eq (s : State) (who : StreamOf) : ∃ streams, s.served who = { s with streams := streams } := by
  unfold State.served
  split
  · exact ⟨_, rfl⟩
  · exact ⟨_, rfl⟩

end

/-- The machine once a request has been served and its block is in the cache. -/
def Work.answered (w : Work) (e : TlbEntry) (pa : Nat) : Work :=
  { w with s := (w.s.cacheBlock e.shared pa).served (.cell w.run.serial w.slot w.o.index) }

section
variable {f : MCFrame} {w x y : Work} {need : Need} {va pa : Nat} {e : TlbEntry} {s t : State}

/-- What a request that goes on needs besides its translation: its stream is served next, all that its tokens are ordered after has been applied at its
die, its page has the op's type, and its block, in the package's memory, does not fail and has a home whose incarnation the die knows. -/
structure MayGo (f : MCFrame) (w : Work) (e : TlbEntry) (pa : Nat) : Prop where
  stream : (w.s.streams.any fun z => z.who == .cell w.run.serial w.slot w.o.index) = true
  turn : w.s.mayServe (.cell w.run.serial w.slot w.o.index) = true
  applied : w.s.applied w.die (w.portDeps f) = true
  format : fmtValid e.format = true
  type : fmtTy e.format = some f.ty
  good : w.s.blockFault e.shared pa = none
  hbm : paHbm pa = true
  known : w.s.knownInc w.die (w.s.homeOf pa) = w.s.inc (w.s.homeOf pa)

theorem request_goes (h : MayGo f w e pa) (found : w.s.translate w.die w.run.partition w.run.asid va need = .ok pa e) :
    w.request f need va = .ok (w.answered e pa) pa e := by
  have good : ((w.s.cacheBlock e.shared pa).served (.cell w.run.serial w.slot w.o.index)).blockFault e.shared pa = none := by
    obtain ⟨streams, same⟩ := served_eq (w.s.cacheBlock e.shared pa) (.cell w.run.serial w.slot w.o.index)
    rw [same]
    exact blockFault_cacheBlock h.good
  unfold Work.request
  simp [h.stream, h.turn, h.applied, h.format, h.type, h.hbm, found, aim_known h.known, good, Work.answered]

theorem answered_homeOf (w : Work) (e : TlbEntry) (pa a : Nat) : (w.answered e pa).s.homeOf a = w.s.homeOf a := by
  obtain ⟨streams, same⟩ := served_eq (w.s.cacheBlock e.shared pa) (.cell w.run.serial w.slot w.o.index)
  refine Eq.trans ?_ ((CacheOnly.cacheBlock w.s e.shared pa).homeOf a)
  unfold Work.answered
  rw [same]
  rfl

theorem answered_mem (w : Work) (e : TlbEntry) (pa : Nat) : (w.answered e pa).s.mem = w.s.mem := by
  obtain ⟨streams, same⟩ := served_eq (w.s.cacheBlock e.shared pa) (.cell w.run.serial w.slot w.o.index)
  refine Eq.trans ?_ (CacheOnly.cacheBlock w.s e.shared pa).mem
  unfold Work.answered
  rw [same]

theorem answered_stale (w : Work) (e : TlbEntry) (pa : Nat) : (w.answered e pa).s.stale = w.s.stale := by
  obtain ⟨streams, same⟩ := served_eq (w.s.cacheBlock e.shared pa) (.cell w.run.serial w.slot w.o.index)
  obtain ⟨-, stale, -⟩ := Reading.cacheBlock w.s e.shared pa
  refine Eq.trans ?_ stale
  unfold Work.answered
  rw [same]

theorem answered_upToDate (w : Work) (e : TlbEntry) (pa die n : Nat) : (w.answered e pa).s.upToDate die pa n = w.s.upToDate die pa n := by
  obtain ⟨streams, same⟩ := served_eq (w.s.cacheBlock e.shared pa) (.cell w.run.serial w.slot w.o.index)
  unfold Work.answered
  rw [same]
  obtain ⟨_, _, _, _, cached⟩ := CacheOnly.cacheBlock w.s e.shared pa
  rw [cached]
  rfl

/-! ### What an op takes after its access -/

/-- A work whose machine is another's but for the runs. -/
def Work.over (w : Work) (t : State) : Work := { w with s := { t with runs := w.s.runs } }

theorem alike_over (time : t.timestamp = w.s.timestamp) (free : t.freeCtr = w.s.freeCtr) : w.Alike (w.over t) :=
  ⟨rfl, rfl, rfl, rfl, rfl, rfl, time, free⟩

/-- What takes from a work's channels: it changes nothing of the machine but the runs, and looks at nothing else of it but the time and the next free
value. -/
def Takes (g : Work → Work) : Prop := ∀ (w : Work) (t : State), t.timestamp = w.s.timestamp → t.freeCtr = w.s.freeCtr → g (w.over t) = (g w).over t

theorem Takes.state {g : Work → Work} (h : Takes g) (w : Work) : (g w).s = { w.s with runs := (g w).s.runs } := congrArg Work.s (h w w.s rfl rfl)

theorem Takes.time {g : Work → Work} (h : Takes g) (w : Work) : (g w).s.timestamp = w.s.timestamp := by rw [h.state w]

theorem Takes.free {g : Work → Work} (h : Takes g) (w : Work) : (g w).s.freeCtr = w.s.freeCtr := by rw [h.state w]

theorem Takes.mem {g : Work → Work} (h : Takes g) (w : Work) : (g w).s.mem = w.s.mem := by rw [h.state w]

theorem Takes.comp {g k : Work → Work} (h : Takes g) (h1 : Takes k) : Takes fun w => k (g w) := by
  intro w t time free
  dsimp only
  rw [h w t time free, h1 (g w) t (time.trans (h.time w).symm) (free.trans (h.free w).symm)]

theorem takes_pop (src : Src) (r : Reader) : Takes fun w => w.pop src r := by
  intro w t time free
  have same := alike_over (w := w) time free
  have chan (x : Work) (deps : List Nat) : (x.after deps).srcChan src = x.srcChan src := rfl
  have first (x : Work) (deps : List Nat) : (x.after deps).first = x.first := rfl
  unfold Work.pop
  simp only [same.queue, chan, first]
  rw [show (w.over t).srcChan src = w.srcChan src from rfl, show (w.over t).first = w.first from rfl]
  split
  · rfl
  · split
    · split <;> rfl
    · rfl
  · rfl

theorem takes_take (n : PortName) (p : Port) : Takes fun w => w.take n p := by
  intro w t time free
  have same := alike_over (w := w) time free
  have popped : (w.over t).pop p.src ((w.over t).reader n) = (w.pop p.src (w.reader n)).over t := takes_pop p.src (w.reader n) w t time free
  unfold Work.take
  simp only [same.resident, same.head, popped]
  split
  · rfl
  · rfl
  · rfl
  · split
    · split <;> rfl
    · split
      · rfl
      · split <;> rfl

theorem takes_takePred (src : PSrc) : Takes fun w => w.takePred src := by
  intro w t time free
  have same := alike_over (w := w) time free
  have chan (x : Work) (deps : List Nat) : (x.after deps).psrcChan src = x.psrcChan src := rfl
  unfold Work.takePred
  dsimp only
  split
  · rfl
  · unfold Work.ppop Work.pdeps
    simp only [same.pheadTok, chan]
    rw [show (w.over t).psrcChan src = w.psrcChan src from rfl, show (w.over t).o = w.o from rfl]
    split <;> rfl

theorem takes_takeMc (f : MCFrame) : Takes fun w => w.takeMc f :=
  ((((takes_take .a f.a).comp (takes_take .b f.b)).comp (takes_take .c f.c)).comp (takes_takePred f.pin))

/-- A block that does not stay in the cache after an op has used its ports might as well have left it before. -/
theorem takeMc_leaves (w : Work) (e : TlbEntry) (pa : Nat) :
    ∃ w1 : Work, (w.takeMc f).leaves e pa = w1.takeMc f ∧ w1.op = w.op ∧ w1.s.mem = w.s.mem := by
  have takes := takes_takeMc f
  have leaves := CacheOnly.leaveBlock (w.takeMc f).s e.cls e.shared pa
  have free := leaveBlock_freeCtr (w.takeMc f).s e.cls e.shared pa
  have runs := State.leaveBlock_runs (w.takeMc f).s e.cls e.shared pa
  refine ⟨w.over ((w.takeMc f).s.leaveBlock e.cls e.shared pa), ?_, rfl, ?_⟩
  · have time : ((w.takeMc f).s.leaveBlock e.cls e.shared pa).timestamp = (w.takeMc f).s.timestamp := by
      obtain ⟨_, _, _, _, left⟩ := leaves
      rw [left]
    refine Eq.symm ((takes w _ (time.trans (takes.time w)) (free.trans (takes.free w))).trans ?_)
    unfold Work.over Work.leaves
    rw [← runs]
  · exact leaves.mem.trans (takes.mem w)

end
end Sys2Proof.Machine
end

section
/-! PROOF. Updates in place, global memory, LUT and FIFO (O41): each op's DATA firing, and the turns of FIFO. -/
namespace Sys2Proof.Machine

section
variable {f : MCFrame} {s : State} {w : Work} {x : Tile} {a b : Token}

/-! ### Updates in place (R210 to R212) -/

/-- An op's state as its firing goes on, or as it starts one from the state given. -/
def Work.started (w : Work) (n : OpState) : OpState := if w.op.within then w.op else n

theorem started_eq {n : OpState} : (if w.op.within = true then w else { w with op := n }) = { w with op := w.started n } := by
  unfold Work.started
  split <;> rfl

theorem started_fields {n : OpState} {v : List (BitVec 32)} {m : BitVec 16}
    (hv : (v, m) = if w.op.within = true then (w.op.vals, w.op.bufMask) else (n.vals, n.bufMask))
    (queue : n.mcq = w.op.mcq) (col : n.col = w.op.col) :
    (w.started n).vals = v ∧ (w.started n).bufMask = m ∧ (w.started n).mcq = w.op.mcq ∧ (w.started n).col = w.op.col := by
  unfold Work.started
  split at hv <;> rename_i within <;> cases hv
  · rw [if_pos within]
    exact ⟨rfl, rfl, rfl, rfl⟩
  · rw [if_neg within]
    exact ⟨rfl, rfl, queue, col⟩

/-- No lane that is left stops an op where none that lies in its tile names failing storage. -/
theorem find_failing_none {qs : List (Nat × Int)} {col : Nat} {inside fails : Nat × Int → Bool}
    (good : ∀ q ∈ qs.filter fun q => decide (col ≤ q.1), inside q = true → fails q = false) :
    qs.find? (fun q => decide (col ≤ q.1) && inside q && fails q) = none := by
  rw [List.find?_eq_none]
  intro q hq
  simp only [Bool.and_eq_true]
  rintro ⟨⟨left, here⟩, bad⟩
  exact absurd bad (ne_true_of_eq_false (good q (List.mem_filter.mpr ⟨hq, left⟩) here))

/-- What RMWA makes of one lane: the element and its answer, or no valid lane where it lies outside the tile. -/
theorem rmwaLane_eq (quiet : f.stats = false) (q : Nat × Int) : rmwaLane f x b q w =
    if elemIn x q.2 = true then
      { w with s := w.s.setElem x q.2.toNat (leBytes 4 (combine f (leNat (w.s.tileData x q.2.toNat 4)) (lane b.payload q.1) 0).1), op := { w.op with
        vals := w.op.vals.set q.1 (BitVec.ofNat 32 (combine f (leNat (w.s.tileData x q.2.toNat 4)) (lane b.payload q.1) 0).1) } }
    else { w with op := { w.op with vals := w.op.vals.set q.1 0, bufMask := w.op.bufMask &&& ~~~(BitVec.twoPow 16 q.1) } } := by
  unfold rmwaLane Work.count Work.countOob
  simp only [quiet, Bool.false_eq_true, if_false]
  rfl

/-- RMWA's state as its firing goes on, or as it starts one. -/
def rmwaOp (x : Tile) (a : Token) (w : Work) : OpState := w.started (rmwaStart x a w).op

theorem rmwaData_byLane (found : w.s.tile w.die w.run.partition f.handle.toNat = some x) (entry : x.bad = false) (filling : x.state = .filling)
    (sp : x.hb = false) (ha : a = w.tok f .a f.a) (hb : b = w.tok f .b f.b)
    (good : ∀ q ∈ (w.laneAddrs a 4).filter fun q => decide (w.op.col ≤ q.1), elemIn x q.2 = true → w.s.tileBad x 0 q.2.toNat 4 = false)
    (idle : w.op.within = false → w.op.busyTo ≤ w.s.clk ∧ w.op.recent = []) :
    rmwaData f w = Work.byLane a 4 (fun q y => .ok (rmwaLane f x b q y))
      (fun y => .ok (((y.respond f (dataTok y.op.bufMask (packElems 32 (y.op.vals.map BitVec.toNat)))).gather f).takeMc f))
      { w with op := rmwaOp x a w } := by
  have goes : (!w.op.within && w.keyWaits a) = false := by
    cases within : w.op.within with
    | true => rfl
    | false =>
      obtain ⟨free, none⟩ := idle within
      simp [Work.keyWaits, none, free]
  have sound := find_failing_none good
  have start : (if w.op.within then w else rmwaStart x a w) = { w with op := rmwaOp x a w } := started_eq
  unfold rmwaData
  simp only [writeTile_filling found entry filling sp 3 0 0, Except.bind, ← ha, ← hb, goes, sound, start, Bool.false_eq_true, if_false]

theorem rmwa_laneTurn {L : List (Nat × Int)} {s1 : State} {v v1 : List (BitVec 32)} {m m1 : BitVec 16} (due : McDue f true s w)
    (found : s.tile w.die w.run.partition f.handle.toNat = some x) (entry : x.bad = false) (filling : x.state = .filling) (sp : x.hb = false)
    (quiet : f.stats = false) (ha : a = w.tok f .a f.a) (hb : b = w.tok f .b f.b)
    (hL : L = (w.laneAddrs a 4).filter fun q => decide (w.op.col ≤ q.1))
    (good : ∀ q ∈ L, elemIn x q.2 = true → s.tileBad x 0 q.2.toNat 4 = false)
    (idle : w.op.within = false → w.op.busyTo ≤ s.clk ∧ w.op.recent = [])
    (hv : (v, m) = if w.op.within = true then (w.op.vals, w.op.bufMask)
      else ((List.range 16).map fun l => BitVec.ofNat 32 (lane a.payload l), a.mask))
    (first : (v1, m1, s1) = match (generalizing := false) L with
      | [] => (v, m, s)
      | q :: _ =>
        if elemIn x q.2 = true then
          (v.set q.1 (BitVec.ofNat 32 (combine f (leNat (s.tileData x q.2.toNat 4)) (lane b.payload q.1) 0).1), m,
            s.setElem x q.2.toNat (leBytes 4 (combine f (leNat (s.tileData x q.2.toNat 4)) (lane b.payload q.1) 0).1))
        else (v.set q.1 0, m &&& ~~~(BitVec.twoPow 16 q.1), s)) :
    LaneTurn f L w s1 v1 m1
      (fun y => y.bit = none ∧ ∃ r, y.a = some r ∧ y.b = some r ∧ r.kind = 0 ∧ r.mask = m1 ∧ r.payload = packElems 32 (v1.map BitVec.toNat))
      (exec (.rmwa f) s) := by
  have now := due.now
  subst now
  obtain ⟨n, turn, -⟩ := exec_data (i := .rmwa f) rfl due
  have same := alike_from w n
  dsimp only at turn
  rw [rmwaData_byLane (w := w.from n) found entry filling sp (ha.trans (same.tok ..).symm) (hb.trans (same.tok ..).symm) (hL ▸ good) idle] at turn
  rw [turn]
  obtain ⟨vals, mask, queue, col⟩ := started_fields (w := w.from n) (n := (rmwaStart x a (w.from n)).op) hv rfl rfl
  refine laneTurn_byLane (w := w) (n1 := { rmwaOp x a (w.from n) with vals := v1, bufMask := m1 }) hL col ?_ queue rfl rfl
    fun n2 _ answer valid => ⟨_, _, rfl, rfl, rfl, rfl, rfl, rfl, rfl, _, rfl, rfl, rfl, valid,
      congrArg (fun l : List (BitVec 32) => packElems 32 (l.map BitVec.toNat)) answer⟩
  subst vals mask
  cases L with
  | nil =>
    cases first
    rfl
  | cons q L =>
    refine congrArg Except.ok ((rmwaLane_eq quiet q).trans ?_)
    dsimp only at first ⊢
    split at first <;> cases first
    · exact if_pos ‹_›
    · exact if_neg ‹_›

/-- What TAS makes of one lane: the bit is set, and a lane whose bit was set, or lies outside the tile, is valid no more. -/
theorem tasLane_eq (quiet : f.stats = false) (q : Nat × Int) : tasLane f x q w =
    if bitIn x q.2 = true then
      { w with s := w.s.setElem x (q.2.toNat / 8) (leBytes 1 (leNat (w.s.tileData x (q.2.toNat / 8) 1) ||| 2 ^ (q.2.toNat % 8))), op := { w.op with
        vals := if (leNat (w.s.tileData x (q.2.toNat / 8) 1)).testBit (q.2.toNat % 8) = true then w.op.vals.set q.1 1 else w.op.vals
        bufMask := if (leNat (w.s.tileData x (q.2.toNat / 8) 1)).testBit (q.2.toNat % 8) = true then w.op.bufMask &&& ~~~(BitVec.twoPow 16 q.1)
          else w.op.bufMask } }
    else { w with op := { w.op with bufMask := w.op.bufMask &&& ~~~(BitVec.twoPow 16 q.1) } } := by
  unfold tasLane Work.countOob
  simp only [quiet, Bool.false_eq_true, if_false]

/-- TAS's state as its firing goes on, or as it starts one. -/
def tasOp (a : Token) (w : Work) : OpState := w.started { w.op with bufMask := a.mask, vals := List.replicate 16 0 }

theorem tasData_byLane (found : w.s.tile w.die w.run.partition f.handle.toNat = some x) (entry : x.bad = false) (filling : x.state = .filling)
    (sp : x.hb = false) (ha : a = w.tok f .a f.a)
    (good : ∀ q ∈ (w.laneAddrs a 1).filter fun q => decide (w.op.col ≤ q.1), bitIn x q.2 = true → w.s.tileBad x 0 (q.2.toNat / 8) 1 = false) :
    tasData f w = Work.byLane a 1 (fun q y => .ok (tasLane f x q y))
      (fun y => .ok (((y.tasOut f { a with mask := y.op.bufMask } (dataTok (y.bitLanes x a) (packElems 32 (y.op.vals.map BitVec.toNat)))
        (y.op.bufMask != 0)).gather f).takeMc f)) { w with op := tasOp a w } := by
  have sound := find_failing_none good
  unfold tasData
  simp only [writeTile_filling found entry filling sp 3 0 0, Except.bind, ← ha, sound, started_eq]
  rfl

/-- The lanes that TAS answers with an old bit are those in range. -/
theorem bitLanes_getLsbD {l : Nat} (hl : l < 16) : (w.bitLanes x a).getLsbD l = true ↔ ∃ q ∈ w.laneAddrs a 1, q.1 = l ∧ bitIn x q.2 = true := by
  have joined : ∀ (qs : List (Nat × Int)) (m : BitVec 16), (qs.foldl (fun m x => m ||| BitVec.twoPow 16 x.1) m).getLsbD l = true
      ↔ m.getLsbD l = true ∨ ∃ q ∈ qs, q.1 = l := by
    intro qs
    induction qs with
    | nil => simp
    | cons q qs ih =>
      intro m
      have here : (BitVec.twoPow 16 q.1).getLsbD l = true ↔ q.1 = l := by
        rw [BitVec.getLsbD_twoPow]
        simp only [Bool.and_eq_true, decide_eq_true_eq]
        omega
      rw [List.foldl_cons, ih, BitVec.getLsbD_or, Bool.or_eq_true, here, List.exists_mem_cons_iff, or_assoc]
  unfold Work.bitLanes
  rw [joined]
  simp [and_comm]

theorem tas_laneTurn {L : List (Nat × Int)} {s1 : State} {v v1 : List (BitVec 32)} {m m1 : BitVec 16} {byte : Nat} (due : McDue f true s w)
    (found : s.tile w.die w.run.partition f.handle.toNat = some x) (entry : x.bad = false) (filling : x.state = .filling) (sp : x.hb = false)
    (quiet : f.stats = false) (ha : a = w.tok f .a f.a) (hL : L = (w.laneAddrs a 1).filter fun q => decide (w.op.col ≤ q.1))
    (good : ∀ q ∈ L, bitIn x q.2 = true → s.tileBad x 0 (q.2.toNat / 8) 1 = false)
    (hv : (v, m) = if w.op.within = true then (w.op.vals, w.op.bufMask) else (List.replicate 16 0, a.mask))
    (hbyte : ∀ q, L.head? = some q → byte = leNat (s.tileData x (q.2.toNat / 8) 1))
    (first : (v1, m1, s1) = match (generalizing := false) L with
      | [] => (v, m, s)
      | q :: _ =>
        if bitIn x q.2 = true then
          (if byte.testBit (q.2.toNat % 8) = true then v.set q.1 1 else v,
            if byte.testBit (q.2.toNat % 8) = true then m &&& ~~~(BitVec.twoPow 16 q.1) else m,
            s.setElem x (q.2.toNat / 8) (leBytes 1 (byte ||| 2 ^ (q.2.toNat % 8))))
        else (v, m &&& ~~~(BitVec.twoPow 16 q.1), s)) :
    LaneTurn f L w s1 v1 m1 (fun y => y.bit = some (m1 != 0) ∧ (∃ r, y.a = some r ∧ r.kind = a.kind ∧ r.payload = a.payload ∧ r.mask = m1)
        ∧ ∃ r, y.b = some r ∧ r.kind = 0 ∧ r.payload = packElems 32 (v1.map BitVec.toNat)
          ∧ ∀ l < 16, r.mask.getLsbD l = true ↔ ∃ q ∈ w.laneAddrs a 1, q.1 = l ∧ bitIn x q.2 = true)
      (exec (.tas f) s) := by
  have now := due.now
  subst now
  obtain ⟨n, turn, -⟩ := exec_data (i := .tas f) rfl due
  have same := alike_from w n
  dsimp only at turn
  rw [tasData_byLane (w := w.from n) found entry filling sp (ha.trans (same.tok ..).symm) (hL ▸ good)] at turn
  rw [turn]
  obtain ⟨vals, mask, queue, col⟩ := started_fields (w := w.from n)
    (n := { (w.from n).op with bufMask := a.mask, vals := List.replicate 16 0 }) hv rfl rfl
  refine laneTurn_byLane (w := w) (n1 := { tasOp a (w.from n) with vals := v1, bufMask := m1 }) hL col ?_ queue rfl rfl
    fun n2 _ answer valid => ⟨_, _, rfl, rfl, rfl, rfl, rfl, rfl, congrArg (fun m => some (m != 0)) valid,
      ⟨_, rfl, rfl, rfl, valid⟩, _, rfl, rfl,
      congrArg (fun l : List (BitVec 32) => packElems 32 (l.map BitVec.toNat)) answer, fun l hl => bitLanes_getLsbD hl⟩
  subst vals mask
  cases L with
  | nil =>
    cases first
    rfl
  | cons q L =>
    refine congrArg Except.ok ((tasLane_eq quiet q).trans ?_)
    obtain rfl := hbyte q rfl
    dsimp only at first ⊢
    split at first <;> cases first
    · exact if_pos ‹_›
    · exact if_neg ‹_›

/-! ### Global memory (R195, R213 to R215) -/

/-- The answer queued last is marked with what it came from. -/
theorem queueItem_asking_mcq (w : Work) (y : McItem) (q : Asked) :
    ((w.queueItem y).asking q).op.mcq = w.op.mcq ++ [{ y with more := decide (w.op.part ≠ 0), asked := some q }] := by
  show (w.op.mcq ++ [_]).modify ((w.op.mcq ++ [_]).length - 1) _ = _
  rw [List.modify_eq_set_getElem?]
  simp

theorem respond_asking_mcq (t : Token) (q : Asked) : ((w.respond f t).asking q).op.mcq
    = w.op.mcq ++ [⟨some (w.answer f t), some (w.answer f t), none, decide (w.op.part ≠ 0), none, some q, []⟩] :=
  queueItem_asking_mcq w ⟨some (w.answer f t), some (w.answer f t), none, false, none, none, []⟩ q

theorem ack_asking_mcq (t : Token) (q : Asked) : ((w.ack f t).asking q).op.mcq
    = w.op.mcq ++ [⟨none, some (w.answer f { t with deps := t.deps ++ w.op.deps }), none, decide (w.op.part ≠ 0), none, some q, []⟩] :=
  queueItem_asking_mcq w ⟨none, some (w.answer f { t with deps := t.deps ++ w.op.deps }), none, false, none, none, []⟩ q

variable {e : TlbEntry} {pa va : Nat}

theorem MayGo.from (h : MayGo f w e pa) (n : Nat) : MayGo f (w.from n) e pa := by
  obtain ⟨stream, turn, applied, format, type, good, hbm, known⟩ := h
  exact ⟨stream, turn, by rw [(alike_from w n).portDeps]; exact applied, format, type, good, hbm, known⟩

/-- LREQ's answer to its firing: the 64 bytes that its die reads. -/
def Work.lreqAnswer (f : MCFrame) (w : Work) (e : TlbEntry) (pa va : Nat) : Work :=
  (((w.answered e pa).respond f (dataTok 0xFFFF (payloadOf ((w.answered e pa).s.viewBytes w.die pa 64)))).asking ⟨[w.s.homeOf pa], va, 1⟩).leaves e pa

theorem lreqAnswer_mem : (w.lreqAnswer f e pa va).s.mem = w.s.mem := by
  have left := (CacheOnly.leaveBlock (w.answered e pa).s e.cls e.shared pa).mem
  exact left.trans (answered_mem w e pa)

theorem lreqData_reads (none : w.gen = none) (hva : va = Work.gva f (off64 (w.tok f .a f.a)) / 64 * 64) (go : MayGo f w e pa)
    (found : w.s.translate w.die w.run.partition w.run.asid va ⟨true, false, false⟩ = .ok pa e) :
    lreqData f w = .ok ((w.lreqAnswer f e pa va).takeMc f) := by
  unfold lreqData lreqOne
  simp only [none, ← hva, request_goes go found, go.hbm, answered_homeOf, if_true]
  rfl

theorem lreq_answers (due : McDue f true s w) (ha : a = w.tok f .a f.a) (none : w.gen = none) (hva : va = Work.gva f (off64 a) / 64 * 64)
    (go : MayGo f w e pa) (found : s.translate w.die w.run.partition w.run.asid va ⟨true, false, false⟩ = .ok pa e)
    (hbm : ∀ i < 64, paHbm (pa + i) = true) :
    ∃ (w1 : Work) (r : Token) (g : Bool), exec (.lreq f) s = .next (w1.takeMc f).store
      ∧ w1.op.mcq = w.op.mcq ++ [⟨some r, some r, .none, g, .none, some ⟨[s.homeOf pa], va, 1⟩, []⟩] ∧ r.kind = 0
      ∧ r.mask = 0xFFFF ∧ r.payload = payloadOf (s.viewBytes w.die pa 64) ∧ w1.s.mem = s.mem := by
  have now := due.now
  subst now ha
  obtain ⟨n, turn, -⟩ := exec_data (i := .lreq f) rfl due
  have same := alike_from w n
  dsimp only at turn
  rw [lreqData_reads (w := w.from n) (same.gen.trans none) (by rw [same.tok]; exact hva) (go.from n) found] at turn
  have bytes : ((w.from n).answered e pa).s.viewBytes w.die pa 64 = w.s.viewBytes w.die pa 64 :=
    viewBytes_congr (answered_mem (w.from n) e pa) (answered_stale (w.from n) e pa) hbm
  refine ⟨_, ((w.from n).answered e pa).answer f (dataTok 0xFFFF (payloadOf (((w.from n).answered e pa).s.viewBytes w.die pa 64))),
    decide (n ≠ 0), turn, ?_, rfl, rfl,
    congrArg payloadOf bytes, lreqAnswer_mem⟩
  have queue := respond_asking_mcq (f := f) (w := (w.from n).answered e pa)
    (dataTok 0xFFFF (payloadOf (((w.from n).answered e pa).s.viewBytes w.die pa 64))) ⟨[w.s.homeOf pa], va, 1⟩
  exact queue

/-- SREQ's write: the valid lanes of its token, after all that its tokens are ordered after. -/
def Work.sreqWritten (f : MCFrame) (w : Work) (b : Token) (e : TlbEntry) (pa : Nat) : Work :=
  { w.answered e pa with s := (w.answered e pa).s.storeLanes w.die ((w.answered e pa).portDeps f) e.shared pa b }

/-- SREQ's firing before it uses its ports: its valid lanes are written, and the acknowledgement is queued. -/
def Work.sreqStored (f : MCFrame) (w : Work) (b : Token) (e : TlbEntry) (pa va : Nat) : Work :=
  (((w.sreqWritten f b e pa).ack f b).asking ⟨[w.s.homeOf pa], va, 2⟩).gather f

theorem sreqWritten_mem (hbm : paHbm pa = true) :
    (w.sreqWritten f b e pa).s.mem = (w.s.storeLanes w.die (w.portDeps f) e.shared pa b).mem := by
  have written : (w.sreqWritten f b e pa).s.mem = if b.mask = 0 then (w.answered e pa).s.mem else (w.answered e pa).s.mem.writeSome pa b.laneBytes :=
    storeLanes_mem hbm b
  rw [written, answered_mem, storeLanes_mem hbm]

theorem sreqData_writes (none : w.gen = none) (hb : b = w.tok f .b f.b) (hva : va = Work.gva f (off64 (w.tok f .a f.a)) / 64 * 64) (go : MayGo f w e pa)
    (found : w.s.translate w.die w.run.partition w.run.asid va ⟨false, true, false⟩ = .ok pa e) :
    sreqData f w = .ok (((w.sreqStored f b e pa va).takeMc f).leaves e pa) := by
  unfold sreqData
  simp only [none, ← hva, ← hb, request_goes go found, go.hbm, answered_homeOf, if_true]
  rfl

theorem sreq_acknowledges (due : McDue f true s w) (ha : a = w.tok f .a f.a) (hb : b = w.tok f .b f.b) (none : w.gen = none)
    (hva : va = Work.gva f (off64 a) / 64 * 64) (go : MayGo f w e pa)
    (found : s.translate w.die w.run.partition w.run.asid va ⟨false, true, false⟩ = .ok pa e) :
    ∃ (w1 : Work) (r : Token), exec (.sreq f) s = .next (w1.takeMc f).store
      ∧ w1.op.mcq = w.op.mcq ++ [⟨.none, some r, .none, false, .none, some ⟨[s.homeOf pa], va, 2⟩, []⟩] ∧ r.kind = b.kind
      ∧ r.payload = b.payload ∧ w1.s.mem = ((s.storeLanes w.die (w.portDeps f) e.shared pa b).mem) := by
  have now := due.now
  subst now ha hb
  obtain ⟨n, turn, fresh⟩ := exec_data (i := .sreq f) rfl due
  obtain rfl := fresh rfl
  have same := alike_from w 0
  dsimp only at turn
  rw [sreqData_writes (w := w.from 0) (same.gen.trans none) (same.tok ..).symm (by rw [same.tok]; exact hva) (go.from 0) found] at turn
  obtain ⟨w1, before, op, mem⟩ := takeMc_leaves (f := f) ((w.from 0).sreqStored f (w.tok f .b f.b) e pa va) e pa
  have queue := ack_asking_mcq (f := f) (w := (w.from 0).sreqWritten f (w.tok f .b f.b) e pa) (w.tok f .b f.b)
    ⟨[w.s.homeOf pa], va, 2⟩
  have written : w1.s.mem = ((w.from 0).sreqWritten f (w.tok f .b f.b) e pa).s.mem := mem
  rw [sreqWritten_mem go.hbm, same.portDeps] at written
  exact ⟨w1, _, turn.trans (congrArg (fun x : Work => Host.Outcome.next x.store) before), (congrArg OpState.mcq op).trans queue, rfl, rfl, written⟩

/-- ATOM's write: the element combined at its home, after what a release at the op's scope and its tokens are ordered after. -/
def Work.atomWritten (f : MCFrame) (w : Work) (b c : Nat) (e : TlbEntry) (pa : Nat) : Work :=
  let x := w.answered e pa
  let r := combine f (leNat (Memory.readBytes x.s.mem pa (f.ty.width / 8))) b c
  let deps := fun d => (x.s.relDeps (x.s.modeOf x.run.asid) f.scope.seq x.die d ++ x.portDeps f).eraseDups
  ({ x with s := x.s.store x.die none noOrd deps e.shared pa (leBytes (f.ty.width / 8) r.1) }).count f.stats r.2

/-- ATOM's answer: the old element. -/
def atomAnswer (f : MCFrame) (old : Nat) : Token := dataTok (if f.ty.width / 8 = 8 then 3 else 1) (packElems f.ty.width [old])

/-- ATOM's firing before it uses its ports: the element is combined at its home, and the old one is queued. -/
def Work.atomDone (f : MCFrame) (w : Work) (b c : Nat) (e : TlbEntry) (pa va : Nat) : Work :=
  (((w.atomWritten f b c e pa).respond f (atomAnswer f (leNat (Memory.readBytes (w.answered e pa).s.mem pa (f.ty.width / 8))))).asking
    ⟨[w.s.homeOf pa], va, 3⟩).gather f

theorem atomWritten_eq (quiet : f.stats = false) (b c : Nat) (e : TlbEntry) (hbm : paHbm pa = true) : (w.atomWritten f b c e pa).op = w.op
    ∧ (w.atomWritten f b c e pa).s.mem = Memory.writeBytes w.s.mem pa
      (leBytes (f.ty.width / 8) (combine f (leNat (Memory.readBytes w.s.mem pa (f.ty.width / 8))) b c).1) := by
  unfold Work.atomWritten Work.count
  rw [quiet, if_neg Bool.false_ne_true]
  dsimp only
  rw [store_mem hbm, answered_mem]
  exact ⟨rfl, rfl⟩

theorem atomData_combines {n : Nat} (hn : n = f.ty.width / 8) (hva : va = Work.gva f (off64 (w.tok f .a f.a)) / n * n) (go : MayGo f w e pa)
    (came : ∀ y ∈ w.op.mcq, y.out = none) (found : w.s.translate w.die w.run.partition w.run.asid va ⟨true, true, true⟩ = .ok pa e)
    (fresh : w.s.upToDate w.die pa n = true) :
    atomData f w = .ok (((w.atomDone f (elem (w.tok f .b f.b).payload f.ty.width 0) (elem (w.tok f .c f.c).payload f.ty.width 0) e pa va).takeMc
      f).leaves e pa) := by
  have alone : (w.op.mcq.any fun y => y.out.isSome) = false := List.any_eq_false.mpr fun y hy => by simp [came y hy]
  have latest : (w.answered e pa).s.upToDate (w.answered e pa).die pa n = true := (answered_upToDate w e pa w.die n).trans fresh
  unfold atomData
  simp only [alone, ← hn, ← hva, request_goes go found, go.hbm, answered_homeOf, latest, Bool.not_true, Bool.false_eq_true, if_false]
  rw [hn]
  rfl

theorem atom_answers {n : Nat} (due : McDue f true s w) (ha : a = w.tok f .a f.a) (hb : b = w.tok f .b f.b) (quiet : f.stats = false)
    (hn : n = f.ty.width / 8) (hva : va = Work.gva f (off64 a) / n * n) (go : MayGo f w e pa) (came : ∀ y ∈ w.op.mcq, y.out = none)
    (found : s.translate w.die w.run.partition w.run.asid va ⟨true, true, true⟩ = .ok pa e) (fresh : s.upToDate w.die pa n = true) :
    ∃ (w1 : Work) (r : Token) (g : Bool), exec (.atom f) s = .next (w1.takeMc f).store
      ∧ w1.op.mcq = w.op.mcq ++ [⟨some r, some r, none, g, none, some ⟨[s.homeOf pa], va, 3⟩, []⟩] ∧ r.kind = 0
      ∧ elem r.payload f.ty.width 0 = leNat (Memory.readBytes s.mem pa n) % 2 ^ f.ty.width
      ∧ w1.s.mem = Memory.writeBytes s.mem pa (leBytes n
          (combine f (leNat (Memory.readBytes s.mem pa n)) (elem b.payload f.ty.width 0) (elem (w.tok f .c f.c).payload f.ty.width 0)).1) := by
  have now := due.now
  subst now ha hb
  obtain ⟨k, turn, -⟩ := exec_data (i := .atom f) rfl due
  have same := alike_from w k
  dsimp only at turn
  rw [atomData_combines (w := w.from k) hn (by rw [same.tok]; exact hva) (go.from k) came found fresh, same.tok, same.tok] at turn
  subst hn
  generalize elem (w.tok f .b f.b).payload f.ty.width 0 = b at turn ⊢
  generalize elem (w.tok f .c f.c).payload f.ty.width 0 = c at turn ⊢
  obtain ⟨w1, before, op, mem⟩ := takeMc_leaves (f := f) ((w.from k).atomDone f b c e pa va) e pa
  obtain ⟨kept, written⟩ := atomWritten_eq (w := w.from k) quiet b c e go.hbm
  have queue := respond_asking_mcq (f := f) (w := (w.from k).atomWritten f b c e pa)
    (atomAnswer f (leNat (Memory.readBytes ((w.from k).answered e pa).s.mem pa (f.ty.width / 8)))) ⟨[w.s.homeOf pa], va, 3⟩
  rw [kept] at queue
  refine ⟨w1, _, _, turn.trans (congrArg (fun x : Work => Host.Outcome.next x.store) before), (congrArg OpState.mcq op).trans queue, rfl,
    ?_, mem.trans written⟩
  refine (elem_packElems _ (first_element _)).trans ?_
  rw [answered_mem]
  rfl

/-! ### LUT (R217) -/

/-- What LUT answers for lane l: the element of its copy that a valid lane names, or the op's constant beyond it. -/
def lutLane (f : MCFrame) (copy : List (BitVec 32)) (a : Token) (l : Nat) : Nat :=
  if a.mask.getLsbD l then (copy.getD (lane a.payload l) (f.imm.setWidth 32)).toNat else lane a.payload l

theorem lutLane_lt (copy : List (BitVec 32)) (a : Token) (l : Nat) : lutLane f copy a l < 2 ^ 32 := by
  unfold lutLane
  split
  · exact BitVec.isLt _
  · exact elem_lt ..

/-- LUT's answer. -/
def lutAnswer (f : MCFrame) (copy : List (BitVec 32)) (a : Token) : Token := dataTok a.mask (packElems 32 ((List.range 16).map (lutLane f copy a)))

theorem lutData_answers {copy : List (BitVec 32)} (quiet : f.stats = false) (bank : w.op.bank = some copy) (ha : a = w.tok f .a f.a) :
    lutData f w = .ok ((w.respond f { lutAnswer f copy a with deps := w.op.deps }).takeMc f) := by
  unfold lutData
  simp only [bank, ← ha, countOob_quiet quiet]
  rfl

theorem lut_answers {copy : List (BitVec 32)} (due : McDue f true s w) (quiet : f.stats = false) (ha : a = w.tok f .a f.a)
    (bank : w.op.bank = some copy) :
    ∃ (w1 : Work) (r : Token) (g : Bool), exec (.lut f) s = .next (w1.takeMc f).store
      ∧ w1.op.mcq = w.op.mcq ++ [⟨some r, some r, none, g, none, none, []⟩] ∧ r.mask = a.mask ∧ ∀ l < 16, lane r.payload l = lutLane f copy a l := by
  obtain ⟨n, turn, -⟩ := exec_data (i := .lut f) rfl due
  dsimp only at turn
  rw [lutData_answers (w := w.from n) quiet bank (ha.trans ((alike_from w n).tok ..).symm)] at turn
  refine ⟨_, (w.from n).answer f { lutAnswer f copy a with deps := w.op.deps }, decide (n ≠ 0), turn, rfl, rfl, fun l hl => ?_⟩
  exact (elem_packElems_map _ hl le_rfl).trans (Nat.mod_eq_of_lt (lutLane_lt ..))

/-! ### FIFO (R216) -/

/-- A turn of FIFO that finds its tile to fill: it may write its oldest token, and take one. -/
theorem execFifo_turn (here : s.workAt s.focus = some w) (noReq : w.op.heldReq = none) (good : w.op.bad = false)
    (found : s.tile w.die w.run.partition f.handle.toNat = some x) (entry : x.bad = false) (filling : x.state = .filling) (sp : x.hb = false)
    (some : w.op.ring ≠ [] ∨ w.queue f.b.src (.port w.o .b) ≠ []) : exec (.fifo f) s = .next (fifoIn f x (fifoOut f x w)).store := by
  have now : w.s = s := (workAt_s0 here).2.1
  subst now
  have pointers : w.readPointers = w := if_neg (ne_true_of_eq_false good)
  have busy : (w.op.ring.isEmpty && (w.queue f.b.src (w.reader .b)).isEmpty) = false := by
    rw [Bool.and_eq_false_iff, List.isEmpty_eq_false_iff, List.isEmpty_eq_false_iff]
    exact some
  show execFifo f w.s = _
  unfold execFifo
  simp only [here, pointers, noReq, busy, Option.isSome_none, Bool.or_self, Bool.false_eq_true, if_false,
    writeTile_filling found entry filling sp 2 0 0]

theorem execFifo_idle (here : s.workAt s.focus = some w) (good : w.op.bad = false) (empty : w.op.ring = [])
    (none : w.queue f.b.src (.port w.o .b) = []) :
    exec (.fifo f) s = .next s := by
  have pointers : w.readPointers = w := if_neg (ne_true_of_eq_false good)
  obtain ⟨start, -⟩ := workAt_s0 here
  have nothing : (w.queue f.b.src (w.reader .b)).isEmpty = true := List.isEmpty_iff.mpr none
  show execFifo f s = _
  unfold execFifo
  simp only [here, pointers, empty, nothing, List.isEmpty_nil, Bool.and_self, Bool.or_true, if_true, start]

/-- The token that FIFO takes when it holds none. -/
theorem fifoIn_first {t : Token} (empty : w.op.ring = []) (head : w.headAt f.b.src (.port w.o .b) = some t) (data : t.kind = 0)
    (parked : w.op.parked w.run = false) (room : 0 < x.rows * x.k) :
    fifoIn f x w = { w.pop f.b.src (.port w.o .b) with
      s := (w.pop f.b.src (.port w.o .b)).s.setTileData x (64 * (w.op.rptr % (x.rows * x.k))) (leBytes 64 t.payload.toNat),
      op := { w.op with ring := [t] } } := by
  unfold fifoIn
  rw [show w.reader .b = .port w.o .b from rfl, head]
  simp [Token.isStop, Token.isMarker, data, empty, parked, room.ne']

/-- The oldest token of FIFO goes to both outputs. -/
theorem fifoOut_goes {t y : Token} {rest : List Token} {w2 w3 : Work} (ring : w.op.ring = t :: rest) (sound : t.bad = false) (sp : x.hb = false)
    (good : w.s.tileBad x 0 (64 * w.op.rptr) 64 = false) (hy : y = { t with payload := payloadOf (w.s.tileData x (64 * w.op.rptr) 64) })
    (roomA : w.outRoom [f.oa, f.ob] (0, y) = true) (roomB : w.outRoom [f.oa, f.ob] (1, y) = true)
    (h2 : w2 = Work.outPut [f.oa, f.ob] (Work.outPut [f.oa, f.ob] w (0, y)) (1, y))
    (h3 : w3 = { w2 with op := { w2.op with ring := rest, rptr := (w.op.rptr + 1) % (x.rows * x.k) } }) (fits : w3.fitsAll = true) :
    fifoOut f x w = w3 := by
  have quiet : { w with s := w.s.touchTile x 0 (64 * w.op.rptr) 64 } = w := by
    unfold State.touchTile
    rw [sp, if_neg Bool.false_ne_true]
  subst h2 h3
  rw [sound] at hy
  unfold fifoOut
  simp only [ring, sound, good, Bool.or_self, Bool.false_eq_true, if_false, ← hy, roomA, roomB, Bool.and_self, if_true, quiet, fits]

end

/-- Settles O41, op by op. -/
theorem updateGlobalAndFifoOpsComplete : Obligations.UpdateGlobalAndFifoOpsComplete := by
  unfold Obligations.UpdateGlobalAndFifoOpsComplete
  refine ⟨fun f s w a b due quiet ha hb => ⟨fun x found entry filling sp => ⟨fun L s1 v m v1 m1 hL good idle hv first => ?_,
        fun L s1 v m v1 m1 byte hL good hv hbyte first => ?_⟩,
      fun va pa e stream turn applied format type good hbm known => ?_, fun copy bank => lut_answers due quiet ha bank⟩,
    fun f s w x here noReq parked good found entry filling sp => ⟨fun t empty head data room => ?_,
        fun t rest y w2 w3 ring sound clean hy roomA roomB h2 h3 fits => ?_,
      execFifo_idle here good⟩⟩
  · exact rmwa_laneTurn due found entry filling sp quiet ha hb hL good idle hv (first.trans (by cases L <;> rfl))
  · exact tas_laneTurn due found entry filling sp quiet ha hL good hv hbyte (first.trans (by cases L <;> rfl))
  · have now := due.now
    subst now
    have go : MayGo f w e pa := ⟨stream, turn, applied, format, type, good, hbm, known⟩
    exact ⟨fun hva came found fresh => atom_answers due ha hb quiet rfl hva go came found fresh,
      fun hva none all found => lreq_answers due ha none hva go found all, fun hva none found => sreq_acknowledges due ha hb none hva go found⟩
  · have some : w.queue f.b.src (.port w.o .b) ≠ [] := fun none => by simp [Work.headAt, none] at head
    refine ⟨_, execFifo_turn here noReq good found entry filling sp (.inr some), ?_⟩
    have out : fifoOut f x w = w := by
      unfold fifoOut
      rw [empty]
    rw [out, fifoIn_first empty head data parked room]
  · obtain ⟨-, now, -⟩ := workAt_s0 here
    subst now
    rw [execFifo_turn here noReq good found entry filling sp (.inl (by simp [ring])), fifoOut_goes ring sound sp clean hy roomA roomB h2 h3 fits]

end Sys2Proof.Machine
end
